-- ==== Sys2Proof/Word.lean ====
section
/-!
DEFINITION. The words of the module: the widths the manual names, and nothing else (R4, Table 0.3).
-/
namespace Sys2Proof

/-- A byte of memory. -/
abbrev Byte := BitVec 8
/-- A 32-bit register or lane. -/
abbrev Word32 := BitVec 32
/-- A 64-bit register. -/
abbrev Word64 := BitVec 64
/-- A 64 B mesh flit. -/
abbrev Flit := BitVec 512
/-- A 128 B line or queue entry. -/
abbrev Line := BitVec 1024

/-- A pip by its row-major number y × 160 + x (R6). -/
abbrev Pip := Fin 10240
/-- A pod (R6). -/
abbrev Pod := Fin 640
/-- A field (R6). -/
abbrev Field := Fin 64
/-- A context (R27). -/
abbrev Ctx := Fin 10240
/-- A host (R346). -/
abbrev HostId := Fin 16
/-- A partition (R26). -/
abbrev Part := Fin 16
/-- An HBM stack (R269). -/
abbrev Stack := Fin 12
/-- A Jeand link (R297). -/
abbrev Link := Fin 36
/-- A collective channel (R332). -/
abbrev Chan := Fin 16
/-- A hull channel (R369). -/
abbrev HullChan := Fin 16

end Sys2Proof
end

