-- ==== Sys2Proof/Machine/Bits.lean ====
section
/-!
DEFINITION. Bit fields, byte order and small list helpers that every family uses.
-/
namespace Sys2Proof.Machine

/-- A counter of 64 bits that stays at its largest value (R442). -/
def bump (c : Word64) (n : Nat) : Word64 := BitVec.ofNat 64 (min (c.toNat + n) (2 ^ 64 - 1))

/-- Bits [hi:lo] of a natural number, as the manual writes a bit range. -/
def bits (w hi lo : Nat) : Nat := (w / 2 ^ lo) % 2 ^ (hi + 1 - lo)

/-- Bit `i` of a natural number. -/
def bit (w i : Nat) : Bool := (w / 2 ^ i) % 2 = 1

/-- A Bool as the bit a register shows. -/
def b2n (b : Bool) : Nat := if b then 1 else 0

/-- `n` bytes of a number, little-endian (R4). -/
def toBytes : Nat → Nat → List Byte
  | 0, _ => []
  | n + 1, w => BitVec.ofNat 8 w :: toBytes n (w / 256)

/-- The number that bytes spell, little-endian (R4). -/
def ofBytes : List Byte → Nat
  | [] => 0
  | b :: bs => b.toNat + 256 * ofBytes bs

/-- The two's complement value of the low `n` bits of `w`. -/
def sgn (n w : Nat) : Int :=
  let v := w % 2 ^ n
  if v < 2 ^ (n - 1) then (v : Int) else (v : Int) - (2 ^ n : Nat)

/-- Slice of a list: `n` elements from index `i`. -/
def slice {α : Type} (l : List α) (i n : Nat) : List α := (l.drop i).take n

/-- A number read from bytes [i, i + n) of a block. -/
def field (l : List Byte) (i n : Nat) : Nat := ofBytes (slice l i n)

/-- All bytes of [i, i + n) are zero: a RES field (R11, R99). -/
def zeroBytes (l : List Byte) (i n : Nat) : Bool := (slice l i n).all (· = 0)

/-- Split a list into groups of `n`, dropping nothing; `fuel` bounds the number of groups. -/
def groups {α : Type} (n : Nat) : Nat → List α → List (List α)
  | 0, _ => []
  | _ + 1, [] => []
  | fuel + 1, l => l.take n :: groups n fuel (l.drop n)

/-- The 32 lanes of a 128 B entry, lane 0 lowest. -/
def lanes (e : Line) : List Word32 :=
  (List.range 32).map fun j => BitVec.ofNat 32 (e.toNat / 2 ^ (32 * j))

/-- The number whose base-2^w digits are the list, first lowest. -/
def digits (w : Nat) : List Nat → Nat
  | [] => 0
  | d :: ds => d % 2 ^ w + 2 ^ w * digits w ds

/-- A 128 B entry from its lanes. -/
def ofLanes (l : List Word32) : Line := BitVec.ofNat 1024 (digits 32 (l.map BitVec.toNat))

/-- A 128 B entry as bytes. -/
def lineBytes (e : Line) : List Byte := toBytes 128 e.toNat

/-- A 128 B entry from bytes (missing bytes are zero). -/
def ofLineBytes (l : List Byte) : Line := BitVec.ofNat 1024 (ofBytes (l.take 128))

/-- A flit from bytes. -/
def flitOfBytes (l : List Byte) : Flit := BitVec.ofNat 512 (ofBytes (l.take 64))

/-- The two flits of a line: low 64 B first (R73). -/
def lineFlits (e : Line) : List Flit :=
  [BitVec.ofNat 512 e.toNat, BitVec.ofNat 512 (e.toNat / 2 ^ 512)]

/-- A line from its low and high flits. -/
def ofFlits (lo hi : Flit) : Line := BitVec.ofNat 1024 (lo.toNat + 2 ^ 512 * hi.toNat)

/-- Element `i` of a list, or `d`. -/
def nth {α : Type} (l : List α) (i : Nat) (d : α) : α := l.getD i d

/-- Replace element `i` of a list. -/
def setAt {α : Type} : List α → Nat → α → List α
  | [], _, _ => []
  | _ :: t, 0, v => v :: t
  | a :: t, i + 1, v => a :: setAt t i v

end Sys2Proof.Machine
end

