-- ==== Sys2Proof/Syntax.lean ====
section
/-!
DEFINITION. The commands of the module: one constructor per row of the table of operations and events, with the
operands that fix it. A command of a pip names the pip by its number y × 160 + x (R6), an instruction also its
issue delta (R68); a register write names its writer.
-/
namespace Sys2Proof

/-- Who writes a register (R355, R356). -/
inductive Writer where
  | host (h : Nat) | acorn
  deriving DecidableEq, Repr

/-- Operands of format Q (Table 3.1). -/
structure QOp where
  qsel   : Nat := 0
  handle : Nat := 0
  areg   : Nat := 0
  count  : Nat := 1
  post   : Bool := false
  idx    : Bool := false
  port   : Nat := 0
  raw    : Bool := false
  deriving DecidableEq, Repr

/-- Operands of format D. -/
structure DOp where
  ch     : Bool := false
  dir    : Bool := false
  ahbm   : Nat := 0
  asp    : Nat := 0
  handle : Nat := 0
  len    : Nat := 1
  raw    : Bool := false
  deriving DecidableEq, Repr

/-- Operands of format A; `imm` is the 32-bit field. -/
structure AOp where
  ad  : Nat := 0
  as_ : Nat := 0
  fn  : Nat := 0
  imm : Nat := 0
  deriving DecidableEq, Repr

/-- Operands of format S; `imm` is the 24-bit field. -/
structure SOp where
  sd     : Nat := 0
  sa     : Nat := 0
  sb     : Nat := 0
  fn     : Nat := 0
  immsel : Bool := false
  imm    : Nat := 0
  deriving DecidableEq, Repr

/-- Operands of format N; `imm` is the 24-bit field. -/
structure NOp where
  sd     : Nat := 0
  sa     : Nat := 0
  handle : Nat := 0
  size   : Nat := 0
  raw    : Bool := false
  imm    : Nat := 0
  deriving DecidableEq, Repr

/-- Operands of format G; RFN is the row's. -/
structure GOp where
  rslot : Nat := 0
  count : Nat := 1
  sq    : Bool := false
  deriving DecidableEq, Repr

/-- Operands of BRF (Table 3.5). -/
structure BOp where
  cond : Nat := 0
  test : Nat := 0
  na   : Nat := 0
  nb   : Nat := 0
  pad  : Nat := 1
  deriving DecidableEq, Repr

/-- What a read through BAR0 names: the offset and how many bytes are read (R8). -/
structure ReadAt where
  off   : Nat := 0
  width : Nat := 4
  deriving DecidableEq, Repr

/-- How the EXEC time of a channel ends: whether the two computations of its engine differ (R378). -/
structure EngineEnd where
  ch     : Nat := 0
  differ : Bool := false
  deriving DecidableEq, Repr

/-- A capability message (R305, R306, Table 12.4); `joined` and `pps` say whether its sender is joined and whether the
anchor it follows is locked to TIME_PPS (R309). -/
structure CapMsg where
  node   : Nat := 0
  k      : Nat := 0
  dir    : Nat := 0
  size   : Nat := 0
  lplan  : Nat := 0
  mode   : Nat := 0
  fec    : Nat := 1
  epoch  : Nat := 0
  evalid : Bool := false
  anchor : Nat := 0
  hops   : Nat := 255
  joined : Bool := false
  pps    : Bool := false
  deriving DecidableEq, Repr

/-- A TIME flit (R310): the partner's transmit time and the local receive time, in 1/64 ns, and what the partner announces. -/
structure TimeMsg where
  epoch  : Nat := 0
  anchor : Nat := 0
  hops   : Nat := 255
  joined : Bool := false
  pps    : Bool := false
  sent   : Int := 0
  recv   : Int := 0
  deriving DecidableEq, Repr

/-- A flit that arrives on a link (R300 to R302, R315): the partner's position that it arrives in, its arrival in local time in 1/64 ns,
the byte errors of its two codewords, its header and its payload as corrected. -/
structure RxFlit where
  slot  : Nat := 0
  arr   : Int := 0
  err0  : Nat := 0
  err1  : Nat := 0
  type  : Nat := 0
  etag  : Nat := 0
  pos   : Nat := 0
  bpos  : Nat := 0
  bseq  : Nat := 0
  src   : Nat := 0
  dst   : Nat := 0
  data  : List Byte := []
  deriving DecidableEq, Repr

/-- Which crossing timed out (R415): of a job's request, of another request to a field or outside the fields, of the acorn's request or of
its retry, of a BAR0 read by a host to a field or elsewhere. -/
inductive Crossing where
  | job (p : Nat) | field (f : Nat) | fabric | acorn (again : Bool) | read (f : Option Nat) (h off : Nat)
  deriving DecidableEq, Repr

/-- Results of stage 3 (Table 17.4): input voltage and power, REFCLK, buses, rails that acknowledge, the current
of each rail in 0.1 A, monitor readings of each field, stacks that respond. -/
structure BootMeas where
  vin    : Nat := 5200
  pin    : Nat := 0
  refOk  : Bool := true
  buses  : Nat := 0xFF
  rails  : Nat := 0xFFFF_FFFF_FFFF_FFFF
  amps   : List Nat := []
  slack  : List (List Int) := []
  hstacks : Nat := 0xFFF
  deriving DecidableEq, Repr

/-- The commands. -/
inductive Instr where
  /-- REGISTER_WRITE (R11). A BAR0 write to a register field that has no behaviour of its own stores or ignores the value according to its type and the register's access rules. -/
  | registerWrite (w : Writer) (off len v : Nat)
  /-- COUNTER_LOW_READ (R9). A read of the low half of a 64-bit counter returns it and latches the high half. -/
  | counterLowRead (h : Nat) (r : ReadAt)
  /-- NOP (R68). An instruction of either stream that does nothing but spend its issue delta. -/
  | nop (p : Nat) (exe : Bool) (d : Nat)
  /-- LDQ (R76). The access stream makes COUNT wide reads through a descriptor into a load queue or the RIQ, and pushes each entry two cycles after its read. -/
  | ldq (p d : Nat) (o : QOp)
  /-- STQ (R147). The access stream pops store-queue entries, converts them and writes them to store slots, with block scales and optional transposition. -/
  | stq (p d : Nat) (o : QOp)
  /-- MSND (R77). The access stream reads scratchpad lines or pops store-queue entries and pushes mesh flits into an egress queue. -/
  | msnd (p d : Nat) (o : QOp)
  /-- MRCV (R77). The access stream pops flits from an ingress queue into a load queue, the RIQ or the scratchpad. -/
  | mrcv (p d : Nat) (o : QOp)
  /-- DMA (R76). The access stream starts an HBM transfer on a DMA channel and returns at once. -/
  | dma (p d : Nat) (o : DOp)
  /-- DMAW (R76). The access stream waits under the unit-busy interlock until a DMA channel is idle. -/
  | dmaw (p d : Nat) (ch : Bool)
  /-- SWAP (R257). SWAP inverts SEL of a tensor descriptor, so that later issues use the other base. -/
  | swap (p d handle : Nat)
  /-- DLD (R145). DLD loads and checks a tensor descriptor from the scratchpad and clears its watch counters. -/
  | dld (p d handle areg : Nat)
  /-- AOP (R76). The access stream performs an address-register operation selected by FN. -/
  | aop (p d : Nat) (o : AOp)
  /-- STRM_START (R250). STRM with IMM[3] = 0 reads a stream record and starts a stream engine, or opens the key queue and starts the key reader for engine 4. -/
  | strmStart (p d areg e : Nat)
  /-- STRM_WAIT (R250). STRM with IMM[3] = 1 holds the access stream until the named engine is idle. -/
  | strmWait (p d e : Nat)
  /-- SIGL (R94). The access stream issues an increment of a sync object, which is held until its stream's earlier writes, sends and DMAs are complete. -/
  | sigl (p d obj add : Nat)
  /-- SIGL_APPLY (R94). The held SIGL increment takes effect when every earlier write, DMA and send of its stream has completed. -/
  | siglApply (p : Nat)
  /-- LOOP (R82). A hardware LOOP of either stream copies an LC register into its iteration counter and runs or skips its body. -/
  | loop (p : Nat) (exe : Bool) (d level body : Nat)
  /-- BRF (R85). A fixed-length branch of either stream selects an arm by its condition and joins at the padded cycle. -/
  | brf (p : Nat) (exe : Bool) (d : Nat) (o : BOp)
  /-- LCSET (R84). LCSET of either stream writes a loop count register. -/
  | lcset (p : Nat) (exe : Bool) (d lc src reg imm : Nat)
  /-- END (R88). END ends its instruction stream. -/
  | endStream (p : Nat) (exe : Bool) (d : Nat)
  /-- TLW (R52). TLW pops entries of LQ1 into the shadow weight set at the fill position. -/
  | tlw (p d count : Nat)
  /-- TSW (R52). TSW exchanges the active and shadow weight sets, checking a modular weight set in modular matrix mode. -/
  | tsw (p d : Nat)
  /-- TMM (R51). A tile multiply streams 32 rows through the active weight set into an accumulator buffer. -/
  | tmm (p d : Nat) (acc clr : Bool) (fmtA fmtW : Nat)
  /-- TMM_COMPLETE (R51). The last row of a tile multiply updates its accumulator buffer, completing it. -/
  | tmmComplete (p : Nat)
  /-- TDRN (R186). A drain checks its chain configuration and passes accumulator or X0 entries through the vector chain into a store queue. -/
  | tdrn (p d : Nat) (acc : Bool) (chain : Nat) (sq : Bool)
  /-- DRAIN_END (R197). A drain makes its last push, produces its four summaries and, with FINISH or SEMIT, completes or emits row statistics. -/
  | drainEnd (p : Nat)
  /-- TMODE (R55). TMODE switches the tensor array between float-and-integer and modular matrix mode in 8 cycles. -/
  | tmode (p d : Nat) (mode : Bool)
  /-- SOP (R80). The scalar unit performs the operation selected by FN on S registers. -/
  | sop (p d : Nat) (o : SOp)
  /-- SLD (R50). A narrow load reads 1 to 8 bytes of scratchpad into an S register. -/
  | sld (p d : Nat) (o : NOp)
  /-- SST (R50). A narrow store writes the low bytes of an S register to the scratchpad. -/
  | sst (p d : Nat) (o : NOp)
  /-- SPUSH (R80). The scalar unit pushes a register value into SCQ. -/
  | spush (p d sa : Nat)
  /-- SSUM (R197). The scalar unit reads a summary of the last completed drain into an S register. -/
  | ssum (p d sd which : Nat)
  /-- LRXSET (R181). The execute stream writes one learning-rate exponent register. -/
  | lrxset (p d idx sa : Nat)
  /-- NTTL (R216). The ring unit runs the forward local NTT phase of limbs of the pod-striped layout. -/
  | nttl (p d : Nat) (o : GOp)
  /-- NTTX (R216). The ring unit runs the forward cross NTT phase over the 16 exchanged runs. -/
  | nttx (p d : Nat) (o : GOp)
  /-- INTX (R217). The ring unit runs the inverse cross NTT phase. -/
  | intx (p d : Nat) (o : GOp)
  /-- INTL (R217). The ring unit runs the inverse local NTT phase and returns coefficients. -/
  | intl (p d : Nat) (o : GOp)
  /-- EADD (R213). The ring unit adds two limbs modulo their prime. -/
  | eadd (p d : Nat) (o : GOp)
  /-- ESUB (R213). The ring unit subtracts two limbs modulo their prime. -/
  | esub (p d : Nat) (o : GOp)
  /-- EMUL (R213). The ring unit forms the Montgomery product of two limbs. -/
  | emul (p d : Nat) (o : GOp)
  /-- MULC (R212). The ring unit multiplies a limb by its constant word in Montgomery form. -/
  | mulc (p d : Nat) (o : GOp)
  /-- KMAC (R222). The ring unit accumulates digit limbs times key words into AP0 and AP1. -/
  | kmac (p d : Nat) (o : GOp)
  /-- AUTO (R221). The ring unit applies the automorphism x to x^g to a limb in coefficient form. -/
  | auto (p d : Nat) (o : GOp)
  /-- TOMONT (R213). The ring unit converts a limb into Montgomery form. -/
  | tomont (p d : Nat) (o : GOp)
  /-- FROMMONT (R213). The ring unit converts a limb out of Montgomery form. -/
  | frommont (p d : Nat) (o : GOp)
  /-- KOUT (R222). The ring unit pushes AP0 then AP1 and clears both planes. -/
  | kout (p d : Nat) (o : GOp)
  /-- RING_OP_COMPLETE (R214). A ring operation pushes its last result entry and the ring unit becomes free. -/
  | ringOpComplete (p : Nat)
  /-- RESIDUE_COMPARE (R219). The pod's residue checker compares the summed partials of an NTT phase with the expected value. -/
  | residueCompare (pod : Nat) (inverse : Bool)
  /-- DMA_COMPLETE (R76). The last byte of a DMA transfer lands and the channel becomes idle. -/
  | dmaComplete (p : Nat) (ch : Bool)
  /-- PIP_FINISH (R88). A pip finishes its part of a job when both streams have ended and all its operations and engines are complete. -/
  | pipFinish (p : Nat)
  /-- JOB_WATCHDOG (R46). An instruction stalled for 2^20 cycles ends the job with E_WATCHDOG. -/
  | jobWatchdog (p : Nat) (exe : Bool)
  /-- ENGINE_WATCHDOG (R250). A running engine that keeps its pip from finishing for 2^20 cycles after both ENDs ends the job with E_WATCHDOG. -/
  | engineWatchdog (p : Nat)
  /-- MESH_FLIT_SEND (R61). In a slot of its port, the flit at the head of an egress queue leaves if the route's credit counter is at least 1. -/
  | meshFlitSend (p port pos : Nat)
  /-- MESH_FLIT_ARRIVE (R60). A mesh flit reaches its destination router and is delivered to the storage its class names. -/
  | meshFlitArrive (k : Nat)
  /-- CREDIT_RETURN (R61). A credit from a popped destination entry reaches the sender's route counter k + 1 cycles after the pop. -/
  | creditReturn (k : Nat)
  /-- DMA_WRITER_WRITE (R18). The pip's DMA writer writes an arrived class 1 line in an idle bank cycle and returns a credit. -/
  | dmaWriterWrite (p : Nat)
  /-- SHORT_FLIT_ENTER (R115). A short flit enters a row or column leg at the next free short position of its output. -/
  | shortFlitEnter (p : Nat)
  /-- SHORT_PATH_WRITE (R116). The short-path unit writes an arrived short flit to the scratchpad or applies its sync update. -/
  | shortPathWrite (p : Nat)
  /-- COMMAND_READ (R96). The command reader reads one 64 B command from a context's queue and advances HEAD. -/
  | commandRead (c : Nat)
  /-- COMMAND_READY (R101). A command becomes ready once it is next, its fence is met and its pods' job queues are free, and it is enqueued. -/
  | commandReady (c : Nat)
  /-- JOB_START (R102). At T0 the pod sequencers start the job, zeroing state on a context change, emptying queues, writing arguments and starting the program load. -/
  | jobStart (j : Nat)
  /-- JOB_LOAD_END (R468). The job-start load of a pip's programs and images ends and is checked, releasing held issues. -/
  | jobLoadEnd (p : Nat)
  /-- STREAM_START (R102). The stream start cycle T_S = T0 + LOAD_CYCLES arrives and the first instructions may issue. -/
  | streamStart (j : Nat)
  /-- COMMAND_COMPLETE (R103). A command completes: its record is written, its signal applied on E_OK, its interrupt raised, and its context halts on failure. -/
  | commandComplete (k : Nat)
  /-- COMMAND_NOP (R97). The NOP command does nothing but complete in queue order. -/
  | commandNop (c : Nat)
  /-- LAUNCH (R100). LAUNCH checks its program block and enqueues a job on a rectangle of pods. -/
  | launch (c : Nat)
  /-- WAIT (R97). WAIT holds every later command of its context until a sync object reaches its threshold. -/
  | wait (c : Nat)
  /-- WAIT_RELEASE (R90). A WAIT whose object satisfied its threshold at the end of a cycle is released in the next cycle. -/
  | waitRelease (c : Nat)
  /-- SIGNAL (R89). SIGNAL adds to a sync object modulo 2^32. -/
  | signal (c : Nat)
  /-- SYNCSET (R89). SYNCSET writes a sync object. -/
  | syncset (c : Nat)
  /-- COPY (R98). COPY moves bytes between HBM ranges as if the whole source were read first. -/
  | copy (c : Nat)
  /-- RELEASE (R98). RELEASE frees the context's scratchpad regions in the named pods. -/
  | release (c : Nat)
  /-- DOORBELL (R95). A doorbell write sets TAIL if it lies within the queue's room, and otherwise is ignored and sets DB_ERR. -/
  | doorbell (w : Writer) (c v : Nat)
  /-- RESUME (R104). RESUME lets a halted context continue with its next unissued command. -/
  | resume (w : Writer) (c : Nat)
  /-- FLUSH (R104). FLUSH discards every accepted unissued command of the context and sets HEAD to TAIL. -/
  | flush (w : Writer) (c : Nat)
  /-- MOD_CTX_SYNC_VAL (R105). A read of MOD_CTX_SYNC_VAL returns the selected object's value, or 0 with SYNC_ERR if the object lies outside R91. -/
  | modCtxSyncVal (h c : Nat)
  /-- MOD_CTX_GRANT (R92). A write of a grant register gives, changes or revokes another context's use of this context's sync objects. -/
  | modCtxGrant (w : Writer) (c n v : Nat)
  /-- ADMIT (R125). A write of ADMIT starts the admission of the module image at MOD_IMG_ADDR. -/
  | admitImage (w : Writer)
  /-- ADMISSION_DONE (R126). The admission checks end, and either every plan is loaded and E_OK reported or nothing changes and the first failing code is shown. -/
  | admissionDone
  /-- TRANSIT_REENABLE (R134). At the next frame boundary after partitions change, the module enables the transit routes R119 allows. -/
  | transitReenable
  /-- MOD_PART (R134). An accepted write to MOD_PARTn forms, changes or clears a partition, releasing its plan and unbinding its contexts. -/
  | modPart (w : Writer) (n v : Nat)
  /-- PENDING_REPAIR (R131). The acorn finds a failed site and adds it to the pending map, holding the field out of work. -/
  | pendingRepair (f row col : Nat)
  /-- APPLY (R132). A write of APPLY with a repair pending stops new jobs from starting. -/
  | applyRepair (w : Writer)
  /-- REPAIR_REVOKE (R132). Once no job runs, the acorn writes the pending map, revokes every plan, clears partitions of out-of-service fields and refuses waiting jobs with E_IMAGE. -/
  | repairRevoke
  /-- PIP_REGION (R138). A write of a pip region entry assigns or revokes a scratchpad region, or is ignored with REG_ERR. -/
  | pipRegion (w : Writer) (p n v : Nat)
  /-- SCRUB_DONE (R139). Scrubbing of a newly assigned scratchpad region ends and SCRUB clears. -/
  | scrubDone (p n : Nat)
  /-- CLR (R184). A write of CLR clears the three watch counters of the selected tensor handle. -/
  | clr (w : Writer) (p : Nat)
  /-- STREAM_RUN_START (R252). A stream engine checks its record and begins a descriptor run, program or copy. -/
  | streamRunStart (p e : Nat)
  /-- GSET (R254). The address generator sets a G register to an immediate. -/
  | gset (p e : Nat)
  /-- GADD (R254). The address generator adds an immediate to a G register. -/
  | gadd (p e : Nat)
  /-- GMOD (R254). The address generator wraps a G register into a ring buffer. -/
  | gmod (p e : Nat)
  /-- GIDX (R254). The address generator adds a shifted index taken from a handle's element sequence. -/
  | gidx (p e : Nat)
  /-- XFER (R254). The address generator moves N lines between HBM and scratchpad positions. -/
  | xfer (p e : Nat)
  /-- KBLK (R262). The key reader reads a key block and sends its header to the key gates and its shares to the key queues. -/
  | kblk (p : Nat)
  /-- SPUT (R266). The address generator sends a short transfer of up to 256 B to a pip of the rectangle. -/
  | sput (p e : Nat)
  /-- WAITSO (R258). The engine holds at a dependence mark until a sync object meets its threshold. -/
  | waitso (p e : Nat)
  /-- DEPENDENCE_MARK_RELEASE (R258). The sync object of a dependence mark meets its threshold and the engine continues. -/
  | dependenceMarkRelease (p e : Nat)
  /-- SIGSO (R254). The engine adds to a sync object once its earlier transfers of the run are complete. -/
  | sigso (p e : Nat)
  /-- AG_LOOP (R254). An address-generator LOOP repeats its body by a count. -/
  | agLoop (p e : Nat)
  /-- AG_NOP (R254). An address-generator NOP does nothing. -/
  | agNop (p e : Nat)
  /-- AG_END (R254). An address-generator END ends the run once its work is complete. -/
  | agEnd (p e : Nat)
  /-- STREAM_RUN_COMPLETE (R255). A run completes when its END has issued and all its writes have landed, and with SEN it signals its sync object. -/
  | streamRunComplete (p e : Nat)
  /-- KEY_HEADER_CHECK (R263). A pod's key gate compares an arrived key block header with its expectations and passes the block's entries. -/
  | keyHeaderCheck (pod : Nat)
  /-- KEY_DRAIN_END (R264). The gates discard the last requested key flit and the command completes with E_KEYSET. -/
  | keyDrainEnd (j : Nat)
  /-- CT_PSET (R231). CT_PSET loads a parameter block and increment table into a pod's parameter table. -/
  | ctPset (c : Nat)
  /-- CT_BIND (R236). CT_BIND writes a ciphertext descriptor from an image or claims its placement. -/
  | ctBind (c : Nat)
  /-- CT_FREE (R236). CT_FREE clears VALID of a run of ciphertext descriptors. -/
  | ctFree (c : Nat)
  /-- CT_COPY (R236). CT_COPY copies an encrypted object to a descriptor of another pod. -/
  | ctCopy (c : Nat)
  /-- CT_EXPORT (R247). CT_EXPORT writes the limbs of an object to HBM in export layout. -/
  | ctExport (c : Nat)
  /-- PK_ADD (R236). PK_ADD adds, subtracts or negates PK ciphertexts and plaintexts. -/
  | pkAdd (c : Nat)
  /-- PK_MULP (R236). PK_MULP multiplies a PK ciphertext by a plaintext and rescales. -/
  | pkMulp (c : Nat)
  /-- PK_MUL (R236). PK_MUL multiplies two PK ciphertexts, relinearises and rescales. -/
  | pkMul (c : Nat)
  /-- PK_ROT (R236). PK_ROT applies an automorphism with a rotation key. -/
  | pkRot (c : Nat)
  /-- PK_LDROP (R236). PK_LDROP drops limbs of a PK ciphertext to a lower level. -/
  | pkLdrop (c : Nat)
  /-- PK_EXTRACT (R245). PK_EXTRACT turns coefficients of a level-1 PK source into small LI objects. -/
  | pkExtract (c : Nat)
  /-- LI_LIN (R236). LI_LIN forms a linear combination of LI objects or key-switches large to small. -/
  | liLin (c : Nat)
  /-- LI_PBS (R243). LI_PBS runs programmable bootstraps on a run of LI objects. -/
  | liPbs (c : Nat)
  /-- LB_GATE (R244). LB_GATE computes a bootstrapped boolean gate on LB objects. -/
  | lbGate (c : Nat)
  /-- LI_REPACK (R246). LI_REPACK packs large LI objects into one PK object at level 1. -/
  | liRepack (c : Nat)
  /-- CT_MASKOUT (R247). CT_MASKOUT adds a mask to an object and writes the result to HBM. -/
  | ctMaskout (c : Nat)
  /-- HBM_READ (R281). A read entry of the stack schedule serves the request at the head of its route's FIFO. -/
  | hbmRead (k g route : Nat)
  /-- HBM_WRITE (R281). A write entry serves the head request whose line has arrived in the route's write buffer. -/
  | hbmWrite (k g route : Nat)
  /-- HBM_IDLE (R282). An idle or unserved entry passes and removes one slot of its group's slip. -/
  | hbmIdle (k g : Nat)
  /-- REF (R285). A planned REF entry refreshes its channel group for 140 slots. -/
  | ref (k g : Nat)
  /-- REFRESH_INSERT (R285). A group's count since its last refresh reaches RINT and the stack inserts a refresh and counts a schedule fault. -/
  | refreshInsert (k g : Nat)
  /-- HOST (R352). A HOST entry serves a queued host or acorn access. -/
  | host (k g : Nat)
  /-- STAGE_IN (R289). A STAGE_IN entry moves a line from HBM to the staging buffer. -/
  | stageIn (k route : Nat)
  /-- STAGE_OUT (R289). A STAGE_OUT entry moves a line from the staging buffer to HBM. -/
  | stageOut (k route : Nat)
  /-- SCRUB (R275). A SCRUB entry zeroes a line of a granule being zeroed. -/
  | scrub (g : Nat)
  /-- REQUEST_WORD (R281). A requester's request word reaches its route's request FIFO at the stack. -/
  | requestWord (p u k route : Nat)
  /-- READ_LINE_READY (R281). A read line becomes ready at its attachment pip and leaves on the route's next mesh position. -/
  | readLineReady (k route : Nat)
  /-- HBM_HOT (R285). A stack's temperature crosses 85 °C and its refresh interval changes. -/
  | hbmHot (k temp : Nat)
  /-- HBM_GRAN (R274). A write of an HBM granule entry assigns or revokes the granule, or is ignored with GRAN_ERR. -/
  | hbmGran (w : Writer) (g v : Nat)
  /-- HBM_SGRAN (R274). A write of a staging granule entry assigns or revokes the staging granule, or is ignored with GRAN_ERR. -/
  | hbmSgran (w : Writer) (g v : Nat)
  /-- GRANULE_ZEROED (R275). Zeroing of an HBM or staging granule ends and SCRUB clears. -/
  | granuleZeroed (staging : Bool) (g : Nat)
  /-- STAGING_ACCESS (R289). A plain read or write of a staging address is served in its bank in attachment order. -/
  | stagingAccess (k : Nat)
  /-- ADD (R291). A staging ADD request adds its operands to the target elements modulo 2^width. -/
  | stAdd (k : Nat)
  /-- SMIN (R291). A staging SMIN request keeps the signed minimum. -/
  | stSmin (k : Nat)
  /-- SMAX (R291). A staging SMAX request keeps the signed maximum. -/
  | stSmax (k : Nat)
  /-- UMIN (R291). A staging UMIN request keeps the unsigned minimum. -/
  | stUmin (k : Nat)
  /-- UMAX (R291). A staging UMAX request keeps the unsigned maximum. -/
  | stUmax (k : Nat)
  /-- STAGING_SWAP (R291). A staging SWAP request writes new values and returns the old ones at RET. -/
  | stSwap (k : Nat)
  /-- CAS (R291). A staging CAS request writes new values where the old equal the compare values and returns the old ones. -/
  | stCas (k : Nat)
  /-- FADD (R292). An ordered FP32 add is applied if its SEQ equals NEXT, held if ahead, or refused if behind. -/
  | stFadd (k : Nat)
  /-- FADD_HELD_APPLY (R292). A held FADD whose SEQ now equals NEXT is applied, one per cycle. -/
  | faddHeldApply (k slot : Nat)
  /-- ORDSET (R292). ORDSET sets NEXT of an order slot and discards its held requests. -/
  | ordset (k : Nat)
  /-- SIGNAL_DETECT (R305). A link detects signal and begins training. -/
  | signalDetect (l : Nat)
  /-- CAPABILITY (R306). A capability message is received and the identity check is made. -/
  | capability (l : Nat) (m : CapMsg)
  /-- MEASURE_MESSAGE (R307). A MEASURE message is received and contributes to the delay and offset measurement. -/
  | measureMessage (l : Nat) (t1 t2 t3 t4 : Int)
  /-- TRAINING_RESTART (R305). A link that has not completed a training step within 1 ms restarts at step 1 and counts a retrain. -/
  | trainingRestart (l : Nat)
  /-- WIRING_RETRY (R306). A link that failed its identity check restarts training every 100 ms. -/
  | wiringRetry (l : Nat)
  /-- TIME (R310). A TIME flit is received and the link's offset is updated. -/
  | time (l : Nat) (m : TimeMsg)
  /-- LINK_PERIOD (R310). At each link period a non-anchor module corrects its time by half the mean offset. -/
  | linkPeriod
  /-- EPOCH_BOUNDARY (R308). At an epoch boundary the module joins, adopts anchors, installs link tables and schedules or removes links. -/
  | epochBoundary
  /-- LINK_FLIT_RECEIVE (R315). A link flit arrives and is accepted, dropped as uncorrectable, missed or stale, and then delivered or forwarded by its receive entry. -/
  | linkFlitReceive (l : Nat) (f : RxFlit)
  /-- LINK_RUN_TRANSMIT (R318). At the start of a route's run, a whole buffered message is sent, or the run passes with IDLE flits. -/
  | linkRunTransmit (l r : Nat)
  /-- DATA (R320). A whole DATA burst is checked and written to scratchpad or staging, and signals its object. -/
  | data (l : Nat)
  /-- LINK_HOLD (R324). A link silent for 256 ns with a burst open goes into hold and its bursts end with E_LINK_HOLD. -/
  | linkHold (l : Nat)
  /-- LINK_DOWN (R325). A link silent for 10 µs goes down and retrains, and its entries report E_LINK_DOWN. -/
  | linkDown (l : Nat)
  /-- PARTNER_DEPART (R325). A DEPART message from the partner takes the link down. -/
  | partnerDepart (l : Nat)
  /-- JOIN_EN (R312). A write of JOIN_EN lets the module join at the next eligible boundary. -/
  | joinEn (w : Writer) (v : Bool)
  /-- PPS_EN (R311). A write of PPS_EN makes the module use TIME_PPS. -/
  | ppsEn (w : Writer) (v : Bool)
  /-- DEPART (R329). A write of DEPART makes the module leave the installation at the next epoch boundary. -/
  | depart (w : Writer)
  /-- WAKE_PATTERN (R299). A write of WAKE sends the wake pattern on every link that is off or down. -/
  | wakePattern (w : Writer)
  /-- TIME_PPS (R311). A rising edge of TIME_PPS latches the time and steers the anchor's frequency. -/
  | timePps
  /-- CL_OPEN (R333). CL_OPEN opens a collective channel for a context with its group and routes. -/
  | clOpen (c : Nat)
  /-- CL_REDUCE (R335). CL_REDUCE queues a bucket reduction on a channel. -/
  | clReduce (c : Nat)
  /-- CL_CLOSE (R344). CL_CLOSE closes a channel when it reaches the head of the channel's FIFO. -/
  | clClose (c : Nat)
  /-- CL_CLOSE_FORCE (R344). CL_CLOSE with FORCE ends the running command with E_ABORTED and closes the channel at issue. -/
  | clCloseForce (c : Nat)
  /-- LOCAL_STEP (R336). When FILL_OBJ meets its threshold, the channel adds the residual, selects the largest entries and writes OUT and the new residual. -/
  | localStep (ch : Nat)
  /-- CHUNK_SEND (R339). A reduce or gather chunk is sent to NEXT when it holds credit and its run comes. -/
  | chunkSend (ch : Nat)
  /-- COLL (R340). A whole collective chunk message is checked, merged or forwarded, and its buffer freed with a CREDIT. -/
  | coll (ch : Nat)
  /-- CREDIT (R340). A CREDIT message returns one chunk credit to the channel. -/
  | credit (ch : Nat)
  /-- ABORT (R343). An ABORT message ends the channel's running command and is forwarded once. -/
  | abortMsg (ch : Nat)
  /-- CL_REDUCE_COMPLETE (R342). A reduction completes with E_OK when OUT holds the sum, residuals are accepted and every message is acknowledged. -/
  | clReduceComplete (ch : Nat)
  /-- CXL_MEM_READ (R351). A host CXL.mem read is served, or rejected and returns zeros. -/
  | cxlMemRead (h addr len tag : Nat)
  /-- CXL_MEM_WRITE (R351). A host CXL.mem write is served, or rejected and discarded. -/
  | cxlMemWrite (h addr : Nat) (bs : List Byte)
  /-- SCRATCHPAD_WINDOW_ACCESS (R353). A scratchpad-window access reaches its pip and is served at its bank rank. -/
  | scratchpadWindowAccess (p : Nat)
  /-- WINDOW_ESCALATION (R353). A window access that has waited 8,192 pip cycles takes its bank at top priority. -/
  | windowEscalation (p : Nat)
  /-- HDM_DECODER_COMMIT (R350). Host software commits an HDM decoder, which fails unless its size and interleave match its range. -/
  | hdmDecoderCommit (h n base size ways : Nat)
  /-- FM_API_QUERY (R349). An FM-API command reporting logical-device information or allocations is answered. -/
  | fmApiQuery (cmd : Nat)
  /-- FM_API_ALLOCATION_CHANGE (R349). An FM-API request to change allocations is refused. -/
  | fmApiAllocationChange (cmd : Nat)
  /-- CXL_MGMT (R356). A write of CXL_MGMT hands the management role to another host or clears it. -/
  | cxlMgmt (w : Writer) (v : Nat)
  /-- CXL_CTXPAGE (R357). A write of a context page register assigns the page to a host unless a context of it exists. -/
  | cxlCtxpage (w : Writer) (p v : Nat)
  /-- CREATE (R358). CREATE checks and creates a context and binds it to a partition. -/
  | create (h : Nat)
  /-- DESTROY (R361). DESTROY quiesces a context, writes its aborted records and destroys it. -/
  | destroy (h : Nat)
  /-- REBIND (R360). REBIND binds a created context without jobs to a new partition. -/
  | rebind (h : Nat)
  /-- HEAD_LINK_DOWN (R362). A CXL head's link goes down and its hosts depart. -/
  | headLinkDown (hd : Nat)
  /-- PERST_N (R459). An assertion of a head's PERST_N in M0 resets that head. -/
  | perstN (hd : Nat)
  /-- IDE_FAIL (R364). An IDE integrity failure drops the head's link and every host of the head departs. -/
  | ideFail (hd : Nat)
  /-- FM_UNBIND (R362). The fabric manager unbinds a logical device and its host departs. -/
  | fmUnbind (h : Nat)
  /-- FUNCTION_LEVEL_RESET (R362). A function-level reset of a logical device makes its host depart. -/
  | functionLevelReset (h : Nat)
  /-- FLR_REATTACH (R362). After the departure steps of a function-level reset, the host attaches again. -/
  | flrReattach (h : Nat)
  /-- IDE_KM (R364). IDE_KM messages in a secured session program or refresh the keys of a head's IDE streams. -/
  | ideKm (h key : Nat)
  /-- GET_VERSION (R365). The SPDM responder returns its versions. -/
  | getVersion (h : Nat)
  /-- GET_CAPABILITIES (R365). The SPDM responder returns its capabilities. -/
  | getCapabilities (h : Nat)
  /-- NEGOTIATE_ALGORITHMS (R365). The SPDM responder negotiates algorithms. -/
  | negotiateAlgorithms (h slot : Nat)
  /-- GET_DIGESTS (R365). The SPDM responder returns certificate chain digests. -/
  | getDigests (h : Nat)
  /-- GET_CERTIFICATE (R365). The SPDM responder returns a certificate chain. -/
  | getCertificate (h slot : Nat)
  /-- CHALLENGE (R365). The SPDM responder answers a challenge with a hull signature. -/
  | challenge (h slot : Nat)
  /-- GET_MEASUREMENTS (R391). The SPDM responder returns a signed snapshot of the measurement set. -/
  | getMeasurements (h : Nat) (signed : Bool)
  /-- KEY_EXCHANGE (R365). The SPDM responder performs ECDH and a signature to open a session. -/
  | keyExchange (h slot : Nat)
  /-- FINISH (R365). The SPDM responder completes session establishment. -/
  | finish (h : Nat)
  /-- KEY_UPDATE (R365). The SPDM responder updates session keys. -/
  | keyUpdate (h : Nat)
  /-- HEARTBEAT (R365). The SPDM responder answers a session heartbeat. -/
  | heartbeat (h : Nat)
  /-- END_SESSION (R365). The SPDM responder ends a session. -/
  | endSession (h : Nat)
  /-- MODEXP (R375). A hull job computes X^E mod N. -/
  | modexp (w : Writer) (ch : Nat)
  /-- MODMUL (R375). A hull job computes A × B mod N. -/
  | modmul (w : Writer) (ch : Nat)
  /-- RSA_VERIFY (R375). A hull job verifies an RSASSA-PKCS1-v1_5 signature. -/
  | rsaVerify (w : Writer) (ch : Nat)
  /-- ECMUL (R375). A hull job computes a scalar multiple of a curve point. -/
  | ecmul (w : Writer) (ch : Nat)
  /-- ECDH (R375). A hull job computes an ECDH shared secret. -/
  | ecdh (w : Writer) (ch : Nat)
  /-- ECDSA_SIGN (R375). A hull job signs a digest with a deterministic nonce. -/
  | ecdsaSign (w : Writer) (ch : Nat)
  /-- ECDSA_VERIFY (R375). A hull job verifies an ECDSA signature. -/
  | ecdsaVerify (w : Writer) (ch : Nat)
  /-- CURVE_LOAD (R382). A hull job checks a curve block and loads it into the channel's curve slot. -/
  | curveLoad (w : Writer) (ch : Nat)
  /-- SHA256 (R375). A hull job hashes a message with SHA-256. -/
  | sha256 (w : Writer) (ch : Nat)
  /-- KWRAP (R384). A hull job wraps a secret for a context under its derived key. -/
  | kwrap (w : Writer) (ch : Nat)
  /-- KUNWRAP (R384). A hull job unwraps a context's blob. -/
  | kunwrap (w : Writer) (ch : Nat)
  /-- RANDOM (R385). A hull job returns bytes from the DRBG. -/
  | random (w : Writer) (ch : Nat)
  /-- HULL_LOAD_END (R376). A hull job ends its LOAD phase and waits for its engine, or ends with E_HULL. -/
  | hullLoadEnd (ch : Nat)
  /-- ENGINE_TAKE (R369). A free hull engine takes the next waiting channel and starts EXEC. -/
  | engineTake (b : Bool)
  /-- EXEC_END (R378). After its fixed EXEC time, the engine compares its two computations and decides E_OK or E_HULL. -/
  | execEnd (e : EngineEnd)
  /-- STORE_END (R373). The channel ends writing its result or zeros and starts WIPE. -/
  | storeEnd (ch : Nat)
  /-- WIPE_END (R373). The channel ends zeroing its operand memory, records CODE and returns to IDLE. -/
  | wipeEnd (ch : Nat)
  /-- CLRCURVE (R383). A write of CLRCURVE clears an idle channel's curve slot. -/
  | clrcurve (w : Writer) (ch : Nat)
  /-- HULL_CHAN_OWNER (R392). A write of a channel owner register assigns the channel and clears its curve slot. -/
  | hullChanOwner (w : Writer) (ch v : Nat)
  /-- DRBG_HEALTH_RETEST (R385). Every 100 ms the acorn reruns a failed DRBG health test. -/
  | drbgHealthRetest (pass : Bool)
  /-- FIELD_GATE (R398). A field with no job for 4,096 cycles goes from F0 to F1. -/
  | fieldGate (f : Nat)
  /-- IDLE_EXPIRY (R399). A field idle for IDLE µs starts a shutdown to its floored resting state. -/
  | idleExpiry (f : Nat)
  /-- SHUTDOWN_COMPLETE (R401). A shutdown to F2 or F3 completes, and a latched enable starts a wake. -/
  | shutdownComplete (f : Nat)
  /-- WAKE_COMPLETE (R398). A field reaches F1 at the end of a wake and its wake entries leave the job queues. -/
  | wakeComplete (f : Nat)
  /-- VR_ACK (R404). A regulator request is acknowledged and the module proceeds with the domain change or new setpoint. -/
  | vrAck (f : Nat)
  /-- VR_NACK (R404). A regulator request not acknowledged within 50 µs gives E_VR_NACK with the effects of Table 16.5. -/
  | vrNack (f : Nat)
  /-- POWER_STEP_ISSUE (R406). At T0 + OFFSET − LEAD the husk issues a power step's voltage write. -/
  | powerStepIssue (j k : Nat)
  /-- FLD_PWR_CTRL (R399). A write of a field's resting state and idle time, which enables a wake if it names a higher state. -/
  | fldPwrCtrl (w : Writer) (f v : Nat)
  /-- STANDBY (R408). A write of STANDBY takes the module to M1 if no context exists. -/
  | standby (w : Writer)
  /-- LINKSD (R409). Signal detect on a link in M1 wakes the module. -/
  | linksd (l : Nat)
  /-- PATTERN (R409). The wake pattern on a link in M1 wakes the module. -/
  | pattern (l : Nat)
  /-- CWAKE_N (R459). CWAKE_N held low in M1 wakes the module. -/
  | cwakeN
  /-- WAKE_N (R461). WAKE_N held low for 1 µs in M1 wakes the module. -/
  | wakeN
  /-- PWR_TIMER (R408). The husk timer expires in M1 and wakes the module. -/
  | pwrTimer
  /-- TEMPERATURE_READING (R411). A field temperature reading crosses 95, 105 or 115 °C and the module acts on it. -/
  | temperatureReading (f t : Nat)
  /-- INPUT_MEASURE (R395). Every 10 µs the module measures input voltage and power and checks the power averages. -/
  | inputMeasure (vin pin avg10ms avg1s : Nat)
  /-- VIN_FAULT (R395). Input voltage outside 46–56 V for over 1 ms is a module fault. -/
  | vinFault
  /-- HOLDOVER (R413). REFCLK lost for over 1 µs puts the synthesiser in holdover and is a module fault. -/
  | holdover
  /-- CDC_TIMEOUT (R415). A crossing handshake times out after 1,024 cycles and gives E_CDC_TIMEOUT. -/
  | cdcTimeout (k : Crossing)
  /-- MONITOR_READ (R416). The acorn reads a field's ageing monitors and re-plans its margin. -/
  | monitorRead (f : Nat) (slack : List Int)
  /-- MARGIN_APPLY (R418). A new VRUN is applied to a field when it has no job or at its next wake. -/
  | marginApply (f : Nat)
  /-- HUSK_POWER_UP (R465). PWR_EN high and bars in range for 1 ms power up the husk and start stage 0. -/
  | huskPowerUp (pufOk drbgOk : Bool)
  /-- PWR_EN_FALL (R410). PWR_EN low for 10 µs removes power without any record. -/
  | pwrEnFall
  /-- BARS_LOSS (R465). Bars below 42 V for over 50 µs remove power. -/
  | barsLoss
  /-- FIRMWARE (R420). Stage 1 copies and verifies the active firmware slot, falling back to the other slot or to FAILED. -/
  | firmware
  /-- CONFIG (R425). Stage 2 reads and checks the configuration, calibration, identity, repair map and margin table. -/
  | config
  /-- MEASURE (R427). Stage 3 measures supplies, clocks, rails, HBM presence and link partners. -/
  | measure (m : BootMeas)
  /-- TRAIN (R420). Stage 4 trains stacks, links and CXL heads and starts zeroing. -/
  | train
  /-- READY (R421). Stage 5 begins and images may be admitted. -/
  | ready
  /-- RECOVERY_IDLE (R432). A closed partition's engines, DMA and key streams become idle and weight verification begins. -/
  | recoveryIdle (n : Nat)
  /-- WEIGHT_VERIFY (R434). Each pip checks the manifest entries of the partition and halts contexts whose entries fail. -/
  | weightVerify (n : Nat)
  /-- REOPEN (R432). After verification the partition reopens and waiting commands become ready. -/
  | reopen (n : Nat)
  /-- RECOVERY_WINDOW_END (R432). The 5 ms recovery window of a fault ends. -/
  | recoveryWindowEnd (n : Nat)
  /-- PART_RESET (R440). A write of PART_RESET resets a fenced partition when the module is not fenced. -/
  | partReset (w : Writer) (n : Nat)
  /-- MOD_RESET (R439). A write of MOD_RESET makes every host depart and restarts from stage 2. -/
  | modReset (w : Writer)
  /-- TRACE_FLIT_SEND (R446). A trace flit leaves a pip's trace egress at the next trace position. -/
  | traceFlitSend (p : Nat)
  /-- TRACE_RELAY (R446). A trace relay sends a flit north at the next N trace position towards the sink. -/
  | traceRelay (p : Nat)
  /-- TRACE_FRAME (R447). The trace port sends one 512 B frame of records or an idle frame. -/
  | traceFrame
  /-- SNAPSHOT (R444). Every SNAP_PERIOD frames the module forms one record per valid snapshot register. -/
  | snapshot
  /-- DYNAMIC_ADDRESS (R448). The BMC assigns the acorn an I3C dynamic address. -/
  | dynamicAddress (da : Nat)
  /-- PLDM_BASE (R448). The acorn answers a PLDM Base command. -/
  | pldmBase (cmd : Nat)
  /-- PLDM_SENSOR_READ (R448). The acorn returns a PLDM sensor reading. -/
  | pldmSensorRead (id : Nat)
  /-- SET_MGMT (R449). The OEM command writes CXL_MGMT. -/
  | setMgmt (v : Nat)
  /-- OEM_PART_RESET (R449). The OEM command writes PART_RESET and PART. -/
  | oemPartReset (n : Nat)
  /-- OEM_MOD_RESET (R449). The OEM command writes MOD_RESET. -/
  | oemModReset
  /-- OEM_STANDBY (R449). The OEM command writes STANDBY. -/
  | oemStandby
  /-- WAKE (R449). The OEM command fires wake source 3 in M1. -/
  | oemWake
  /-- ENROL_OWNER (R449). The OEM command sets the owner digest while no owner is enrolled. -/
  | enrolOwner (nE : List Byte)
  /-- READ_FAULT_LOG (R449). The OEM command returns up to 32 fault-log entries. -/
  | readFaultLog (k : Nat)
  /-- TEST_ENABLE (R451). The OEM command enters test mode, making hosts depart, fields go off and identity keys clear. -/
  | testEnable
  /-- FIRMWARE_UPDATE_COMPONENT (R450). A PLDM update component is written to the update area, verified and placed or acted on. -/
  | firmwareUpdateComponent (id : Nat) (wp : Bool) (image : List Byte)
  /-- BYPASS (R451). The TAP selects the bypass register. -/
  | bypass
  /-- IDCODE (R451). The TAP returns IDCODE 0x1641_20A5. -/
  | idcode
  /-- SAMPLE_PRELOAD (R451). The TAP samples or preloads the management connector's digital contacts. -/
  | samplePreload (pins v : Nat)
  /-- EXTEST (R451). In test mode the TAP drives the boundary for EXTEST. -/
  | extest
  /-- TMODE_COMPLETE (R55). The 8 cycles of a TMODE end and the tensor array accepts rows again in its new mode. -/
  | tmodeComplete (p : Nat)
  /-- FLIT_LOCK (R305). A training link's receiver completes clock recovery, lane mapping and deskew and gains flit lock. -/
  | flitLock (l mode : Nat)
  /-- LOSS_OF_FLIT_LOCK (R321). A link's receiver loses signal or flit lock, so its positions become silent. -/
  | lossOfFlitLock (l : Nat)
  /-- SILENT_RECEIVE_POSITION (R322). A receive position with a deliver or forward entry passes with no flit in its window, so a VOID is sent or delivery counts as a VOID. -/
  | silentReceivePosition (l r : Nat)
  /-- HEAD_LINK_UP (R362). A CXL head trains and its hosts attach, setting their bits in CXL_HOST_PRESENT. -/
  | headLinkUp (hd width rate : Nat)
  /-- FM_BIND (R349). The fabric manager binds a logical device through the switch and its host attaches. -/
  | fmBind (h : Nat)
  /-- HBM_TRAINING_END (R287). Training of one stack ends and its STATE reads trained or failed. -/
  | hbmTrainingEnd (k : Nat) (ok : Bool)
  /-- M1_ENTRY (R408). The module completes its entry into M1 once fields, stacks, links and heads are off, and begins watching wake sources. -/
  | m1Entry
  /-- REFCLK_RETURN (R413). REFCLK returns within tolerance and REF_OK reads 1 again. -/
  | refclkReturn
  /-- CBLPWR_OVERLOAD (R457). An overload of CBLPWR_k switches off that cable supply alone. -/
  | cblpwrOverload (l : Nat)
  /-- PERST_N_RISE (R459). A head's PERST_N rises, and the head then starts training. -/
  | perstNRise (hd : Nat)
  /-- PLATFORM_EVENT_ACK (R448). The BMC acknowledges a platform event, and ALERT_N is released when none remain unacknowledged. -/
  | platformEventAck
  /-- DOE_DISCOVERY (R346). The DOE mailbox answers a DOE discovery request. -/
  | doeDiscovery (h k : Nat)
  deriving DecidableEq, Repr

end Sys2Proof
end

