-- ==== Sys2Proof/Machine/Operands.lean ====
section
/-!
DEFINITION. The operand forms of Table 3.1, Table 3.5 and Table 8.4: the ranges of their fields (R70, R79, R81).
-/
namespace Sys2Proof.Machine

/-- DELTA (R68). -/
def deltaOk (d : Nat) : Bool := decide (1 ≤ d) && decide (d ≤ 1023)
/-- A pip of the module (R6). -/
def pipNum (p : Nat) : Bool := decide (p < 10240)

/-- Format Q with the queues that the opcode allows. -/
def qOk (qsel : Nat → Bool) (o : QOp) : Bool :=
  qsel o.qsel && decide (o.handle < 256) && decide (o.areg < 16) && decide (1 ≤ o.count) && decide (o.count < 2 ^ 16)
  && decide (o.port < 4) && !(o.post && o.idx)
def ldqOk (o : QOp) : Bool := qOk (fun q => decide (q ≤ 4)) o
def stqOk (o : QOp) : Bool := qOk (fun q => q = 8 || q = 9) o
def msndOk (o : QOp) : Bool := qOk (fun q => q = 5 || q = 8 || q = 9) o
def mrcvOk (o : QOp) : Bool := qOk (fun q => decide (q ≤ 5)) o

/-- Format D. -/
def dOk (o : DOp) : Bool :=
  decide (o.ahbm < 16) && decide (o.asp < 16) && decide (o.handle < 256) && decide (1 ≤ o.len) && decide (o.len < 2 ^ 14)

/-- Format A of AOP. -/
def aOk (o : AOp) : Bool := decide (o.ad < 16) && decide (o.as_ < 16) && decide (o.fn ≤ 5) && decide (o.imm < 2 ^ 32)

/-- Format S of SOP. -/
def sOk (o : SOp) : Bool :=
  decide (o.sd < 32) && decide (o.sa < 32) && decide (o.sb < 32) && decide (o.fn ≤ 17) && decide (o.imm < 2 ^ 24)

/-- Format N. -/
def nOk (o : NOp) : Bool :=
  decide (o.sd < 32) && decide (o.sa < 32) && decide (o.handle < 256) && decide (o.size < 4) && decide (o.imm < 2 ^ 24)

/-- Format G. -/
def gOk (o : GOp) : Bool := decide (o.rslot < 16) && decide (1 ≤ o.count) && decide (o.count < 2 ^ 16)

/-- BRF (Table 3.5). -/
def bOk (exe : Bool) (o : BOp) : Bool :=
  decide (o.cond < 32) && (exe || decide (o.cond ≤ 16)) && decide (o.test ≤ 3) && decide (o.na < 256) && decide (o.nb < 256)
  && decide (1 ≤ o.pad) && decide (o.pad < 2 ^ 16)

/-- LOOP. -/
def loopOk (level body : Nat) : Bool := decide (level < 4) && decide (1 ≤ body) && decide (body < 2 ^ 13)

/-- LCSET: SRC 2 only in the access stream, whose REG is 0–15. -/
def lcsetOk (exe : Bool) (lc src reg imm : Nat) : Bool :=
  decide (lc < 4) && decide (src ≤ (if exe then 1 else 2)) && decide (reg < 32) && (exe || src ≠ 1 || decide (reg < 16))
  && decide (imm < 2 ^ 16)

/-- SIGL. -/
def siglOk (obj add : Nat) : Bool := decide (obj < 16384) && decide (1 ≤ add) && decide (add < 2 ^ 16)

/-- The signed value of the immediate of format S or N. -/
def imm24 (i : Nat) : Int := sgn 24 i

end Sys2Proof.Machine
end

