-- ==== Sys2Proof/WellFormed.lean ====
section
/-!
DEFINITION. Well-formed commands: the parts they name exist and every operand lies in the range of its field.
-/
namespace Sys2Proof

open Sys2Proof.Machine

/-- A crossing names a pip or a field of the module. -/
def crossingOk : Crossing → Bool
  | .job p => pipNum p
  | .field f => decide (f < 64)
  | .fabric => true
  | .acorn _ => true
  | .read f h off => f.all (fun f => decide (f < 64)) && decide (h < 16) && decide (off < 2 ^ 26)

/-- The operands of a command lie in their ranges. -/
def Instr.wellFormed : Instr → Bool
  | .registerWrite _ off len _ => decide (off < 2 ^ 26) && decide (1 ≤ len) && decide (len ≤ 8)
  | .counterLowRead h r => decide (h < 16) && decide (r.off < 2 ^ 26) && decide (1 ≤ r.width) && decide (r.width ≤ 8)
  | .nop p _ d => pipNum p && deltaOk d
  | .ldq p d o => pipNum p && deltaOk d && ldqOk o
  | .stq p d o => pipNum p && deltaOk d && stqOk o
  | .msnd p d o => pipNum p && deltaOk d && msndOk o
  | .mrcv p d o => pipNum p && deltaOk d && mrcvOk o
  | .dma p d o => pipNum p && deltaOk d && dOk o
  | .dmaw p d _ => pipNum p && deltaOk d
  | .swap p d handle => pipNum p && deltaOk d && decide (handle < 256)
  | .dld p d handle areg => pipNum p && deltaOk d && decide (handle < 256) && decide (areg < 16)
  | .aop p d o => pipNum p && deltaOk d && aOk o
  | .strmStart p d areg e => pipNum p && deltaOk d && decide (areg < 16) && decide (e < 5)
  | .strmWait p d e => pipNum p && deltaOk d && decide (e < 5)
  | .sigl p d obj add => pipNum p && deltaOk d && siglOk obj add
  | .siglApply p => pipNum p
  | .loop p _ d level body => pipNum p && deltaOk d && loopOk level body
  | .brf p exe d o => pipNum p && deltaOk d && bOk exe o
  | .lcset p exe d lc src reg imm => pipNum p && deltaOk d && lcsetOk exe lc src reg imm
  | .endStream p _ d => pipNum p && deltaOk d
  | .tlw p d count => pipNum p && deltaOk d && decide (1 ≤ count) && decide (count ≤ 16)
  | .tsw p d => pipNum p && deltaOk d
  | .tmm p d _ _ fmtA fmtW => pipNum p && deltaOk d && decide (fmtA < 16) && decide (fmtW < 16)
  | .tmmComplete p => pipNum p
  | .tdrn p d _ chain _ => pipNum p && deltaOk d && decide (chain < 16)
  | .drainEnd p => pipNum p
  | .tmode p d _ => pipNum p && deltaOk d
  | .sop p d o => pipNum p && deltaOk d && sOk o
  | .sld p d o => pipNum p && deltaOk d && nOk o
  | .sst p d o => pipNum p && deltaOk d && nOk o
  | .spush p d sa => pipNum p && deltaOk d && decide (sa < 32)
  | .ssum p d sd which => pipNum p && deltaOk d && decide (sd < 32) && decide (which < 4)
  | .lrxset p d idx sa => pipNum p && deltaOk d && decide (idx < 64) && decide (sa < 32)
  | .nttl p d o => pipNum p && deltaOk d && gOk o
  | .nttx p d o => pipNum p && deltaOk d && gOk o
  | .intx p d o => pipNum p && deltaOk d && gOk o
  | .intl p d o => pipNum p && deltaOk d && gOk o
  | .eadd p d o => pipNum p && deltaOk d && gOk o
  | .esub p d o => pipNum p && deltaOk d && gOk o
  | .emul p d o => pipNum p && deltaOk d && gOk o
  | .mulc p d o => pipNum p && deltaOk d && gOk o
  | .kmac p d o => pipNum p && deltaOk d && gOk o
  | .auto p d o => pipNum p && deltaOk d && gOk o
  | .tomont p d o => pipNum p && deltaOk d && gOk o
  | .frommont p d o => pipNum p && deltaOk d && gOk o
  | .kout p d o => pipNum p && deltaOk d && gOk o
  | .ringOpComplete p => pipNum p
  | .residueCompare pod _ => decide (pod < 640)
  | .dmaComplete p _ => pipNum p
  | .pipFinish p => pipNum p
  | .jobWatchdog p _ => pipNum p
  | .engineWatchdog p => pipNum p
  | .meshFlitSend p port pos => pipNum p && decide (port < 4) && decide (pos < 4096)
  | .meshFlitArrive _ => true
  | .creditReturn _ => true
  | .dmaWriterWrite p => pipNum p
  | .shortFlitEnter p => pipNum p
  | .shortPathWrite p => pipNum p
  | .commandRead c => decide (c < 10240)
  | .commandReady c => decide (c < 10240)
  | .jobStart _ => true
  | .jobLoadEnd p => pipNum p
  | .streamStart _ => true
  | .commandComplete _ => true
  | .commandNop c => decide (c < 10240)
  | .launch c => decide (c < 10240)
  | .wait c => decide (c < 10240)
  | .waitRelease c => decide (c < 10240)
  | .signal c => decide (c < 10240)
  | .syncset c => decide (c < 10240)
  | .copy c => decide (c < 10240)
  | .release c => decide (c < 10240)
  | .doorbell _ c _ => decide (c < 10240)
  | .resume _ c => decide (c < 10240)
  | .flush _ c => decide (c < 10240)
  | .modCtxSyncVal h c => decide (h < 16) && decide (c < 10240)
  | .modCtxGrant _ c n _ => decide (c < 10240) && decide (n < 8)
  | .admitImage _ => true
  | .admissionDone => true
  | .transitReenable => true
  | .modPart _ n _ => decide (n < 16)
  | .pendingRepair f row col => decide (f < 64) && decide (row < 8) && decide (col ≤ 20)
  | .applyRepair _ => true
  | .repairRevoke => true
  | .pipRegion _ p n _ => pipNum p && decide (n < 16)
  | .scrubDone p n => pipNum p && decide (n < 16)
  | .clr _ p => pipNum p
  | .streamRunStart p e => pipNum p && decide (e < 5)
  | .gset p e => pipNum p && decide (e < 4)
  | .gadd p e => pipNum p && decide (e < 4)
  | .gmod p e => pipNum p && decide (e < 4)
  | .gidx p e => pipNum p && decide (e < 4)
  | .xfer p e => pipNum p && decide (e < 4)
  | .sput p e => pipNum p && decide (e < 4)
  | .waitso p e => pipNum p && decide (e < 4)
  | .sigso p e => pipNum p && decide (e < 4)
  | .kblk p => pipNum p
  | .dependenceMarkRelease p e => pipNum p && decide (e < 4)
  | .agLoop p e => pipNum p && decide (e < 5)
  | .agNop p e => pipNum p && decide (e < 5)
  | .agEnd p e => pipNum p && decide (e < 5)
  | .streamRunComplete p e => pipNum p && decide (e < 5)
  | .keyHeaderCheck pod => decide (pod < 640)
  | .keyDrainEnd _ => true
  | .ctPset c => decide (c < 10240)
  | .ctBind c => decide (c < 10240)
  | .ctFree c => decide (c < 10240)
  | .ctCopy c => decide (c < 10240)
  | .ctExport c => decide (c < 10240)
  | .pkAdd c => decide (c < 10240)
  | .pkMulp c => decide (c < 10240)
  | .pkMul c => decide (c < 10240)
  | .pkRot c => decide (c < 10240)
  | .pkLdrop c => decide (c < 10240)
  | .pkExtract c => decide (c < 10240)
  | .liLin c => decide (c < 10240)
  | .liPbs c => decide (c < 10240)
  | .lbGate c => decide (c < 10240)
  | .liRepack c => decide (c < 10240)
  | .ctMaskout c => decide (c < 10240)
  | .hbmRead k g _ => decide (k < 12) && decide (g < 32)
  | .hbmWrite k g _ => decide (k < 12) && decide (g < 32)
  | .hbmIdle k g => decide (k < 12) && decide (g < 32)
  | .ref k g => decide (k < 12) && decide (g < 32)
  | .refreshInsert k g => decide (k < 12) && decide (g < 32)
  | .host k g => decide (k < 12) && decide (g < 32)
  | .stageIn k _ => decide (k < 12)
  | .stageOut k _ => decide (k < 12)
  | .scrub g => decide (g < 768)
  | .requestWord p u k _ => pipNum p && decide (u < 9) && decide (k < 12)
  | .readLineReady k _ => decide (k < 12)
  | .hbmHot k temp => decide (k < 12) && decide (temp < 256)
  | .hbmGran _ g _ => decide (g < 768)
  | .hbmSgran _ g _ => decide (g < 768)
  | .granuleZeroed _ g => decide (g < 768)
  | .stagingAccess k => decide (k < 12)
  | .stAdd k => decide (k < 12)
  | .stSmin k => decide (k < 12)
  | .stSmax k => decide (k < 12)
  | .stUmin k => decide (k < 12)
  | .stUmax k => decide (k < 12)
  | .stSwap k => decide (k < 12)
  | .stCas k => decide (k < 12)
  | .stFadd k => decide (k < 12)
  | .ordset k => decide (k < 12)
  | .faddHeldApply k _ => decide (k < 12)
  | .signalDetect l => decide (l < 36)
  | .capability l _ => decide (l < 36)
  | .measureMessage l _ _ _ _ => decide (l < 36)
  | .trainingRestart l => decide (l < 36)
  | .wiringRetry l => decide (l < 36)
  | .time l _ => decide (l < 36)
  | .linkPeriod => true
  | .epochBoundary => true
  | .linkFlitReceive l _ => decide (l < 36)
  | .linkRunTransmit l _ => decide (l < 36)
  | .data l => decide (l < 36)
  | .linkHold l => decide (l < 36)
  | .linkDown l => decide (l < 36)
  | .partnerDepart l => decide (l < 36)
  | .joinEn _ _ => true
  | .ppsEn _ _ => true
  | .depart _ => true
  | .wakePattern _ => true
  | .timePps => true
  | .clOpen c => decide (c < 10240)
  | .clReduce c => decide (c < 10240)
  | .clClose c => decide (c < 10240)
  | .clCloseForce c => decide (c < 10240)
  | .localStep ch => decide (ch < 16)
  | .chunkSend ch => decide (ch < 16)
  | .coll ch => decide (ch < 16)
  | .credit ch => decide (ch < 16)
  | .abortMsg ch => decide (ch < 16)
  | .clReduceComplete ch => decide (ch < 16)
  | .cxlMemRead h _ len _ => decide (h < 16) && decide (1 ≤ len)
  | .cxlMemWrite h _ bs => decide (h < 16) && decide (1 ≤ bs.length)
  | .scratchpadWindowAccess p => pipNum p
  | .windowEscalation p => pipNum p
  | .hdmDecoderCommit h n _ _ _ => decide (h < 16) && decide (n < 4)
  | .fmApiQuery _ => true
  | .fmApiAllocationChange _ => true
  | .cxlMgmt _ _ => true
  | .cxlCtxpage _ p _ => decide (p < 640)
  | .create h => decide (h < 16)
  | .destroy h => decide (h < 16)
  | .rebind h => decide (h < 16)
  | .headLinkDown hd => decide (hd < 4)
  | .perstN hd => decide (hd < 4)
  | .ideFail hd => decide (hd < 4)
  | .fmUnbind h => decide (h < 16)
  | .functionLevelReset h => decide (h < 16)
  | .flrReattach h => decide (h < 16)
  | .ideKm h _ => decide (h < 16)
  | .getVersion h => decide (h < 16)
  | .getCapabilities h => decide (h < 16)
  | .negotiateAlgorithms h _ => decide (h < 16)
  | .getDigests h => decide (h < 16)
  | .getCertificate h _ => decide (h < 16)
  | .challenge h _ => decide (h < 16)
  | .getMeasurements h _ => decide (h < 16)
  | .keyExchange h _ => decide (h < 16)
  | .finish h => decide (h < 16)
  | .keyUpdate h => decide (h < 16)
  | .heartbeat h => decide (h < 16)
  | .endSession h => decide (h < 16)
  | .modexp _ ch => decide (ch < 16)
  | .modmul _ ch => decide (ch < 16)
  | .rsaVerify _ ch => decide (ch < 16)
  | .ecmul _ ch => decide (ch < 16)
  | .ecdh _ ch => decide (ch < 16)
  | .ecdsaSign _ ch => decide (ch < 16)
  | .ecdsaVerify _ ch => decide (ch < 16)
  | .curveLoad _ ch => decide (ch < 16)
  | .sha256 _ ch => decide (ch < 16)
  | .kwrap _ ch => decide (ch < 16)
  | .kunwrap _ ch => decide (ch < 16)
  | .random _ ch => decide (ch < 16)
  | .hullLoadEnd ch => decide (ch < 16)
  | .engineTake _ => true
  | .execEnd e => decide (e.ch < 16)
  | .storeEnd ch => decide (ch < 16)
  | .wipeEnd ch => decide (ch < 16)
  | .clrcurve _ ch => decide (ch < 16)
  | .hullChanOwner _ ch _ => decide (ch < 16)
  | .drbgHealthRetest _ => true
  | .fieldGate f => decide (f < 64)
  | .idleExpiry f => decide (f < 64)
  | .shutdownComplete f => decide (f < 64)
  | .wakeComplete f => decide (f < 64)
  | .vrAck f => decide (f < 64)
  | .vrNack f => decide (f < 64)
  | .marginApply f => decide (f < 64)
  | .powerStepIssue _ _ => true
  | .fldPwrCtrl _ f _ => decide (f < 64)
  | .standby _ => true
  | .linksd l => decide (l < 36)
  | .pattern l => decide (l < 36)
  | .cwakeN => true
  | .wakeN => true
  | .pwrTimer => true
  | .temperatureReading f t => decide (f < 64) && decide (t < 256)
  | .inputMeasure _ _ _ _ => true
  | .vinFault => true
  | .holdover => true
  | .cdcTimeout k => crossingOk k
  | .monitorRead f slack => decide (f < 64) && slack.length = 16
  | .huskPowerUp _ _ => true
  | .pwrEnFall => true
  | .barsLoss => true
  | .firmware => true
  | .config => true
  | .measure _ => true
  | .train => true
  | .ready => true
  | .recoveryIdle n => decide (n < 16)
  | .weightVerify n => decide (n < 16)
  | .reopen n => decide (n < 16)
  | .recoveryWindowEnd n => decide (n < 16)
  | .partReset _ n => decide (n < 16)
  | .modReset _ => true
  | .traceFlitSend p => pipNum p
  | .traceRelay p => pipNum p
  | .traceFrame => true
  | .snapshot => true
  | .dynamicAddress da => decide (da < 128)
  | .pldmBase _ => true
  | .pldmSensorRead id => decide (1 ≤ id) && decide (id ≤ 7)
  | .setMgmt v => decide (v < 32)
  | .oemPartReset n => decide (n < 16)
  | .oemModReset => true
  | .oemStandby => true
  | .oemWake => true
  | .enrolOwner nE => nE.length = 388
  | .readFaultLog i => decide (i < 4096)
  | .testEnable => true
  | .firmwareUpdateComponent id _ _ => decide (1 ≤ id) && decide (id ≤ 4)
  | .bypass => true
  | .idcode => true
  | .samplePreload pins v => decide (pins < 128) && decide (v < 128)
  | .extest => true
  | .tmodeComplete p => pipNum p
  | .flitLock l mode => decide (l < 36) && decide (mode < 3)
  | .lossOfFlitLock l => decide (l < 36)
  | .silentReceivePosition l _ => decide (l < 36)
  | .headLinkUp hd width rate => decide (hd < 4) && decide (1 ≤ width) && decide (width ≤ 16) && decide (1 ≤ rate) && decide (rate ≤ 3)
  | .fmBind h => decide (h < 16)
  | .hbmTrainingEnd k _ => decide (k < 12)
  | .m1Entry => true
  | .refclkReturn => true
  | .cblpwrOverload l => decide (l < 36)
  | .perstNRise hd => decide (hd < 4)
  | .platformEventAck => true
  | .doeDiscovery h _ => decide (h < 16)

end Sys2Proof
end

