-- ==== Sys2Proof/Decode.lean ====
section
/-!
DEFINITION. The table of operations and events gives no row any bits: no word spells a command.
-/
namespace Sys2Proof

/-- The command that a word of the table spells: none, since no row of the table has bits. [DESIGN CHOICE, log 46] -/
def decodeTableWord (_nbits _w : Nat) : Option Instr := none

end Sys2Proof
end

