-- ==== Sys2Proof/Config.lean ====
section
/-!
DEFINITION. What an implementation fixes and the manual leaves open: every constant is opaque, has no
body and is a free value. A value drawn at an event is the constant applied to the counter State.free;
a value that the same operands always give again is the constant applied to the operands.
-/
namespace Sys2Proof.Config

/-- Free bits drawn at an event: the argument is the counter of draws (log 8). -/
opaque freeBits : Nat → BitVec 4096

/-- What a word that differs from its stored value in three or more bits reads as (R136): the class
(0 delivered silently, 1 counted as corrected, 2 or 3 detected) and the delivered word. [DESIGN CHOICE, log 8] -/
opaque secded : Word64 → BitVec 72 → BitVec 66

/-- What a line of a corrected granule with errors in three or more device symbols reads as (R276): the class as for `secded`, and the
delivered line, from the stored line and the flipped bits. [DESIGN CHOICE, log 8] -/
opaque deviceCode : BitVec 1024 → BitVec 1152 → BitVec 1026

/-- Code of a finite element in an exact block whose scale is written 0xFF (Table 6.3): format, block
values, index of the element. [DESIGN CHOICE, log 8] [DESIGN CHOICE, log 14] -/
opaque poisonCode : Nat → List Word32 → Nat → Nat

/-- Result of an NTT local phase whose stage table is not that of Table 8.5 (R218): prime, table,
inputs, index of the output word. [DESIGN CHOICE, log 8] [DEDUCED, log 17] -/
opaque oddNtt : Nat → List Nat → List Nat → Nat → Nat

/-- Miller-Rabin base i for a number, from the digest of a curve block (R382). [DESIGN CHOICE, log 22] -/
opaque mrBase : BitVec 256 → Nat → Nat → Nat

/-- The wrapping key K_wrap and the sealing key of the module (R386). -/
opaque kWrap : BitVec 256

/-- Digests of the Kryfeni keys K0 and K1, held in the boot ROM (R390). -/
opaque signerDigest : Nat → BitVec 256

/-- SHA-256 of the acorn boot ROM (R391, index 1). -/
opaque romDigest : BitVec 256

/-- SHA-256 of what the module came up with before the model's first start-up (R391): 2 the firmware image, 4 the calibration
record. -/
opaque shippedDigest : Nat → BitVec 256

/-- Response bytes that the SPDM and PLDM standards or the identity keys fix and this manual does not (R365, R448):
request code, counter of draws. -/
opaque response : Nat → Nat → List Byte

/-- Value `i` of a calibration record, whose layout the manual does not give (R426): 0 the serial number, 1 to 64 ILEAK,
65 to 128 KV, 129 to 164 D_FIX, 165 VFLOOR. -/
opaque calField : List Byte → Nat → Nat

end Sys2Proof.Config
end

