-- ==== Sys2Proof/Machine/Crypto.lean ====
section
/-!
DEFINITION. The algorithms the manual names by their standards: SHA-256 (FIPS 180-4), HMAC, AES-256-GCM (SP 800-38D),
RSASSA-PKCS1-v1_5 (RFC 8017), ECDSA (FIPS 186-5, RFC 6979), Miller-Rabin, CRC-32C (R277).
-/
namespace Sys2Proof.Machine

/-! ### SHA-256 -/

/-- Round constants (FIPS 180-4). -/
def shaK : List Nat :=
  [0x428a2f98, 0x71374491, 0xb5c0fbcf, 0xe9b5dba5, 0x3956c25b, 0x59f111f1, 0x923f82a4, 0xab1c5ed5]
   ++ [0xd807aa98, 0x12835b01, 0x243185be, 0x550c7dc3, 0x72be5d74, 0x80deb1fe, 0x9bdc06a7, 0xc19bf174]
   ++ [0xe49b69c1, 0xefbe4786, 0x0fc19dc6, 0x240ca1cc, 0x2de92c6f, 0x4a7484aa, 0x5cb0a9dc, 0x76f988da]
   ++ [0x983e5152, 0xa831c66d, 0xb00327c8, 0xbf597fc7, 0xc6e00bf3, 0xd5a79147, 0x06ca6351, 0x14292967]
   ++ [0x27b70a85, 0x2e1b2138, 0x4d2c6dfc, 0x53380d13, 0x650a7354, 0x766a0abb, 0x81c2c92e, 0x92722c85]
   ++ [0xa2bfe8a1, 0xa81a664b, 0xc24b8b70, 0xc76c51a3, 0xd192e819, 0xd6990624, 0xf40e3585, 0x106aa070]
   ++ [0x19a4c116, 0x1e376c08, 0x2748774c, 0x34b0bcb5, 0x391c0cb3, 0x4ed8aa4a, 0x5b9cca4f, 0x682e6ff3]
   ++ [0x748f82ee, 0x78a5636f, 0x84c87814, 0x8cc70208, 0x90befffa, 0xa4506ceb, 0xbef9a3f7, 0xc67178f2]

/-- Initial hash value. -/
def shaH0 : List Word32 :=
  [0x6a09e667, 0xbb67ae85, 0x3c6ef372, 0xa54ff53a, 0x510e527f, 0x9b05688c, 0x1f83d9ab, 0x5be0cd19]

/-- Big-endian bytes of a number. -/
def toBe (n w : Nat) : List Byte := (toBytes n w).reverse
/-- The number that big-endian bytes spell. -/
def ofBe (l : List Byte) : Nat := ofBytes l.reverse

def rotr (x : Word32) (n : Nat) : Word32 := (x >>> n) ||| (x <<< (32 - n))

/-- Message schedule: extend the 16 words of a block to 64. -/
def shaExpand : Nat → List Word32 → List Word32
  | 0, w => w
  | n + 1, w =>
    let i := w.length
    let w15 := nth w (i - 15) 0
    let w2 := nth w (i - 2) 0
    let s0 := rotr w15 7 ^^^ rotr w15 18 ^^^ (w15 >>> 3)
    let s1 := rotr w2 17 ^^^ rotr w2 19 ^^^ (w2 >>> 10)
    shaExpand n (w ++ [nth w (i - 16) 0 + s0 + nth w (i - 7) 0 + s1])

/-- One round on (a … h). -/
def shaRound (s : List Word32) (k w : Word32) : List Word32 :=
  let a := nth s 0 0
  let b := nth s 1 0
  let c := nth s 2 0
  let e := nth s 4 0
  let f := nth s 5 0
  let g := nth s 6 0
  let t1 := nth s 7 0 + (rotr e 6 ^^^ rotr e 11 ^^^ rotr e 25) + ((e &&& f) ^^^ (~~~e &&& g)) + k + w
  let t2 := (rotr a 2 ^^^ rotr a 13 ^^^ rotr a 22) + ((a &&& b) ^^^ (a &&& c) ^^^ (b &&& c))
  [t1 + t2, a, b, c, nth s 3 0 + t1, e, f, g]

/-- One block of 64 bytes. -/
def shaBlock (h : List Word32) (blk : List Byte) : List Word32 :=
  let w := shaExpand 48 ((List.range 16).map fun i => BitVec.ofNat 32 (ofBe (slice blk (4 * i) 4)))
  let s := (List.zip shaK w).foldl (fun s kw => shaRound s (BitVec.ofNat 32 kw.1) kw.2) h
  List.zipWith (· + ·) h s

/-- Padding of a message. -/
def shaPad (m : List Byte) : List Byte :=
  let n := m.length
  m ++ [0x80] ++ List.replicate ((119 - n % 64) % 64) 0 ++ toBe 8 (8 * n)

/-- SHA-256: the 32 bytes of the digest. [PRESUMED, log 39] -/
def sha256 (m : List Byte) : List Byte :=
  let p := shaPad m
  ((groups 64 (p.length / 64) p).foldl shaBlock shaH0).flatMap fun w => toBe 4 w.toNat

/-- The digest as a number, first byte lowest, as registers and measurements hold it. -/
def sha256Num (m : List Byte) : BitVec 256 := BitVec.ofNat 256 (ofBytes (sha256 m))

/-- A fingerprint: the first 8 bytes of the digest as a little-endian value. -/
def fingerprint (m : List Byte) : Word64 := BitVec.ofNat 64 (ofBytes ((sha256 m).take 8))

/-- HMAC-SHA-256. -/
def hmac (key m : List Byte) : List Byte :=
  let k := if key.length > 64 then sha256 key else key
  let k := k ++ List.replicate (64 - k.length) 0
  sha256 (k.map (· ^^^ 0x5c) ++ sha256 (k.map (· ^^^ 0x36) ++ m))

/-! ### CRC-32C (R277) -/

/-- One byte of a CRC-32C register, least significant bit first. -/
def crcByte (c : Word32) (b : Byte) : Word32 :=
  (List.range 8).foldl (fun c _ => if c.getLsbD 0 then (c >>> 1) ^^^ 0x82F63B78 else c >>> 1) (c ^^^ b.setWidth 32)

/-- CRC-32C: polynomial 0x1EDC6F41, initial value and final XOR all ones. -/
def crc32c (m : List Byte) : Word32 := ~~~(m.foldl crcByte 0xFFFFFFFF)

/-! ### Modular arithmetic -/

/-- b^e mod m over `n` bits of e, most significant first. -/
def modPowFrom (m b e : Nat) : Nat → Nat → Nat
  | 0, acc => acc
  | n + 1, acc =>
    let sq := acc * acc % m
    modPowFrom m b e n (if (e / 2 ^ n) % 2 = 1 then sq * b % m else sq)

def modPow (m b e : Nat) : Nat := if m = 0 then 0 else modPowFrom m (b % m) e (Nat.log2 e + 1) (1 % m)

/-- Inverse modulo a prime. -/
def modInv (p a : Nat) : Nat := modPow p a (p - 2)

/-! ### Elliptic curves y² = x³ + ax + b -/

/-- A curve's constants (p, a, b, G, n, h). -/
structure CurveNum where
  p : Nat
  a : Nat
  b : Nat
  gx : Nat
  gy : Nat
  n : Nat
  h : Nat
  deriving DecidableEq, Repr

/-- secp256r1 (FIPS 186-5). [PRESUMED, log 39] -/
def p256 : CurveNum :=
  { p := 0xffffffff00000001000000000000000000000000ffffffffffffffffffffffff
    a := 0xffffffff00000001000000000000000000000000fffffffffffffffffffffffc
    b := 0x5ac635d8aa3a93e7b3ebbd55769886bc651d06b0cc53b0f63bce3c3e27d2604b
    gx := 0x6b17d1f2e12c4247f8bce6e563a440f277037d812deb33a0f4a13945d898c296
    gy := 0x4fe342e2fe1a7f9b8ee7eb4a7c0f9e162bce33576b315ececbb6406837bf51f5
    n := 0xffffffff00000000ffffffffffffffffbce6faada7179e84f3b9cac2fc632551
    h := 1 }

/-- secp384r1. [PRESUMED, log 39] -/
def p384 : CurveNum :=
  { p := 2 ^ 384 - 2 ^ 128 - 2 ^ 96 + 2 ^ 32 - 1
    a := 2 ^ 384 - 2 ^ 128 - 2 ^ 96 + 2 ^ 32 - 4
    b := 0xb3312fa7e23ee7e4988e056be3f82d19181d9c6efe8141120314088f5013875ac656398d8a2ed19d2a85c8edd3ec2aef
    gx := 0xaa87ca22be8b05378eb1c71ef320ad746e1d3b628ba79b9859f741e082542a385502f25dbf55296c3a545e3872760ab7
    gy := 0x3617de4a96262c6f5d9e98bf9292dc29f8f41dbd289a147ce9da3113b5f0b8c00a60b1ce1d7e819d7a431d7c90ea0e5f
    n := 0xffffffffffffffffffffffffffffffffffffffffffffffffc7634d81f4372ddf581a0db248b0a77aecec196accc52973
    h := 1 }

/-- An affine point, or none for the point at infinity. -/
abbrev Pt := Option (Nat × Nat)

def onCurve (c : CurveNum) (x y : Nat) : Bool :=
  decide (x < c.p) && decide (y < c.p) && y * y % c.p = (x * x * x + c.a * x + c.b) % c.p

def ptAdd (c : CurveNum) : Pt → Pt → Pt
  | none, q => q
  | p, none => p
  | some (x1, y1), some (x2, y2) =>
    if x1 = x2 && (y1 + y2) % c.p = 0 then none
    else
      let l := if x1 = x2 then (3 * x1 * x1 + c.a) * modInv c.p (2 * y1) % c.p
               else (y2 + c.p - y1) * modInv c.p (x2 + c.p - x1) % c.p
      let x := (l * l + 2 * c.p - x1 - x2) % c.p
      some (x, (l * (x1 + c.p - x) + c.p - y1) % c.p)

/-- k·P over `n` bits of k, most significant first. -/
def ptMulFrom (c : CurveNum) (pt : Pt) (k : Nat) : Nat → Pt → Pt
  | 0, acc => acc
  | n + 1, acc =>
    let d := ptAdd c acc acc
    ptMulFrom c pt k n (if (k / 2 ^ n) % 2 = 1 then ptAdd c d pt else d)

def ptMul (c : CurveNum) (k : Nat) (pt : Pt) : Pt := ptMulFrom c pt k (Nat.log2 k + 1) none

/-- Bits of a number. -/
def bitLen (n : Nat) : Nat := if n = 0 then 0 else Nat.log2 n + 1

/-- A 256-bit digest as an integer (FIPS 186-5): its leftmost bits, at most as many as the order has. -/
def digestInt (n : Nat) (h : List Byte) : Nat := ofBe h / 2 ^ (8 * h.length - bitLen n)

/-- HMAC_DRBG steps of RFC 6979 until a nonce is in range; `fuel` bounds the rejected candidates. -/
def rfcLoop (n rlen : Nat) : Nat → List Byte → List Byte → Nat
  | 0, _, _ => 0
  | fuel + 1, k, v =>
    let v1 := hmac k v
    let v2 := if rlen > 32 then hmac k v1 else v1
    let t := if rlen > 32 then v1 ++ v2 else v1
    let t := if rlen > 64 then t ++ hmac k v2 else t
    let v' := if rlen > 64 then hmac k v2 else v2
    let cand := ofBe t / 2 ^ (8 * t.length - bitLen n)
    if 1 ≤ cand ∧ cand < n then cand
    else let k' := hmac k (v' ++ [0]); rfcLoop n rlen fuel k' (hmac k' v')

/-- The deterministic nonce (RFC 6979, HMAC-SHA-256). -/
def rfcNonce (n d : Nat) (h : List Byte) : Nat :=
  let rlen := (bitLen n + 7) / 8
  let seed := toBe rlen d ++ toBe rlen (digestInt n h % n)
  let v := List.replicate 32 (1 : Byte)
  let k := List.replicate 32 (0 : Byte)
  let k := hmac k (v ++ [0] ++ seed)
  let v := hmac k v
  let k := hmac k (v ++ [1] ++ seed)
  rfcLoop n rlen 128 k (hmac k v)

/-- ECDSA signature (r, s). -/
def ecdsaSign (c : CurveNum) (d : Nat) (h : List Byte) : Nat × Nat :=
  let k := rfcNonce c.n d h
  match ptMul c k (some (c.gx, c.gy)) with
  | none => (0, 0)
  | some (x, _) =>
    let r := x % c.n
    (r, modInv c.n k * (digestInt c.n h + r * d) % c.n)

/-- ECDSA verification. -/
def ecdsaOk (c : CurveNum) (qx qy : Nat) (h : List Byte) (r s : Nat) : Bool :=
  let w := modInv c.n s
  let u1 := digestInt c.n h * w % c.n
  let u2 := r * w % c.n
  match ptAdd c (ptMul c u1 (some (c.gx, c.gy))) (ptMul c u2 (some (qx, qy))) with
  | none => false
  | some (x, _) => x % c.n = r

/-! ### Miller-Rabin (R382) -/

/-- Write n − 1 as d × 2^s. -/
def splitTwos : Nat → Nat → Nat × Nat
  | 0, d => (0, d)
  | fuel + 1, d => if d % 2 = 1 then (0, d) else let (s, d') := splitTwos fuel (d / 2); (s + 1, d')

/-- One base: a^d is 1, or some a^(d 2^i) is −1. -/
def mrBaseOk (n s d a : Nat) : Bool :=
  let x := modPow n a d
  x = 1 % n || (List.range s).any fun i => modPow n x (2 ^ i) = n - 1

/-- 64 rounds with bases that the block's digest fixes; the manual does not say how (log 22). -/
def millerRabin (digest : BitVec 256) (n : Nat) : Bool :=
  let (s, d) := splitTwos (bitLen n) (n - 1)
  decide (n > 3) && n % 2 = 1 &&
  (List.range 64).all fun i => mrBaseOk n s d (2 + Config.mrBase digest n i % (n - 3))

/-! ### RSASSA-PKCS1-v1_5 (RFC 8017) -/

/-- DigestInfo of SHA-256. -/
def digestInfo : List Byte :=
  [0x30, 0x31, 0x30, 0x0d, 0x06, 0x09, 0x60, 0x86, 0x48, 0x01, 0x65, 0x03, 0x04, 0x02, 0x01, 0x05, 0x00, 0x04, 0x20]

/-- The encoded message of a digest for a modulus of `k` bytes. -/
def emsa (k : Nat) (h : List Byte) : List Byte :=
  [0, 1] ++ List.replicate (k - 54) 0xff ++ [0] ++ digestInfo ++ h

/-- The signature `sig` is valid under (n, e) for digest `h`. -/
def rsaOk (n e sig : Nat) (h : List Byte) : Bool :=
  let k := (bitLen n + 7) / 8
  decide (k ≥ 62) && modPow n sig e = ofBe (emsa k h)

/-! ### AES-256-GCM -/

/-- Product in GF(2^8) with x^8 + x^4 + x^3 + x + 1. -/
def gmul (a b : Nat) : Nat :=
  ((List.range 8).foldl (fun (acc : Nat × Nat) i =>
    let r := if (b / 2 ^ i) % 2 = 1 then acc.1 ^^^ acc.2 else acc.1
    let d := acc.2 * 2
    (r, if d ≥ 256 then (d ^^^ 0x11b) % 256 else d)) (0, a)).1

/-- The S-box: inverse, then the affine map. -/
def sbox (a : Nat) : Nat :=
  let a2 := gmul a a
  let p3 := gmul a2 a
  let p6 := gmul p3 p3
  let p12 := gmul p6 p6
  let p14 := gmul p12 a2
  let p15 := gmul p12 p3
  let p240 := (List.range 4).foldl (fun x _ => gmul x x) p15
  let inv := gmul p240 p14
  let rot (k : Nat) := (inv * 2 ^ k ||| inv / 2 ^ (8 - k)) % 256
  inv ^^^ rot 1 ^^^ rot 2 ^^^ rot 3 ^^^ rot 4 ^^^ 0x63

/-- Key schedule of AES-256: 60 words of 4 bytes. -/
def aesExpand : Nat → List (List Nat) → List (List Nat)
  | 0, w => w
  | n + 1, w =>
    let i := w.length
    let t := nth w (i - 1) []
    let t := if i % 8 = 0 then
        let r := (t.drop 1 ++ t.take 1).map sbox
        (nth r 0 0 ^^^ 2 ^ (i / 8 - 1)) :: r.drop 1
      else if i % 8 = 4 then t.map sbox else t
    aesExpand n (w ++ [List.zipWith (· ^^^ ·) (nth w (i - 8) []) t])

def aesKeys (key : List Byte) : List (List Nat) := aesExpand 52 (groups 4 8 (key.map BitVec.toNat))

def roundKey (w : List (List Nat)) (r : Nat) : List Nat := (slice w (4 * r) 4).flatten

def shiftRows (s : List Nat) : List Nat := (List.range 16).map fun i => nth s ((i + 4 * (i % 4)) % 16) 0

def mixCol (c : List Nat) : List Nat :=
  (List.range 4).map fun i =>
    gmul 2 (nth c i 0) ^^^ gmul 3 (nth c ((i + 1) % 4) 0) ^^^ nth c ((i + 2) % 4) 0 ^^^ nth c ((i + 3) % 4) 0

/-- One AES-256 block. [PRESUMED, log 39] -/
def aesBlock (w : List (List Nat)) (blk : List Nat) : List Nat :=
  let s := List.zipWith (· ^^^ ·) blk (roundKey w 0)
  let s := (List.range 13).foldl (fun s r =>
    List.zipWith (· ^^^ ·) ((groups 4 4 (shiftRows (s.map sbox))).flatMap mixCol) (roundKey w (r + 1))) s
  List.zipWith (· ^^^ ·) (shiftRows (s.map sbox)) (roundKey w 14)

def aesBytes (key blk : List Byte) : List Byte :=
  (aesBlock (aesKeys key) (blk.map BitVec.toNat)).map (BitVec.ofNat 8)

/-- Product in GF(2^128) as GCM orders its bits: bit 0 is the most significant of the first byte. -/
def ghashMul (x y : Nat) : Nat :=
  ((List.range 128).foldl (fun (acc : Nat × Nat) i =>
    let z := if (x / 2 ^ (127 - i)) % 2 = 1 then acc.1 ^^^ acc.2 else acc.1
    let v := if acc.2 % 2 = 1 then (acc.2 / 2) ^^^ (0xe1 * 2 ^ 120) else acc.2 / 2
    (z, v)) (0, y)).1

/-- Zero padding to a multiple of 16. -/
def pad16 (m : List Byte) : List Byte := m ++ List.replicate ((16 - m.length % 16) % 16) 0

def ghash (h : Nat) (m : List Byte) : Nat :=
  (groups 16 (m.length / 16 + 1) m).foldl (fun y b => ghashMul (y ^^^ ofBe b) h) 0

/-- Counter-mode keystream over a message from counter 2. -/
def gctr (key iv m : List Byte) : List Byte :=
  (groups 16 (m.length / 16 + 1) m).zipIdx.flatMap fun bi =>
    List.zipWith (· ^^^ ·) bi.1 (aesBytes key (iv ++ toBe 4 (bi.2 + 2)))

/-- The tag of a ciphertext with associated data. -/
def gcmTag (key iv aad ct : List Byte) : List Byte :=
  let h := ofBe (aesBytes key (List.replicate 16 0))
  let s := ghash h (pad16 aad ++ pad16 ct ++ toBe 8 (8 * aad.length) ++ toBe 8 (8 * ct.length))
  List.zipWith (· ^^^ ·) (toBe 16 s) (aesBytes key (iv ++ [0, 0, 0, 1]))

end Sys2Proof.Machine
end

