-- ==== Sys2Proof/Machine/Tab.lean ====
section
/-!
DEFINITION. Sparse tables of plain data: the container of every numbered family of the module
(pips, pods, registers, memory bytes). A table lists (index, value) pairs with indices strictly
rising and never lists the value that an unlisted index reads as, so equal contents are equal data.
-/
namespace Sys2Proof.Machine

/-- A sparse table: listed indices hold their value, every other index holds the default. -/
abbrev Tab (α : Type) := List (Nat × α)

/-- The value at index `i`, where an unlisted index holds `d`. -/
def Tab.get {α : Type} (d : α) : Tab α → Nat → α
  | [], _ => d
  | (k, v) :: t, i => if i = k then v else Tab.get d t i

/-- The table without index `i`. -/
def Tab.erase {α : Type} (t : Tab α) (i : Nat) : Tab α := t.filter fun e => decide (e.1 ≠ i)

/-- The table with `v` listed at index `i`, before the first higher index. -/
def Tab.insert {α : Type} : Tab α → Nat → α → Tab α
  | [], i, v => [(i, v)]
  | (k, w) :: t, i, v => if i < k then (i, v) :: (k, w) :: t else (k, w) :: Tab.insert t i v

/-- Store `v` at index `i`; storing the default removes the entry. -/
def Tab.set {α : Type} [DecidableEq α] (d : α) (t : Tab α) (i : Nat) (v : α) : Tab α :=
  if v = d then Tab.erase t i else Tab.insert (Tab.erase t i) i v

/-- Every listed index is at least `lo`, indices rise strictly, and no default value is listed. -/
def Tab.wfFrom {α : Type} [DecidableEq α] (d : α) : Nat → Tab α → Bool
  | _, [] => true
  | lo, (k, v) :: t => decide (lo ≤ k) && !decide (v = d) && Tab.wfFrom d (k + 1) t

/-- The canonical form of a table. -/
def Tab.wf {α : Type} [DecidableEq α] (d : α) (t : Tab α) : Bool := Tab.wfFrom d 0 t

/-- Store a run of values at consecutive indices from `i`. -/
def Tab.setMany {α : Type} [DecidableEq α] (d : α) (t : Tab α) (i : Nat) : List α → Tab α
  | [] => t
  | v :: vs => Tab.setMany d (Tab.set d t i v) (i + 1) vs

/-- The values of `n` consecutive indices from `i`. -/
def Tab.getMany {α : Type} (d : α) (t : Tab α) (i : Nat) : Nat → List α
  | 0 => []
  | n + 1 => Tab.get d t i :: Tab.getMany d t (i + 1) n

end Sys2Proof.Machine
end

