-- ==== Sys2Proof/Machine/PipState.lean ====
section
/-!
DEFINITION. The state of one pip (chapters 2, 3, 5 to 8, 10) and of one pod (chapters 8 to 10).
Every structure is plain data; sparse tables (Tab) read their default where nothing is listed.
-/
namespace Sys2Proof.Machine

/-- A loop of a stream that is running (R82, R83). -/
structure LoopFrame where
  level : Nat := 0
  first : Nat := 0
  last  : Nat := 0
  left  : Nat := 0
  deriving DecidableEq, Repr

/-- A stall: its cause and the queue, port or engine index of Table 2.8. -/
structure Stall where
  cause : Nat := 0
  index : Nat := 0
  deriving DecidableEq, Repr

/-- Consecutive cycles in which an instruction has been stalled, and the last cause (R45, R46, R444). -/
structure Hold where
  n : Nat := 0
  w : Stall := {}
  deriving DecidableEq, Repr

/-- The selected arm of a branch (R85): last instruction of the arm, the join and its earliest base cycle. -/
structure ArmFrame where
  last    : Nat := 0
  join    : Nat := 0
  minJoin : Nat := 0
  deriving DecidableEq, Repr

/-- One instruction stream: program, program counter and issue (R40, R68, R82 to R88). -/
structure StreamSt where
  prog  : List Word64 := []
  pc    : Nat := 0
  /-- The actual issue cycle that the next DELTA counts from: of the previous instruction, of a join max(c + PAD, e), at first T_S
  (R44, R68, R85). -/
  base  : Nat := 0
  ended : Bool := false
  /-- The stream was held in the last complete cycle (R45, R66). -/
  held  : Bool := false
  /-- How long the instruction at pc has been stalled. -/
  hold  : Hold := {}
  loops : List LoopFrame := []
  arm   : Option ArmFrame := none
  deriving DecidableEq, Repr

/-- An entry of a load queue with the scale bytes of R167; `blk` is the number of line bits one scale
byte covers, and an element that no byte covers has X = 1 (R168). -/
structure LqEntry where
  data   : Line := 0
  scales : List Byte := []
  blk    : Nat := 0
  deriving DecidableEq, Repr

/-- A mesh flit with its sideband tag (R110): class, sender pip, port and credit counter index. -/
structure MFlit where
  cls  : Nat := 0
  /-- Number of the MSND that sent it. -/
  ser  : Nat := 0
  from_ : Nat := 0
  cr   : Nat := 0
  /-- Cycles it travels to this destination. -/
  hop  : Nat := 0
  hdr  : Bool := false
  addr : Nat := 0
  data : Flit := 0
  deriving DecidableEq, Repr

/-- The kinds of access-stream transfer that can stay in progress. -/
inductive XKind where
  | ldq | stq | msnd | mrcv
  deriving DecidableEq, Repr

/-- A block of a transposing store on its way out of the exchange network (R156): the store slot of its next row, the rows still
to be written, and the earliest cycle of the next exit write. -/
structure OutBlock where
  slot : Nat := 0
  rows : List (List Word32) := []
  next : Nat := 0
  deriving DecidableEq, Repr

/-- A line buffer of a block-scaled transfer (R169): the line it holds, its bytes, and which of them a store has written. -/
structure LineBuf where
  addr : Int := 0
  data : List Byte := []
  mask : List Nat := []
  deriving DecidableEq, Repr

/-- An access-stream transfer in progress with what it latched at issue (R74, R78, R79). -/
structure Xfer where
  /-- Number in issue order among the stream's transfers and DMAs. -/
  id     : Nat := 0
  kind   : XKind := .ldq
  qsel   : Nat := 0
  port   : Nat := 0
  handle : Nat := 0
  raw    : Bool := false
  idx    : Bool := false
  base   : Nat := 0
  desc   : BitVec 512 := 0
  count  : Nat := 0
  done   : Nat := 0
  /-- Earliest cycle of its next access. -/
  due    : Nat := 0
  /-- Bank cycles that the gather in hand has had (R148). -/
  cyc    : Nat := 0
  /-- Rows of the block that a transposing store is taking in, or the low flit of an MRCV line. -/
  buf    : List Line := []
  /-- Blocks of a transposing store that leave the network, oldest first. -/
  out    : List OutBlock := []
  /-- The last line read and its entry, for repeated addresses (R153). -/
  prev   : Option (Int × LqEntry) := none
  /-- Scale line and aux line buffers (R169). [DESIGN CHOICE, log 20] -/
  scale  : Option LineBuf := none
  aux    : Option LineBuf := none
  /-- The predicted block being stored (R174, R182): exponent, overflow, poisoned, elements counted and stored so far. -/
  pexp   : Nat := 0
  povf   : Bool := false
  pbad   : Bool := false
  pzero  : Nat := 0
  psat   : Nat := 0
  pnon   : Nat := 0
  pcnt   : Nat := 0
  hold   : Hold := {}
  deriving DecidableEq, Repr

/-- A TLW with entries still to pop (R52); it pops one entry a cycle from `due` on. -/
structure TlwOp where
  left : Nat := 0
  due  : Nat := 0
  hold : Hold := {}
  deriving DecidableEq, Repr

/-- A tile multiply (R51): the row that enters next, the LQ0 entry in hand, and the cycle of its last update. -/
structure TmmOp where
  acc   : Bool := false
  clr   : Bool := false
  fmtA  : Nat := 0
  fmtW  : Nat := 0
  row   : Nat := 0
  due   : Nat := 0
  entry : LqEntry := {}
  /-- It updates its buffer at the end of this cycle for the last time, once every row has entered. -/
  last  : Nat := 0
  hold  : Hold := {}
  deriving DecidableEq, Repr

/-- Words that a row of a tile multiply adds to its buffer at the end of cycle `due` (R51, R224, R225): buffer, row of the buffer,
first word, whether earlier values count as 0, primes by word in modular matrix mode, and the words. -/
structure AccUpd where
  due : Nat := 0
  acc : Bool := false
  row : Nat := 0
  col : Nat := 0
  clr : Bool := false
  qs  : List Nat := []
  ws  : List Word32 := []
  deriving DecidableEq, Repr

/-- A drain in progress with what it latched at issue (R186, R191, R199). -/
structure DrainOp where
  acc   : Bool := false
  chain : Nat := 0
  sq    : Bool := false
  cfg   : List Byte := []
  len   : Nat := 0
  /-- Cycles of the drain that have passed without a hold: entry t is read in the cycle that finds t here. -/
  t     : Nat := 0
  due   : Nat := 0
  lrx   : List Int := []
  mean  : List Word32 := []
  rstd  : List Word32 := []
  /-- Last mask entry popped for EXPD (R196). -/
  xmask : Line := 0
  /-- Results of entries that have been read, oldest first (R186). -/
  pipe  : List Line := []
  /-- Mask words of CMPR variant 1 of the entries read, oldest first. -/
  masks : List Word32 := []
  cnt   : Nat := 0
  best  : Option (Word32 × Nat) := none
  hold  : Hold := {}
  deriving DecidableEq, Repr

/-- A ring operation in progress (R212 to R214): cycles of the limb that have passed without a hold, entries taken and results still
to push. -/
structure RingOp where
  rfn   : Nat := 0
  slot  : Nat := 0
  count : Nat := 0
  sq    : Bool := false
  cur   : Nat := 0
  k     : Nat := 0
  t     : Nat := 0
  due   : Nat := 0
  inp   : List Line := []
  kin   : List Line := []
  out   : List Line := []
  hold  : Hold := {}
  deriving DecidableEq, Repr

/-- A DMA channel's transfer (Table 3.1 format D). -/
structure DmaOp where
  id     : Nat := 0
  dir    : Bool := false
  hbm    : Nat := 0
  sp     : Nat := 0
  raw    : Bool := false
  desc   : BitVec 512 := 0
  len    : Nat := 0
  asked  : Nat := 0
  landed : Nat := 0
  deriving DecidableEq, Repr

/-- The job-start load of a pip on DMA channel DC0 (R468): its parts as module address and length, how many of their lines have been
requested, how many have been written through bank 7, and the lines that have arrived. -/
structure LoadOp where
  parts  : List (Nat × Nat) := []
  asked  : Nat := 0
  landed : Nat := 0
  got    : List (List Byte) := []
  deriving DecidableEq, Repr

/-- A SIGL increment that waits for its stream's earlier work (R94). -/
structure SiglHeld where
  /-- Work with a lower number is earlier. -/
  upto : Nat := 0
  obj : Nat := 0
  add : Nat := 0
  deriving DecidableEq, Repr

/-- A short flit: destination pip, byte address or sync operation, payload (R114). -/
structure ShortFlit where
  sx    : Nat := 0
  sy    : Nat := 0
  dx    : Nat := 0
  dy    : Nat := 0
  sync  : Bool := false
  addr  : Nat := 0
  add   : Nat := 0
  ctx   : Nat := 0
  /-- The engine whose run it belongs to (0 to 3), or 4 for a SIGL. -/
  eng   : Nat := 4
  /-- Cycle in which it became ready at the head of the short egress it stands in (R114). -/
  ready : Nat := 0
  data  : List Byte := []
  last  : Bool := true
  deriving DecidableEq, Repr

/-- Lines an XFER, or a descriptor-form run, still has to move (R253, R254): HBM addresses by 128 from `hbm`, tensor
positions from `pos`; a descriptor-form run computes its addresses from its record. -/
structure LineJob where
  hbm   : Nat := 0
  pos   : Nat := 0
  left  : Nat := 0
  desc  : Bool := false
  deriving DecidableEq, Repr

/-- A key block being read (R262): its number, its address, the register that POST sets once PLEN is known, PLEN once known, lines
requested, lines sent on, and entries sent on of each share. -/
structure KeyRun where
  ser   : Nat := 0
  addr  : Nat := 0
  post  : Option Nat := none
  plen  : Option Nat := none
  asked : Nat := 0
  sent  : Nat := 0
  shares : Tab Nat := []
  deriving DecidableEq, Repr

/-- A stream engine, or the key reader as engine 4 (R249 to R255). -/
structure Engine where
  running : Bool := false
  /-- The checks of R252 have been made. -/
  started : Bool := false
  /-- The END has issued. -/
  ending  : Bool := false
  record  : List Byte := []
  /-- Lines of the record still to read, and the address of the next (R250). -/
  recLeft : Nat := 0
  recNext : Nat := 0
  /-- Cycle of its first action (R250). -/
  firstAt : Nat := 0
  g       : Tab Word64 := []
  pc      : Nat := 0
  loops   : List LoopFrame := []
  pos     : Nat := 0
  ipos    : Nat := 0
  /-- The descriptors with the bases they had at the start (R257). -/
  descs   : Tab (BitVec 512) := []
  /-- Lines still to request, oldest first. -/
  todo    : List LineJob := []
  /-- Key blocks still to deliver (engine 4). -/
  keys    : List KeyRun := []
  /-- The key reader met a malformed PLEN or a stopped stream and reads no further (R262, R264). -/
  stopped : Bool := false
  /-- Lines requested from HBM and not yet landed, and HBM writes not yet accepted. -/
  inFlight : Nat := 0
  /-- SPUTs not yet written at their destination. -/
  puts    : Nat := 0
  /-- Held at a dependence mark, and the mark was satisfied at the end of the last cycle (R90, R258). -/
  marked  : Bool := false
  met     : Bool := false
  /-- Cycle of its next action (R255). -/
  actAt   : Nat := 0
  /-- The index line in hand, with its handle (R254). -/
  iline   : Option (Nat × LineBuf) := none
  /-- Cycle in which a copy has made its last write (R160). -/
  busyTo  : Nat := 0
  /-- Key blocks begun (engine 4). -/
  blocks  : Nat := 0
  deriving DecidableEq, Repr

/-- A region table entry (R137, Table 5.8). -/
structure Region where
  base  : Nat := 0
  len   : Nat := 0
  ctx   : Nat := 0
  valid : Bool := false
  scrub : Bool := false
  /-- Lines zeroed so far while SCRUB reads 1 (R139). -/
  zeroed : Nat := 0
  deriving DecidableEq, Repr

/-- Last owner of a granule: none, a context, or retired (R139, R140). -/
inductive Owner where
  | none | ctx (c : Nat) | retired
  deriving DecidableEq, Repr

/-- The three watch counters of a handle (R182). -/
structure Watch where
  zero   : Nat := 0
  sat    : Nat := 0
  nonfin : Nat := 0
  deriving DecidableEq, Repr

/-- Event counters of a pip (R66, R161, R184, R205, R227, R268); 64 bits each. -/
structure PipCnt where
  astall : Word64 := 0
  xstall : Word64 := 0
  tbusy  : Word64 := 0
  rbusy  : Word64 := 0
  defer_ : Word64 := 0
  ce     : Word64 := 0
  ue     : Word64 := 0
  ovf    : Word64 := 0
  drain  : Word64 := 0
  drainStall : Word64 := 0
  limb   : Word64 := 0
  rwait  : Word64 := 0
  sf     : Word64 := 0
  line   : Word64 := 0
  fence  : Word64 := 0
  mark   : Word64 := 0
  put    : Word64 := 0
  deriving DecidableEq, Repr

/-- Status fields of a pip's registers (Tables 2.8, 5.8, 6.7, 7.10, 8.9, 10.7). -/
structure PipStat where
  lastCode : Byte := 0
  context  : Nat := 0
  cause    : Nat := 0
  index    : Nat := 0
  stream   : Bool := false
  regErr   : Bool := false
  ue       : Bool := false
  errAddr  : Nat := 0
  watchSel : Nat := 0
  ovf      : Bool := false
  ovfHandle : Nat := 0
  chain    : Nat := 0
  check    : Nat := 0
  refused  : Bool := false
  rfn      : Nat := 0
  rslot    : Nat := 0
  waitq    : Nat := 0
  rsf      : Bool := false
  descErr  : Bool := false
  prime    : Nat := 0
  kopen    : Bool := false
  errEng   : Nat := 0
  errCheck : Nat := 0
  err      : Bool := false
  errCode  : Byte := 0
  deriving DecidableEq, Repr

/-- The queues of a pip (R42): load, store, scalar, ring input, mesh and key queues. -/
structure PipQ where
  lq  : Tab (List LqEntry) := []
  sq  : Tab (List Line) := []
  scq : List Word64 := []
  riq : List Line := []
  ing : Tab (List MFlit) := []
  /-- Egress flits with the number of their MSND. -/
  egr : Tab (List (Nat × Flit)) := []
  /-- Key queue entries with their passed flag (R263). -/
  kq  : List (Line × Bool) := []
  deriving DecidableEq, Repr

/-- Register files of a pip (R41, Table 2.2). [DESIGN CHOICE, log 5] -/
structure PipRegs where
  a   : Tab Word64 := []
  s   : Tab Word64 := []
  lca : Tab (BitVec 16) := []
  lcx : Tab (BitVec 16) := []
  lrx : Tab Byte := []
  /-- Cycles from which S registers can be read, where a result comes later than the next cycle (R50, R71). -/
  sAt : Tab Nat := []
  desc : Tab (BitVec 512) := []
  deriving DecidableEq, Repr

/-- The tensor array (R51 to R55, R185, R226): buffers by row of 128 words, weight sets of 16 entries. [DESIGN CHOICE, log 5] -/
structure Tensor where
  acc0    : Tab (BitVec 4096) := []
  acc1    : Tab (BitVec 4096) := []
  /-- t of the last TMM into each buffer since the last TMODE or job start; 0 for none. -/
  t0      : Nat := 0
  t1      : Nat := 0
  /-- Mapping of the last modular TMM into each buffer: true for key. -/
  key0    : Bool := false
  key1    : Bool := false
  active  : Tab LqEntry := []
  shadow  : Tab LqEntry := []
  fill    : Nat := 0
  tmode   : Bool := false
  /-- A TMODE switches until this cycle (R55). -/
  switchTo : Nat := 0
  deriving DecidableEq, Repr

/-- The vector chain (R188, R195 to R198). [DESIGN CHOICE, log 5] -/
structure Chain where
  image    : List Byte := []
  imageOk  : Bool := false
  sum      : Line := 0
  sumsq    : Line := 0
  max      : Line := 0
  /-- Rows that have a contribution since START. -/
  seen     : BitVec 32 := 0
  open_    : Bool := false
  complete : Bool := false
  count    : Nat := 0
  vmax     : Word32 := 0
  argmax   : Nat := 0
  /-- Cycle from which SSUM can read the summaries (R59, R197). -/
  readyAt  : Nat := 0
  deriving DecidableEq, Repr

/-- The ring unit (R209 to R212, R222) and how far its pip is in the residue check (R219). [DESIGN CHOICE, log 5] -/
structure Ring where
  image   : List Byte := []
  cursors : Tab Nat := []
  ap0     : Tab Line := []
  ap1     : Tab Line := []
  nttl    : Nat := 0
  nttx    : Nat := 0
  intx    : Nat := 0
  intl    : Nat := 0
  deriving DecidableEq, Repr

/-- An entry or flits that a read pushes in cycle `due` (R48): queue 0 to 3 and 4 as QSEL, 16 on an egress port. -/
structure Fill where
  due   : Nat := 0
  queue : Nat := 0
  entry : LqEntry := {}
  flits : List (Nat × Flit) := []
  deriving DecidableEq, Repr

/-- Bytes of one word of a bank, from byte `off` on, as they are stored (R135). -/
structure PadWord where
  w   : Nat := 0
  off : Nat := 0
  bs  : List Byte := []
  deriving DecidableEq, Repr

/-- A write that the bank holds from cycle `due` on (R48, R50), with the number of its transfer plus 1, or 0 for the scalar unit
(R94). -/
structure PadWrite where
  due   : Nat := 0
  own   : Nat := 0
  words : List PadWord := []
  deriving DecidableEq, Repr

/-- A descriptor that a DLD loads, in force from cycle `due` on (R76). -/
structure DldOp where
  due    : Nat := 0
  handle : Nat := 0
  desc   : BitVec 512 := 0
  deriving DecidableEq, Repr

/-- Operations in progress on a pip. -/
structure PipOps where
  /-- Number of the next transfer or DMA. -/
  seq   : Nat := 0
  xfers : List Xfer := []
  tlw   : Option TlwOp := none
  tmms  : List TmmOp := []
  drain : Option DrainOp := none
  ring  : Option RingOp := none
  dma0  : Option DmaOp := none
  dma1  : Option DmaOp := none
  sigls : List SiglHeld := []
  fills  : List Fill := []
  writes : List PadWrite := []
  dlds   : List DldOp := []
  upds   : List AccUpd := []
  load   : Option LoadOp := none
  deriving DecidableEq, Repr

/-- What a pip has done in the present cycle: entries that each queue held when the cycle began, and places of it in use, the pops
and pushes since, the banks taken, the streams that have tried to issue, and the stalls of both streams (R43, R45, R49). The queues
are 0 to 3 LQ, 4 RIQ, 8 and 9 SQ, 10 SCQ, 11 the key queue, 16 to 19 egress, 20 to 23 ingress. -/
structure CycSt where
  have_ : Tab Nat := []
  used  : Tab Nat := []
  pops  : Tab Nat := []
  puts  : Tab Nat := []
  banks : List Nat := []
  triedA : Bool := false
  triedX : Bool := false
  holds : List (Bool × Stall) := []
  deriving DecidableEq, Repr

/-- The scratchpad of a pip (R135 to R140): bytes by their place in the sub-arrays (R135, R151), bit errors of its words,
regions, last owners. [DESIGN CHOICE, log 7] -/
structure Scratch where
  mem     : Tab Byte := []
  /-- Flipped bits of a stored word, by word number: 64 data bits and 8 code bits (R136). -/
  flips   : Tab (BitVec 72) := []
  regions : Tab Region := []
  owners  : Tab Owner := []
  deriving DecidableEq, Repr

/-- A scratchpad-window access that waits at its pip (R353). -/
structure WinAccess where
  write : Bool := false
  /-- Offset in the scratchpad window. -/
  addr  : Nat := 0
  data  : List Byte := []
  len   : Nat := 0
  host  : Nat := 0
  tag   : Nat := 0
  /-- Cycle in which it reached its pip. -/
  since : Nat := 0
  deriving DecidableEq, Repr

/-- A whole line of class 1 at a pip's DMA writer: the unit that asked (0 to 3 engines, 5 and 6 the DMA channels, 7 the job-start load, 9 a
block move), the scratchpad address, and the stack and route it came on with the cycles it travelled (R18, R111). -/
structure WLine where
  unit : Nat := 0
  sp   : Nat := 0
  stack : Nat := 0
  route : Nat := 0
  hop  : Nat := 0
  data : Line := 0
  deriving DecidableEq, Repr

/-- Mesh attachments of a pip: credit counters, DMA writer, short path, trace flits, window accesses. -/
structure PipNet where
  /-- The eight credit counters (R111). -/
  credit : Tab Nat := []
  /-- Under each counter, the flits sent and not yet taken in by all their destinations, oldest first: the destinations
  that have still to take each (R111). -/
  owed   : Tab (List (List Nat)) := []
  writer : List WLine := []
  shortOut : List ShortFlit := []
  shortBuf : List ShortFlit := []
  window : List WinAccess := []
  deriving DecidableEq, Repr

/-- One pip. `job` is the running job's number plus 1, or 0 when idle; `finished` says its part is done. -/
structure PipSt where
  regs : PipRegs := {}
  q    : PipQ := {}
  acc  : StreamSt := {}
  exe  : StreamSt := {}
  ten  : Tensor := {}
  chn  : Chain := {}
  rng  : Ring := {}
  ops  : PipOps := {}
  sp   : Scratch := {}
  net  : PipNet := {}
  eng  : Tab Engine := []
  watch : Tab Watch := []
  st   : PipStat := {}
  cnt  : PipCnt := {}
  progId : Word64 := 0
  resident : Bool := false
  job  : Nat := 0
  /-- The words of the pip's programs are loaded and checked; the chain image, the ring image and the descriptors are (R468). -/
  loadOk : Bool := false
  chainIn : Bool := false
  /-- Cycle from which the ring image and its derivations are ready, plus 1; 0 while it is not loaded (R210, R468). -/
  ringAt : Nat := 0
  descIn : Bool := false
  /-- The load has ended. -/
  loaded : Bool := false
  finished : Bool := false
  /-- Its register state is that of a context that exists no longer (R41, R361). -/
  stale    : Bool := false
  /-- Cycle at which both streams had ended (R250). -/
  endAt : Nat := 0
  cyc  : CycSt := {}
  deriving DecidableEq, Repr

/-- A parameter table slot of a pod (R230, R231). -/
structure PSet where
  block : List Byte := []
  incr  : List Byte := []
  owner : Nat := 0
  used  : Bool := false
  deriving DecidableEq, Repr

/-- One pod: residue checker (R219, R228), parameter table and ciphertext descriptors (R230 to R232, R248),
key gate (R263, R268). -/
structure PodSt where
  fwd      : List (Nat × Nat) := []
  inv      : List (Nat × Nat) := []
  /-- Partial sums by 16 × k + pip-in-pod of NTTX and INTX phases (sum + 1, 0 for none) and INTL words. -/
  pNttx    : Tab Nat := []
  pIntx    : Tab Nat := []
  pIntl    : Tab Nat := []
  /-- Prime entry plus 1 of phase k: forward at 2k, inverse at 2k + 1. -/
  primes   : Tab Nat := []
  /-- Phases that used a table which is not that of Table 8.5 (R218): forward at 2k, inverse at 2k + 1. -/
  odd      : Tab Bool := []
  /-- Cycle at which the comparison of a phase completes, plus 1: forward at 2k, inverse at 2k + 1 (R219). -/
  dueAt    : Tab Nat := []
  /-- Phases already compared or enqueued. -/
  nNttx    : Nat := 0
  nIntx    : Nat := 0
  nIntl    : Nat := 0
  mismatch : Bool := false
  unmatched : Bool := false
  failPrime : Nat := 0
  failDir  : Bool := false
  checkCnt : Word64 := 0
  failCnt  : Word64 := 0
  psets    : Tab PSet := []
  descs    : Tab (BitVec 512) := []
  lastCode : Byte := 0
  lastOpc  : Byte := 0
  sel      : Nat := 0
  opsCnt   : Word64 := 0
  pbsCnt   : Word64 := 0
  refuseCnt : Word64 := 0
  keysetCnt : Word64 := 0
  /-- Key block headers that have arrived at the gate, each with its granule condition and the cycle of its second flit (R259, R263). -/
  khdr     : List (Line × Bool × Nat) := []
  /-- Entries of passed blocks still to arrive, by pip-in-pod. -/
  kallow   : Tab Nat := []
  kstate   : Nat := 0
  klead    : Bool := false
  knext    : Nat := 0
  knblk    : Nat := 0
  kcount   : Nat := 0
  kfail    : Byte := 0
  /-- The failure of the header that the gate compares has been recorded (R264). -/
  kbad     : Bool := false
  kfailIndex : Nat := 0
  kblkCnt  : Word64 := 0
  kentCnt  : Word64 := 0
  kdrainCnt : Word64 := 0
  deriving DecidableEq, Repr

end Sys2Proof.Machine
end

