-- ==== Sys2Proof/Machine/Flags.lean ====
section
/-!
DEFINITION. Status codes (Table 0.5), stall causes (Table 2.8), and how an event is recorded in a pip's
status registers and counters.
-/
namespace Sys2Proof.Machine

/-! ### Status codes (Table 0.5) -/

def eOk : Byte := 0x00
def eAborted : Byte := 0x01
def eFenced : Byte := 0x02
def eDesc : Byte := 0x10
def eOverlap : Byte := 0x11
def eBounds : Byte := 0x12
def eKeyset : Byte := 0x20
def eNoise : Byte := 0x21
def eLevel : Byte := 0x22
def eParam : Byte := 0x23
def eEccDet : Byte := 0x30
def eCdcTimeout : Byte := 0x31
def eSlotMiss : Byte := 0x32
def eLinkHold : Byte := 0x33
def eLinkDown : Byte := 0x34
def eVrNack : Byte := 0x40
def eThermal : Byte := 0x41
def eHull : Byte := 0x50
def eWatchdog : Byte := 0x60
def eImage : Byte := 0x61

/-- The code reported when several apply and no order is stated: the numerically lowest (R13). -/
def lowestCode (a b : Byte) : Byte := if a.toNat ≤ b.toNat then a else b

/-! ### Stall causes (Table 2.8) -/

def causeLq : Nat := 0x1
def causeSq : Nat := 0x2
def causeScq : Nat := 0x3
def causeRiq : Nat := 0x4
def causeKq : Nat := 0x5
def causeEgress : Nat := 0x6
def causeIngress : Nat := 0x7
def causeBusy : Nat := 0x8
/-- Cause 0x8 of a fence (R256); bit 4 marks it for PIP_STRM_FENCE_CNT and is not recorded. -/
def causeFence : Nat := 0x18
def causeAcc : Nat := 0x9
def causeBank : Nat := 0xA
def causeReg : Nat := 0xB
def causeKeyMeet : Nat := 0xC

/-- A stall of a stream in this cycle (R45): the cycle's end counts it. -/
def addHold (p : PipSt) (exe : Bool) (w : Stall) : PipSt :=
  { p with cyc := { p.cyc with holds := p.cyc.holds ++ [(exe, w)] } }

/-- An instruction that is stalled for one more cycle. -/
def Hold.more (h : Hold) (w : Stall) : Hold := ⟨h.n + 1, w⟩

/-- Whether one stall is recorded before another (R45): the lower cause, then the access stream. -/
def Stall.before (a b : Bool × Stall) : Bool :=
  decide (a.2.cause % 16 < b.2.cause % 16) || (a.2.cause % 16 = b.2.cause % 16 && !a.1 && b.1)

/-- The stall that PIP_STALL_CAUSE records of a cycle (R45); of equal ones the first. -/
def worst : List (Bool × Stall) → Option (Bool × Stall)
  | [] => none
  | h :: t =>
    match worst t with
    | none => some h
    | some b => if Stall.before b h then some b else some h

/-- The lowest of the causes that stall one instruction. -/
def lowest (ws : List Stall) : Option Stall := (worst (ws.map fun w => (false, w))).map (·.2)

/-- The end of a cycle in the stall registers (R45, R66, R268): each stream that was held counts once, the cause with the lowest number
is recorded, and a fence has a counter of its own. -/
def account (p : PipSt) : PipSt :=
  let hs := p.cyc.holds
  let a := hs.any (!·.1)
  let x := hs.any (·.1)
  let st := match worst hs with
    | none => p.st
    | some (e, w) => { p.st with cause := w.cause % 16, index := w.index, stream := e }
  { p with
    st := st
    cnt := { p.cnt with astall := bump p.cnt.astall (b2n a), xstall := bump p.cnt.xstall (b2n x),
                        fence := bump p.cnt.fence (b2n (hs.any fun h => h.2.cause = causeFence)) }
    acc := { p.acc with held := a }
    exe := { p.exe with held := x }
    cyc := { p.cyc with holds := [] } }

/-- A 32-bit watch counter that stops at its largest value (R182). -/
def sat32 (a b : Nat) : Nat := min (a + b) 0xFFFFFFFF

/-- Add to the watch counters of a handle (R182). -/
def addWatch (p : PipSt) (h z s n : Nat) : PipSt :=
  let w := Tab.get {} p.watch h
  { p with watch := Tab.set {} p.watch h ⟨sat32 w.zero z, sat32 w.sat s, sat32 w.nonfin n⟩ }

/-- What an operation of a pip does outside the pip. -/
inductive Fx where
  /-- A credit returns to the sender's counter from ingress queue `sto`, `hop` hops away (R61, R110). -/
  | credit (from_ cr sto hop : Nat)
  /-- NTTL of pip-in-pod 0 sends an expected value with its prime entry (R219). -/
  | rcForward (v prime : Nat)
  /-- Partial sum of the k-th NTTX of a pip. -/
  | rcNttx (k v prime : Nat)
  /-- Partial sum of the k-th INTX of a pip. -/
  | rcIntx (k v prime : Nat)
  /-- First word of the k-th INTL of pip-in-pod 0, times N. -/
  | rcIntl (k v prime : Nat)
  /-- The k-th local phase of a direction used a table that is not that of Table 8.5 (R218). -/
  | rcOdd (k : Nat) (inverse : Bool)
  /-- A double-bit error of the scratchpad at a byte address (R136). -/
  | spUe (addr : Nat)
  /-- A stall of an instruction ends (R444). -/
  | stallEnd (exe : Bool) (h : Hold)
  deriving DecidableEq, Repr

/-- Result of an operation of a pip: the pip, the code with which it ends its job, effects outside. -/
structure PRes where
  p    : PipSt
  fail : Option Byte := none
  fx   : List Fx := []
  deriving DecidableEq, Repr

/-- Continue with the next part unless the job has ended. -/
def PRes.andThen (r : PRes) (f : PipSt → PRes) : PRes :=
  match r.fail with
  | some _ => r
  | none => let r' := f r.p; { r' with fx := r.fx ++ r'.fx }

/-- The job of the pip ends with a code. -/
def failWith (p : PipSt) (c : Byte) : PRes := ⟨p, some c, []⟩

/-- Nothing more happens. -/
def done (p : PipSt) : PRes := ⟨p, none, []⟩

end Sys2Proof.Machine
end

