-- ==== Sys2Proof/Machine/Ops.lean ====
section
/-!
DEFINITION. Named operations over the memories of a pip: the scratchpad with its SECDED code (R135,
R136), its regions (R137), tensor descriptors and their walks (R144 to R149), fences (R256), and the
element broadcast, footprint and scale addressing shared by loads and stores.
-/
namespace Sys2Proof.Machine

/-- Bytes of a scratchpad (8 MiB). -/
def spSize : Nat := 0x800000

/-! ### Words and their code (R136) -/

/-- Number of set bits of a 72-bit flip mask. -/
def popCount (n w : Nat) : Nat := (List.range n).foldl (fun c i => c + w / 2 ^ i % 2) 0

/-- The stored word at word number `w`. -/
def storedWord (sp : Scratch) (w : Nat) : Word64 :=
  BitVec.ofNat 64 (ofBytes (Tab.getMany 0 sp.mem (8 * w) 8))

/-- How a read of a word ends: delivered word, counted as corrected, detected. -/
structure WordRead where
  word : Word64
  ce   : Bool
  ue   : Bool
  deriving DecidableEq, Repr

/-- What a word with stored value `v` and flipped bits `f` reads as under SECDED: 64 data bits and 8 code bits (R136, R288). -/
def codeWord (v : Word64) (f : BitVec 72) : WordRead :=
  match popCount 72 f.toNat with
  | 0 => ⟨v, false, false⟩
  | 1 => ⟨v, true, false⟩
  | 2 => ⟨v ^^^ BitVec.ofNat 64 f.toNat, false, true⟩
  | _ =>
    let r := (Config.secded v f).toNat
    ⟨BitVec.ofNat 64 r, decide (r / 2 ^ 64 = 1), decide (r / 2 ^ 64 ≥ 2)⟩

/-- A read of a word of the scratchpad (R136). -/
def readCode (sp : Scratch) (w : Nat) : WordRead := codeWord (storedWord sp w) (Tab.get 0 sp.flips w)

/-- Account for the read of word `w` (R136): counters, PIP_SP_ERRADDR, and the job's end on detection. -/
def noteRead (p : PipSt) (w : Nat) (r : WordRead) : PRes :=
  if r.ue then
    ⟨{ p with cnt := { p.cnt with ue := bump p.cnt.ue 1 }, st := { p.st with ue := true, errAddr := 8 * w } },
      some eEccDet, [.spUe (8 * w)]⟩
  else if r.ce then done { p with cnt := { p.cnt with ce := bump p.cnt.ce 1 } }
  else done p

/-- The first of two codes with which the job ends. -/
def firstFail (a b : Option Byte) : Option Byte := match a with | some c => some c | none => b

/-- Read the words stored in the places `ws`, in order. A detected error still delivers the word (R15). -/
def readWords (p : PipSt) : List Nat → List Word64 × PRes
  | [] => ([], done p)
  | w :: ws =>
    let r := readCode p.sp w
    let res := noteRead p w r
    let (vs, rest) := readWords res.p ws
    (r.word :: vs, ⟨rest.p, firstFail res.fail rest.fail, res.fx ++ rest.fx⟩)

/-- Bytes of a list of words. -/
def wordBytes (ws : List Word64) : List Byte := ws.flatMap fun w => toBytes 8 w.toNat

/-! ### Swizzles (R135, R151) -/

/-- The swizzle function of SWZ on line `l`: 0 for SWZ 0, else bits [s+3:s] of the line index with s = SWZ − 1 (R151). -/
def swzG (swz l : Nat) : Nat := if swz = 0 then 0 else l / 2 ^ (swz - 1) % 16

/-- The place, as a word number, of the word that byte address `a` lies in, under swizzle SWZ: word w of line L lies in sub-array
w XOR g(L), whose row L is place 16 L + (w XOR g(L)) (R135, R151). -/
def placeOf (swz a : Nat) : Nat := 16 * (a / 128) + ((a / 8 % 16) ^^^ swzG swz (a / 128))

/-- The places of the words that the bytes [a, a + n) lie in. -/
def placesOf (swz a n : Nat) : List Nat :=
  (List.range ((a + n + 7) / 8 - a / 8)).map fun i => placeOf swz (8 * (a / 8 + i))

/-- Read the bytes [a, a + n) under a swizzle. [DESIGN CHOICE, log 6] -/
def readAt (p : PipSt) (swz a n : Nat) : List Byte × PRes :=
  let (ws, r) := readWords p (placesOf swz a n)
  (slice (wordBytes ws) (a % 8) n, r)

/-- Read the bytes [a, a + n) with g = 0. -/
def spRead (p : PipSt) (a n : Nat) : List Byte × PRes := readAt p 0 a n

/-- The bank of a byte address (R48). -/
def bankOf (a : Nat) : Nat := a / 2 ^ 20

/-- The bank of a line has been taken in this cycle (R49, R141). -/
def bankTaken (p : PipSt) (a : Int) : Bool := p.cyc.banks.contains (bankOf a.toNat)

/-- A user takes the bank of an address for this cycle. -/
def takeBank (p : PipSt) (a : Int) : PipSt := { p with cyc := { p.cyc with banks := p.cyc.banks ++ [bankOf a.toNat] } }

/-! ### Writes (R48, R135, R136) -/

/-- Clear the flips of `n` words from `w`: a write stores a fresh codeword. -/
def clearFlips (t : Tab (BitVec 72)) (w : Nat) : Nat → Tab (BitVec 72)
  | 0 => t
  | n + 1 => clearFlips (Tab.set 0 t w 0) (w + 1) n

/-- Write whole words at a word-aligned byte address, with g = 0. -/
def spWrite (p : PipSt) (addr : Nat) (bs : List Byte) : PipSt :=
  { p with sp := { p.sp with mem := Tab.setMany 0 p.sp.mem addr bs,
                             flips := clearFlips p.sp.flips (addr / 8) ((bs.length + 7) / 8) } }

/-- The bank holds bytes of a word, and a fresh codeword of it. -/
def storeWord (sp : Scratch) (x : PadWord) : Scratch :=
  { sp with mem := Tab.setMany 0 sp.mem (8 * x.w + x.off) x.bs, flips := Tab.set 0 sp.flips x.w 0 }

/-- The bank holds the words of a write. -/
def storeWords (p : PipSt) (ws : List PadWord) : PipSt := { p with sp := ws.foldl storeWord p.sp }

/-- The words of whole-word bytes at a word-aligned address under a swizzle. -/
def padWords (swz a : Nat) (bs : List Byte) : List PadWord :=
  (groups 8 bs.length bs).zipIdx.map fun g => ⟨placeOf swz (a + 8 * g.2), 0, g.1⟩

/-- Read and check the words `ws` that a write covers in part (R136). A word that a read delivers changed is written whole. -/
def mergeReads (p : PipSt) : List Nat → List PadWord × PRes
  | [] => ([], done p)
  | w :: ws =>
    let r := readCode p.sp w
    let res := noteRead p w r
    let (l, rest) := mergeReads res.p ws
    (if r.word = storedWord p.sp w then l else ⟨w, 0, toBytes 8 r.word.toNat⟩ :: l,
      ⟨rest.p, firstFail res.fail rest.fail, res.fx ++ rest.fx⟩)

/-- Bytes at offsets from word `w0` on, as a write: a word that they cover in part is read, checked and merged (R136), and a write
that meets a double-bit error is not made. -/
def mergeBytes (p : PipSt) (w0 : Nat) (l : List (Nat × Byte)) : List PadWord × PRes :=
  let words := (l.map fun b => b.1 / 8).dedup
  let part := words.filter fun w => decide ((l.filter fun b => b.1 / 8 = w).length < 8)
  let (olds, r) := mergeReads p (part.map (w0 + ·))
  (if r.fail.isSome then [] else olds ++ l.map fun b => ⟨w0 + b.1 / 8, b.1 % 8, [b.2]⟩, r)

/-- The bank holds a write of cycle `c` from cycle c + 2 on (R48, R50); `own` is the number of its transfer plus 1, or 0. -/
def holdWrite (p : PipSt) (c own : Nat) (ws : List PadWord) : PipSt :=
  { p with ops := { p.ops with writes := p.ops.writes ++ [⟨c + 2, own, ws⟩] } }

/-- A write of transfer `id` in cycle `c`. -/
def padWrite (p : PipSt) (c id : Nat) (ws : List PadWord) : PipSt := holdWrite p c (id + 1) ws

/-- Writes that the banks hold from this cycle on. -/
def commitWrites (c : Nat) (p : PipSt) : PipSt :=
  let q := (p.ops.writes.filter fun x => decide (x.due ≤ c)).foldl (fun q x => storeWords q x.words) p
  { q with ops := { q.ops with writes := p.ops.writes.filter fun x => !decide (x.due ≤ c) } }

/-! ### Regions (R137) -/

/-- Granule `g` lies in a region in force of context `c` that is not being scrubbed. -/
def granuleOk (sp : Scratch) (c g : Nat) : Bool :=
  sp.regions.any fun e =>
    e.2.valid && !e.2.scrub && e.2.ctx = c && decide (e.2.base ≤ g) && decide (g ≤ e.2.base + e.2.len)

/-- Every byte of [addr, addr + n) passes R137 for context `c`. -/
def inRegion (sp : Scratch) (c : Nat) (addr : Int) (n : Nat) : Bool :=
  decide (0 ≤ addr) && decide (addr + n ≤ spSize) &&
  (List.range ((addr.toNat + n - 1) / 4096 + 1 - addr.toNat / 4096)).all fun i =>
    granuleOk sp c (addr.toNat / 4096 + i)

/-! ### Tensor descriptors (R144, Table 5.3) -/

/-- Bits [hi:lo] of word `w` of a descriptor. -/
def dbits (d : BitVec 512) (w hi lo : Nat) : Nat := bits d.toNat (64 * w + hi) (64 * w + lo)

def dBase0 (d : BitVec 512) : Nat := dbits d 0 22 0
def dSel (d : BitVec 512) : Bool := dbits d 0 23 23 = 1
def dBase1 (d : BitVec 512) : Nat := dbits d 0 46 24
def dValid (d : BitVec 512) : Bool := dbits d 0 47 47 = 1
def dFmt (d : BitVec 512) : Nat := dbits d 0 51 48
def dBsf (d : BitVec 512) : Nat := dbits d 0 54 52
def dWord (d : BitVec 512) : Bool := dbits d 0 55 55 = 1
def dSwz (d : BitVec 512) : Nat := dbits d 0 59 56
def dXmode (d : BitVec 512) : Nat := dbits d 0 61 60
def dEbc (d : BitVec 512) : Bool := dbits d 0 62 62 = 1
def dWstride (d : BitVec 512) : Int := sgn 16 (dbits d 1 15 0)
def dScale (d : BitVec 512) : Nat := dbits d 1 38 16
def dAux (d : BitVec 512) : Nat := dbits d 1 61 39
def dSize (d : BitVec 512) (k : Nat) : Nat := dbits d (2 + k) 23 0
def dStride (d : BitVec 512) (k : Nat) : Int := sgn 32 (dbits d (2 + k) 63 32)
def dNdim (d : BitVec 512) : Nat := dbits d 7 2 0

/-- The active base (Table 5.3). -/
def dActive (d : BitVec 512) : Nat := if dSel d then dBase1 d else dBase0 d

/-- Elements of a scale block, B (Table 5.3). -/
def dBlock (d : BitVec 512) : Nat := match dBsf d with | 1 => 16 | 2 => 32 | 3 => 64 | 4 => 128 | _ => 0

/-- The walk of R146 from dimension `k` on. -/
def walkFrom (d : BitVec 512) : Nat → Nat → Nat → Int → Option Int
  | 0, _, i, a => if i = 0 then some a else none
  | n + 1, k, i, a =>
    let sz := dSize d k
    if sz = 0 then none
    else walkFrom d n (k + 1) (i / sz) (a + (i % sz : Nat) * dStride d k)

/-- Byte address of position `p` (R146), or none outside the tensor. -/
def walk (d : BitVec 512) (p : Nat) : Option Int := walkFrom d (dNdim d) 0 p (dActive d)

/-- The checks of R145 on an image; VALID stays 1 only if all hold. -/
def descOk (d : BitVec 512) : Bool :=
  let nd := dNdim d
  let f := dFmt d
  let lineWalk := !dWord d
  let strides := (List.range 5).map (dStride d)
  dValid d && dbits d 0 63 63 = 0 && dbits d 1 63 62 = 0 && dbits d 7 63 3 = 0
  && (List.range 5).all (fun k => dbits d (2 + k) 31 24 = 0)
  && (decide (f ≤ 9) || f = 15) && decide (dBsf d ≤ 4) && decide (dSwz d ≤ 10) && decide (dXmode d ≤ 1)
  && decide (1 ≤ nd) && decide (nd ≤ 5)
  && (List.range 5).all (fun k => if k < nd then decide (1 ≤ dSize d k)
        else dSize d k = 0 && dStride d k = 0)
  && (if lineWalk then
        dBase0 d % 128 = 0 && dBase1 d % 128 = 0 && strides.all (fun st => st % 128 = 0) && dWstride d = 0
      else
        dBase0 d % 8 = 0 && dBase1 d % 8 = 0 && strides.all (fun st => st % 8 = 0)
        && dWstride d % 8 = 0 && !dEbc d && dXmode d = 0)
  && (dBsf d = 0 || (decide (3 ≤ f) && decide (f ≤ 9)))

/-- The descriptor as the pip keeps it: VALID only under R145. -/
def keepDesc (d : BitVec 512) : BitVec 512 :=
  if descOk d then d else BitVec.ofNat 512 (d.toNat - d.toNat / 2 ^ 47 % 2 * 2 ^ 47)

/-- SWAP inverts SEL (R257). -/
def swapSel (d : BitVec 512) : BitVec 512 :=
  BitVec.ofNat 512 (if dSel d then d.toNat - 2 ^ 23 else d.toNat + 2 ^ 23)

/-- The tensor descriptor of a handle. -/
def descOf (p : PipSt) (h : Nat) : BitVec 512 := Tab.get 0 p.regs.desc h

/-- Footprint extension over the dimensions (R149). -/
def footDims (d : BitVec 512) : Nat → Int × Int → Int × Int
  | 0, lh => lh
  | n + 1, lh =>
    let (lo, hi) := footDims d n lh
    let ext := ((dSize d n : Int) - 1) * dStride d n
    if n < dNdim d then (if ext < 0 then (lo + ext, hi) else (lo, hi + ext)) else (lo, hi)

/-- The footprint [lo, hi] of a descriptor (R149). -/
def footprint (d : BitVec 512) : Int × Int :=
  let (lo, hi) := footDims d 5 ((dActive d : Int), (dActive d : Int))
  if dWord d then
    let ext := 15 * dWstride d
    if ext < 0 then (lo + ext, hi + 7) else (lo, hi + ext + 7)
  else (lo, hi + 127)

/-- Two byte intervals meet. -/
def meets (a b : Int × Int) : Bool := decide (a.1 ≤ b.2) && decide (b.1 ≤ a.2)

/-- Elements of a tensor: positions times elements per line (R159). -/
def dElements (d : BitVec 512) : Nat :=
  ((List.range 5).foldl (fun n k => if k < dNdim d then n * dSize d k else n) 1) * elemsPerLineOf d
where
  elemsPerLineOf (d : BitVec 512) : Nat :=
    match dFmt d with
    | 0 | 15 => 32
    | 1 | 2 => 64
    | 3 | 4 | 5 | 6 | 8 => 128
    | _ => 256

/-! ### Fences (R256) -/

/-- Direction field of an engine's record. -/
def recDir (r : List Byte) : Nat := bits (field r 0 8) 3 2
def recForm (r : List Byte) : Nat := bits (field r 0 8) 1 0
def recHandle (r : List Byte) : Nat := bits (field r 0 8) 11 4
def recHandle2 (r : List Byte) : Nat := bits (field r 0 8) 19 12

/-- Handles that a run reads through (R256): HANDLE with DIR 1, a copy source, the IH of a GIDX. -/
def engReads (e : Engine) : List Nat :=
  let r := e.record
  (if recForm r = 2 || recDir r = 1 then [recHandle r] else []) ++
  (if recForm r = 1 then
    (List.range (bits (field r 0 8) 26 20)).filterMap (fun i =>
      let w := field r (16 + 8 * i) 8
      if bits w 63 58 = 4 then some (bits w 47 40) else none)
   else [])

/-- Handles that a run writes through: HANDLE with DIR 0, a copy destination. -/
def engWrites (e : Engine) : List Nat :=
  let r := e.record
  if recForm r = 2 then [recHandle2 r] else if recDir r = 0 then [recHandle r] else []

/-- A handle of a run touches the interval, under the bases latched at its start. -/
def touches (e : Engine) (iv : Int × Int) (h : Nat) : Bool := meets (footprint (Tab.get 0 e.descs h)) iv

/-- The running engine that a stream access to [a, a + n) must wait for (R256). -/
def fencedBy (p : PipSt) (a : Int) (n : Nat) (write : Bool) : Option Nat :=
  let iv : Int × Int := (a, a + n - 1)
  (List.range 5).find? fun i =>
    let e := Tab.get {} p.eng i
    e.running && ((engWrites e).any (touches e iv) || (write && (engReads e).any (touches e iv)))

/-! ### Scale addressing (R164, R165) -/

/-- Block number of the first block of the line at `la` (R165). -/
def lineBlock (d : BitVec 512) (la : Int) : Int :=
  ((la - dBase0 d) / 128) * ((dElements.elemsPerLineOf d / dBlock d : Nat) : Int)

/-- Address of the line that holds the scale byte of block 0 of the data line at `la`, and the index of that byte in it (R165). -/
def scaleAt (d : BitVec 512) (la : Int) : Int := (dScale d : Int) + lineBlock d la

/-- The line that a byte lies in. -/
def lineOf (a : Int) : Int := a / 128 * 128

/-- The element broadcast of R154. -/
def broadcast (d : BitVec 512) (l : List Byte) : List Byte :=
  match dFmt d with
  | 0 | 15 => (List.replicate 32 (l.take 4)).flatten
  | 1 | 2 => (List.replicate 64 (l.take 2)).flatten
  | 3 | 4 | 8 => (List.replicate 128 (l.take 1)).flatten
  | 5 | 6 =>
    let c := field l 0 1 % 64
    (List.replicate 32 (toBytes 3 (c * 0x41041))).flatten ++ List.replicate 32 0
  | _ => let c := field l 0 1 % 16; List.replicate 128 (BitVec.ofNat 8 (c * 17))

end Sys2Proof.Machine
end

