-- ==== Sys2Proof/Machine/ModState.lean ====
section
/-!
DEFINITION. The state of the module above its pods: contexts and commands (chapter 3), jobs, images, plans and
repair (chapter 4), fields (chapter 16), HBM stacks and staging buffers (chapter 11), and what travels between
them. Every structure is plain data.
-/
namespace Sys2Proof.Machine

/-! ### Contexts, commands and jobs (chapter 3) -/

/-- A sync grant (R92). -/
structure Grant where
  grantee : Nat := 0
  sig     : Bool := false
  valid   : Bool := false
  deriving DecidableEq, Repr

/-- A context (R27, R105, R358, R384). `part` is the partition it is bound to plus 1, or 0 when unbound. -/
structure CtxSt where
  created : Bool := false
  host    : Nat := 0
  part    : Nat := 0
  jobq    : Nat := 0
  vec     : Nat := 0
  sbase   : Nat := 0
  scount  : Nat := 0
  klo     : Nat := 0
  khi     : Nat := 0
  qbase   : Nat := 0
  head    : Nat := 0
  tail    : Nat := 0
  halted  : Bool := false
  dbErr   : Bool := false
  syncErr : Bool := false
  lastCode : Byte := 0
  haltTag : Nat := 0
  syncSel : Nat := 0
  doneCnt : Word64 := 0
  grants  : Tab Grant := []
  /-- Commands read and not issued, oldest first, 64 B each (R96). -/
  ahead   : List (List Byte) := []
  /-- Cycle plus 1 in which the oldest of them became ready, or 0 (R101). -/
  readyAt : Nat := 0
  nonce   : BitVec 128 := 0
  deriving DecidableEq, Repr

/-- A command that has issued and not completed (R97, R103): its status once it is decided. -/
structure Cmd where
  id    : Nat := 0
  ctx   : Nat := 0
  bytes : List Byte := []
  /-- Status with which it will complete; none while it runs. -/
  code  : Option Byte := none
  /-- SITE of Table 3.11. -/
  site  : Nat := 0
  /-- An issued WAIT that is not satisfied, and whether it was at the end of the last cycle (R90, R97). -/
  waiting : Bool := false
  met     : Bool := false
  /-- Destination descriptors that become VALID if it succeeds: pod and handle (R234). -/
  dests : List (Nat × Nat) := []
  /-- A COPY that moves lines (R98): the source as read, the destination before, the bytes moved so far, and whether a line was delivered
  with an uncorrected error. -/
  new_  : List Byte := []
  old   : List Byte := []
  moved : Nat := 0
  bad   : Bool := false
  deriving DecidableEq, Repr

/-- Phases of a job (R101, R102), and the drain of its key stream after a header failure (R264). -/
inductive JobPhase where
  | queued | loading | running | draining
  deriving DecidableEq, Repr

/-- A job on a rectangle of pods (R100 to R102). -/
structure Job where
  id    : Nat := 0
  cmd   : Nat := 0
  ctx   : Nat := 0
  part  : Nat := 0
  phase : JobPhase := .queued
  pcx0  : Nat := 0
  pcx1  : Nat := 0
  pcy0  : Nat := 0
  pcy1  : Nat := 0
  /-- Module address of its program block. -/
  prog  : Nat := 0
  progId : Word64 := 0
  args  : List Word64 := []
  loadCycles : Nat := 1
  t0    : Nat := 0
  ts    : Nat := 0
  opc   : Nat := 1
  payload : List Byte := []
  /-- Destination descriptors of an encrypted command: pod and handle (R234, R242). -/
  dests : List (Nat × Nat) := []
  /-- What the destination descriptors held before the issue (R14). -/
  saved : List (Nat × Nat × BitVec 512) := []
  /-- The pod outside the rectangle that a CT_COPY also names (R236). -/
  extra : Option Nat := none
  /-- Power steps of the plan already issued (R406). -/
  steps : List Nat := []
  deriving DecidableEq, Repr

/-! ### Module registers, plans and repair (chapter 4) -/

/-- The reservation section of a base plan as the module holds it (Table 4.13): the bytes of OWN that own a position, and the route
records, router entries and HBM reservation records as numbers. -/
structure Rsv where
  owned  : Tab Byte := []
  routes : List Nat := []
  ents   : List Nat := []
  hrsv   : List Nat := []
  deriving DecidableEq, Repr

/-- Registers of the image and repair block (R134) and what they stand for. -/
structure ModRegs where
  imgAddr  : Word64 := 0
  imgState : Nat := 0
  /-- Address and writer of the admission that runs (R125): host plus 1, or 0 for the acorn. -/
  imgAt    : Word64 := 0
  imgBy    : Nat := 0
  imgCode  : Byte := 0
  nplan    : Nat := 0
  imgBase  : Bool := false
  baseFp   : Word64 := 0
  reserveFp : Word64 := 0
  /-- The admitted base plan, and its reservation. -/
  base     : List Byte := []
  resv     : Rsv := {}
  shortDefer : Word64 := 0
  transit  : List Nat := []
  transitDue : Bool := false
  map      : List Byte := []
  pendMap  : List Byte := []
  pending  : Bool := false
  pField   : Nat := 0
  pRow     : Nat := 0
  pCol     : Nat := 0
  pOos     : Bool := false
  nPend    : Nat := 0
  applying : Bool := false
  /-- Fields held out of work because a repair is pending (R131). -/
  heldOut  : List Nat := []
  mapSel   : Nat := 0
  agDis    : Bool := false
  /-- AG_DIS as it reads again after a recovery. -/
  agWas    : Bool := false
  /-- Sites with a double-bit error since start-up: 168 × y plus the physical column, and the byte address (R435). -/
  ueSites  : List (Nat × Nat) := []
  deriving DecidableEq, Repr

/-- Phase of a partition's recovery (R432). -/
inductive Recovery where
  | open_ | draining | verifying | verified
  deriving DecidableEq, Repr

/-- A partition (R26, R134, R432 to R436, R441, R367). -/
structure PartSt where
  fx0   : Nat := 0
  fx1   : Nat := 0
  fy0   : Nat := 0
  fy1   : Nat := 0
  valid : Bool := false
  fenced : Bool := false
  /-- The admitted plan, with its fingerprint. -/
  plan  : List Byte := []
  hasPlan : Bool := false
  plog2 : Nat := 0
  planFp : Word64 := 0
  hostMask : Nat := 0
  manifest : Word64 := 0
  lastCode : Byte := 0
  lastClass : Nat := 0
  recovery : Recovery := .open_
  /-- Times of detection of the faults whose recovery window runs (pip cycles). -/
  windows : List Nat := []
  deriving DecidableEq, Repr

/-- A counted fault (R431, R437): class, location, partition, cycle. -/
structure FaultRec where
  cls  : Nat := 0
  loc  : Nat := 0
  part : Nat := 0
  at_  : Nat := 0
  deriving DecidableEq, Repr

/-- Outcome of a fault-log entry (R429). -/
inductive FaultOutcome where
  | logged | counted | fenced | moduleFenced
  deriving DecidableEq, Repr

/-- A fault-log entry (R423, R429). -/
structure LogEntry where
  time : Nat := 0
  cls  : Nat := 0
  code : Byte := 0
  part : Nat := 0
  loc  : Nat := 0
  outcome : FaultOutcome := .logged
  deriving DecidableEq, Repr

/-- Fault registers (R441). -/
structure FaultSt where
  mfenced : Bool := false
  resetting : Bool := false
  flt      : Bool := false
  cnt      : Word64 := 0
  fenceCnt : Word64 := 0
  last     : FaultRec := {}
  lastCode : Byte := 0
  lastTime : Nat := 0
  verifyFail : Word64 := 0
  recent   : List FaultRec := []
  log      : List LogEntry := []
  deriving DecidableEq, Repr

/-! ### Fields (chapter 16) -/

/-- Field states (Table 16.3). -/
inductive FState where
  | f0 | f1 | f2 | f3
  deriving DecidableEq, Repr

/-- A regulator request that is outstanding (R404, Table 16.5). -/
inductive VrReq where
  | none | on (mv : Nat) | off | raise (mv : Nat) (job : Nat) | lower (mv : Nat) | margin (mv : Nat)
  deriving DecidableEq, Repr

/-- A transition of a field in progress (R398): shut down to a state, or wake. -/
inductive Trans where
  | none | down (tgt : FState) | wake
  deriving DecidableEq, Repr

/-- A field (R397 to R407, R416 to R419). -/
structure FieldSt where
  state   : FState := .f3
  trans   : Trans := .none
  pending : Bool := false
  railOn  : Bool := false
  vrFault : Bool := false
  hot     : Bool := false
  temp    : Nat := 0
  vset    : Nat := 0
  rest    : Nat := 1
  idle    : Nat := 100
  vrun    : Nat := 850
  vmin    : Nat := 850
  marginLow : Bool := false
  hours   : Nat := 0
  wakeCnt : Word64 := 0
  nackCnt : Word64 := 0
  cdcCnt  : Word64 := 0
  monCnt  : Word64 := 0
  req     : VrReq := .none
  /-- Cycle of the request's first frame (R404). -/
  reqAt   : Nat := 0
  /-- Switches of a wake from F3 may close: the on request has been acknowledged. -/
  railAck : Bool := false
  /-- The off request of a shutdown to F3 has ended, acknowledged or not. -/
  offDone : Bool := false
  /-- Cycle of the last job of its pods, from which the idle time counts. -/
  idleFrom : Nat := 0
  /-- VRUN waiting to be applied (R418). -/
  newVrun : Option Nat := none
  /-- A monitor read is due when the field next reaches F1 (R416). -/
  monDue  : Bool := false
  /-- The period of 24 h in which the monitors were read last, and the cycle in which the field came down to 95 °C (R416). -/
  monDay  : Nat := 0
  coolAt  : Nat := 0
  /-- Jobs that hold a power step in the field (R406). -/
  stepJobs : List Nat := []
  /-- Wake entries in the job queues of its pods (R400). -/
  wakeEntry : Bool := false
  deriving DecidableEq, Repr

/-! ### HBM stacks and staging buffers (chapter 11) -/

/-- Last owner of a granule (R275): none, a host (SHARE = 1), a host's context (SHARE = 0), or retired. -/
inductive GOwner where
  | none | shared (h : Nat) | single (h c : Nat) | retired
  deriving DecidableEq, Repr

/-- An HBM granule entry or a staging granule entry (R272, R288), with its last owner and PROT (R275). -/
structure Granule where
  prot  : Nat := 0
  share : Bool := false
  host  : Nat := 0
  ctx   : Nat := 0
  scrub : Bool := false
  owner : GOwner := .none
  lastProt : Nat := 1
  /-- Lines zeroed so far: of an HBM granule by channel group, of a staging granule at 0 (R275, R288). -/
  zeroed : Tab Nat := []
  deriving DecidableEq, Repr

/-- Who asked for a memory access: a unit of a pip (0 to 3 engines, 4 key reader, 5 DC0, 6 DC1, 7 the job-start
load, 8 a collective channel), a host, or a channel of the hull. -/
inductive Source where
  | unit (p u : Nat) | host (h tag : Nat) | acorn (tag : Nat) | link (l : Nat) | hull (ch : Nat)
  deriving DecidableEq, Repr

/-- A line request at a stack: reads name where the line goes, writes carry it (R281). -/
structure Req where
  src   : Source := .acorn 0
  write : Bool := false
  addr  : Nat := 0
  ctx   : Nat := 0
  /-- Scratchpad byte address of the line at the pip, or the key position. -/
  sp    : Nat := 0
  data  : Line := 0
  /-- Bytes of a host write or length of a host read, which may be less than a line. -/
  bytes : List Byte := []
  len   : Nat := 128
  /-- Attachment index, or 20 for host service (R280, R289). -/
  att   : Nat := 0
  /-- HBM slot from which a request can be served, or a read line is ready at its attachment pip; cycle in which an access reached a
  staging buffer (R281, R289). -/
  ready : Nat := 0
  /-- Route on which a read of a staging buffer came and its line goes back. -/
  route : Nat := 0
  /-- Flits of a read line that have left its attachment pip, and the cycles the line travels. -/
  sent  : Nat := 0
  hop   : Nat := 0
  deriving DecidableEq, Repr

/-- A held ordered add (R292). -/
structure HeldAdd where
  slot : Nat := 0
  seq  : Nat := 0
  addr : Nat := 0
  words : List Word32 := []
  ctx  : Nat := 0
  src  : Source := .acorn 0
  deriving DecidableEq, Repr

/-- A stack and its staging buffer (R281 to R294). -/
structure StackSt where
  state  : Nat := 2
  boot   : Bool := true
  ue     : Bool := false
  sfault : Bool := false
  hot    : Bool := false
  granErr : Bool := false
  temp   : Nat := 0
  rint   : Nat := 4875
  ce     : Word64 := 0
  uec    : Word64 := 0
  errAddr : Nat := 0
  schedFault : Word64 := 0
  slipCnt : Word64 := 0
  idleCnt : Word64 := 0
  stErr  : Bool := false
  stCode : Byte := 0
  ordSel : Nat := 0
  next   : Tab Word32 := []
  held   : List HeldAdd := []
  opsCnt : Word64 := 0
  holdCnt : Word64 := 0
  /-- Request FIFO and write buffer by route. -/
  fifo   : Tab (List Req) := []
  wbuf   : Tab (List Req) := []
  /-- Read lines waiting at the attachment pip. -/
  lines  : Tab (List Req) := []
  /-- Accesses to the staging buffer and its request window that have arrived, in the order of R289. -/
  stq    : List Req := []
  /-- Slip by channel group; slot plus 1 of the last service of a bank (32 × group + bank) and of the start of the last
  refresh of a group (R282, R285). -/
  slip   : Tab Nat := []
  bankAt : Tab Nat := []
  refAt  : Tab Nat := []
  /-- Slot plus 1 of the last entry of a group that was served, and cycle plus 1 in which the last flit of a route left (R279, R281). -/
  servedAt : Tab Nat := []
  outAt  : Tab Nat := []
  /-- Staging banks that have served an access in this cycle (R288). -/
  stUsed : List Nat := []
  deriving DecidableEq, Repr

/-! ### What travels -/

/-- Something on the mesh (R60, R61, R109, R114, R281): a flit for an ingress queue or an attachment at the wafer's edge, a line of class 1
for a pip's DMA writer or for a stack, a key line, a short flit on a leg from `from_` to `at_` that it entered at a cycle, or a
credit on its way back. `due` is the cycle in which it arrives. -/
inductive Flight where
  | flit (dst port due : Nat) (f : MFlit)
  | edge (pip port due : Nat) (f : MFlit)
  | line (dst unit due route : Nat) (r : Req)
  | wline (stack route due : Nat) (r : Req)
  | key (dst due : Nat) (header gran : Bool) (e : Line)
  | short (from_ at_ entered : Nat) (f : ShortFlit)
  | credit (dst cr by_ due : Nat)
  deriving DecidableEq, Repr

/-- A queued access of a host, or of a hull channel for its owner host: `hull` is the channel plus 1 (R352, R373). -/
structure HostAcc where
  host  : Nat := 0
  write : Bool := false
  addr  : Nat := 0
  data  : List Byte := []
  len   : Nat := 0
  tag   : Nat := 0
  hull  : Nat := 0
  deriving DecidableEq, Repr

end Sys2Proof.Machine
end

