-- ==== Sys2Proof/Machine/LinkState.lean ====
section
/-!
DEFINITION. The state of the Jeand links (chapter 12) and of the collective channels (chapter 13).
-/
namespace Sys2Proof.Machine

/-- The module's part in the installation (R308 to R312, R330). -/
structure LinkMod where
  node    : Nat := 0
  joinEn  : Bool := false
  ppsEn   : Bool := false
  departReq : Bool := false
  /-- 0 unsynchronised, 1 converging, 2 joined. -/
  sync    : Nat := 0
  anchor  : Bool := false
  ppsLock : Bool := false
  anchorId : Nat := 0
  hops    : Nat := 0
  skew    : Bool := false
  epoch   : Word32 := 0
  ppsTime : Word64 := 0
  /-- Consecutive TIME_PPS edges in their interval, and the time of the last edge. -/
  ppsGood : Nat := 0
  ppsLast : Option Int := none
  /-- Link periods during which the mean offset stayed in range (R309). -/
  converged : Nat := 0
  /-- Link tables of an admitted base plan that wait for the boundary (R127). -/
  pendTables : Bool := false
  /-- Frequency correction of an anchor under TIME_PPS, 1/64 ns per second (R311). -/
  steer   : Int := 0
  /-- Fraction of the correction not yet in the time, 10^-8 of 1/64 ns. -/
  steerAcc : Int := 0
  /-- The link period, the epoch and the position that were entered last (R303, R308), counted from time 0. -/
  period  : Int := 0
  epochs  : Int := 0
  lastPos : Int := 0
  /-- The module has joined since start-up: its epochs have begun (R309). -/
  begun   : Bool := false
  /-- The anchor followed is locked to TIME_PPS, as its announcements say (R309). -/
  anchorPps : Bool := false
  deriving DecidableEq, Repr

/-- What a partner's capability message and TIME flits said (R306, R310, Table 12.4). -/
structure Partner where
  known  : Bool := false
  node   : Nat := 0
  k      : Nat := 0
  lplan  : Nat := 0
  mode   : Nat := 0
  epoch  : Nat := 0
  evalid : Bool := false
  anchor : Nat := 0
  hops   : Nat := 255
  joined : Bool := false
  pps    : Bool := false
  deriving DecidableEq, Repr

/-- A whole message of a link (R318 to R320): route, origin node, sending pip plus 1 (0 for none), bytes. -/
structure LinkMsg where
  route : Nat := 0
  src   : Nat := 0
  pip   : Nat := 0
  coll  : Bool := false
  bytes : List Byte := []
  /-- A DATA message has passed its checks and its bytes are on their way to their memory (R320). -/
  placed : Bool := false
  deriving DecidableEq, Repr

/-- A message that a pip has still to send whole into the transmit buffer (R318). -/
structure TxPart where
  route : Nat := 0
  pip   : Nat := 0
  bytes : List Byte := []
  deriving DecidableEq, Repr

/-- A burst at a deliver entry (R319, R322, R324): what has arrived, whether a decision on it is held, whether it has been
discarded and only its end is awaited. -/
structure Burst where
  route : Nat := 0
  coll  : Bool := false
  src   : Nat := 0
  bytes : List Byte := []
  got   : Nat := 0
  held  : Bool := false
  dead  : Bool := false
  deriving DecidableEq, Repr

/-- A kind of CTRL message that waits for a reserved position (R303, R319). -/
inductive CtrlKind where
  | capability
  | join
  | depart
  deriving DecidableEq, Repr

/-- What a CTRL or TIME flit carries outwards (R305, R307, R310, R319): a MEASURE message and a TIME flit give the transmit time and the
echo of the partner's last one. -/
inductive LinkCtrl where
  | capability (m : CapMsg)
  | measure (sent : Int) (echo : Option (Int × Int))
  | join
  | depart
  | time (sent : Int) (epoch anchor hops : Nat) (joined pps : Bool) (echo : Option (Int × Int))
  deriving DecidableEq, Repr

/-- A Jeand link (R297 to R331). -/
structure LinkSt where
  /-- 0 off, 1 training, 2 standby, 3 scheduled, 4 hold, 5 down. -/
  state   : Nat := 0
  mode    : Nat := 0
  wiring  : Bool := false
  delayMis : Bool := false
  planMis : Bool := false
  lastCode : Byte := 0
  skew    : Bool := false
  meas    : Nat := 0
  offset  : Int := 0
  lenCm   : Nat := 0
  flit    : Word64 := 0
  ce      : Word64 := 0
  ue      : Word64 := 0
  miss    : Word64 := 0
  void    : Word64 := 0
  hold    : Word64 := 0
  down    : Word64 := 0
  stale   : Word64 := 0
  retrain : Word64 := 0
  msgRej  : Word64 := 0
  defer_  : Word64 := 0
  step    : Nat := 0
  signal  : Bool := false
  locked  : Bool := false
  /-- MEASURE exchanges completed, the sums of their delays and offsets (R307). -/
  exch    : Nat := 0
  dsum    : Int := 0
  osum    : Int := 0
  partner : Partner := {}
  /-- Link periods since lock was regained in hold (R324). -/
  good    : Nat := 0
  bursts  : List Burst := []
  msgs    : List LinkMsg := []
  /-- Messages whole in the transmit buffer, by route (R318). -/
  tx      : List LinkMsg := []
  part    : List TxPart := []
  /-- The installed link record of Table 12.5, empty for none. -/
  record  : List Byte := []
  /-- Cycle of the last delivered flit (R324, R325). -/
  lastFlit : Nat := 0
  /-- Partitions for which the present hold or down has been counted as a fault (R327). -/
  hitParts : List Nat := []
  /-- Cycle of the signal detect of this training (R305). -/
  since   : Nat := 0
  /-- CTRL messages that wait for a reserved position, and MEASURE messages sent in this training (R303, R307). -/
  ctrl    : List CtrlKind := []
  measSent : Nat := 0
  /-- Send and local receive time of the partner's last MEASURE message and of its last TIME flit (R307, R310). -/
  echo    : Option (Int × Int) := none
  timeEcho : Option (Int × Int) := none
  /-- The transmit position at which a run was last looked at (R318). -/
  runAt   : Int := 0
  deriving DecidableEq, Repr

/-- A collective command in a channel's FIFO (R335). -/
structure CollCmd where
  cmd   : Nat := 0
  close : Bool := false
  bytes : List Byte := []
  deriving DecidableEq, Repr

/-- A whole COLL message that has arrived: source node, route, bytes, and the chunk buffer of INBOX that holds its data, 16 for none
(R338, R340). -/
structure CollMsg where
  src   : Nat := 0
  route : Nat := 0
  bytes : List Byte := []
  buf   : Nat := 16
  deriving DecidableEq, Repr

/-- A message waiting to leave: route, whether it takes a credit, bytes, and the cycle in which it became whole (R339, R340). -/
structure CollOut where
  route : Nat := 0
  paid  : Bool := false
  bytes : List Byte := []
  whole : Nat := 0
  deriving DecidableEq, Repr

/-- A collective channel (R332 to R345). -/
structure ChanSt where
  /-- 0 closed, 1 open, 2 local step, 3 ring. -/
  state   : Nat := 0
  lastCode : Byte := 0
  ctx     : Nat := 0
  aborted : Bool := false
  seq     : Word32 := 0
  done    : Word64 := 0
  txBytes : Word64 := 0
  rxBytes : Word64 := 0
  creditWait : Word64 := 0
  nonfin  : Word64 := 0
  abortCnt : Word64 := 0
  /-- The CL_OPEN command and the copy of the group block. -/
  opened  : List Byte := []
  group   : List Byte := []
  fifo    : List CollCmd := []
  /-- The running CL_REDUCE. -/
  running : Option CollCmd := none
  credits : Nat := 16
  /-- Messages received and not yet consumed, oldest first. -/
  inbox   : List CollMsg := []
  outq    : List CollOut := []
  /-- Residual lines that STAGE_IN has moved, and new residual lines that STAGE_OUT has still to move. -/
  resIn   : Nat := 0
  /-- Cycle from which the three passes of the local step can be complete (R336). -/
  passAt  : Nat := 0
  resOut  : List Line := []
  /-- Index of the next new residual line. -/
  resNext : Nat := 0
  /-- Chunks received in the reduce and gather phases, and messages not yet acknowledged by a CREDIT. -/
  recvR   : Nat := 0
  recvG   : Nat := 0
  unacked : Nat := 0
  /-- An ABORT of the aborted SEQ has been sent; one has been received (R343, step 4). -/
  abortSent : Bool := false
  abortGot : Bool := false
  deriving DecidableEq, Repr

end Sys2Proof.Machine
end

