-- ==== Sys2Proof/Machine/HostState.lean ====
section
/-!
DEFINITION. The state of the host port (chapter 14), the hull (chapter 15), power and clocks (chapter 16), start-up
and NVM (chapter 17), trace and management (chapter 18).
-/
namespace Sys2Proof.Machine

/-! ### Host port (chapter 14) -/

/-- SPDM session of a host (R365). -/
structure SpdmSt where
  /-- 0 none, 1 version agreed, 2 capabilities, 3 algorithms, 4 key exchanged, 5 session open. -/
  stage   : Nat := 0
  /-- Algorithms chosen: the slot whose key signs. -/
  slot    : Nat := 0
  keyGen  : Nat := 0
  heartbeats : Nat := 0
  deriving DecidableEq, Repr

/-- A host block (R367) and the host's sessions. -/
structure HostSt where
  /-- 0 absent, 1 attached, 2 departing. -/
  state   : Nat := 0
  crErr   : Bool := false
  crCode  : Byte := 0
  crCtx   : Nat := 0
  crPart  : Nat := 0
  crJobq  : Nat := 0
  crVec   : Nat := 0
  crQbase : Word64 := 0
  crSbase : Nat := 0
  crScount : Nat := 0
  crKlo   : Nat := 0
  crKhi   : Nat := 0
  /-- HDM decoders committed: decoder number, base, size (R350). -/
  decoders : List (Nat × Nat × Nat) := []
  /-- The logical device is bound to a host (R349). -/
  bound   : Bool := true
  spdm    : SpdmSt := {}
  deriving DecidableEq, Repr

/-- A CXL head (R348, R364, R459). -/
structure HeadSt where
  up      : Bool := false
  perst   : Bool := false
  ide     : Bool := false
  ideKeys : Nat := 0
  width   : Nat := 0
  rate    : Nat := 0
  deriving DecidableEq, Repr

/-- The module CXL block (R367). -/
structure CxlSt where
  bifur   : Nat := 0
  mld     : Bool := false
  nld     : Nat := 1
  mgmtHost : Nat := 0
  mgmtValid : Bool := true
  memRej  : Word64 := 0
  memRejAddr : Nat := 0
  ideFail : Word64 := 0
  depart  : Word64 := 0
  /-- CXL_CTXPAGEp as HOST + 1, or 0 where VALID is 0 and HOST is 0; VALID = 0 keeps HOST. -/
  pages   : Tab (Nat × Bool) := []
  deriving DecidableEq, Repr

/-! ### Hull (chapter 15) -/

/-- States of a hull channel (Table 15.11). -/
inductive HullState where
  | idle | load | wait | exec | store | wipe
  deriving DecidableEq, Repr

/-- A hull channel (R369, R373, R393). -/
structure HullChanSt where
  owner   : Nat := 0
  ownerValid : Bool := false
  state   : HullState := .idle
  startErr : Bool := false
  code    : Byte := 0
  job     : Word64 := 0
  exec    : Nat := 0
  doneCnt : Word64 := 0
  failCnt : Word64 := 0
  curve   : Option CurveNum := none
  /-- Operand memory: the job block as loaded. -/
  opmem   : List Byte := []
  /-- Cycle in which EXEC or WIPE began, and the length of EXEC in hull cycles. -/
  execAt  : Nat := 0
  execN   : Nat := 0
  /-- Verdict and result of EXEC. -/
  verdict : Byte := 0
  result  : List Byte := []
  /-- Accesses that the present phase has made through the HOST entries, whether one is under way, the bytes of the message that have come,
  and the cycle of the last (R373, R377). -/
  moved   : Nat := 0
  waits   : Bool := false
  msg     : List Byte := []
  lastAt  : Nat := 0
  /-- The owner departed: STORE writes nothing and CODE reads E_ABORTED (R380). -/
  dropped : Bool := false
  deriving DecidableEq, Repr

/-- The hull (R368 to R393). -/
structure HullSt where
  pufOk   : Bool := true
  idOk    : Bool := true
  drbgOk  : Bool := true
  /-- Digest of the owner key, 0 if none is enrolled. -/
  owner   : BitVec 256 := 0
  faultCnt : Word64 := 0
  jobCnt  : Word64 := 0
  reseedCnt : Word64 := 0
  /-- Channel each engine runs, plus 1; 0 when free. -/
  engA    : Nat := 0
  engB    : Nat := 0
  lastB   : Nat := 15
  /-- Requests to the DRBG of each engine since its last reseed (R385). -/
  drbgA   : Nat := 0
  drbgB   : Nat := 0
  keys    : Bool := true
  /-- Security-version floors by image type (R390). -/
  floors  : Tab Nat := []
  /-- Digests of what start-up has accepted (R391, indices 2 to 4); 0 where no start-up of the model has run. -/
  fwDigest  : BitVec 256 := 0
  cfgDigest : BitVec 256 := 0
  calDigest : BitVec 256 := 0
  debug   : Bool := false
  deriving DecidableEq, Repr

/-! ### Power and clocks (chapter 16) -/

/-- Module states (Table 16.2), with the entry into M1. -/
inductive MState where
  | m0 | entering | m1 | m2
  deriving DecidableEq, Repr

/-- The module power block (R419). -/
structure PwrSt where
  mstate  : MState := .m0
  pexc    : Bool := false
  texc    : Bool := false
  vinFault : Bool := false
  stbyErr : Bool := false
  wakeEn  : BitVec 5 := 0b01110
  wakeSrc : BitVec 5 := 0
  timer   : Word32 := 0
  vin     : Nat := 0
  pin     : Nat := 0
  /-- Cycle since which the input voltage is out of range, and whether the fault of this time has been taken (R395). -/
  vinBadAt : Option Nat := none
  vinTold : Bool := false
  nackCnt : Word64 := 0
  excCnt  : Word64 := 0
  /-- The input power average stands above its limit (R412). -/
  excess    : Bool := false
  cdcCnt  : Word64 := 0
  refOk   : Bool := true
  synLock : Bool := true
  hbmLock : Bool := true
  holdover : Bool := false
  steer   : BitVec 16 := 0
  /-- Cycle of M1 entry, from which the husk timer counts. -/
  m1At    : Nat := 0
  /-- Cable supplies switched off by an overload (R457). -/
  cblOff  : List Nat := []
  deriving DecidableEq, Repr

/-! ### Start-up and NVM (chapter 17) -/

/-- Calibration values in use (R426). -/
structure Calib where
  ok     : Bool := true
  dfix   : Tab Nat := []
  ileak  : Tab Nat := []
  kv     : Tab Nat := []
  vfloor : Nat := 650
  /-- Offsets of the two temperature sensors of each field. -/
  toff   : Tab Nat := []
  deriving DecidableEq, Repr

/-- NVM and husk memory (R371, R423). -/
structure NvmSt where
  serial  : Word64 := 1
  gradeE  : Bool := false
  slotB   : Bool := false
  fwA     : List Byte := []
  fwB     : List Byte := []
  config  : List Byte := []
  calib   : List Byte := []
  update  : List Byte := []
  mapA    : List Byte := []
  mapB    : List Byte := []
  /-- SEQ of the two repair-map copies, and which pass their CRC. -/
  seqA    : Nat := 1
  seqB    : Nat := 0
  okA     : Bool := true
  okB     : Bool := true
  marginOk : Bool := true
  helperOk : Bool := true
  identOk : Bool := true
  cal     : Calib := {}
  husk    : Tab Byte := []
  deriving DecidableEq, Repr

/-- Start-up registers (R441). -/
structure BootSt where
  stage   : Nat := 5
  cause   : Nat := 0
  fwSlot  : Bool := false
  cfgDefault : Bool := true
  repairCopy : Bool := false
  excl    : List Nat := []
  time    : Nat := 0
  /-- Stacks, links, heads that training covers: STACK_EN and LINK_EN. -/
  stackEn : Nat := 0xFFF
  linkEn  : Nat := 0
  joinCfg : Bool := false
  ppsCfg  : Bool := false
  /-- Reset values of CXL_MGMT and LNK_NODE from the configuration in use (R425). -/
  mgmtCfg : Nat := 16
  nodeCfg : Nat := 0
  /-- Cycle in which stage 4 began (R420). -/
  trainAt : Nat := 0
  /-- In stage 3: cycles since which the input voltage and REFCLK are out of range, and of the last reading of the first (R427). -/
  vinBad  : Option Nat := none
  refBad  : Option Nat := none
  vinRead : Nat := 0
  deriving DecidableEq, Repr

/-- Stage 4 or 5: stacks, links and heads train or work. -/
def BootSt.working (b : BootSt) : Bool := b.stage = 4 || b.stage = 5

/-! ### Trace and management (chapter 18) -/

/-- A trace record (R443). -/
structure TraceRec where
  time : Nat := 0
  type : Nat := 0
  lost : Bool := false
  code : Byte := 0
  kind : Nat := 0
  index : Nat := 0
  arg0 : Nat := 0
  arg1 : Nat := 0
  deriving DecidableEq, Repr

/-- A trace flit: the pip it stands at, the pip it came from and its records (R446). -/
structure TraceFlit where
  src  : Nat := 0
  recs : List TraceRec := []
  /-- Cycle in which it reaches the relay or the sink it travels to. -/
  due  : Nat := 0
  deriving DecidableEq, Repr

/-- Trace block (R452). -/
structure TraceSt where
  en      : BitVec 5 := 0b01100
  portEn  : Bool := true
  lost    : Bool := false
  stallMin : Nat := 1024
  period  : Nat := 0
  snaps   : Tab (Nat × Bool) := []
  recCnt  : Word64 := 0
  dropCnt : Word64 := 0
  frameCnt : Word64 := 0
  seq     : Nat := 0
  /-- Fabric records on their way to the sink (256), and the sink's buffer (1 MiB). -/
  queue   : List TraceRec := []
  sink    : List TraceRec := []
  /-- Trace egress and relay of each pip. -/
  egress  : Tab (List TraceFlit) := []
  relay   : Tab (List TraceFlit) := []
  /-- Flits on their way to the relay of a pip, or to the sink (10,240). -/
  way     : List (Nat × TraceFlit) := []
  /-- Sources whose records were dropped since their last record. -/
  lostSrc : List (Nat × Nat) := []
  /-- Frame of the last snapshot. -/
  lastSnap : Nat := 0
  deriving DecidableEq, Repr

/-- Management block (R452) and the acorn's I3C target (R448, R449). -/
structure MgtSt where
  daValid : Bool := false
  da      : Nat := 0
  testEn  : Bool := false
  updating : Bool := false
  updCnt  : Word64 := 0
  cmdCnt  : Word64 := 0
  /-- Events not yet acknowledged: sensor and state. -/
  events  : List (Nat × Nat) := []
  /-- The TAP: instruction selected (0 BYPASS, 1 IDCODE, 2 SAMPLE/PRELOAD, 3 EXTEST) and boundary values preloaded (R451). -/
  tapInstr : Nat := 1
  boundary : Nat := 0
  extest  : Bool := false
  deriving DecidableEq, Repr

end Sys2Proof.Machine
end

