-- ==== Sys2Proof/Machine/State.lean ====
section
/-!
DEFINITION. The state of the module, the reasons a step can stop, and the state after reset (the module as the
start-up sequence leaves it, R10, R420).
-/
namespace Sys2Proof.Machine

/-- What the module sends outwards, in order (log 9). -/
inductive OutMsg where
  /-- An MSI-X message write (R347). -/
  | msix (host vec : Nat)
  /-- The value of a BAR0 read (R8, R9). -/
  | regData (host off v : Nat)
  /-- The data of a CXL.mem read (R351). -/
  | memData (host tag : Nat) (bs : List Byte)
  /-- A message transmitted whole on a link, from a transmit position (R318). -/
  | linkRun (l pos : Nat) (coll : Bool) (bs : List Byte)
  /-- A flit forwarded on a link, or the VOID sent in its place (R316, R323). -/
  | linkFlit (l : Nat) (f : RxFlit)
  /-- A CTRL or TIME flit that leaves on a link at a reserved position (R303 to R310, R329). -/
  | linkCtrl (l pos : Nat) (m : LinkCtrl)
  /-- The wake pattern (R299). -/
  | wakePattern (l : Nat)
  /-- An SPDM response: request code, error flag, data (R365). -/
  | spdm (host code : Nat) (error : Bool) (bs : List Byte)
  /-- A DOE discovery response: vendor, protocol, next index (R346). -/
  | doe (host vendor protocol next : Nat)
  /-- An FM-API answer (R349). -/
  | fmApi (cmd : Nat) (refused : Bool) (bs : List Byte)
  /-- A PLDM response: type, command, completion code, data (R448). -/
  | pldm (type cmd code : Nat) (bs : List Byte)
  /-- A PlatformEventMessage with its in-band interrupt (R448). -/
  | platformEvent (sensor v : Nat)
  /-- An AVSBus frame: segment, rail, command (0 voltage, 1 power mode), value (R404). -/
  | avs (segment rail cmd v : Nat)
  /-- A trace frame (R447). -/
  | traceFrame (bs : List Byte)
  /-- What the TAP shifts out: length and value (R451). -/
  | tap (bits v : Nat)
  deriving DecidableEq, Repr

/-- The state of the module. -/
structure State where
  /-- The commands that wait, first in, first out (the block form). -/
  pending  : List Instr := []
  /-- Draws of free values so far (log 8); the model's own. -/
  free     : Nat := 0
  /-- What the module has sent outwards (log 9); the model's own. -/
  out      : List OutMsg := []
  /-- Pip cycles since start-up (R443). -/
  cycle    : Nat := 0
  /-- Installation time minus local time, 1/64 ns (R308). -/
  timeOff  : Int := 0
  nvm      : NvmSt := {}
  boot     : BootSt := {}
  mod      : ModRegs := {}
  flt      : FaultSt := {}
  parts    : Tab PartSt := []
  ctxs     : Tab CtxSt := []
  cmds     : List Cmd := []
  jobs     : List Job := []
  nextId   : Nat := 1
  syncs    : Tab Word32 := []
  /-- Sums of the updates of this cycle by sync object (R90). -/
  adds     : Tab Word32 := []
  /-- Updates of sync objects held while their field wakes: object and increment (R93). -/
  lateAdds : List (Nat × Nat) := []
  fields   : Tab FieldSt := []
  pods     : Tab PodSt := []
  pips     : Tab PipSt := []
  hbm      : Tab Byte := []
  /-- Flipped bits of a stored line of HBM, by line number: 1,024 data bits, then 128 check bits (R276, R277); the world outside flips
  them. -/
  hbmFlips : Tab (BitVec 1152) := []
  granules : Tab Granule := []
  sgranules : Tab Granule := []
  staging  : Tab Byte := []
  /-- Flipped bits of a stored word of the staging buffers, by word number: 64 data bits, then 8 code bits (R288). -/
  stgFlips : Tab (BitVec 72) := []
  hstacks   : Tab StackSt := []
  flight   : List Flight := []
  hostq    : List HostAcc := []
  lnk      : LinkMod := {}
  links    : Tab LinkSt := []
  chans    : Tab ChanSt := []
  cxl      : CxlSt := {}
  hosts    : Tab HostSt := []
  heads    : Tab HeadSt := []
  hull     : HullSt := {}
  hchans   : Tab HullChanSt := []
  pwr      : PwrSt := {}
  trc      : TraceSt := {}
  mgt      : MgtSt := {}
  /-- High halves latched by reads of low halves, plus 1, by host × 2^26 + offset of the high half (R9). -/
  latch    : Tab (BitVec 33) := []
  deriving DecidableEq, Repr

/-- Why a step stops. -/
inductive Fault where
  /-- A command names a pip, pod, field, context, host, stack, link, channel or partition the module does not have.
  Raised by every meaning through `within`. Safe: the spec gives the module no such part. -/
  | absent (i : Nat)
  deriving DecidableEq, Repr

/-- Why a command has no meaning. -/
inductive Refusal where
  /-- The command has no meaning yet. Raised by arms of `exec` only. Safe. -/
  | notModelled (mnemonic : String)
  deriving DecidableEq, Repr

/-- The host block of host 0 after start-up with the default configuration (R348, R425): attached. [DESIGN CHOICE, log 4] -/
def resetHost0 : HostSt := { state := 1 }

/-- The head of the default configuration, trained ×16 at 128 GT/s (R346, R348). [DESIGN CHOICE, log 4] -/
def resetHead0 : HeadSt := { up := true, width := 16, rate := 3 }

/-- The repair map with no failure (R130): 64 fields of 8 rows, each 0x1F. [DESIGN CHOICE, log 4] -/
def resetMap : List Byte := List.replicate 512 0x1F

/-- The module as start-up leaves it (R10): default configuration, no owner, every field in F3, every stack trained. [DESIGN CHOICE, log 1] [DESIGN CHOICE, log 4] -/
def State.reset : State :=
  { mod := { map := resetMap }
    nvm := { mapA := resetMap, mapB := resetMap }
    hosts := [(0, resetHost0)]
    heads := [(0, resetHead0)] }

end Sys2Proof.Machine
end

