-- ==== Sys2Proof/Machine/Module.lean ====
section
/-!
DEFINITION. Operations over the whole module that its families share: its parts by number, coordinates (R6), the
granule check (R273), sync objects (R89 to R93), free values, trace records (R443, R444, R446), interrupts,
platform events (R448), measurements (R391).
-/
namespace Sys2Proof.Machine

/-- The outcome of a command on part `i` of `n`: a part the module does not have is a fault. [DESIGN CHOICE, log 1] [DESIGN CHOICE, log 2] -/
def within (n i : Nat) (t : State) : Host.Outcome State Fault Refusal :=
  if i < n then .next t else .fault (.absent i)

/-- The number of pip cycles in a duration of `ns` nanoseconds (R2). -/
def cyclesOf (s : State) (ns : Nat) : Nat := if s.nvm.gradeE then ns * 8 / 5 else ns * 2

/-- Husk cycles since start-up (40 ns each). -/
def huskTime (s : State) : Nat := if s.nvm.gradeE then s.cycle / 64 else s.cycle / 80

/-! ### Parts by number -/

def pipOf (s : State) (p : Nat) : PipSt := Tab.get {} s.pips p
def setPip (s : State) (p : Nat) (v : PipSt) : State := { s with pips := Tab.set {} s.pips p v }
def modPip (s : State) (p : Nat) (f : PipSt → PipSt) : State := setPip s p (f (pipOf s p))

def podSt (s : State) (d : Nat) : PodSt := Tab.get {} s.pods d
def setPod (s : State) (d : Nat) (v : PodSt) : State := { s with pods := Tab.set {} s.pods d v }
def modPod (s : State) (d : Nat) (f : PodSt → PodSt) : State := setPod s d (f (podSt s d))

def fieldSt (s : State) (i : Nat) : FieldSt := Tab.get {} s.fields i
def setField (s : State) (i : Nat) (v : FieldSt) : State := { s with fields := Tab.set {} s.fields i v }
def modField (s : State) (i : Nat) (f : FieldSt → FieldSt) : State := setField s i (f (fieldSt s i))

def ctxSt (s : State) (c : Nat) : CtxSt := Tab.get {} s.ctxs c
def setCtx (s : State) (c : Nat) (v : CtxSt) : State := { s with ctxs := Tab.set {} s.ctxs c v }
def modCtx (s : State) (c : Nat) (f : CtxSt → CtxSt) : State := setCtx s c (f (ctxSt s c))

def partSt (s : State) (n : Nat) : PartSt := Tab.get {} s.parts n
def setPart (s : State) (n : Nat) (v : PartSt) : State := { s with parts := Tab.set {} s.parts n v }
def modPart (s : State) (n : Nat) (f : PartSt → PartSt) : State := setPart s n (f (partSt s n))

def stackSt (s : State) (k : Nat) : StackSt := Tab.get {} s.hstacks k
def setStack (s : State) (k : Nat) (v : StackSt) : State := { s with hstacks := Tab.set {} s.hstacks k v }
def modStack (s : State) (k : Nat) (f : StackSt → StackSt) : State := setStack s k (f (stackSt s k))

def linkSt (s : State) (l : Nat) : LinkSt := Tab.get {} s.links l
def setLink (s : State) (l : Nat) (v : LinkSt) : State := { s with links := Tab.set {} s.links l v }
def modLink (s : State) (l : Nat) (f : LinkSt → LinkSt) : State := setLink s l (f (linkSt s l))

def chanSt (s : State) (c : Nat) : ChanSt := Tab.get {} s.chans c
def setChan (s : State) (c : Nat) (v : ChanSt) : State := { s with chans := Tab.set {} s.chans c v }
def modChan (s : State) (c : Nat) (f : ChanSt → ChanSt) : State := setChan s c (f (chanSt s c))

def hostSt (s : State) (h : Nat) : HostSt := Tab.get {} s.hosts h
def setHost (s : State) (h : Nat) (v : HostSt) : State := { s with hosts := Tab.set {} s.hosts h v }
def modHost (s : State) (h : Nat) (f : HostSt → HostSt) : State := setHost s h (f (hostSt s h))

def headSt (s : State) (h : Nat) : HeadSt := Tab.get {} s.heads h
def setHead (s : State) (h : Nat) (v : HeadSt) : State := { s with heads := Tab.set {} s.heads h v }
def modHead (s : State) (h : Nat) (f : HeadSt → HeadSt) : State := setHead s h (f (headSt s h))

def hchan (s : State) (c : Nat) : HullChanSt := Tab.get {} s.hchans c
def setHchan (s : State) (c : Nat) (v : HullChanSt) : State := { s with hchans := Tab.set {} s.hchans c v }
def modHchan (s : State) (c : Nat) (f : HullChanSt → HullChanSt) : State := setHchan s c (f (hchan s c))

def granSt (s : State) (staging : Bool) (g : Nat) : Granule :=
  Tab.get {} (if staging then s.sgranules else s.granules) g
def setGran (s : State) (staging : Bool) (g : Nat) (v : Granule) : State :=
  if staging then { s with sgranules := Tab.set {} s.sgranules g v }
  else { s with granules := Tab.set {} s.granules g v }

/-- Apply an update at every index of a list. -/
def forAll {σ α : Type} (l : List α) (f : α → σ → σ) (s : σ) : σ := l.foldl (fun s a => f a s) s

/-! ### Coordinates (R6) -/

def pipX (p : Nat) : Nat := p % 160
def pipY (p : Nat) : Nat := p / 160
def pipAt (x y : Nat) : Nat := y * 160 + x
def fieldOfPip (p : Nat) : Nat := pipY p / 8 * 8 + pipX p / 20
def podOfPip (p : Nat) : Nat := fieldOfPip p * 10 + pipY p % 8 / 4 * 5 + pipX p % 20 / 4
def pipInPod (p : Nat) : Nat := pipY p % 4 * 4 + pipX p % 4
def fieldOfPod (d : Nat) : Nat := d / 10
/-- Pod grid coordinates of a pod. -/
def pcxOf (d : Nat) : Nat := fieldOfPod d % 8 * 5 + d % 10 % 5
def pcyOf (d : Nat) : Nat := fieldOfPod d / 8 * 2 + d % 10 / 5
def podAt (pcx pcy : Nat) : Nat := (pcy / 2 * 8 + pcx / 5) * 10 + pcy % 2 * 5 + pcx % 5
/-- The 16 pips of a pod in pip-in-pod order. -/
def pipsOfPod (d : Nat) : List Nat :=
  (List.range 16).map fun i => pipAt (4 * pcxOf d + i % 4) (4 * pcyOf d + i / 4)
/-- Inclusive range of numbers. -/
def span (lo hi : Nat) : List Nat := (List.range (hi + 1 - lo)).map (lo + ·)
/-- Pods of a rectangle of the pod grid, row-major. -/
def podsOfRect (x0 x1 y0 y1 : Nat) : List Nat := (span y0 y1).flatMap fun y => (span x0 x1).map fun x => podAt x y
/-- Pips of a rectangle of pods, row-major by (y, x) (Table 3.10). -/
def pipsOfRect (x0 x1 y0 y1 : Nat) : List Nat :=
  (span (4 * y0) (4 * y1 + 3)).flatMap fun y => (span (4 * x0) (4 * x1 + 3)).map fun x => pipAt x y
/-- Pods that run a job's program. -/
def jobPods (j : Job) : List Nat := podsOfRect j.pcx0 j.pcx1 j.pcy0 j.pcy1
/-- Pods in whose queues a job stands: a CT_COPY names one more (R236). -/
def heldPods (j : Job) : List Nat := jobPods j ++ j.extra.toList
def jobPips (j : Job) : List Nat := pipsOfRect j.pcx0 j.pcx1 j.pcy0 j.pcy1
/-- Pods of a field. -/
def podsOfField (f : Nat) : List Nat := (List.range 10).map (f * 10 + ·)
/-- Pips of a field. -/
def pipsOfField (f : Nat) : List Nat := (podsOfField f).flatMap pipsOfPod

/-- The field lies in the rectangle of a partition. -/
def inRect (p : PartSt) (f : Nat) : Bool :=
  decide (p.fx0 ≤ f % 8) && decide (f % 8 ≤ p.fx1) && decide (p.fy0 ≤ f / 8) && decide (f / 8 ≤ p.fy1)
/-- The field lies in partition `n` (R26). -/
def inPart (s : State) (n f : Nat) : Bool := (partSt s n).valid && inRect (partSt s n) f
/-- The partition of a field, if any. -/
def partOfField (s : State) (f : Nat) : Option Nat := (List.range 16).find? fun n => inPart s n f
/-- Fields of a partition. -/
def fieldsOfPart (s : State) (n : Nat) : List Nat := (List.range 64).filter (inPart s n)

/-! ### Jobs and commands by number -/

def jobOf (s : State) (j : Nat) : Option Job := s.jobs.find? (·.id = j)
def setJob (s : State) (j : Job) : State := { s with jobs := s.jobs.map fun k => if k.id = j.id then j else k }
def cmdOf (s : State) (k : Nat) : Option Cmd := s.cmds.find? (·.id = k)
def setCmd (s : State) (k : Cmd) : State := { s with cmds := s.cmds.map fun m => if m.id = k.id then k else m }
/-- The status of a command is decided; the first decision stands (R13). -/
def decideCmd (s : State) (k : Nat) (code : Byte) (site : Nat) : State :=
  { s with cmds := s.cmds.map fun m => if m.id = k && m.code = none then { m with code := some code, site := site } else m }
/-- The job that runs or waits on a pod. -/
def podBusy (s : State) (d : Nat) : Bool := s.jobs.any fun j => (heldPods j).contains d

/-! ### Free values (log 8) -/

/-- Byte `i` of the free values drawn from counter `k`. -/
def freeByte (k i : Nat) : Byte := BitVec.ofNat 8 ((Config.freeBits (k + i / 512)).toNat / 2 ^ (8 * (i % 512)))
/-- `n` free bytes. -/
def freeBytes (s : State) (n : Nat) : List Byte := (List.range n).map (freeByte s.free)
/-- The counter moves past `n` bytes of draws. -/
def drew (s : State) (n : Nat) : State := { s with free := s.free + (n + 511) / 512 }

/-! ### Module addresses (R269) and the granule check (R273) -/

def hbmTop : Nat := 0xC000000000
def stgBase : Nat := 0x10000000000
def reqBase : Nat := 0x10100000000
/-- The address lies in HBM; in a staging buffer; in a request window. -/
def isHbm (a : Nat) : Bool := decide (a < hbmTop)
def isStg (a : Nat) : Bool := decide (stgBase ≤ a) && decide (a < stgBase + 12 * 0x4000000)
def isReq (a : Nat) : Bool := decide (reqBase ≤ a) && decide (a < reqBase + 12 * 0x100000)
/-- The stack that holds an address. -/
def stackOf (a : Nat) : Nat :=
  if isHbm a then a / 0x1000000000 else if isStg a then (a - stgBase) / 0x4000000 else (a - reqBase) / 0x100000

/-- Line numbers of [a, a + n). -/
def linesOf (a n : Nat) : List Nat := (List.range ((a + n + 127) / 128 - a / 128)).map (a / 128 + ·)

/-- What a line or word reads as: its bytes, counted as corrected, detected. -/
structure LineRead where
  bytes : List Byte
  ce    : Bool
  ue    : Bool
  deriving DecidableEq, Repr

/-- Device symbols of 16 bits with a flipped bit, 64 of data and 8 of check bits (R276). -/
def symbolsHit (f : Nat) : Nat := (List.range 72).foldl (fun n i => n + b2n (decide (f / 2 ^ (16 * i) % 2 ^ 16 ≠ 0))) 0

/-- Bytes with bits flipped. -/
def flipBytes (bs : List Byte) (f : Nat) : List Byte := bs.zipIdx.map fun e => e.1 ^^^ BitVec.ofNat 8 (f / 2 ^ (8 * e.2))

/-- The CRC-32C of a 64 B half does not match what the check bits hold (R277). [DESIGN CHOICE, log 30] -/
def crcBroken (bs : List Byte) (f : Nat) : Bool :=
  (List.range 2).any fun h =>
    decide (crc32c (slice (flipBytes bs f) (64 * h) 64) ≠ crc32c (slice bs (64 * h) 64) ^^^ BitVec.ofNat 32 (f / 2 ^ (1024 + 32 * h)))

/-- What a line of HBM reads as under the protection of its granule (R276 to R278). -/
def hbmLine (s : State) (line : Nat) : LineRead :=
  let bs := Tab.getMany 0 s.hbm (128 * line) 128
  let f := (Tab.get 0 s.hbmFlips line).toNat
  if f = 0 then ⟨bs, false, false⟩
  else if (granSt s false (line / 2 ^ 23)).prot = 2 then ⟨flipBytes bs f, false, crcBroken bs f⟩
  else
    match symbolsHit f with
    | 1 => ⟨bs, true, false⟩
    | 2 => ⟨flipBytes bs f, false, true⟩
    | _ =>
      let r := (Config.deviceCode (BitVec.ofNat 1024 (ofBytes bs)) (BitVec.ofNat 1152 f)).toNat
      ⟨toBytes 128 r, decide (r / 2 ^ 1024 = 1), decide (r / 2 ^ 1024 ≥ 2)⟩

/-- What a word of the staging buffers reads as (R288). -/
def stgWord (s : State) (w : Nat) : WordRead :=
  codeWord (BitVec.ofNat 64 (ofBytes (Tab.getMany 0 s.staging (8 * w) 8))) (Tab.get 0 s.stgFlips w)

/-- Word numbers of [o, o + n). -/
def wordsIn (o n : Nat) : List Nat := (List.range ((o + n + 7) / 8 - o / 8)).map (o / 8 + ·)

/-- Bytes [a, a + n) of module memory as they read: HBM, or staging buffers. [DESIGN CHOICE, log 6] -/
def memRead (s : State) (a n : Nat) : List Byte :=
  if isHbm a then
    (if s.hbmFlips = [] then Tab.getMany 0 s.hbm a n else slice ((linesOf a n).flatMap fun l => (hbmLine s l).bytes) (a % 128) n)
  else if isStg a then
    (let o := a - stgBase
     if s.stgFlips = [] then Tab.getMany 0 s.staging o n
     else slice ((wordsIn o n).flatMap fun w => toBytes 8 (stgWord s w).word.toNat) (o % 8) n)
  else List.replicate n 0

/-- The line is stored as it reads, with a fresh codeword (R276). -/
def freshLine (l : Nat) (s : State) : State :=
  if Tab.get 0 s.hbmFlips l = 0 then s
  else { s with hbm := Tab.setMany 0 s.hbm (128 * l) (hbmLine s l).bytes, hbmFlips := Tab.set 0 s.hbmFlips l 0 }

/-- The word is stored as it reads, with a fresh codeword (R288). -/
def freshWord (w : Nat) (s : State) : State :=
  if Tab.get 0 s.stgFlips w = 0 then s
  else { s with staging := Tab.setMany 0 s.staging (8 * w) (toBytes 8 (stgWord s w).word.toNat), stgFlips := Tab.set 0 s.stgFlips w 0 }

/-- Write bytes of HBM: a line that they cover in part is read and merged, and each gets a fresh codeword (R276). -/
def storeHbm (s : State) (a : Nat) (bs : List Byte) : State :=
  let s := forAll (linesOf a bs.length) freshLine s
  { s with hbm := Tab.setMany 0 s.hbm a bs }

/-- Write bytes of the staging buffers, from byte `o` of them on: a word that they cover in part is read and merged, and each gets a fresh
codeword (R288). -/
def storeStg (s : State) (o : Nat) (bs : List Byte) : State :=
  let s := forAll (wordsIn o bs.length) freshWord s
  { s with staging := Tab.setMany 0 s.staging o bs }

/-- Write bytes of module memory. [DESIGN CHOICE, log 6] -/
def memWrite (s : State) (a : Nat) (bs : List Byte) : State :=
  if isHbm a then storeHbm s a bs else if isStg a then storeStg s (a - stgBase) bs else s

/-- The entry of the granule that holds an address, if an address of HBM or staging does. -/
def granAt (s : State) (a : Nat) : Option Granule :=
  if isHbm a then some (granSt s false (a / 2 ^ 30))
  else if isStg a then some (granSt s true ((a - stgBase) / 2 ^ 20))
  else none

/-- A context owns an assigned granule that is not being zeroed (R273). -/
def ctxOwns (s : State) (c : Nat) (g : Granule) : Bool :=
  g.prot ≠ 0 && !g.scrub && (ctxSt s c).created && g.host = (ctxSt s c).host && (g.share || g.ctx = c)
/-- A host owns a granule (R273). -/
def hostOwns (h : Nat) (g : Granule) : Bool := g.prot ≠ 0 && !g.scrub && g.host = h

/-- Addresses of the staging granules (1 MiB) that [a, a + n) touches, which is no coarser than HBM granules. -/
def granSteps (a n : Nat) : List Nat :=
  (List.range ((a + n - 1) / 2 ^ 20 + 1 - a / 2 ^ 20)).map fun i => max a ((a / 2 ^ 20 + i) * 2 ^ 20)

/-- Every byte of [a, a + n) passes the granule check for context `c`. -/
def ctxMem (s : State) (c a n : Nat) : Bool :=
  n = 0 || ((isHbm a && isHbm (a + n - 1)) || (isStg a && isStg (a + n - 1))) &&
    (granSteps a n).all fun b => match granAt s b with | some g => ctxOwns s c g | none => false
/-- The same within HBM only. -/
def ctxHbm (s : State) (c a n : Nat) : Bool := isHbm a && ctxMem s c a n
/-- Every byte of [a, a + n) passes the granule check for host `h`. -/
def hostMem (s : State) (h a n : Nat) : Bool :=
  n = 0 || ((isHbm a && isHbm (a + n - 1)) || (isStg a && isStg (a + n - 1))) &&
    (granSteps a n).all fun b => match granAt s b with | some g => hostOwns h g | none => false

/-- Every byte of [a, a + n) lies in an assigned granule that is not being zeroed, which R273 asks of every accessor. -/
def openMem (s : State) (a n : Nat) : Bool :=
  n = 0 || ((isHbm a && isHbm (a + n - 1)) || (isStg a && isStg (a + n - 1))) &&
    (granSteps a n).all fun b => match granAt s b with | some g => g.prot ≠ 0 && !g.scrub | none => false

/-! ### Writers (R355, R356) -/

/-- The management host, if any. -/
def isMgmt (s : State) (h : Nat) : Bool := s.cxl.mgmtValid && s.cxl.mgmtHost = h
/-- The acorn or the management host writes. -/
def priv (s : State) (w : Writer) : Bool := match w with | .acorn => true | .host h => isMgmt s h
/-- Only the management host writes. -/
def mgmtOnly (s : State) (w : Writer) : Bool := match w with | .acorn => false | .host h => isMgmt s h
/-- The host that owns the context page of `c` writes (R355). -/
def ownsPage (s : State) (w : Writer) (c : Nat) : Bool :=
  match w with
  | .acorn => false
  | .host h => Tab.get (0, false) s.cxl.pages (c / 16) = (h, true)

/-! ### Outwards -/

/-- [DESIGN CHOICE, log 9] -/
def send (s : State) (m : OutMsg) : State := { s with out := s.out ++ [m] }
/-- An MSI-X interrupt to a host that is attached (R347). [DESIGN CHOICE, log 9] -/
def msix (s : State) (h vec : Nat) : State := if (hostSt s h).state = 1 then send s (.msix h vec) else s
/-- A platform event: message, in-band interrupt, ALERT_N until acknowledged (R448). [DESIGN CHOICE, log 9] -/
def platformEvent (s : State) (sensor v : Nat) : State :=
  send { s with mgt := { s.mgt with events := s.mgt.events ++ [(sensor, v)] } } (.platformEvent sensor v)

/-! ### Trace records (R443 to R446) -/

/-- The source of a record formed in cycle `now`. -/
def formedNow (now : Nat) (src : Nat × Nat) (r : TraceRec) : Bool := r.time = now && r.kind = src.1 && r.index = src.2
/-- Records of a source formed in cycle `now` carry LOST. -/
def markLost (now : Nat) (src : Nat × Nat) (rs : List TraceRec) : List TraceRec :=
  rs.map fun r => if formedNow now src r then { r with lost := true } else r
def markFlit (now : Nat) (src : Nat × Nat) (f : TraceFlit) : TraceFlit := { f with recs := markLost now src f.recs }

/-- A record of a source is dropped in cycle `now` (R446): a record that the source forms in that cycle carries LOST, else its next one. -/
def dropRecord (now : Nat) (t : TraceSt) (src : Nat × Nat) : TraceSt :=
  let eg := if src.1 = 0 then Tab.get [] t.egress src.2 else []
  let same := t.queue.any (formedNow now src) || eg.any fun f => f.recs.any (formedNow now src)
  let t := { t with lost := true, dropCnt := bump t.dropCnt 1 }
  if same then
    { t with queue := markLost now src t.queue
             egress := if src.1 = 0 then Tab.set [] t.egress src.2 (eg.map (markFlit now src)) else t.egress }
  else { t with lostSrc := if t.lostSrc.contains src then t.lostSrc else src :: t.lostSrc }

/-- The control fabric forms a record: LOST of its source, then the sink queue of 256 (R444, R446). -/
def fabricRecord (s : State) (r : TraceRec) : State :=
  if !s.trc.en.getLsbD r.type then s
  else
    let src := (r.kind, r.index)
    let rec' := { r with time := s.cycle, lost := s.trc.lostSrc.contains src }
    let t := s.trc
    if t.queue.length ≥ 256 then { s with trc := dropRecord s.cycle t src }
    else { s with trc := { t with queue := t.queue ++ [rec'], lostSrc := t.lostSrc.filter (· ≠ src) } }

/-- A pip forms an INTERLOCK record in its trace egress of 4 flits (R446). -/
def pipRecord (s : State) (p : Nat) (r : TraceRec) : State :=
  if !s.trc.en.getLsbD 1 then s
  else
    let src := (0, p)
    let q := Tab.get [] s.trc.egress p
    let rec' := { r with time := s.cycle, kind := 0, index := p, lost := s.trc.lostSrc.contains src }
    let clear := s.trc.lostSrc.filter (· ≠ src)
    match q.getLast? with
    | some f =>
      if f.recs.length < 2 then
        let q' := q.dropLast ++ [{ f with recs := f.recs ++ [rec'] }]
        { s with trc := { s.trc with egress := Tab.set [] s.trc.egress p q', lostSrc := clear } }
      else if q.length < 4 then
        let q' := q ++ [{ src := p, recs := [rec'] }]
        { s with trc := { s.trc with egress := Tab.set [] s.trc.egress p q', lostSrc := clear } }
      else { s with trc := dropRecord s.cycle s.trc src }
    | none =>
      { s with trc := { s.trc with egress := Tab.set [] s.trc.egress p [{ src := p, recs := [rec'] }], lostSrc := clear } }

/-- A POWER record of a field (KIND 2) or of the module. -/
def powerRecord (s : State) (field : Option Nat) (event arg1 : Nat) (code : Byte) : State :=
  fabricRecord s { type := 3, code := code, kind := if field = none then 3 else 2, index := field.getD 0,
                   arg0 := event, arg1 := arg1 }

def fstateNum : FState → Nat
  | .f0 => 0 | .f1 => 1 | .f2 => 2 | .f3 => 3

/-- A field changes state, with its POWER record (Table 18.3, event 1). -/
def fieldTo (s : State) (f : Nat) (st : FState) : State :=
  let old := (fieldSt s f).state
  if old = st then s
  else powerRecord (modField s f fun v => { v with state := st }) (some f) 1 (fstateNum st + 4 * fstateNum old) 0

/-! ### Sync objects (R89 to R93) -/

/-- [DEDUCED, log 24] -/
def syncField (i : Nat) : Nat := i / 256
/-- The field stays in F3: out of service (R24), excluded (R428), or the module is not in M0. [DEDUCED, log 24] -/
def heldOff (s : State) (f : Nat) : Bool :=
  decide (128 ≤ (nth s.mod.map (8 * f) 0).toNat) || s.boot.excl.contains f || s.pwr.mstate ≠ .m0

/-- The module returns a field in F2 to F1 for a held access; the enable is latched (R93, R143, R399). -/
def enableField (s : State) (f : Nat) : State :=
  let v := fieldSt s f
  if heldOff s f then s
  else match v.trans with
  | .down _ => modField s f fun v => { v with pending := true }
  | .wake => s
  | .none =>
    match v.state with
    | .f2 => modField s f fun v => { v with trans := .wake }
    | .f3 =>
      let s := modField s f fun v => { v with trans := .wake, railAck := false, req := .on v.vrun, reqAt := s.cycle }
      send (send s (.avs (f / 8) (f % 8) 0 (fieldSt s f).vrun)) (.avs (f / 8) (f % 8) 1 1)
    | _ => s

/-- An operation on an object of the field can be applied now (R93). -/
def syncReady (s : State) (i : Nat) : Bool := (fieldSt s (syncField i)).state = .f0 || (fieldSt s (syncField i)).state = .f1

def syncVal (s : State) (i : Nat) : Word32 := Tab.get 0 s.syncs i
def syncSet (s : State) (i : Nat) (v : Word32) : State := { s with syncs := Tab.set 0 s.syncs i v }
/-- Add modulo 2^32 (R89). -/
def syncAdd (s : State) (i add : Nat) : State :=
  { syncSet s i (syncVal s i + BitVec.ofNat 32 add) with adds := Tab.set 0 s.adds i (Tab.get 0 s.adds i + BitVec.ofNat 32 add) }
/-- A WAIT is satisfied (R89). -/
def satisfied (value thresh : Word32) : Bool := decide (0 ≤ (value - thresh).toInt)

/-- The object is allocated to the context and lies in its partition (R91). -/
def ownsSync (s : State) (c i : Nat) : Bool :=
  let x := ctxSt s c
  x.created && x.part ≠ 0 && decide (x.sbase ≤ i) && decide (i < x.sbase + x.scount) && inPart s (x.part - 1) (syncField i)

/-- A grant of some context gives `c` the use of the object (R92). -/
def grantedSync (s : State) (c i : Nat) (signal : Bool) : Bool :=
  s.ctxs.any fun e =>
    e.2.created && decide (e.2.sbase ≤ i) && decide (i < e.2.sbase + e.2.scount) &&
    e.2.grants.any fun g => g.2.valid && g.2.grantee = c && (!signal || g.2.sig)

/-- The context may name the object in a WAIT or MOD_CTX_SYNC_SEL; with `signal`, in SIGNAL or SIG_OBJ (R91). -/
def mayName (s : State) (c i : Nat) (signal : Bool) : Bool := ownsSync s c i || grantedSync s c i signal

end Sys2Proof.Machine
end

