-- ==== Sys2Proof/Machine/Plan.lean ====
section
/-!
DEFINITION. What the plans of an admitted image say (chapter 4): the repair map (R63, R64, R129), the base plan and its
routes (R469, R470), partition plans and their slot tables (R109), the path of a flit (R60, R109), credit start values
(R111), and the routes that are enabled (R119).
-/
namespace Sys2Proof.Machine

/-! ### Repair map -/

/-- Byte of a map that describes in-field row `row` of a field (R129). -/
def mapByte (m : List Byte) (f row : Nat) : Nat := (nth m (8 * f + row) 0).toNat
def failCol (m : List Byte) (f row : Nat) : Nat := mapByte m f row % 32
/-- The field is out of service (R24). -/
def oos (m : List Byte) (f : Nat) : Bool := decide (mapByte m f 0 ≥ 128)
/-- A repair moves logical in-field column `c` of the row one column east (R63). -/
def shifted (m : List Byte) (f row c : Nat) : Bool := decide (failCol m f row ≤ 19) && decide (failCol m f row ≤ c)
/-- The pip's site is shifted. -/
def pipShift (m : List Byte) (p : Nat) : Bool := shifted m (fieldOfPip p) (pipY p % 8) (pipX p % 20)
/-- Physical column of a pip, 0 to 167. -/
def siteX (m : List Byte) (p : Nat) : Nat := pipX p / 20 * 21 + pipX p % 20 + b2n (pipShift m p)

/-- The site of physical column `sx` in row `y` has failed and is bypassed. -/
def badSite (m : List Byte) (sx y : Nat) : Bool :=
  let c := failCol m (y / 8 * 8 + sx / 21) (y % 8)
  decide (c ≤ 20) && c = sx % 21

/-- Neighbour of a pip in direction 0 N, 1 E, 2 S, 3 W, if it lies on the wafer. -/
def neighbour (p d : Nat) : Option Nat :=
  match d with
  | 0 => if pipY p = 0 then none else some (p - 160)
  | 1 => if pipX p = 159 then none else some (p + 1)
  | 2 => if pipY p = 63 then none else some (p + 160)
  | _ => if pipX p = 0 then none else some (p - 1)

/-- Cycles of the hop between two neighbours: one, and one more for each bypass crossed (R64). [DEDUCED, log 21] -/
def hopCycles (m : List Byte) (p q : Nat) : Nat :=
  if pipY p = pipY q then
    let a := min (siteX m p) (siteX m q)
    let b := max (siteX m p) (siteX m q)
    1 + ((span (a + 1) (b - 1)).filter fun sx => badSite m sx (pipY p)).length
  else 1 + b2n (pipShift m p != pipShift m q)

/-- Cycles along a row or column from `p` in direction `d` to the pip `n` hops away. [DEDUCED, log 21] -/
def legCycles (m : List Byte) (d : Nat) : Nat → Nat → Nat
  | 0, _ => 0
  | n + 1, p => match neighbour p d with | none => 0 | some q => hopCycles m p q + legCycles m d n q

/-- Short-position offset h_d of a pip's output (Table 4.3). -/
def shortOffset (m : List Byte) (p d : Nat) : Nat :=
  match d with
  | 0 => legCycles m 0 (63 - pipY p) (pipAt (pipX p) 63)
  | 1 => legCycles m 1 (pipX p) (pipAt 0 (pipY p))
  | 2 => legCycles m 2 (pipY p) (pipAt (pipX p) 0)
  | _ => legCycles m 3 (159 - pipX p) (pipAt 159 (pipY p))

/-- Position `f` of output `d` is reserved; is a short position; is a trace position (R113). [DEDUCED, log 21] -/
def reservedPos (m : List Byte) (p d f : Nat) : Bool := (f + 4096 - shortOffset m p d % 4096) % 32 = 0
/-- [DEDUCED, log 21] -/
def shortPos (m : List Byte) (p d f : Nat) : Bool := (f + 4096 - shortOffset m p d % 4096) % 64 = 0
def tracePos (m : List Byte) (p d f : Nat) : Bool := (f + 4096 - shortOffset m p d % 4096) % 64 = 32

/-- REPAIR_FP (R130). -/
def repairFp (s : State) : Word64 := fingerprint s.mod.map

/-! ### Base plan (R469, R470) -/

def rsvOff (b : List Byte) : Nat := field b 8 4
def rsvLen (b : List Byte) : Nat := field b 0xC 4
def bhbmOff (b : List Byte) : Nat := field b 0x10 4
def bhbmLen (b : List Byte) : Nat := field b 0x14 4
def linkOff (b : List Byte) : Nat := field b 0x18 4
def nLink (b : List Byte) : Nat := field b 0x1C 1
def rsvOf (b : List Byte) : List Byte := slice b (rsvOff b) (rsvLen b)
/-- NROUTE, NENT and NHRSV of a reservation section. -/
def rsvCount (l : List Byte) (i : Nat) : Nat := field l (4 * i) 4
/-- Bytes that its header gives the section. -/
def rsvSize (l : List Byte) : Nat := 0x1400010 + 16 * rsvCount l 0 + 8 * rsvCount l 1 + 8 * rsvCount l 2
/-- `n` records of `k` bytes from byte `a` on, as numbers. -/
def records (l : List Byte) (a k n : Nat) : List Nat := (List.range n).map fun i => field l (a + k * i) k
/-- The reservation that a section spells (Table 4.13). -/
def parseRsv (l : List Byte) : Rsv :=
  { owned := ((slice l 0x10 0x1400000).zipIdx.filter fun b => b.1 ≠ 0).map fun b => (b.2, b.1)
    routes := records l 0x1400010 16 (rsvCount l 0)
    ents := records l (0x1400010 + 16 * rsvCount l 0) 8 (rsvCount l 1)
    hrsv := records l (0x1400010 + 16 * rsvCount l 0 + 8 * rsvCount l 1) 8 (rsvCount l 2) }

/-- The base plan owns position `f` of output `d` of a pip. -/
def owns (r : Rsv) (p d f : Nat) : Bool := bit (Tab.get 0 r.owned ((p * 4 + d) * 512 + f / 8)).toNat (f % 8)

/-- An end of a route: kind, index, pip. -/
structure RouteEnd where
  kind : Nat := 0
  idx  : Nat := 0
  pip  : Nat := 0
  deriving DecidableEq, Repr

/-- The record of a route (Table 4.14). -/
def routeRec (r : Rsv) (i : Nat) : Nat := nth r.routes i 0
/-- An end from its kind, index and pip fields. -/
def recEnd (w lo : Nat) : RouteEnd := ⟨bits w (lo + 7) lo, bits w (lo + 15) (lo + 8), pipAt (bits w (lo + 23) (lo + 16)) (bits w (lo + 29) (lo + 24))⟩
def routeA (r : Rsv) (i : Nat) : RouteEnd := recEnd (routeRec r i) 0
def routeB (r : Rsv) (i : Nat) : RouteEnd := recEnd (routeRec r i) 32
def routeDir (r : Rsv) (i : Nat) : Nat := bits (routeRec r i) 71 64
/-- The end of a route of the given kind. -/
def routeEnd (r : Rsv) (i kind : Nat) : Option RouteEnd :=
  if (routeA r i).kind = kind then some (routeA r i) else if (routeB r i).kind = kind then some (routeB r i) else none
/-- The link or stack at an end of a route. -/
def routeLink (r : Rsv) (i : Nat) : Option Nat := (routeEnd r i 2).map (·.idx)
def routeStack (r : Rsv) (i : Nat) : Option Nat := (routeEnd r i 1).map (·.idx)
/-- The pip at the end of a route that lies in a partition. -/
def routePip (r : Rsv) (i : Nat) : Option Nat := (routeEnd r i 0).map (·.pip)
/-- The ways of a route, from an end to an end (Table 4.14). -/
def routeWays (r : Rsv) (i : Nat) : List (RouteEnd × RouteEnd) :=
  match routeDir r i with
  | 0 => [(routeA r i, routeB r i)]
  | 1 => [(routeB r i, routeA r i)]
  | _ => [(routeA r i, routeB r i), (routeB r i, routeA r i)]

/-! ### Attachment pips (R270, R296, R354, R446) -/

/-- Attachment pip `a` of a stack (Table 11.2). -/
def stackPip (k a : Nat) : Nat :=
  match k / 3 with
  | 0 => pipAt (nth [10, 70, 130] (k % 3) 0 + a) 0
  | 1 => pipAt 159 (nth [2, 22, 42] (k % 3) 0 + a)
  | 2 => pipAt (nth [130, 70, 10] (k % 3) 0 + a) 63
  | _ => pipAt 0 (nth [42, 22, 2] (k % 3) 0 + a)

/-- Attachment pips of a link (Table 12.1): direction l / 6, an odd one at the north edge. -/
def linkPips (l : Nat) : List Nat :=
  let d := l / 6
  if d % 2 = 1 then (let m := 6 * ((d - 1) / 2) + l % 6; [pipAt (30 + 2 * m) 0, pipAt (31 + 2 * m) 0])
  else (let m := 6 * (d / 2) + l % 6; [pipAt (90 + 2 * m) 63, pipAt (91 + 2 * m) 63])

/-- Pips at which an end of a route may lie (R470): an attachment pip of its unit, or where a column of the trace paths ends. -/
def endPips (e : RouteEnd) : List Nat :=
  match e.kind with
  | 0 => [e.pip]
  | 1 => (List.range 20).map (stackPip e.idx)
  | 2 => linkPips e.idx
  | 3 => (List.range 8).map fun a => pipAt (40 + a) 63
  | _ => (List.range 32).map fun c => pipAt (96 + c) 0

/-- An ENTRIES record: pip, frame position, slot table entry. -/
structure REntry where
  pip : Nat
  pos : Nat
  ent : Nat
  deriving DecidableEq, Repr

def rEntry (w : Nat) : REntry := ⟨bits w 13 0, bits w 25 14, bits w 63 32⟩
def rEntries (r : Rsv) : List REntry := r.ents.map rEntry

/-- The reservation in force. -/
def resv (s : State) : Rsv := s.mod.resv

/-! ### Slot tables (R109) -/

/-- Source and credit counter of output `d` of an entry. -/
def entSrc (e d : Nat) : Nat := bits e (6 * d + 2) (6 * d)
def entCr (e d : Nat) : Nat := bits e (6 * d + 5) (6 * d + 3)
/-- The flit arriving on input `d` is delivered. -/
def entDlv (e d : Nat) : Bool := bit e (24 + d)

/-- Some output of an entry, or its pip, takes input `i`. -/
def takesInput (e i : Nat) : Bool := entDlv e i || (List.range 4).any fun o => entSrc e o = i + 1

/-- Pips of a partition's rectangle. -/
def partPips (p : PartSt) : List Nat :=
  (span (8 * p.fy0) (8 * p.fy1 + 7)).flatMap fun y => (span (20 * p.fx0) (20 * p.fx1 + 19)).map fun x => pipAt x y

/-- Entry of a partition plan for a pip at a position: tables are row-major by (y, x). -/
def planEntry (pt : PartSt) (pip f : Nat) : Nat :=
  let w := 20 * (pt.fx1 + 1 - pt.fx0)
  let k := (pipY pip - 8 * pt.fy0) * w + (pipX pip - 20 * pt.fx0)
  field pt.plan (4 * (k * 2 ^ pt.plog2 + f % 2 ^ pt.plog2)) 4

/-- The output that feeds input `i` of a pip at a frame position: its pip, direction and position, if the input has a neighbour. -/
def feeder (m : List Byte) (pip i f : Nat) : Option (Nat × Nat × Nat) :=
  (neighbour pip i).map fun q => (q, (i + 2) % 4, (f + 4096 - hopCycles m pip q) % 4096)

/-- A flit of the base plan arrives on input `i` at the position: the output that feeds it is owned, or it comes from outside the wafer. -/
def baseFed (m : List Byte) (r : Rsv) (pip i f : Nat) : Bool :=
  match feeder m pip i f with
  | none => true
  | some (q, d, g) => owns r q d g

/-- The pip is the exit of an enabled transit route. -/
def exitAt (s : State) (pip : Nat) : Bool :=
  s.mod.transit.any fun i => (routeWays (resv s) i).any fun w => w.2.kind = 0 && w.2.pip = pip

/-- The slot table entry of a router at a frame position: the base plan at the positions it owns (chapter 4). Delivery follows the plan
whose flit arrives: a flit of a transit route is delivered only by the base plan, or by a partition plan at the route's exit (R28, R120,
R121). -/
def slotEntry (s : State) (pip f : Nat) : Nat :=
  let r := resv s
  let pe := match partOfField s (fieldOfPip pip) with
    | some n => if (partSt s n).hasPlan then planEntry (partSt s n) pip f else 0
    | none => 0
  let be := (((rEntries r).find? fun e => e.pip = pip && e.pos = f).map (·.ent)).getD 0
  (List.range 4).foldl (fun acc d =>
    let src := if owns r pip d f then be else pe
    let dlv := if baseFed s.mod.map r pip d f then bit be (24 + d) || (exitAt s pip && bit pe (24 + d)) else bit pe (24 + d)
    acc + bits src (6 * d + 5) (6 * d) * 2 ^ (6 * d) + b2n dlv * 2 ^ (24 + d)) 0

/-- Where a copy of a flit ends: delivered at a pip from an input port, or out of the wafer at an attachment. -/
inductive Dest where
  | pip (p port : Nat) | edge (p port : Nat)
  deriving DecidableEq, Repr

/-- Ends of a flit that leaves output `d` of `pip` at frame position `f`, with the cycles it takes (R60, R109). -/
def flitPath (s : State) : Nat → Nat → Nat → Nat → Nat → List (Dest × Nat)
  | 0, _, _, _, _ => []
  | fuel + 1, pip, d, f, t =>
    match neighbour pip d with
    | none => [(.edge pip d, t)]
    | some q =>
      let c := hopCycles s.mod.map pip q
      let g := (f + c) % 4096
      let inp := (d + 2) % 4
      let e := slotEntry s q g
      (if entDlv e inp then [(.pip q inp, t + c)] else []) ++
      (List.range 4).flatMap fun o => if entSrc e o = inp + 1 then flitPath s fuel q o g (t + c) else []

/-- Longest path on the wafer. -/
def pathFuel : Nat := 1024

/-- Destination storages of the route of credit counter `cr` of a pip: of every slot that names the counter (R111). -/
def routeDests (s : State) (pip cr : Nat) : List Dest :=
  ((List.range 16384).flatMap fun i =>
    let e := slotEntry s pip (i % 4096)
    if entSrc e (i / 4096) = 5 && entCr e (i / 4096) = cr then (flitPath s pathFuel pip (i / 4096) (i % 4096) 0).map (·.1)
    else []).eraseDups

/-- Routes that end in one ingress queue (R111). -/
def routesInto (s : State) (pips : List Nat) (d : Dest) : Nat :=
  (pips.flatMap fun p => (List.range 8).filter fun cr => (routeDests s p cr).contains d).length

/-- Credit start value of a destination storage (Table 4.2): an ingress queue, or an attachment under class 1 credits. -/
def roomOf : Dest → Nat
  | .pip _ _ => 8
  | .edge _ _ => 16

/-- Number of a destination storage, as a returning credit names it. -/
def destNum : Dest → Nat
  | .pip p port => 8 * p + port
  | .edge p port => 8 * (10240 + p) + port

/-- Credit start value of a route (R111). -/
def creditStart (s : State) (pips : List Nat) (pip cr : Nat) : Nat :=
  match routeDests s pip cr with
  | [] => 0
  | l => (l.map fun x => roomOf x / max 1 (routesInto s pips x)).foldl min 16

/-! ### Transit routes (R119) -/

/-- The outputs along a route: from end A, or end B for direction 1, through the route entries. -/
def routeTrail (r : Rsv) (m : List Byte) : Nat → Nat → Nat → Nat → List (Nat × Nat)
  | 0, _, _, _ => []
  | fuel + 1, pip, inp, f =>
    match (rEntries r).find? fun e => e.pip = pip && e.pos = f with
    | none => [(pip, f)]
    | some e =>
      (pip, f) :: (List.range 4).flatMap fun o =>
        if entSrc e.ent o = inp then
          match neighbour pip o with
          | none => []
          | some q => routeTrail r m fuel q ((o + 2) % 4 + 1) ((f + hopCycles m pip q) % 4096)
        else []

/-- Router entries at the pip where a flit of the route starts: input or egress source and position. -/
def routeStarts (r : Rsv) (pip : Nat) : List (Nat × Nat) :=
  ((rEntries r).filter (·.pip = pip)).flatMap fun e =>
    ((List.range 4).filterMap fun o => let c := entSrc e.ent o; if c = 0 then none else some (c, e.pos))

/-- Fields that the entries of a route cross. -/
def routeFields (r : Rsv) (m : List Byte) (i : Nat) : List Nat :=
  let from_ := if routeDir r i = 1 then (routeB r i).pip else (routeA r i).pip
  (((routeStarts r from_).flatMap fun st => (routeTrail r m pathFuel from_ st.1 st.2).map fun x => fieldOfPip x.1)
    ++ [fieldOfPip (routeA r i).pip, fieldOfPip (routeB r i).pip]).eraseDups

/-- The output `port` of a pip at a position sends into route `i` from `w.1` to `w.2`: the trail of entries from there reaches the other
end. -/
def wayFrom (r : Rsv) (m : List Byte) (pip port pos : Nat) (w : RouteEnd × RouteEnd) : Bool :=
  w.1.pip = pip && owns r pip port pos &&
  match neighbour pip port with
  | none => w.2.pip = pip
  | some q => (routeTrail r m pathFuel q ((port + 2) % 4 + 1) ((pos + hopCycles m pip q) % 4096)).any fun x => x.1 = w.2.pip

/-! ### Lines between a stack and a pip (R111, R119, R270, R281) -/

/-- Edge-facing port of the attachment pips of a stack (Table 11.2). -/
def stackPort (k : Nat) : Nat := k / 3

/-- In position `f` a flit of route `i` comes in at attachment `a` of stack `k`: a router entry takes the edge input there, and the trail of
entries from it reaches the route's other end. -/
def routeIn (r : Rsv) (m : List Byte) (i k a f : Nat) : Bool :=
  let p := stackPip k a
  (rEntries r).any (fun e => e.pip = p && e.pos = f && takesInput e.ent (stackPort k)) &&
  (routeWays r i).any fun w => w.1.kind = 1 && w.1.idx = k && w.1.pip = p &&
    (routeTrail r m pathFuel p (stackPort k + 1) f).any fun x => x.1 = w.2.pip

/-- Ends of a flit that comes in on input `inp` of `pip` at position `f`, with the cycles it takes. -/
def entryPath (s : State) (pip inp f : Nat) : List (Dest × Nat) :=
  let e := slotEntry s pip f
  (if entDlv e inp then [(.pip pip inp, 0)] else []) ++
  (List.range 4).flatMap fun o => if entSrc e o = inp + 1 then flitPath s pathFuel pip o f 0 else []

/-- Cycles that a flit which comes in at attachment `a` of stack `k` at position `f` takes to pip `p`, if it is delivered there. -/
def travel (s : State) (k a f p : Nat) : Option Nat :=
  ((entryPath s (stackPip k a) (stackPort k) f).find? fun d => match d.1 with | .pip q _ => q = p | .edge _ _ => false).map (·.2)

/-- Routes of a list that bring lines from a stack to pip `p`. -/
def linesInto (s : State) (is : List Nat) (p : Nat) : List Nat :=
  is.filter fun i => (routeWays (resv s) i).any fun w => w.1.kind = 1 &&
    (List.range 20).any fun a => stackPip w.1.idx a = w.1.pip && (rEntries (resv s)).any fun e =>
      e.pip = w.1.pip && routeIn (resv s) s.mod.map i w.1.idx a e.pos && (travel s w.1.idx a e.pos p).isSome

/-- The partition an end of a route lies in, where the end is a pip. -/
def endPart (s : State) (e : RouteEnd) : Option Nat := if e.kind = 0 then partOfField s (fieldOfPip e.pip) else none

/-- R119 lets the module enable a route. -/
def routeAllowed (s : State) (i : Nat) : Bool :=
  let r := resv s
  let a := routeA r i
  let b := routeB r i
  let live (e : RouteEnd) := e.kind ≠ 0 || (match endPart s e with | some n => !(partSt s n).fenced | none => false)
  live a && live b
  && (match endPart s a, endPart s b with | some n, some m => n = m | _, _ => true)
  && (routeFields r s.mod.map i).all fun f => !oos s.mod.map f && !s.boot.excl.contains f

/-- The routes to enable. -/
def allowedRoutes (s : State) : List Nat := (List.range ((resv s).routes.length)).filter (routeAllowed s)

/-- The partition a route serves: that of its pip end. -/
def routePart (s : State) (i : Nat) : Option Nat :=
  match endPart s (routeA (resv s) i) with | some n => some n | none => endPart s (routeB (resv s) i)

/-- A trace path of a pip of field `f` crosses field `g` (R446): along the row to its column, then north. -/
def traceCross (f g : Nat) : Bool :=
  (List.range 20).any fun i =>
    let x := 20 * (f % 8) + i
    let c := (96 + x % 32) / 20
    (g / 8 = f / 8 && decide (min (f % 8) c ≤ g % 8) && decide (g % 8 ≤ max (f % 8) c)) || (g % 8 = c && decide (g / 8 ≤ f / 8))

/-- The field is never lowered below F1 (R399, step 2): an enabled transit route or a trace route in use. -/
def floorF1 (s : State) (f : Nat) : Bool :=
  s.mod.transit.any (fun i => (routeFields (resv s) s.mod.map i).contains f)
  || (s.trc.en.getLsbD 1 && (List.range 64).any fun e =>
        ((fieldSt s e).state = .f0 || (fieldSt s e).state = .f1) && traceCross e f)

/-- The state a shutdown enters, after the floor of R399; `want` is REST or F3. -/
def floored (s : State) (f : Nat) (want : FState) : FState :=
  if oos s.mod.map f || s.boot.excl.contains f then .f3
  else if floorF1 s f then .f1
  else if partOfField s f = none then .f3
  else want

/-! ### HBM schedule and power plan sections of a partition plan (R283, R405) -/

/-- Bytes of the slot tables of a plan. -/
def tablesLen (pt : PartSt) : Nat := (partPips pt).length * 2 ^ pt.plog2 * 4
/-- The HBM schedule section: count, records. -/
def hbmCount (plan : List Byte) (o : Nat) : Nat := field plan o 4
def hbmRec (plan : List Byte) (o i : Nat) : Nat := field plan (o + 8 + 8 * i) 8
/-- The power plan section follows it. -/
def powerOff (plan : List Byte) (o : Nat) : Nat := o + 8 + 8 * hbmCount plan o
def powerCount (plan : List Byte) (o : Nat) : Nat := field plan o 4

/-- A power step record (Table 16.6). -/
structure PStep where
  prog   : Nat
  offset : Nat
  fld    : Nat
  dv     : Int
  res    : Bool
  deriving DecidableEq, Repr

def powerRec (plan : List Byte) (o i : Nat) : PStep :=
  let a := o + 8 + 16 * i
  ⟨field plan a 8, field plan (a + 8) 4, field plan (a + 12) 1 % 64, sgn 8 (field plan (a + 13) 1),
    field plan (a + 12) 1 ≥ 64 || field plan (a + 14) 2 ≠ 0⟩

/-- Power steps of a partition's plan. -/
def powerSteps (pt : PartSt) : List PStep :=
  let o := powerOff pt.plan (tablesLen pt)
  (List.range (powerCount pt.plan o)).map (powerRec pt.plan o)

/-- LEAD of a power step (R405). -/
def stepLead (s : State) : Nat := if s.nvm.gradeE then 102400 else 128000

/-! ### Admission checks (R125, R471) -/

/-- Slots of a frame (R279). -/
def frameSlots (s : State) : Nat := if s.nvm.gradeE then 3200 else 2560

/-- Entry of a plan under check: the plan's bytes for a rectangle, overlaid by the reservation. -/
structure PlanIn where
  pt   : PartSt
  resv : Rsv

/-- Outputs of an entry under check that the plan drives. -/
def entryOk (m : List Byte) (pi : PlanIn) (pip f : Nat) : Bool :=
  let e := planEntry pi.pt pip f
  bits e 31 28 = 0 &&
  (List.range 4).all fun d =>
    let c := entSrc e d
    (c ≤ 5) && (c = 5 || entCr e d = 0) &&
    (c = 0 || (!reservedPos m pip d f && !owns pi.resv pip d f))

/-- The state with the plan in force, for following flits. -/
def underPlan (s : State) (n : Nat) (pt : PartSt) (base : List Byte) : State :=
  setPart { s with mod := { s.mod with base := base, resv := parseRsv (rsvOf base) } } n { pt with hasPlan := true }

/-- Consistency of a plan entry with its neighbours (R112, R120): what it sends stays in the rectangle and is taken there by the plan; on
what it takes, the plan's flits can arrive, or it is the exit of an enabled route. -/
def entryMeets (s : State) (pt : PartSt) (pip f : Nat) : Bool :=
  let m := s.mod.map
  let pe := planEntry pt pip f
  (List.range 4).all (fun d =>
    entSrc pe d = 0 ||
    match neighbour pip d with
    | none => false
    | some q => inRect pt (fieldOfPip q) && takesInput (planEntry pt q (f + hopCycles m pip q)) ((d + 2) % 4))
  && (List.range 4).all fun i =>
    !takesInput pe i ||
    match feeder m pip i f with
    | none => exitAt s pip
    | some (q, d, g) =>
      if inRect pt (fieldOfPip q) && !owns (resv s) q d g then entSrc (planEntry pt q g) d ≠ 0
      else exitAt s pip && owns (resv s) q d g

/-- Rectangle of a reservation record equals the partition's. -/
def sameRect (pt : PartSt) (w : Nat) : Bool :=
  bits w 22 20 = pt.fx0 && bits w 25 23 = pt.fx1 && bits w 28 26 = pt.fy0 && bits w 31 29 = pt.fy1

/-- A route ends in a rectangle (R470). -/
def endsIn (r : Rsv) (pt : PartSt) (i : Nat) : Bool :=
  decide (i < r.routes.length) &&
  (((routeA r i).kind = 0 && inRect pt (fieldOfPip (routeA r i).pip)) ||
   ((routeB r i).kind = 0 && inRect pt (fieldOfPip (routeB r i).pip)))

/-- The HBM schedule section of a plan passes R283. -/
def hbmSectionOk (s : State) (pi : PlanIn) : Bool :=
  let o := tablesLen pi.pt
  let n := hbmCount pi.pt.plan o
  let recs := (List.range n).map (hbmRec pi.pt.plan o)
  let pos (w : Nat) := (bits w 3 0, bits w 15 4, bits w 19 16)
  field pi.pt.plan (o + 4) 4 = 0 && decide (recs.map pos).Nodup
  && recs.all fun w =>
      let e := bits w 51 20
      bits w 63 52 = 0 && decide (bits w 3 0 < 12) && decide (bits w 15 4 < frameSlots s)
      && [0, 1, 2, 5, 6].contains (bits e 2 0) && bits e 31 20 = 0
      && (if bits e 2 0 = 1 || bits e 2 0 = 2 then decide (bits e 7 3 < 20) else bits e 7 3 = 0)
      && (bits e 2 0 = 0 || (endsIn pi.resv pi.pt (bits e 19 8)
            && (routeFields pi.resv s.mod.map (bits e 19 8)).all fun f => !s.boot.excl.contains f))
      && (pi.resv.hrsv.any fun h =>
          bits h 19 0 = bits w 19 0 && sameRect pi.pt h)

/-- The power plan of a plan passes R405. -/
def powerOk (s : State) (pt : PartSt) : Bool :=
  let o := powerOff pt.plan (tablesLen pt)
  let n := powerCount pt.plan o
  let rs := (List.range n).map (powerRec pt.plan o)
  let gap := if s.nvm.gradeE then 25600 else 32000
  let key (r : PStep) := (r.prog * 64 + r.fld) * 2 ^ 32 + r.offset
  decide (n ≤ 1024) && field pt.plan (o + 4) 4 = 0
  && (List.zip rs (rs.drop 1)).all (fun ab => decide (key ab.1 < key ab.2))
  && rs.all (fun r => !r.res && inRect pt r.fld && decide (-32 ≤ r.dv) && decide (r.dv ≤ 32)
      && decide (r.offset ≥ stepLead s))
  && (List.zip rs (rs.drop 1)).all (fun ab =>
      !(ab.1.prog = ab.2.prog && ab.1.fld = ab.2.fld) || decide (ab.2.offset - ab.1.offset ≥ gap))
  && rs.all fun r =>
      decide ((rs.filter fun q => q.prog = r.prog && q.fld / 8 = r.fld / 8
        && decide (r.offset ≤ q.offset) && decide (q.offset - r.offset ≤ gap)).length ≤ 4)

/-- The table checks of one partition plan (R111, R112, R113, R118, R120, R283, R405). -/
def planOk (s : State) (n : Nat) (pt : PartSt) (base : List Byte) : Bool :=
  let pi : PlanIn := ⟨pt, parseRsv (rsvOf base)⟩
  let s' := underPlan s n pt base
  let pips := partPips pt
  decide (powerOff pt.plan (tablesLen pt) + 8 ≤ pt.plan.length)
  && decide (powerOff pt.plan (tablesLen pt) + 8 + 16 * powerCount pt.plan (powerOff pt.plan (tablesLen pt)) ≤ pt.plan.length)
  && pips.all (fun p => (List.range 4096).all fun f => entryOk s.mod.map pi p f)
  && pips.all (fun p => (List.range 4096).all fun f => entryMeets s' pt p f)
  && pips.all (fun p => (List.range 8).all fun cr =>
      (routeDests s' p cr).all fun x => decide (routesInto s' pips x ≤ roomOf x))
  && pips.all (fun p => decide ((linesInto s' (List.range pi.resv.routes.length) p).length ≤ 16))
  && hbmSectionOk s pi && powerOk s pt

/-! ### Link section (R313, R314, R317) -/

def linkRecLen : Nat := 71696
def linkRec (b : List Byte) (i : Nat) : List Byte := slice b (linkOff b + linkRecLen * i) linkRecLen
def lrLink (r : List Byte) : Nat := field r 0 1
def lrMode (r : List Byte) : Nat := field r 1 1
def lrDplan (r : List Byte) : Nat := field r 4 2
def lrId (r : List Byte) : Nat := field r 8 8
def lrTx (r : List Byte) (j : Nat) : Nat := field r (0x10 + 4 * j) 4
def lrRx (r : List Byte) (j : Nat) : Nat := field r (0x8C10 + 4 * j) 4
/-- The record of a link in a base plan. -/
def linkRecOf (b : List Byte) (l : Nat) : Option (List Byte) :=
  ((List.range (nLink b)).map (linkRec b)).find? fun r => lrLink r = l

/-- A route ends at the attachment of the link. -/
def routeAtLink (r : Rsv) (i l : Nat) : Bool := decide (i < r.routes.length) && routeLink r i = some l

/-- One link record of a base plan is well formed by itself (R313, R314, R317). -/
def linkRecOk (b rec' : List Byte) : Bool :=
  let l := lrLink rec'
  let r := parseRsv (rsvOf b)
  decide (l < 36) && decide (lrMode rec' ≤ 2) && field rec' 2 2 = 0 && field rec' 6 2 = 0
  && decide (1152 ≤ lrDplan rec') && decide (lrDplan rec' ≤ 34560)
  && (List.range 8960).all fun j =>
      let t := lrTx rec' j
      let x := lrRx rec' j
      let quiet := j % 64 = 0 || (lrMode rec' ≠ 0 && j % 2 = 1)
      (!quiet || (t = 0 && x = 0))
      && bits t 31 20 = 0 && bits x 31 20 = 0 && bits t 1 0 ≠ 3 && bits x 1 0 ≠ 3
      && (bits t 1 0 ≠ 1 || routeAtLink r (bits t 13 2) l) && (bits x 1 0 ≠ 1 || routeAtLink r (bits x 13 2) l)
      && (bits x 1 0 ≠ 2 ||
          let l' := bits x 19 14
          (l' < 36) && l' ≠ l
          && (let d := l / 6; let d' := l' / 6
              (d' / 2 = d / 2 && d' ≠ d) || d' / 2 > d / 2)
          && (match linkRecOf b l' with
              | some q => let u := lrTx q ((j + 33) % 8960); bits u 1 0 = 2 && bits u 19 14 = l
              | none => false))
      && (bits t 1 0 ≠ 2 ||
          (match linkRecOf b (bits t 19 14) with
           | some q => let v := lrRx q ((j + 8960 - 33) % 8960); bits v 1 0 = 2 && bits v 19 14 = l
           | none => false))

/-- The link section passes R317. -/
def linkSectionOk (b : List Byte) : Bool :=
  let recs := (List.range (nLink b)).map (linkRec b)
  decide (recs.map lrLink).Nodup && recs.all (linkRecOk b)

/-- The base HBM section passes R283's form, R352 and R469. -/
def baseHbmOk (s : State) (b : List Byte) : Bool :=
  let o := bhbmOff b
  let recs := (List.range (field b o 4)).map fun i => field b (o + 8 + 8 * i) 8
  let key (w : Nat) := (bits w 3 0 * 4096 + bits w 15 4) * 16 + bits w 19 16
  let op (w : Nat) := bits w 22 20
  let n := frameSlots s
  field b (o + 4) 4 = 0 && decide (8 + 8 * field b o 4 ≤ bhbmLen b)
  && (List.zip recs (recs.drop 1)).all (fun ab => decide (key ab.1 < key ab.2))
  && recs.all (fun w => bits w 63 52 = 0 && decide (bits w 3 0 < 12) && decide (bits w 15 4 < n)
      && [0, 3, 4, 7].contains (op w) && bits w 51 23 = 0)
  && (List.range 12).all fun st => (stackSt s st).state ≠ 2 || (List.range 16).all fun g =>
      let hosts := recs.filter fun w => bits w 3 0 = st && bits w 19 16 = g && op w = 4
      (List.range n).all fun start => hosts.any fun w => decide ((bits w 15 4 + n - start) % n < 512)

/-- CXL attachment pips of a head (R354). -/
def headPips (s : State) (h : Nat) : List Nat :=
  (match s.cxl.bifur with | 0 => List.range 8 | 1 => span (4 * h) (4 * h + 3) | _ => [2 * h, 2 * h + 1]).map
    fun a => pipAt (40 + a) 63

/-- Every trained head has a transit route to every usable field (R354). -/
def headsOk (s : State) (r : Rsv) : Bool :=
  (List.range 4).all fun h => !(headSt s h).up || (List.range 64).all fun f =>
    oos s.mod.map f || s.boot.excl.contains f ||
    (List.range (r.routes.length)).any fun i =>
      let at_ (e : RouteEnd) := e.kind = 3 && e.idx = h && (headPips s h).contains e.pip
      let tgt (e : RouteEnd) := e.kind = 0 && fieldOfPip e.pip = f
      (at_ (routeA r i) && tgt (routeB r i)) || (at_ (routeB r i) && tgt (routeA r i))

/-- Check 6 on a carried base plan (R471, R119). -/
def baseOk (s : State) (b : List Byte) : Bool :=
  let l := rsvOf b
  let r := parseRsv l
  let m := s.mod.map
  let es := rEntries r
  let endOk (e : RouteEnd) (w : Nat) := (e.kind ≤ 4) && bits w 15 14 = 0 && decide (bits w 7 0 < 160) && (endPips e).contains e.pip &&
    (match e.kind with | 1 => e.idx < 12 | 2 => e.idx < 36 | 3 => e.idx < 4 | _ => e.idx = 0)
  let entAt (p f : Nat) : Nat := ((es.find? fun e => e.pip = p && e.pos = f).map (·.ent)).getD 0
  let exits (p : Nat) : Nat := ((List.range (r.routes.length)).filter fun i => (routeWays r i).any fun w => w.2.kind = 0 && w.2.pip = p).length
  field l 0xC 4 = 0 && decide (r.routes.length ≤ 4096) && decide (rsvSize l ≤ rsvLen b)
  && (List.range 40960).all (fun k =>
      decide (((List.range 4096).filter (owns r (k / 4) (k % 4))).length ≤ 512)
      && (List.range 4096).all fun f => !owns r (k / 4) (k % 4) f || !reservedPos m (k / 4) (k % 4) f)
  && (List.range (r.routes.length)).all (fun i =>
      endOk (routeA r i) (bits (routeRec r i) 31 16) && endOk (routeB r i) (bits (routeRec r i) 63 48)
      && decide (routeDir r i ≤ 2) && bits (routeRec r i) 127 72 = 0
      && (routeFields r m i).all (fun f => !oos m f)
      && (routeWays r i).all fun w =>
          (routeStarts r w.1.pip).any fun st => (routeTrail r m pathFuel w.1.pip st.1 st.2).any fun x => x.1 = w.2.pip)
  && (List.range 10240).all (fun p => decide (exits p ≤ 16))
  && r.ents.all (fun w => bits w 31 26 = 0)
  && es.all (fun e => decide (e.pip < 10240) && bits e.ent 31 28 = 0
      && (List.range 4).all fun d => (entSrc e.ent d = 5 || entCr e.ent d = 0)
        && (entSrc e.ent d = 0 || (owns r e.pip d e.pos && decide (entSrc e.ent d ≤ 5))))
  && decide (es.map fun e => (e.pip, e.pos)).Nodup
  && es.all (fun e => (List.range 4).all fun d => entSrc e.ent d = 0 ||
      match neighbour e.pip d with
      | none => true
      | some q => takesInput (entAt q ((e.pos + hopCycles m e.pip q) % 4096)) ((d + 2) % 4))
  && es.all (fun e => (List.range 4).all fun i => !takesInput e.ent i ||
      match feeder m e.pip i e.pos with
      | none => true
      | some (q, d, g) => entSrc (entAt q g) d ≠ 0)
  && decide ((r.hrsv.map (· % 2 ^ 20)).Nodup)
  && r.hrsv.all (fun h =>
      decide (bits h 3 0 < 12) && decide (bits h 15 4 < frameSlots s) && bits h 63 32 = 0
      && (List.range (field b (bhbmOff b) 4)).all fun k => field b (bhbmOff b + 8 + 8 * k) 8 % 2 ^ 20 ≠ h % 2 ^ 20)
  && linkSectionOk b && baseHbmOk s b && headsOk s r

/-! ### Images (R124) -/

/-- Directory entry i of an image as a partition rectangle with its plan. -/
def dirEntry (im : List Byte) (i : Nat) : PartSt × Nat × Nat × Nat :=
  let a := 0x40 + 32 * i
  let o := field im (a + 8) 4
  let n := field im (a + 12) 4
  ({ fx0 := field im a 1, fx1 := field im (a + 1) 1, fy0 := field im (a + 2) 1, fy1 := field im (a + 3) 1,
     valid := true, plog2 := field im (a + 4) 1, plan := slice im o n, planFp := BitVec.ofNat 64 (field im (a + 16) 8) },
   o, n, a)

/-- The image as bytes from its base, long enough for all it names. -/
structure Image where
  bytes : List Byte
  npart : Nat
  base  : List Byte
  hasBase : Bool

/-- Length of the image that the header and directory name. -/
def imageLen (h : List Byte) : Nat :=
  (List.range (min 16 (field h 0x19 1))).foldl (fun n i =>
    let a := 0x40 + 32 * i
    max n (field h (a + 8) 4 + field h (a + 12) 4))
    (max (0x40 + 32 * min 16 (field h 0x19 1)) (if field h 0x30 4 = 0 then 0 else field h 0x30 4 + field h 0x34 4))

/-- Read an image from memory. -/
def readImage (s : State) (a : Nat) : Image :=
  let h := memRead s a (0x40 + 32 * 16)
  let b := memRead s a (imageLen h)
  let has := field b 0x30 4 ≠ 0
  ⟨b, field b 0x19 1, if has then slice b (field b 0x30 4) (field b 0x34 4) else [], has⟩

/-- Check 1 of R125. -/
def imageCheck1 (a : Nat) (im : Image) : Bool :=
  let b := im.bytes
  let dirs := (List.range im.npart).map (dirEntry b)
  a % 64 = 0 && field b 0 4 = 0x494D5153 && field b 4 2 = 1 && zeroBytes b 6 2 && decide (im.npart ≤ 16)
  && zeroBytes b 0x1A 6 && zeroBytes b 0x38 8
  && dirs.all (fun d => decide (6 ≤ d.1.plog2) && decide (d.1.plog2 ≤ 11) && zeroBytes b (d.2.2.2 + 5) 3
      && zeroBytes b (d.2.2.2 + 24) 8)
  && decide (dirs.map fun d => (d.1.fx0, d.1.fx1, d.1.fy0, d.1.fy1)).Nodup
  && (!im.hasBase ||
      let p := im.base
      field p 0 4 = 0x42505153 && field p 4 2 = 1 && zeroBytes p 6 2 && rsvOff p % 64 = 0 && bhbmOff p % 8 = 0
      && linkOff p % 16 = 0 && decide (nLink p ≤ 36) && zeroBytes p 0x1D 35
      && decide (rsvOff p + rsvLen p ≤ p.length) && decide (bhbmOff p + bhbmLen p ≤ p.length)
      && decide (linkOff p + linkRecLen * nLink p ≤ p.length))

/-- Check 2: serial, grade, repair map. -/
def imageCheck2 (s : State) (im : Image) : Bool :=
  let b := im.bytes
  field b 8 8 = s.nvm.serial.toNat && field b 0x10 8 = (repairFp s).toNat
  && field b 0x18 1 = (if s.nvm.gradeE then 0x45 else 0x46)

/-- Check 3: fingerprints. -/
def imageCheck3 (im : Image) : Bool :=
  field im.bytes 0x20 8 = (if im.hasBase then (fingerprint im.base).toNat else 0)
  && (List.range im.npart).all fun i => let d := dirEntry im.bytes i; d.1.planFp = fingerprint d.1.plan

/-- Check 4: the reservation, and R127. -/
def imageCheck4 (s : State) (im : Image) : Bool :=
  let fp := BitVec.ofNat 64 (field im.bytes 0x28 8)
  if im.hasBase then
    fp = fingerprint (rsvOf im.base)
    && (fp = s.mod.reserveFp || (List.range 16).all fun n => !(partSt s n).hasPlan)
  else fp = s.mod.reserveFp

/-- The valid partition whose rectangle a directory entry names. -/
def dirPart (s : State) (d : PartSt) : Option Nat :=
  (List.range 16).find? fun n => let p := partSt s n
    p.valid && p.fx0 = d.fx0 && p.fx1 = d.fx1 && p.fy0 = d.fy0 && p.fy1 = d.fy1

/-- Check 5: rectangles, idle and unfenced partitions, trained stacks (R283, R438). [DEDUCED, log 25] -/
def imageCheck5 (s : State) (im : Image) : Bool :=
  (List.range im.npart).all fun i =>
    let d := (dirEntry im.bytes i).1
    match dirPart s d with
    | none => false
    | some n => !(partSt s n).fenced && !s.jobs.any (·.part = n)
      && (List.range (hbmCount d.plan (tablesLen d))).all fun k =>
          let st := bits (hbmRec d.plan (tablesLen d) k) 3 0
          decide (st ≥ 12) || (stackSt s st).state = 2

/-- Check 6. -/
def imageCheck6 (s : State) (im : Image) : Bool :=
  let base := if im.hasBase then im.base else s.mod.base
  (!im.hasBase || baseOk s im.base)
  && (List.range im.npart).all fun i =>
    let d := (dirEntry im.bytes i).1
    match dirPart s d with
    | none => false
    | some n => planOk s n d base

/-- The granule check of an admission with the rights of the writer (R125). -/
def imageOwned (s : State) (w : Writer) (a : Nat) : Bool :=
  let h := memRead s a (0x40 + 32 * 16)
  let ok (o n : Nat) := n = 0 || (isHbm (a + o) && isHbm (a + o + n - 1) &&
    match w with | .acorn => openMem s (a + o) n | .host k => hostMem s k (a + o) n)
  let np := min 16 (field h 0x19 1)
  ok 0 (0x40 + 32 * np) && ok (field h 0x30 4) (if field h 0x30 4 = 0 then 0 else field h 0x34 4)
  && (List.range np).all fun i => ok (field h (0x40 + 32 * i + 8) 4) (field h (0x40 + 32 * i + 12) 4)

/-- The status of an admission (R125). [DEDUCED, log 25] -/
def admitCode (s : State) (w : Writer) : Byte :=
  let a := s.mod.imgAddr.toNat
  let im := readImage s a
  if !imageOwned s w a then 0x12
  else if !imageCheck1 a im then 0x10
  else if !imageCheck2 s im then 0x61
  else if !imageCheck3 im then 0x61
  else if !imageCheck4 s im then 0x61
  else if !imageCheck5 s im then 0x12
  else if !imageCheck6 s im then 0x10
  else 0x00

end Sys2Proof.Machine
end

