-- ==== Sys2Proof/Machine/CtDesc.lean ====
section
/-!
DEFINITION. Ciphertext descriptors (R232, Table 9.4), parameter blocks (R230, Table 9.2) and the bytes of an encrypted
object (R233).
-/
namespace Sys2Proof.Machine

/-! ### Descriptors -/

def cType (d : BitVec 512) : Nat := dbits d 0 1 0
def cPset (d : BitVec 512) : Nat := dbits d 0 5 2
def cValid (d : BitVec 512) : Bool := dbits d 0 6 6 = 1
def cForm (d : BitVec 512) : Nat := dbits d 0 7 7
def cLevel (d : BitVec 512) : Nat := dbits d 0 13 8
def cOwner (d : BitVec 512) : Nat := dbits d 0 29 16
def cNoise (d : BitVec 512) : Nat := dbits d 0 47 32
def cKeyset (d : BitVec 512) : Nat := dbits d 1 31 0
def cFp (d : BitVec 512) : Nat := dbits d 2 63 0
def cBase (d : BitVec 512) : Nat := dbits d 3 22 0
def cPip (d : BitVec 512) : Nat := dbits d 3 26 23
def cLstride (d : BitVec 512) : Nat := dbits d 4 22 0
def cPstride (d : BitVec 512) : Nat := dbits d 4 45 23

/-- Replace bits [hi:lo] of word `w`. -/
def dput (d : BitVec 512) (w hi lo v : Nat) : BitVec 512 :=
  BitVec.ofNat 512 (d.toNat - dbits d w hi lo * 2 ^ (64 * w + lo) + v % 2 ^ (hi + 1 - lo) * 2 ^ (64 * w + lo))

def cSetValid (d : BitVec 512) (v : Bool) : BitVec 512 := dput d 0 6 6 (b2n v)

/-- RES bits of a descriptor image are 0 (Table 9.4). -/
def cResOk (d : BitVec 512) : Bool :=
  dbits d 0 15 14 = 0 && dbits d 0 31 30 = 0 && dbits d 0 63 48 = 0 && dbits d 1 63 32 = 0 && dbits d 3 63 27 = 0
  && dbits d 4 63 46 = 0 && dbits d 5 63 0 = 0 && dbits d 6 63 0 = 0 && dbits d 7 63 0 = 0

/-- The descriptor of a handle in a pod. -/
def ctDesc (s : State) (pod i : Nat) : BitVec 512 := Tab.get 0 (podSt s pod).descs i
def setCtDesc (s : State) (pod i : Nat) (d : BitVec 512) : State :=
  modPod s pod fun v => { v with descs := Tab.set 0 v.descs i d }

/-! ### Parameter blocks -/

def pClass (b : List Byte) : Nat := field b 0 1
def pLogn (b : List Byte) : Nat := field b 1 1
def pNlwe (b : List Byte) : Nat := field b 2 2
def pL (b : List Byte) : Nat := field b 4 1
def pK (b : List Byte) : Nat := field b 5 1
def pMbits (b : List Byte) : Nat := field b 6 1
def pDepth (b : List Byte) : Nat := field b 7 1
def pNfresh (b : List Byte) : Nat := field b 8 2
def pNlimit (b : List Byte) : Nat := field b 0xA 2
def pLinkFp (b : List Byte) : Nat := field b 0x10 8
def pPrime (b : List Byte) (i : Nat) : Nat := field b (0x40 + 4 * i) 4

/-- The parameter entry a descriptor names. -/
def psetOf (s : State) (pod : Nat) (d : BitVec 512) : List Byte := (Tab.get {} (podSt s pod).psets (cPset d)).block

/-- Words of one limb of an LWE object of a form. -/
def lweWords (b : List Byte) (form : Nat) : Nat := (if form = 1 then 2 ^ pLogn b else pNlwe b) + 1

/-- The byte runs of an object (R233): pip-in-pod index, address, length. -/
def objRuns (b : List Byte) (d : BitVec 512) : List (Nat × Nat × Nat) :=
  if cType d = 2 then
    (List.range 16).flatMap fun p => (List.range 2).flatMap fun k => (List.range (cLevel d + 1)).map fun i =>
      (p, cBase d + k * cPstride d + i * cLstride d, 2 ^ pLogn b / 16 * 4)
  else (List.range (pL b)).map fun j => (cPip d, cBase d + j * cLstride d, lweWords b (cForm d) * 4)

/-- Bytes [a, a + n) of a pip's scratchpad become free values (log 8). -/
def undefBytes (s : State) (p a n : Nat) : State :=
  drew (modPip s p fun q => { q with sp := { q.sp with mem := Tab.setMany 0 q.sp.mem a (freeBytes s n) } }) n

/-- The contents of an object become free values. -/
def undefObject (s : State) (pod i : Nat) : State :=
  let d := ctDesc s pod i
  forAll (objRuns (psetOf s pod d) d) (fun r s => undefBytes s (nth (pipsOfPod pod) r.1 0) r.2.1 r.2.2) s

end Sys2Proof.Machine
end

