-- ==== Sys2Proof/Machine/Numerics.lean ====
section
/-!
DEFINITION. The numbers of the tensor path: storage formats (R162, R163), exact values, the one rounding
round32 (R178), conversion with saturation (R171, R172), block scales (R173 to R176), the tables and
functions of the vector chain (R192 to R194, R199).
-/
namespace Sys2Proof.Machine

/-- An exact number: NaN, an infinity, or (−1)^neg × m × 2^e with the sign of a zero kept. -/
inductive Num where
  | nan
  | inf (neg : Bool)
  | fin (neg : Bool) (m : Nat) (e : Int)
  deriving DecidableEq, Repr

/-- The value m × 2^k for an integer power k, rounded down to an integer. -/
def shiftInt (m : Nat) (k : Int) : Nat :=
  if 0 ≤ k then m * 2 ^ k.toNat else m / 2 ^ (-k).toNat

/-- m ÷ 2^s rounded to nearest, ties to even. -/
def rne (m s : Nat) : Nat :=
  let q := m / 2 ^ s
  let r := m % 2 ^ s
  if 2 * r < 2 ^ s then q else if 2 * r = 2 ^ s then q + q % 2 else q + 1

/-- m × 2^e in units of 2^q, rounded to nearest even. -/
def inUnits (m : Nat) (e q : Int) : Nat :=
  if q ≤ e then m * 2 ^ (e - q).toNat else rne m (q - e).toNat

/-- The unit in the last place for m × 2^e with `mb` fraction bits and smallest unit `qmin`. -/
def ulp (m : Nat) (e : Int) (mb : Nat) (qmin : Int) : Int :=
  max (e + (Nat.log2 m : Int) - mb) qmin

/-- The magnitude code of m × 2^e on a floating-point grid: exponent field and fraction as one number. -/
def magCode (m : Nat) (e : Int) (mb : Nat) (qmin : Int) : Nat :=
  if m = 0 then 0 else
    let q := ulp m e mb qmin
    (q - qmin).toNat * 2 ^ mb + inUnits m e q

/-- The one NaN that is written (R178). -/
def nan32 : Word32 := 0x7FC00000

/-- Rounding to nearest, ties to even, onto binary32 (R178). -/
def round32 : Num → Word32
  | .nan => nan32
  | .inf n => if n then 0xFF800000 else 0x7F800000
  | .fin n m e =>
    let c := magCode m e 23 (-149)
    BitVec.ofNat 32 ((if n then 0x80000000 else 0) + min c 0x7F800000)

/-- The value of an IEEE-style code with `eb` exponent and `mb` fraction bits. -/
def decodeFloat (eb mb : Nat) (bias : Int) (neg : Bool) (mag : Nat) : Num :=
  let ef := mag / 2 ^ mb % 2 ^ eb
  let fr := mag % 2 ^ mb
  if ef = 0 then .fin neg fr (1 - bias - mb) else .fin neg (2 ^ mb + fr) ((ef : Int) - bias - mb)

/-- The value of an FP32 pattern. -/
def dec32 (w : Word32) : Num :=
  let neg := w.toNat ≥ 0x80000000
  let mag := w.toNat % 0x80000000
  if mag > 0x7F800000 then .nan else if mag = 0x7F800000 then .inf neg
  else decodeFloat 8 23 127 neg mag

/-- Exact negation. -/
def Num.neg : Num → Num
  | .nan => .nan
  | .inf n => .inf (!n)
  | .fin n m e => .fin (!n) m e

/-- Exact product, with the IEEE rules for infinities and zeros (R178). -/
def Num.mul : Num → Num → Num
  | .nan, _ => .nan
  | _, .nan => .nan
  | .inf a, .inf b => .inf (a != b)
  | .inf a, .fin b m _ => if m = 0 then .nan else .inf (a != b)
  | .fin a m _, .inf b => if m = 0 then .nan else .inf (a != b)
  | .fin a m e, .fin b k f => .fin (a != b) (m * k) (e + f)

/-- A signed magnitude in units of 2^q. -/
def signedUnits (n : Bool) (m : Nat) (e q : Int) : Int :=
  let v : Int := (m * 2 ^ (e - q).toNat : Nat)
  if n then -v else v

/-- Exact sum, with the IEEE rules for infinities and for the sign of an exact zero (R178). -/
def Num.add : Num → Num → Num
  | .nan, _ => .nan
  | _, .nan => .nan
  | .inf a, .inf b => if a = b then .inf a else .nan
  | .inf a, .fin _ _ _ => .inf a
  | .fin _ _ _, .inf b => .inf b
  | .fin a m e, .fin b k f =>
    if m = 0 ∧ k = 0 then .fin (a && b) 0 0
    else
      let q := min e f
      let s := signedUnits a m e q + signedUnits b k f q
      .fin (s < 0) s.natAbs q

/-- Exact difference. -/
def Num.sub (a b : Num) : Num := a.add b.neg

/-- Exact scaling by a power of two. -/
def Num.scale (a : Num) (k : Int) : Num :=
  match a with
  | .fin n m e => .fin n m (e + k)
  | x => x

/-- a < b by IEEE comparison: false with a NaN, and −0 = +0. -/
def Num.lt : Num → Num → Bool
  | .nan, _ => false
  | _, .nan => false
  | .inf a, .inf b => a && !b
  | .inf a, .fin _ _ _ => a
  | .fin _ _ _, .inf b => !b
  | .fin a m e, .fin b k f =>
    decide (signedUnits a m e (min e f) < signedUnits b k f (min e f))

/-- IEEE equality. -/
def Num.eqv (a b : Num) : Bool :=
  match a, b with
  | .nan, _ => false
  | _, .nan => false
  | a, b => !a.lt b && !b.lt a

/-- The binary32 operations of R178 and R192: one rounding of the exact value. -/
def f32add (a b : Word32) : Word32 := round32 ((dec32 a).add (dec32 b))
def f32sub (a b : Word32) : Word32 := round32 ((dec32 a).sub (dec32 b))
def f32mul (a b : Word32) : Word32 := round32 ((dec32 a).mul (dec32 b))

/-- The FP32 pattern is a NaN. -/
def isNan32 (w : Word32) : Bool := decide (w.toNat % 0x80000000 > 0x7F800000)

/-- The FP32 pattern is finite. -/
def isFin32 (w : Word32) : Bool := decide (w.toNat % 0x80000000 < 0x7F800000)

/-- The maximum of R192: NaN if either is NaN, and max(−0, +0) = +0. [DEDUCED, log 15] -/
def f32max (a b : Word32) : Word32 :=
  if isNan32 a || isNan32 b then nan32
  else if (dec32 a).lt (dec32 b) then b
  else if (dec32 b).lt (dec32 a) then a
  else if a.toNat ≥ 0x80000000 then b else a

/-- One level of the adder tree of R178. -/
def treeLevel : List Word32 → List Word32
  | a :: b :: t => f32add a b :: treeLevel t
  | l => l

/-- The fixed-order adder tree of `n` levels (R178). -/
def treeSum : Nat → List Word32 → Word32
  | 0, l => l.headD 0
  | n + 1, l => treeSum n (treeLevel l)

/-- The five-level tree over 32 lanes. -/
def tree32 (l : List Word32) : Word32 := treeSum 5 l

/-! ### Storage formats (Table 3.4, Table 6.1) -/

/-- A format code names an integer format. -/
def isIntFmt (f : Nat) : Bool := f = 8 || f = 9

/-- A float format of Table 3.4. -/
def isFloatFmt (f : Nat) : Bool := decide (f ≤ 7)

/-- Bits of an element of the format (Table 5.4). -/
def elemBits (f : Nat) : Nat :=
  match f with
  | 0 | 15 => 32
  | 1 | 2 => 16
  | 3 | 4 | 8 => 8
  | 5 | 6 => 6
  | _ => 4

/-- Elements per line (Table 5.4). -/
def elemsPerLine (f : Nat) : Nat :=
  match f with
  | 0 | 15 => 32
  | 1 | 2 => 64
  | 3 | 4 | 5 | 6 | 8 => 128
  | _ => 256

/-- Store slots per line, k of Table 5.4. -/
def slotsPerLine (f : Nat) : Nat := elemsPerLine f / 32

/-- Slot size in bytes (Table 5.4). -/
def slotSize (f : Nat) : Nat := elemBits f * 4

/-- MACs per cell per cycle, t of Table 2.4 (0 for a code that is no operand format). -/
def fmtT (f : Nat) : Nat :=
  match f with
  | 1 | 2 => 1
  | 3 | 4 | 5 | 6 | 8 => 2
  | 7 | 9 => 4
  | _ => 0

/-- Exponent bits, fraction bits, bias and largest magnitude code of a float format (Table 6.1). -/
def floatParams (f : Nat) : Nat × Nat × Int × Nat :=
  match f with
  | 0 => (8, 23, 127, 0x7F7FFFFF)
  | 1 => (8, 7, 127, 0x7F7F)
  | 2 => (5, 10, 15, 0x7BFF)
  | 3 => (4, 3, 7, 0x7E)
  | 4 => (5, 2, 15, 0x7B)
  | 5 => (3, 2, 3, 0x1F)
  | 6 => (2, 3, 1, 0x1F)
  | _ => (2, 1, 1, 0x7)

/-- The value of an element code, before scale and ifac (R162, R163). -/
def decodeElem (f : Nat) (code : Nat) : Num :=
  let w := elemBits f
  let c := code % 2 ^ w
  if isIntFmt f then
    let v := sgn w c
    .fin (decide (v < 0)) v.natAbs 0
  else
    let neg := c ≥ 2 ^ (w - 1)
    let mag := c % 2 ^ (w - 1)
    let (eb, mb, bias, _) := floatParams f
    if f = 3 then (if mag = 0x7F then .nan else decodeFloat eb mb bias neg mag)
    else if f ≤ 2 || f = 4 then
      let infCode := (2 ^ eb - 1) * 2 ^ mb
      if mag > infCode then .nan else if mag = infCode then .inf neg
      else decodeFloat eb mb bias neg mag
    else decodeFloat eb mb bias neg mag

/-- log2 of ifac, negated: the factor of R164 for a block-scaled integer tensor. -/
def ifacLog (f : Nat) (scaled : Bool) : Int :=
  if scaled then (if f = 8 then -6 else if f = 9 then -2 else 0) else 0

/-- The result of a conversion: the code written, and whether R171 saturated. -/
structure Conv where
  code : Nat
  sat  : Bool
  deriving DecidableEq, Repr

/-- The code of a finite magnitude with a sign. -/
def signCode (f : Nat) (neg : Bool) (mag : Nat) : Nat :=
  let w := elemBits f
  if isIntFmt f then (if neg then (2 ^ w - mag) % 2 ^ w else mag)
  else (if neg then 2 ^ (w - 1) else 0) + mag

/-- The largest magnitude code, maxmag of R171. -/
def maxCode (f : Nat) : Nat :=
  if f = 8 then 127 else if f = 9 then 7 else (floatParams f).2.2.2

/-- Conversion of a finite value under scale byte `e` (R171). `scaled` says whether BSF ≠ 0. -/
def convFin (f : Nat) (scaled : Bool) (e : Nat) (neg : Bool) (m : Nat) (x : Int) : Conv :=
  let x' := x + 127 - (e : Int) - ifacLog f scaled
  let mag :=
    if isIntFmt f then inUnits m x' 0
    else
      let (_, mb, bias, _) := floatParams f
      magCode m x' mb (1 - bias - mb)
  if mag > maxCode f then ⟨signCode f neg (maxCode f), true⟩ else ⟨signCode f neg mag, false⟩

/-- The code of a NaN where the format has one (R172). -/
def nanCode (f : Nat) : Nat :=
  match f with
  | 0 => 0x7FC00000
  | 1 => 0x7FC0
  | 2 => 0x7E00
  | 3 => 0x7F
  | 4 => 0x7E
  | _ => 0

/-- Conversion of any FP32 value (R171, Table 6.3): `e` is the scale byte, 127 without a scale. -/
def convert (f : Nat) (scaled : Bool) (e : Nat) (v : Word32) : Conv :=
  match dec32 v with
  | .fin n m x => if f = 0 then ⟨v.toNat, false⟩ else convFin f scaled e n m x
  | .nan => ⟨nanCode f, false⟩
  | .inf n =>
    match f with
    | 0 | 1 | 2 | 4 =>
      let (eb, mb, _, _) := floatParams f
      ⟨signCode f n ((2 ^ eb - 1) * 2 ^ mb), false⟩
    | 3 => ⟨0x7F, false⟩
    | _ => if scaled then ⟨0, false⟩ else ⟨signCode f n (maxCode f), false⟩

/-- Blocks of a format without special values take scale 0xFF when they hold a non-finite value (Table 6.3). -/
def poisons (f : Nat) : Bool := decide (f ≥ 5)

/-- The exact scale of a block (R173), before the poisoning of R172. -/
def exactScale (f : Nat) (vs : List Word32) : Nat :=
  match (List.range 255).find? (fun e => vs.all fun v => !isFin32 v || !(convert f true e v).sat) with
  | some e => e
  | none => 254

/-- CVT QNT: encode and decode in the format with e = 127 and no block scale (Table 7.5). -/
def quantise (f : Nat) (v : Word32) : Word32 := round32 (decodeElem f (convert f false 127 v).code)

/-! ### Chain functions (R193, R194, R199) -/

/-- The largest k below 2^(n) found bit by bit with p k true, for a downward closed p. -/
def bitSearch (p : Nat → Bool) : Nat → Nat → Nat
  | 0, k => k
  | n + 1, k => bitSearch p n (if p (k + 2 ^ n) then k + 2 ^ n else k)

/-- A number given by its floor in units of 2^e, with a sticky bit when it is not exact. -/
def sticky (k : Nat) (exact : Bool) (e : Int) : Num :=
  .fin false (2 * k + (if exact then 0 else 1)) (e - 1)

/-- T[j] = round32(2^(j/256)) (R193). -/
def tabT (j : Nat) : Word32 :=
  if j = 256 then 0x40000000 else
    let goal := 2 ^ (30 * 256 + j)
    let k := bitSearch (fun k => decide (k ^ 256 ≤ goal)) 31 0
    round32 (sticky k (decide (k ^ 256 = goal)) (-30))

/-- Binary digits of log2 of x / 2^p for 1 ≤ x / 2^p < 2, by repeated squaring; `acc` collects them. -/
def logDigits (p : Nat) : Nat → Nat → Nat → Nat
  | 0, _, acc => acc
  | n + 1, x, acc =>
    let y := x * x / 2 ^ p
    if y ≥ 2 ^ (p + 1) then logDigits p n (y / 2) (2 * acc + 1) else logDigits p n y (2 * acc)

/-- L[j] = round32(log2(1 + j/256)) (R193): 64 digits and a sticky bit decide the rounding. -/
def tabL (j : Nat) : Word32 :=
  if j = 256 then 0x3F800000 else if j = 0 then 0 else
    round32 (sticky (logDigits 256 64 ((256 + j) * 2 ^ 248) 0) false (-64))

/-- D[j] and G[j] (R193). -/
def tabD (j : Nat) : Word32 := f32sub (tabT (j + 1)) (tabT j)
def tabG (j : Nat) : Word32 := f32sub (tabL (j + 1)) (tabL j)

/-- floor of an exact finite number. -/
def floorNum (n : Bool) (m : Nat) (e : Int) : Int :=
  if 0 ≤ e then (if n then -((m * 2 ^ e.toNat : Nat) : Int) else ((m * 2 ^ e.toNat : Nat) : Int))
  else (if n then -(m : Int) else (m : Int)) / ((2 ^ (-e).toNat : Nat) : Int)

/-- An integer as an exact number. -/
def numOfInt (i : Int) : Num := .fin (decide (i < 0)) i.natAbs 0

/-- exp2 of an exact number (R193). -/
def chainExp2 (x : Num) : Word32 :=
  match x with
  | .nan => nan32
  | .inf n => if n then 0 else 0x7F800000
  | .fin s m e =>
    if !x.lt (numOfInt 128) then 0x7F800000
    else if x.lt (numOfInt (-150)) then 0
    else
      let n := floorNum s m e
      match x.sub (numOfInt n) with
      | .fin _ fm fe =>
        let j := (floorNum false fm (fe + 8)).toNat
        let r := round32 ((Num.fin false fm (fe + 8)).sub (numOfInt j))
        let y := f32add (tabT j) (f32mul r (tabD j))
        round32 ((dec32 y).scale n)
      | _ => nan32

/-- log2 of an exact number (R193). -/
def chainLog2 (x : Num) : Word32 :=
  match x with
  | .nan => nan32
  | .inf n => if n then nan32 else 0x7F800000
  | .fin s m e =>
    if m = 0 then 0xFF800000
    else if s then nan32
    else
      let lg : Int := e + (Nat.log2 m : Int)
      -- (m − 1) × 256 of the text: 256 × (x / 2^e − 1)
      let g := (Num.fin false m (e - lg + 8)).sub (numOfInt 256)
      match g with
      | .fin _ gm ge =>
        let j := (floorNum false gm ge).toNat
        let r := round32 (g.sub (numOfInt j))
        let y := f32add (tabL j) (f32mul r (tabG j))
        round32 ((numOfInt lg).add (dec32 y))
      | _ => nan32

/-- The interpolated lookup (R193); `knots` are the 128 knots of the table. -/
def chainLut (x : Num) (lo sc : Word32) (knots : List Word32) : Word32 :=
  match x with
  | .nan => nan32
  | x =>
    let u := f32mul (round32 (x.sub (dec32 lo))) sc
    match dec32 u with
    | .nan => nan32
    | .inf n => if n then nth knots 0 0 else nth knots 127 0
    | .fin s m e =>
      if s || m = 0 then nth knots 0 0
      else
        let j := (floorNum false m e).toNat
        if j ≥ 127 then nth knots 127 0
        else
          let f := round32 ((dec32 u).sub (numOfInt j))
          f32add (nth knots j 0) (f32mul f (f32sub (nth knots (j + 1) 0) (nth knots j 0)))

/-- CVT F2I: nearest-even int32, saturated, NaN gives 0 (Table 7.5). -/
def f2i (v : Word32) : Word32 :=
  match dec32 v with
  | .nan => 0
  | .inf n => if n then 0x80000000 else 0x7FFFFFFF
  | .fin n m e =>
    let k := inUnits m e 0
    if n then (if k ≥ 0x80000000 then 0x80000000 else -(BitVec.ofNat 32 k))
    else (if k ≥ 0x80000000 then 0x7FFFFFFF else BitVec.ofNat 32 k)

/-- CVT I2F: int32 to the nearest FP32. -/
def i2f (v : Word32) : Word32 := round32 (numOfInt v.toInt)

/-- Montgomery reduction constant −q^−1 mod 2^32 of an odd q, by Newton steps (R194, R208). -/
def qinvNeg (q : Nat) : Nat :=
  let step := fun x : Nat => x * ((2 + 2 ^ 64 - (q * x) % 2 ^ 32) % 2 ^ 32) % 2 ^ 32
  let x := step (step (step (step (step (q % 2 ^ 32)))))
  (2 ^ 32 - x) % 2 ^ 32

/-- The Montgomery product of the formulas of R194 and R208. -/
def montMul (q v b : Nat) : Nat :=
  let p := v * b
  let m := ((p % 2 ^ 32) * qinvNeg q) % 2 ^ 32
  let t := (p + m * q) / 2 ^ 32
  if t ≥ q then t - q else t

/-- MODS add, sub, mmul and red (R194). -/
def modsAdd (q v b : Nat) : Nat := (if v + b ≥ q then v + b - q else v + b) % 2 ^ 32
def modsSub (q v b : Nat) : Nat := (if v < b then v + q + 2 ^ 32 - b else v - b) % 2 ^ 32
def modsMul (q v b : Nat) : Nat := montMul q v b % 2 ^ 32
def modsRed (q v : Nat) : Nat := (v % q) % 2 ^ 32

/-- Correctly rounded division of an FP32 value by a positive integer (R199). -/
def f32divNat (a : Word32) (n : Nat) : Word32 :=
  match dec32 a with
  | .fin s m e =>
    if n = 0 then nan32 else
    let k := m * 2 ^ 64 / n
    match sticky k (decide (m * 2 ^ 64 % n = 0)) (e - 64) with
    | .fin _ m' e' => round32 (.fin s m' e')
    | _ => nan32
  | x => round32 x

/-- 1 / sqrt(v) with one rounding of the exact value (R199). -/
def f32rsqrt (v : Word32) : Word32 :=
  match dec32 v with
  | .nan => nan32
  | .inf n => if n then nan32 else 0
  | .fin s m e =>
    if m = 0 then (if s then 0xFF800000 else 0x7F800000)
    else if s then nan32
    else
      let (m, e) := if e % 2 = 0 then (m, e) else (2 * m, e - 1)
      let r := bitSearch (fun r => decide (r * r * m ≤ 2 ^ 160)) 81 0
      round32 (sticky r (decide (r * r * m = 2 ^ 160)) (-80 - e / 2))

/-- 2^k as an FP32 value, for the exponents an LRX register holds (R181). -/
def pow2f (k : Int) : Word32 := round32 (.fin false 1 k)

end Sys2Proof.Machine
end

