-- ==== Sys2Proof/Machine/Queues.lean ====
section
/-!
DEFINITION. The queues of a pip (R42, R43): how many entries each held when the cycle began, and what has been popped and pushed since.
-/
namespace Sys2Proof.Machine

/-- Depths of R42. -/
def depthLq : Nat := 16
def depthSq : Nat := 16
def depthScq : Nat := 32
def depthRiq : Nat := 32
def depthMesh : Nat := 8
def depthKq : Nat := 64

/-- Numbers of the queues: LQ0 to LQ3 are 0 to 3. -/
def qRiq : Nat := 4
def qSq (i : Nat) : Nat := 8 + i
def qScq : Nat := 10
def qKey : Nat := 11
def qEgress (port : Nat) : Nat := 16 + port
def qIngress (port : Nat) : Nat := 20 + port

/-- Depth of a queue (Table 2.3). -/
def depthOf (k : Nat) : Nat :=
  if k < 4 then depthLq else if k = 4 then depthRiq else if k < 10 then depthSq else if k = 10 then depthScq
  else if k = 11 then depthKq else depthMesh

/-- Entries in a queue. -/
def lenOf (p : PipSt) (k : Nat) : Nat :=
  if k < 4 then (Tab.get [] p.q.lq k).length
  else if k = 4 then p.q.riq.length
  else if k < 10 then (Tab.get [] p.q.sq (k - 8)).length
  else if k = 10 then p.q.scq.length
  else if k = 11 then p.q.kq.length
  else if k < 20 then (Tab.get [] p.q.egr (k - 16)).length
  else (Tab.get [] p.q.ing (k - 20)).length

/-- Entries or flits that reads under way will push into a queue (R48). -/
def comingTo (p : PipSt) (k : Nat) : Nat :=
  ((p.ops.fills.filter fun f => f.queue = k).map fun f => if k < 16 then 1 else f.flits.length).sum

/-- The numbers of the queues. -/
def queueNums : List Nat := [0, 1, 2, 3, 4, 8, 9, 10, 11, 16, 17, 18, 19, 20, 21, 22, 23]

/-- The start of a cycle: every queue's occupancy is sampled, no bank is taken, and no stream has tried to issue (R43). -/
def sample (p : PipSt) : PipSt :=
  { p with cyc :=
    { have_ := queueNums.foldl (fun t k => Tab.set 0 t k (lenOf p k)) [],
      used := queueNums.foldl (fun t k => Tab.set 0 t k (lenOf p k + comingTo p k)) [] } }

/-- A pop in this cycle finds an entry that was in the queue at the cycle's start (R43). -/
def canPop (p : PipSt) (k : Nat) : Bool := decide (Tab.get 0 p.cyc.pops k < Tab.get 0 p.cyc.have_ k)

/-- A push of `n` in this cycle finds places that were free at the cycle's start (R43). A read takes its place when it is made. [DEDUCED, log 12] -/
def canPut (p : PipSt) (k n : Nat) : Bool := decide (Tab.get 0 p.cyc.used k + Tab.get 0 p.cyc.puts k + n ≤ depthOf k)

def notePop (p : PipSt) (k : Nat) : PipSt := { p with cyc := { p.cyc with pops := Tab.set 0 p.cyc.pops k (Tab.get 0 p.cyc.pops k + 1) } }
def notePut (p : PipSt) (k n : Nat) : PipSt :=
  { p with cyc := { p.cyc with puts := Tab.set 0 p.cyc.puts k (Tab.get 0 p.cyc.puts k + n) } }

/-- Push an entry into LQ0 to LQ3 or the RIQ. -/
def enterDest (p : PipSt) (qsel : Nat) (e : LqEntry) : PipSt :=
  if qsel = 4 then { p with q := { p.q with riq := p.q.riq ++ [e.data] } }
  else { p with q := { p.q with lq := Tab.set [] p.q.lq qsel (Tab.get [] p.q.lq qsel ++ [e]) } }

/-- The same as an instruction's push of this cycle. -/
def pushDest (p : PipSt) (qsel : Nat) (e : LqEntry) : PipSt := enterDest (notePut p qsel 1) qsel e

/-- Flits enter an egress queue, each with the number of its MSND. -/
def enterEgress (p : PipSt) (port : Nat) (fs : List (Nat × Flit)) : PipSt :=
  { p with q := { p.q with egr := Tab.set [] p.q.egr port (Tab.get [] p.q.egr port ++ fs) } }

/-- A read of cycle `c` pushes its entry two cycles later, and holds its place till then (R48). -/
def fillLater (p : PipSt) (c qsel : Nat) (e : LqEntry) : PipSt :=
  { notePut p qsel 1 with ops := { p.ops with fills := p.ops.fills ++ [⟨c + 2, qsel, e, []⟩] } }

/-- The same for the flits of an MSND. -/
def sendLater (p : PipSt) (c id port : Nat) (fs : List Flit) : PipSt :=
  { notePut p (qEgress port) fs.length with
    ops := { p.ops with fills := p.ops.fills ++ [⟨c + 2, qEgress port, {}, fs.map fun f => (id, f)⟩] } }

/-- One push of a read reaches its queue. -/
def landFill (p : PipSt) (f : Fill) : PipSt :=
  if f.queue < 16 then enterDest p f.queue f.entry else enterEgress p (f.queue - 16) f.flits

/-- Pushes of reads that are due (R48). -/
def landFills (c : Nat) (p : PipSt) : PipSt :=
  let q := (p.ops.fills.filter fun f => decide (f.due ≤ c)).foldl landFill p
  { q with ops := { q.ops with fills := p.ops.fills.filter fun f => !decide (f.due ≤ c) } }

/-- Pop the front of a load queue. -/
def popLq (p : PipSt) (i : Nat) : PipSt :=
  { notePop p i with q := { p.q with lq := Tab.set [] p.q.lq i ((Tab.get [] p.q.lq i).drop 1) } }

/-- The front entry of a load queue. -/
def frontLq (p : PipSt) (i : Nat) : LqEntry := (Tab.get [] p.q.lq i).headD {}

/-- Pop the RIQ. -/
def popRiq (p : PipSt) : PipSt := { notePop p qRiq with q := { p.q with riq := p.q.riq.drop 1 } }

/-- Pop a store queue. -/
def popSq (p : PipSt) (i : Nat) : PipSt :=
  { notePop p (qSq i) with q := { p.q with sq := Tab.set [] p.q.sq i ((Tab.get [] p.q.sq i).drop 1) } }

/-- The front entry of a store queue. -/
def frontSq (p : PipSt) (i : Nat) : Line := (Tab.get [] p.q.sq i).headD 0

/-- Push an entry into a store queue. -/
def pushSq (p : PipSt) (sq : Bool) (e : Line) : PipSt :=
  { notePut p (qSq (b2n sq)) 1 with q := { p.q with sq := Tab.set [] p.q.sq (b2n sq) (Tab.get [] p.q.sq (b2n sq) ++ [e]) } }

/-- A store queue takes a push. -/
def sqRoom (p : PipSt) (sq : Bool) : Bool := canPut p (qSq (b2n sq)) 1

/-- Pop the SCQ. -/
def popScq (p : PipSt) : PipSt := { notePop p qScq with q := { p.q with scq := p.q.scq.drop 1 } }
/-- The front entry of the SCQ. -/
def frontScq (p : PipSt) : Word64 := p.q.scq.headD 0

/-- Pop the key queue. -/
def popKey (p : PipSt) : PipSt := { notePop p qKey with q := { p.q with kq := p.q.kq.drop 1 } }

/-- The key queue holds an entry that has passed the header check (R57, R263). -/
def keyReady (p : PipSt) : Bool := canPop p qKey && (p.q.kq.headD (0, false)).2

/-- The front entry of the key queue. -/
def frontKey (p : PipSt) : Line := (p.q.kq.headD (0, false)).1

/-- An entry of the SCQ is there, or the stall. -/
def scqStall (p : PipSt) : List Stall := if canPop p qScq then [] else [⟨causeScq, 0⟩]

end Sys2Proof.Machine
end

