-- ==== Sys2Proof/Machine/TensorOps.lean ====
section
/-!
DEFINITION. The tensor array: element values of queue entries (R164, R168), the sums of a row of a tile multiply in the canonical order
(R178) and in modular matrix mode (R224, R225), its cycles (R51, R58), weight sets (R52, R223), the entries a drain reads (R185, R226).
-/
namespace Sys2Proof.Machine

/-- The value of the element whose bit 0 is bit `pos` of an entry, scale and ifac applied (R164, R168). -/
def elemAt (f : Nat) (e : LqEntry) (pos : Nat) : Num :=
  let v := decodeElem f (e.data.toNat / 2 ^ pos)
  if e.blk = 0 then v
  else
    let v := v.scale (ifacLog f true)
    let i := pos / e.blk
    if i < e.scales.length then
      let s := (nth e.scales i 0).toNat
      if s = 255 then .nan else v.scale ((s : Int) - 127)
    else v

/-- Bits of one row of A: 32 elements (Table 2.4). -/
def rowBits (f : Nat) : Nat := 32 * elemBits f

/-- Rows of A in one LQ0 entry; FP6 uses bytes 0 to 95 (Table 5.4). -/
def rowsPerEntry (f : Nat) : Nat := if elemBits f = 6 then 4 else 1024 / rowBits f

/-- Row m of A, from the entry of LQ0 it lies in: rows lie one after another in the entries. [DEDUCED, log 10] -/
def rowA (f : Nat) (e : LqEntry) (m : Nat) : List Num :=
  (List.range 32).map fun k => elemAt f e ((m % rowsPerEntry f) * rowBits f + k * elemBits f)

/-- Column n of the weight set: K row k lies in entry k div 2 at half k mod 2, its columns in order. [DEDUCED, log 10] -/
def colW (f : Nat) (ws : Tab LqEntry) (n : Nat) : List Num :=
  (List.range 32).map fun k =>
    let e := Tab.get {} ws (k / 2)
    elemAt f e ((k % 2) * (32 * fmtT f * elemBits f) + n * elemBits f)

/-- One element sum of R178: 32 products, each rounded once, and the fixed tree. -/
def dotSum (a w : List Num) : Word32 := tree32 (List.zipWith (fun x y => round32 (x.mul y)) a w)

/-- The sums of row m of a TMM, from its entry of LQ0 (R178). -/
def rowSums (fa fw : Nat) (e : LqEntry) (m : Nat) (ws : Tab LqEntry) : List Word32 :=
  let a := rowA fa e m
  (List.range (32 * fmtT fw)).map fun n => dotSum a (colW fw ws n)

/-- The 128 words of a buffer row. -/
def rowWords (r : BitVec 4096) : List Word32 := (List.range 128).map fun j => BitVec.ofNat 32 (r.toNat / 2 ^ (32 * j))

/-- A buffer row from words; missing words are zero. -/
def ofRowWords (l : List Word32) : BitVec 4096 := BitVec.ofNat 4096 (digits 32 (l.map BitVec.toNat))

/-- One word of a buffer after an update: FP32 addition, or addition modulo the word's prime; with CLR the earlier value counts as 0
(R51, R178, R224, R225). -/
def accWord (u : AccUpd) (j : Nat) (old : Word32) : Word32 :=
  if j < u.col ∨ u.col + u.ws.length ≤ j then old
  else
    let v := nth u.ws (j - u.col) 0
    match u.qs with
    | [] => if u.clr then v else f32add old v
    | q :: _ =>
      let q := max 1 (nth u.qs (j - u.col) q)
      BitVec.ofNat 32 (((if u.clr then 0 else old.toNat) + v.toNat) % q)

/-- A buffer after the update of one row; a TMM with CLR clears the whole buffer first. [DEDUCED, log 16] -/
def accAfter (u : AccUpd) (t : Tab (BitVec 4096)) : Tab (BitVec 4096) :=
  let t := if u.clr && u.row = 0 && u.col = 0 then [] else t
  Tab.set 0 t u.row (ofRowWords ((rowWords (Tab.get 0 t u.row)).zipIdx.map fun w => accWord u w.2 w.1))

/-- An update at the end of its cycle. -/
def applyUpd (ten : Tensor) (u : AccUpd) : Tensor :=
  if u.acc then { ten with acc1 := accAfter u ten.acc1 } else { ten with acc0 := accAfter u ten.acc0 }

/-- Updates at the end of cycle `c` (R51). -/
def applyUpds (c : Nat) (p : PipSt) : PipSt :=
  { p with ten := (p.ops.upds.filter fun u => decide (u.due ≤ c)).foldl applyUpd p.ten,
           ops := { p.ops with upds := p.ops.upds.filter fun u => !decide (u.due ≤ c) } }

/-- Word `w` of the modular weight set entries (Table 8.7). [DEDUCED, log 10] -/
def wword (ws : Tab LqEntry) (e w : Nat) : Nat := (Tab.get {} ws e).data.toNat / 2 ^ (32 * w) % 2 ^ 32

/-- W[k][n] of a modular weight set. -/
def modW (ws : Tab LqEntry) (k n : Nat) : Nat := wword ws ((8 * k + n) / 32) ((8 * k + n) % 32)

/-- Column prime Q_n. -/
def modQ (ws : Tab LqEntry) (n : Nat) : Nat := wword ws 2 n

/-- MODE of a modular weight set is the key mapping. -/
def modKey (ws : Tab LqEntry) : Bool := wword ws 2 8 = 1

/-- The check of the new active set at TSW in modular matrix mode (R223). -/
def modSetOk (ws : Tab LqEntry) : Bool :=
  (List.range 8).all (fun n => let q := modQ ws n; decide (q % 2 = 1) && decide (3 ≤ q) && decide (q < 2 ^ 31))
  && decide (wword ws 2 8 ≤ 1) && (List.range 23).all (fun i => wword ws 2 (9 + i) = 0)

/-- Word `w` of a line. -/
def lword (l : Line) (w : Nat) : Nat := l.toNat / 2 ^ (32 * w) % 2 ^ 32

/-- Row m of the matrix mapping: 8 words from its entry of LQ0 (R224). -/
def matSums (e : Line) (m : Nat) (ws : Tab LqEntry) : List Word32 :=
  (List.range 8).map fun n =>
    BitVec.ofNat 32 (((List.range 8).foldl (fun s k =>
      s + montMul (modQ ws n) (lword e (8 * (m % 4) + k)) (modW ws k n)) 0) % max 1 (modQ ws n))

/-- Cycle r of the key mapping: words 4r to 4r + 3, from half an entry of LQ0 and a key entry (R225). -/
def keySums (e key : Line) (r : Nat) (ws : Tab LqEntry) : List Word32 :=
  let q := modQ ws 0
  (List.range 4).map fun i =>
    let h := i / 2
    let b := i % 2
    BitVec.ofNat 32 (((List.range 8).foldl (fun s d =>
      s + montMul q (lword e (16 * (r % 2) + 8 * h + d)) (lword key (16 * h + 8 * b + d))) 0) % max 1 q)

/-- Fill position after a pop: back to 0 after the last entry of the set (R52). -/
def nextFill (tmode : Bool) (f : Nat) : Nat := if f = (if tmode then 2 else 15) then 0 else f + 1

/-- One cycle of a unit of the execute stream: stalled, moved on, or nothing due. -/
inductive UTry where
  | held (ws : List Stall)
  | moved (r : PRes)
  | idle
  deriving DecidableEq, Repr

/-- A TLW's pop of one entry of LQ1 into the shadow set in cycle `c` (R52). -/
def tlwPop (p : PipSt) (c : Nat) (op : TlwOp) : PipSt :=
  { popLq p 1 with
    ten := { p.ten with shadow := Tab.set {} p.ten.shadow p.ten.fill (frontLq p 1), fill := nextFill p.ten.tmode p.ten.fill }
    ops := { p.ops with tlw := if op.left ≤ 1 then none else some ⟨op.left - 1, c + 1, {}⟩ } }

/-- What stalls a TLW. -/
def tlwStall (p : PipSt) : List Stall := if canPop p 1 then [] else [⟨causeLq, 1⟩]

/-- Rows of A in an LQ0 entry in the present mode: four in the matrix mapping, two cycles in the key mapping (R224, R225). -/
def rowsIn (p : PipSt) (op : TmmOp) : Nat :=
  if p.ten.tmode then (if modKey p.ten.active then 2 else 4) else rowsPerEntry op.fmtA

/-- What stalls the next row of a tile multiply: no entry in LQ0; in the key mapping no passed key entry, or the ring unit, which pops
the key queue in this cycle (R51, R58, R225). -/
def tmmStall (p : PipSt) (ring : Bool) (op : TmmOp) : List Stall :=
  (if op.row % rowsIn p op = 0 && !canPop p 0 then [⟨causeLq, 0⟩] else [])
  ++ (if p.ten.tmode && modKey p.ten.active then
        (if ring then [⟨causeKeyMeet, 0⟩] else if keyReady p then [] else [⟨causeKq, 0⟩])
      else [])

/-- A row of a tile multiply enters in cycle `c`: what it pops, and the update it makes at the end of cycle c + 6 (R51, R224, R225). -/
def tmmRow (p : PipSt) (c : Nat) (op : TmmOp) : PipSt × TmmOp × AccUpd :=
  let m := op.row
  let pops := m % rowsIn p op = 0
  let e := if pops then frontLq p 0 else op.entry
  let p1 := if pops then popLq p 0 else p
  let ws := p.ten.active
  let key := p.ten.tmode && modKey ws
  let u : AccUpd :=
    if key then ⟨c + 6, op.acc, 0, 4 * m, op.clr, [modQ ws 0], keySums e.data (frontKey p) m ws⟩
    else if p.ten.tmode then ⟨c + 6, op.acc, m / 16, 8 * (m % 16), op.clr, (List.range 8).map (modQ ws), matSums e.data m ws⟩
    else ⟨c + 6, op.acc, m, 0, op.clr, [], rowSums op.fmtA op.fmtW e m ws⟩
  let p2 := if key then popKey p1 else p1
  ({ p2 with cnt := { p2.cnt with tbusy := bump p2.cnt.tbusy 1 }, ops := { p2.ops with upds := p2.ops.upds ++ [u] } },
    { op with row := m + 1, due := c + 1, entry := e, last := c + 6, hold := {} }, u)

/-- Entries a drain of a buffer delivers (R185, R226). -/
def drainLen (ten : Tensor) (acc : Bool) : Nat :=
  let t := if acc then ten.t1 else ten.t0
  let key := if acc then ten.key1 else ten.key0
  if t = 0 then 32 else if ten.tmode then (if key then 4 else 8) else 32 * t

/-- Entry i of a drained buffer: row i mod 32, columns 32 × (i div 32) + j, or words 32i + j in modular matrix mode (R185, R226).
[DESIGN CHOICE, log 16: modular matrix mode with no TMM into the buffer delivers 32 entries, and entries 8 to 31 too are words
32i + j of the buffer.] -/
def drainEntry (ten : Tensor) (acc : Bool) (i : Nat) : List Word32 :=
  let buf := if acc then ten.acc1 else ten.acc0
  if ten.tmode then
    slice (rowWords (Tab.get 0 buf (i / 4))) (32 * (i % 4)) 32
  else slice (rowWords (Tab.get 0 buf (i % 32))) (32 * (i / 32)) 32

end Sys2Proof.Machine
end

