-- ==== Sys2Proof/Machine/ChainOps.lean ====
section
/-!
DEFINITION. The vector chain: configurations and their checks (R188 to R191), stages (R192 to R194,
R196, R201 to R203), row statistics (R198 to R200), and the cycles of a drain (R56, R186, R187, R190).
-/
namespace Sys2Proof.Machine

/-- The 64 bytes of configuration `c` of the chain image (R188). -/
def cfgOf (chn : Chain) (c : Nat) : List Byte := slice chn.image (64 * c) 64

def cCtrl (g : List Byte) : Nat := field g 0 4
def cNstg (g : List Byte) : Nat := bits (cCtrl g) 3 0
def cSrc (g : List Byte) : Bool := bit (cCtrl g) 4
def cDlen (g : List Byte) : Nat := bits (cCtrl g) 6 5
def cX0en (g : List Byte) : Bool := bit (cCtrl g) 7
def cX1en (g : List Byte) : Bool := bit (cCtrl g) 8
def cX1mask (g : List Byte) : Bool := bit (cCtrl g) 9
def cRstat (g : List Byte) : Nat := bits (cCtrl g) 11 10
def cStap (g : List Byte) : Nat := bits (cCtrl g) 15 12
def cSemit (g : List Byte) : Bool := bit (cCtrl g) 16
def cStload (g : List Byte) : Bool := bit (cCtrl g) 17
def cSepeq (g : List Byte) : Bool := bit (cCtrl g) 18
def cMfmt (g : List Byte) : Nat := bits (cCtrl g) 22 19
def cNcount (g : List Byte) : Nat := bits (field g 4 4) 23 0
def cEps (g : List Byte) : Word32 := BitVec.ofNat 32 (field g 8 4)
def cConst (g : List Byte) (i : Nat) : Word32 := BitVec.ofNat 32 (field g (48 + 4 * i) 4)

/-- Stage word k, counted from 0 (Table 7.3). -/
def cStage (g : List Byte) (k : Nat) : Nat := field g (16 + 4 * k) 4
def sType (w : Nat) : Nat := bits w 3 0
def sVar (w : Nat) : Nat := bits w 7 4
def sB (w : Nat) : Nat := bits w 11 8
def sC (w : Nat) : Nat := bits w 15 12
def sParam (w : Nat) : Nat := bits w 21 16

/-- The stage words in use. -/
def cStages (g : List Byte) : List Nat := (List.range (min 8 (cNstg g))).map (cStage g)

/-- Variants a stage type has (Table 7.5). -/
def varOk (t v : Nat) : Bool :=
  match t with
  | 0x0 => decide (v ≤ 2)
  | 0x1 | 0x4 => v = 0
  | 0x2 | 0x5 | 0x7 | 0x8 | 0x9 => decide (v ≤ 1)
  | 0x3 => decide (v ≤ 5) || v = 8
  | 0x6 => decide (v ≤ 2)
  | 0xA => decide (v ≤ 5)
  | 0xB => decide (v ≤ 3)
  | _ => false

/-- Whether a stage uses operand b and operand c (Table 7.5). -/
def usesB (t v : Nat) : Bool :=
  match t with
  | 0x0 | 0x1 | 0x2 | 0x3 | 0x4 => true
  | 0xA => decide (3 ≤ v)
  | 0xB => decide (v ≤ 2)
  | _ => false
def usesC (t v : Nat) : Bool := t = 0x2 || t = 0x4 || (t = 0x3 && v = 8)

/-- A row operand (Table 7.4). -/
def isRowOp (c : Nat) : Bool := decide (7 ≤ c) && decide (c ≤ 0xA)

/-- A stage names operand code `c`. -/
def names (g : List Byte) (c : Nat) : Bool := (cStages g).any fun w => sB w = c || sC w = c

/-- Check 1 of Table 7.6 fails. -/
def cfgCheck1 (g : List Byte) : Bool :=
  let st := cStages g
  !bit (cCtrl g) 31 || bits (cCtrl g) 30 23 ≠ 0 || bits (field g 4 4) 31 24 ≠ 0 || field g 12 4 ≠ 0
  || st.any (fun w => bits w 31 22 ≠ 0)
  || (List.range 8).any (fun k => decide (cNstg g ≤ k) && cStage g k ≠ 0)
  || (!cSrc g && cDlen g ≠ 0) || cDlen g = 3 || decide (cMfmt g > 9)
  || st.any (fun w => !varOk (sType w) (sVar w) || decide (sB w ≥ 0xC) || decide (sC w ≥ 0xC)
      || (sType w = 6 && sVar w = 0 && (bits (sParam w) 3 0 = 0 || decide (bits (sParam w) 3 0 > 9))))

/-- Check 3 of Table 7.6 fails. -/
def cfgCheck3 (g : List Byte) : Bool :=
  let expd1 := (cStages g).any fun w => sType w = 9 && sVar w = 1
  (cX1en g && cX1mask g) || (names g 5 && (!cX0en g || cSrc g)) || (names g 6 && !cX1en g)
  || (cX1mask g != expd1)

/-- Check 4 of Table 7.6 fails. -/
def cfgCheck4 (g : List Byte) : Bool :=
  let st := cStages g
  st.any (fun w => (usesB (sType w) (sVar w) == (sB w == 0)) || (usesC (sType w) (sVar w) == (sC w == 0))
    || ((sB w = 0xB || sC w = 0xB) && decide (sType w > 3))
    || (sType w = 0xB && (let q := (cConst g (sParam w % 4)).toNat
          q % 2 = 0 || decide (q < 3) || decide (q ≥ 2 ^ 31))))
  || decide ((st.filter fun w => sType w = 8 && sVar w = 1).length > 1)

/-- Check 5 of Table 7.6 fails, with the state of the row-statistic file. -/
def cfgCheck5 (chn : Chain) (g : List Byte) : Bool :=
  let rowOp := (cStages g).any fun w => isRowOp (sB w) || isRowOp (sC w)
  (decide (cRstat g ≥ 2) && !chn.open_) || (cSemit g && cRstat g ≠ 3)
  || (rowOp && cRstat g ≠ 0) || (rowOp && !chn.complete)
  || ((names g 9 || names g 0xA) && cNcount g = 0)

/-- Check 6 of Table 7.6 fails. -/
def cfgCheck6 (g : List Byte) : Bool :=
  cStload g && (cNstg g ≠ 0 || cSrc g || cRstat g ≠ 0 || cX0en g || cX1en g || cX1mask g || cSemit g)

/-- First failing check of Table 7.6, 0 if none (R191). -/
def cfgFail (chn : Chain) (g : List Byte) : Nat :=
  if !chn.imageOk || cfgCheck1 g then 1
  else if decide (cNstg g > 8) || decide (cStap g > cNstg g) then 2
  else if cfgCheck3 g then 3
  else if cfgCheck4 g then 4
  else if cfgCheck5 chn g then 5
  else if cfgCheck6 g then 6
  else 0

/-- The lanes of one entry in the chain: values, predicates, and what the drain collects. -/
structure LaneSt where
  v    : List Word32
  pr   : List Bool
  /-- Values after stage STAP. -/
  tap  : List Word32
  /-- Mask of a CMPR of variant 1. -/
  mask : Option Word32
  /-- Predicates that entered the last CMPR so far. -/
  cnt  : Nat
  /-- Values that entered the last RED of variant 1 so far. -/
  red  : Option (List Word32)
  deriving DecidableEq, Repr

/-- Everything an entry's stages read besides the lanes. -/
structure ChainIn where
  cfg  : List Byte
  chn  : Chain
  op   : DrainOp
  x0   : Line
  x1   : Line
  i    : Nat
  deriving DecidableEq, Repr

/-- Value of an operand code in lane j (Table 7.4). -/
def operand (c : ChainIn) (param code j : Nat) : Word32 :=
  let row := c.i % 32
  match code with
  | 1 | 2 | 3 | 4 => cConst c.cfg (code - 1)
  | 5 => BitVec.ofNat 32 (lword c.x0 j)
  | 6 => BitVec.ofNat 32 (lword c.x1 j)
  | 7 => BitVec.ofNat 32 (lword c.chn.sum row)
  | 8 => BitVec.ofNat 32 (lword c.chn.max row)
  | 9 => nth c.op.mean row 0
  | 0xA => nth c.op.rstd row 0
  | 0xB => pow2f (nth c.op.lrx param 0)
  | _ => 0

/-- Comparison of CMP variants 0 to 5 (Table 7.5). [DEDUCED, log 15] -/
def cmpVar (var : Nat) (a b : Num) : Bool :=
  match var with
  | 0 => a.eqv b
  | 1 => !a.eqv b
  | 2 => a.lt b
  | 3 => a.lt b || a.eqv b
  | 4 => b.lt a
  | _ => b.lt a || a.eqv b

/-- Pack the lanes whose predicate is set (R196). -/
def packLanes (v : List Word32) (pr : List Bool) : List Word32 × List Bool :=
  let k := (v.zip pr).filterMap fun x => if x.2 then some x.1 else none
  (k ++ List.replicate (32 - k.length) 0, (List.range 32).map fun j => decide (j < k.length))

/-- Move lane k to the k-th set lane of the mask (R196). -/
def expandLanes (v : List Word32) (mask : List Bool) : List Word32 :=
  (List.range 32).map fun j =>
    if nth mask j false then nth v ((mask.take j).filter id).length 0 else 0

/-- Lane j of a shift, mask or MODS stage (Table 7.5, R194). -/
def intStage (t var param : Nat) (q : Nat) (v b : Word32) : Word32 :=
  if t = 0xA then
    let s := param % 32
    match var with
    | 0 => v <<< s
    | 1 => v >>> s
    | 2 => v.sshiftRight s
    | 3 => v &&& b
    | 4 => v ||| b
    | _ => v ^^^ b
  else
    BitVec.ofNat 32 (match var with
      | 0 => modsAdd q v.toNat b.toNat
      | 1 => modsSub q v.toNat b.toNat
      | 2 => modsMul q v.toNat b.toNat
      | _ => modsRed q v.toNat)

/-- Every NaN result is written as 0x7FC0_0000 (R192). [DEDUCED, log 15] -/
def oneNan (w : Word32) : Word32 := if isNan32 w then nan32 else w

/-- The exact value a stage passes to a fused second stage, or its FP32 value (R202). -/
def stageIn (w : Word32) (fused : Option Num) : Num := fused.getD (dec32 w)

/-- One stage on one entry; `fused` holds the exact products of a fused pair's MUL (R192, R202). -/
def runStage (c : ChainIn) (w : Nat) (fused : Option (List Num)) (s : LaneSt) : LaneSt :=
  let t := sType w
  let var := sVar w
  let pa := sParam w
  let b (j : Nat) := operand c pa (sB w) j
  let cc (j : Nat) := operand c pa (sC w) j
  let mapLanes (f : Nat → Word32 → Word32) : LaneSt :=
    { s with v := (List.range 32).map fun j => f j (nth s.v j 0) }
  let inp (j : Nat) (x : Word32) : Num := stageIn x (fused.map fun l => nth l j .nan)
  let r :=
    match t with
    | 0x0 => mapLanes fun j x =>
        match var with
        | 0 => f32add x (b j)
        | 1 => f32sub x (b j)
        | _ => f32sub (b j) x
    | 0x1 => mapLanes fun j x => f32mul x (b j)
    | 0x2 => mapLanes fun j x =>
        if var = 0 then round32 (((dec32 x).mul (dec32 (b j))).add (dec32 (cc j)))
        else round32 ((dec32 x).add ((dec32 (b j)).mul (dec32 (cc j))))
    | 0x3 =>
        if var = 8 then mapLanes fun j _ => oneNan (if nth s.pr j false then b j else cc j)
        else { s with pr := (List.range 32).map fun j => cmpVar var (dec32 (nth s.v j 0)) (dec32 (b j)) }
    | 0x4 => mapLanes fun j x =>
        oneNan <| chainLut (inp j x) (b j) (cc j)
          ((List.range 128).map fun i => BitVec.ofNat 32 (field c.chn.image (1024 + 512 * (pa % 2) + 4 * i) 4))
    | 0x5 => mapLanes fun j x => if var = 0 then chainExp2 (inp j x) else chainLog2 (inp j x)
    | 0x6 => mapLanes fun _ x =>
        match var with
        | 0 => quantise (pa % 16) x
        | 1 => f2i x
        | _ => i2f x
    | 0x7 =>
        let y := if var = 0 then tree32 s.v else s.v.foldl f32max (s.v.headD 0)
        { s with v := List.replicate 32 y, red := if var = 1 then some s.v else s.red }
    | 0x8 =>
        let (v, pr) := packLanes s.v s.pr
        let m : Word32 := BitVec.ofNat 32 (digits 1 (s.pr.map b2n))
        { s with v := v, pr := pr, cnt := (s.pr.filter id).length,
                 mask := if var = 1 then some m else s.mask }
    | 0x9 =>
        let m := if var = 0 then s.pr else (List.range 32).map fun j => bit (lword c.op.xmask (c.i % 32)) j
        { s with v := expandLanes s.v m, pr := m }
    | _ => mapLanes fun j x => intStage t var pa (cConst c.cfg (pa % 4)).toNat x (b j)
  if cSepeq c.cfg && (decide (t ≤ 2) || t = 4 || t = 5 || t = 7 || (t = 3 && var = 8)) then
    { r with v := r.v.map (quantise (cMfmt c.cfg)) }
  else r

/-- Run the stages from stage number `k` (1-based for STAP), forming fused pairs (R202). -/
def runStages (c : ChainIn) (k : Nat) : Option (List Num) → List Nat → LaneSt → LaneSt
  | _, [], s => s
  | fused, w :: ws, s =>
    let s1 := runStage c w fused s
    let s2 := if cStap c.cfg = k then { s1 with tap := s1.v } else s1
    let nextFused :=
      match ws with
      | w2 :: _ =>
        if sType w = 1 && (sType w2 = 4 || sType w2 = 5) && !cSepeq c.cfg then
          some ((List.range 32).map fun j =>
            (dec32 (nth s.v j 0)).mul (dec32 (operand c (sParam w) (sB w) j)))
        else none
      | [] => none
    runStages c (k + 1) nextFused ws s2

/-- Replace lane m of a line of 32 words. -/
def setLane (l : Line) (m : Nat) (w : Word32) : Line := ofLanes (setAt (lanes l) m w)

/-- Contribution of an entry to row m of the statistics (R198). -/
def addStat (chn : Chain) (m : Nat) (w : List Word32) : Chain :=
  let s := tree32 w
  let q := tree32 (w.map fun x => f32mul x x)
  let x := w.foldl f32max (w.headD 0)
  let old (l : Line) : Word32 := BitVec.ofNat 32 (lword l m)
  if chn.seen.getLsbD m then
    { chn with sum := setLane chn.sum m (f32add (old chn.sum) s),
               sumsq := setLane chn.sumsq m (f32add (old chn.sumsq) q),
               max := setLane chn.max m (f32max (old chn.max) x) }
  else
    { chn with sum := setLane chn.sum m s, sumsq := setLane chn.sumsq m q, max := setLane chn.max m x,
               seen := chn.seen ||| BitVec.ofNat 32 (2 ^ m) }

/-- MEAN of a row (R199). -/
def rowMean (chn : Chain) (n m : Nat) : Word32 := f32divNat (BitVec.ofNat 32 (lword chn.sum m)) n

/-- RSTD of a row (R199). -/
def rowRstd (chn : Chain) (n : Nat) (eps : Word32) (m : Nat) : Word32 :=
  let mean := rowMean chn n m
  let ms := f32divNat (BitVec.ofNat 32 (lword chn.sumsq m)) n
  let var := f32sub ms (f32mul mean mean)
  let var := if (dec32 var).lt (numOfInt 0) then 0 else var
  f32rsqrt (f32add var eps)

/-- The larger of the best value so far and a new one, with the index of its first occurrence (R197): +0 is larger than −0, since of
two zeros the maximum is +0 (R192). [DEDUCED, log 15] -/
def better (best : Option (Word32 × Nat)) (v : Word32) (i : Nat) : Option (Word32 × Nat) :=
  match best with
  | none => some (if isNan32 v then nan32 else v, i)
  | some (b, _) =>
    if isNan32 b then best
    else if isNan32 v then some (nan32, i)
    else if (dec32 b).lt (dec32 v) || (b = 0x80000000 && v = 0) then some (v, i) else best

/-- Drain length named by the configuration (Table 7.2). -/
def cfgLen (g : List Byte) : Nat := match cDlen g with | 0 => 32 | 1 => 64 | _ => 128

/-- Entry i of a drain needs X0, and X1 (R190). -/
def needX0 (g : List Byte) : Bool := cSrc g || cX0en g
def needX1 (g : List Byte) (i : Nat) : Bool := cX1en g || (cX1mask g && i % 32 = 0) || cStload g

/-! ### The cycles of a drain (R56, R186, R196, R200) -/

/-- The chain emits masks (CMPR variant 1). -/
def emitsMasks (g : List Byte) : Bool := (cStages g).any fun w => sType w = 8 && sVar w = 1

/-- The cycle of a drain, counted without held cycles from its issue, in which it pushes its last data entry (R186). -/
def dataEnd (op : DrainOp) : Nat := op.len + cNstg op.cfg + 1

/-- The last cycle of a drain: its last data entry, mask entry or statistic is pushed, or the third entry of a statistic load is popped
(R187, R196, R200). -/
def drainLast (op : DrainOp) : Nat :=
  if cStload op.cfg then 2 else dataEnd op + b2n (emitsMasks op.cfg) + (if cSemit op.cfg then 3 else 0)

/-- The data entry that is pushed in cycle t of the drain (R186). -/
def dataAt (op : DrainOp) (t : Nat) : Option Line :=
  if cStload op.cfg ∨ t < cNstg op.cfg + 2 ∨ t > dataEnd op then none else op.pipe.head?

/-- The mask entry that is pushed in cycle t of the drain: that of a complete group, or of one cut short by the end (R196). -/
def maskAt (op : DrainOp) (t : Nat) : Option Line :=
  let e := t - (cNstg op.cfg + 3)
  if !emitsMasks op.cfg ∨ t < cNstg op.cfg + 3 ∨ e ≥ op.len then none
  else if e % 32 = 31 ∨ e + 1 = op.len then some (ofLanes (slice op.masks (32 * (e / 32)) (e % 32 + 1))) else none

/-- The statistic that is pushed in cycle t of the drain (R200). -/
def statAt (chn : Chain) (op : DrainOp) (t : Nat) : Option Line :=
  let b := dataEnd op + 1 + b2n (emitsMasks op.cfg)
  if !cSemit op.cfg ∨ t < b then none
  else match t - b with
    | 0 => some chn.sum
    | 1 => some chn.sumsq
    | 2 => some chn.max
    | _ => none

/-- What the drain pushes in its present cycle, and the store queues: the named one for data, the other for masks and statistics. -/
def drainPushes (chn : Chain) (op : DrainOp) : List (Bool × Line) :=
  ((dataAt op op.t).toList.map fun e => (op.sq, e))
  ++ (((maskAt op op.t).toList ++ (statAt chn op op.t).toList).map fun e => (!op.sq, e))

/-- What stalls a drain in its present cycle (R56, R186). -/
def drainStall (p : PipSt) (op : DrainOp) : List Stall :=
  (if op.t < op.len && needX0 op.cfg && !canPop p 2 then [⟨causeLq, 2⟩] else [])
  ++ (if op.t < op.len && needX1 op.cfg op.t && !canPop p 3 then [⟨causeLq, 3⟩] else [])
  ++ ((drainPushes p.chn op).filter fun e => !sqRoom p e.1).map fun e => ⟨causeSq, b2n e.1⟩

/-- The read of entry `op.t` of a drain: pops, stages, statistics; the result enters the pipe (R186, R190 to R198). -/
def drainRead (p : PipSt) (op : DrainOp) : PipSt × DrainOp :=
  let g := op.cfg
  let i := op.t
  let x0 := (frontLq p 2).data
  let x1 := (frontLq p 3).data
  let p := if needX0 g then popLq p 2 else p
  let p := if needX1 g i then popLq p 3 else p
  if cStload g then
    let chn := match i with
      | 0 => { p.chn with sum := x1 }
      | 1 => { p.chn with sumsq := x1 }
      | _ => { p.chn with max := x1, open_ := false, complete := true }
    ({ p with chn := chn }, op)
  else
    let op := if cX1mask g && i % 32 = 0 then { op with xmask := x1 } else op
    let v := if cSrc g then lanes x0 else drainEntry p.ten op.acc i
    let c : ChainIn := ⟨g, p.chn, op, x0, x1, i⟩
    let s0 : LaneSt := ⟨v, List.replicate 32 true, v, none, 0, none⟩
    let s := runStages c 1 none (cStages g) s0
    let chn := if cRstat g = 0 then p.chn else addStat p.chn (i % 32) s.tap
    let best := match s.red with
      | none => op.best
      | some l => (List.range 32).foldl (fun b j => better b (nth l j 0) (32 * i + j)) op.best
    ({ p with chn := chn },
      { op with pipe := op.pipe ++ [ofLanes s.v], masks := op.masks ++ [s.mask.getD 0], cnt := op.cnt + s.cnt, best := best })

/-- The summaries and the end of the statistics, in the cycle of the last data push (R197, R198, R200). -/
def drainSums (p : PipSt) (c : Nat) (op : DrainOp) : PipSt :=
  if op.t ≠ (if cStload op.cfg then 2 else dataEnd op) then p
  else
    let fin := cRstat op.cfg = 3
    let (mv, mi) := op.best.getD (0, 0)
    { p with chn := { p.chn with count := op.cnt, vmax := mv, argmax := mi, readyAt := c + 2,
                                 open_ := if fin then false else p.chn.open_,
                                 complete := if fin then true else p.chn.complete } }

/-- Cycle `c` of a drain: what it pushes, what it reads, then its next cycle. -/
def drainCycle (p : PipSt) (c : Nat) (op : DrainOp) : PipSt :=
  let out := drainPushes p.chn op
  let p := out.foldl (fun p e => pushSq p e.1 e.2) p
  let op := if (dataAt op op.t).isSome then { op with pipe := op.pipe.drop 1 } else op
  let (p, op) := if op.t < op.len then drainRead p op else (p, op)
  { drainSums p c op with ops := { p.ops with drain := some { op with t := op.t + 1, due := c + 1, hold := {} } } }

/-- The drain in progress in cycle `c` (R186). -/
def drainStep (p : PipSt) (c : Nat) : UTry :=
  match p.ops.drain with
  | none => .idle
  | some op =>
    if c < op.due ∨ drainLast op < op.t then .idle
    else match drainStall p op with
      | [] => .moved (done (drainCycle p c op))
      | ws => .held ws

/-- A drain starts in cycle `c` (R191, R198, R199): what TDRN latches when every check passes. -/
def drainStart (p : PipSt) (c : Nat) (acc sq : Bool) (chain : Nat) : PipSt :=
  let g := cfgOf p.chn chain
  let n := cNcount g
  let rows := List.range 32
  let op : DrainOp :=
    { acc := acc, chain := chain, sq := sq, cfg := g, due := c,
      len := if cStload g then 3 else if cSrc g then cfgLen g else drainLen p.ten acc,
      lrx := (List.range 64).map fun i => (Tab.get 0 p.regs.lrx i).toInt,
      mean := if names g 9 then rows.map (rowMean p.chn n) else [],
      rstd := if names g 0xA then rows.map (rowRstd p.chn n (cEps g)) else [] }
  let chn := match cRstat g with
    | 0 => p.chn
    | 1 => { p.chn with complete := false, open_ := true, seen := 0 }
    | _ => { p.chn with complete := false }
  { p with chn := chn, ops := { p.ops with drain := some op } }

/-- A drain ends after its last push (R187). -/
def drainFinish (p : PipSt) : PipSt :=
  { p with ops := { p.ops with drain := none }, cnt := { p.cnt with drain := bump p.cnt.drain 1 } }

end Sys2Proof.Machine
end

