-- ==== Sys2Proof/Machine/RingOps.lean ====
section
/-!
DEFINITION. The ring unit: prime table and ring operation descriptors with their checks (R206 to R212),
the functions of Table 8.4 (R213 to R217, R221, R222) and the cycles of a ring operation (R57, R214).
-/
namespace Sys2Proof.Machine

/-! ### Ring image (Tables 8.1 to 8.3) -/

def primeQ (im : List Byte) (e : Nat) : Nat := field im (256 + 16 * e) 4
def primeW16 (im : List Byte) (e : Nat) : Nat := field im (260 + 16 * e) 4
def primeCtl (im : List Byte) (e : Nat) : Nat := field im (264 + 16 * e) 4
def primeA (im : List Byte) (e : Nat) : Nat := bits (primeCtl im e) 4 0
def primeB (im : List Byte) (e : Nat) : Nat := bits (primeCtl im e) 12 8
def primeSf (im : List Byte) (e : Nat) : Bool := bit (primeCtl im e) 16

/-- x × 2^32 mod q: Montgomery form (R207). -/
def toMont (q x : Nat) : Nat := x * 2 ^ 32 % max 1 q

/-- The prime table entry is in use. -/
def primeUsed (im : List Byte) (e : Nat) : Bool := primeQ im e ≠ 0

/-- The checks of R210 on a prime table entry in use. -/
def primeOk (im : List Byte) (e : Nat) : Bool :=
  let q := primeQ im e
  let w := primeW16 im e
  let sq (x : Nat) := montMul q x x
  q % 2 = 1 && decide (2 ^ 19 < q) && decide (q < 2 ^ 31) && decide (w < q)
  && sq (sq (sq w)) = toMont q (q - 1)
  && (!primeSf im e || (q = 2 ^ primeA im e - 2 ^ primeB im e + 1 && decide (16 ≤ primeB im e)
        && decide (primeB im e < primeA im e) && decide (primeA im e ≤ 31)))
  && bits (primeCtl im e) 7 5 = 0 && bits (primeCtl im e) 15 13 = 0 && bits (primeCtl im e) 31 17 = 0
  && field im (268 + 16 * e) 4 = 0

def slotWord (im : List Byte) (s : Nat) : Nat := field im (16 * s) 8
def slotLogn (im : List Byte) (s : Nat) : Nat := bits (slotWord im s) 4 0
def slotPbase (im : List Byte) (s : Nat) : Nat := bits (slotWord im s) 11 5
def slotPcount (im : List Byte) (s : Nat) : Nat := bits (slotWord im s) 18 12
def slotGexp (im : List Byte) (s : Nat) : Nat := bits (slotWord im s) 36 19
def slotCbase (im : List Byte) (s : Nat) : Nat := bits (slotWord im s) 43 37

/-- Words of a limb in one pip: M = N / 16. -/
def slotM (im : List Byte) (s : Nat) : Nat := 2 ^ slotLogn im s / 16

/-- The checks of R211 on a ring operation descriptor. -/
def slotOk (im : List Byte) (s : Nat) : Bool :=
  let n := slotLogn im s
  let pb := slotPbase im s
  let pc := slotPcount im s
  let g := slotGexp im s
  bit (slotWord im s) 44 && bits (slotWord im s) 63 45 = 0 && field im (16 * s + 8) 8 = 0
  && decide (10 ≤ n) && decide (n ≤ 17) && decide (1 ≤ pc) && decide (pb + pc ≤ 72)
  && (List.range pc).all (fun i => primeUsed im (pb + i) && primeOk im (pb + i)
        && primeQ im (pb + i) % 2 ^ (n + 1) = 1)
  && (g = 0 || (g % 2 = 1 && decide (g < 2 ^ (n + 1)))) && decide (slotCbase im s + pc ≤ 96)

/-! ### Words and tables -/

/-- The words of a run of entries, reduced modulo q (R206). -/
def redWords (q : Nat) (es : List Line) : List Nat :=
  es.flatMap fun e => (lanes e).map fun w => w.toNat % max 1 q

/-- Entries of 32 words from words. -/
def entriesOf (ws : List Nat) : List Line :=
  (groups 32 ws.length ws).map fun g => ofLanes (g.map (BitVec.ofNat 32))

/-- `w` with its low `n` bits reversed (brv of R218). -/
def brv : Nat → Nat → Nat
  | 0, _ => 0
  | n + 1, w => (w % 2) * 2 ^ n + brv n (w / 2)

/-- x^k mod q. -/
def powMod (q x k : Nat) : Nat := x ^ k % max 1 q

/-- Sum of products modulo q. -/
def sumMod (q : Nat) (l : List Nat) : Nat := l.foldl (fun s x => (s + x) % max 1 q) 0

/-- The root a stage table of Table 8.5 stands for: word M/2 out of Montgomery form. -/
def tableRoot (q logm : Nat) (fs : List Nat) : Nat := montMul q (nth fs (2 ^ logm / 2) 0) 1

/-- The stage table is that of Table 8.5 for its own root, a primitive 2M-th root of unity. [DEDUCED, log 17] -/
def stdTable (q logm : Nat) (fs : List Nat) : Bool :=
  let r := tableRoot q logm fs
  powMod q r (2 ^ logm) = q - 1
  && (List.range (2 ^ logm)).all fun t => nth fs t 0 = toMont q (powMod q r (brv logm t))

/-! ### Functions on one limb (R213, R215 to R217, R221) -/

/-- The pre or post table of pip-in-pod `p` is that of Table 8.5: word k2 is z^(2 k2 + 1), divided by N in the pre table, with z^16 the
p-th power of the stage table's root. [DEDUCED, log 17] -/
def stdPost (q logm p : Nat) (pre : Bool) (root : Nat) (fp : List Nat) : Bool :=
  let n := if pre then 16 * 2 ^ logm else 1
  let w (k : Nat) : Nat := montMul q (nth fp k 0) 1 * n % max 1 q
  powMod q (w 0) 16 = powMod q root p && (List.range (2 ^ logm)).all fun k => w k = powMod q (w 0) (2 * k + 1)

/-- NTTL (R215, R216): B[k2] = FP[k2] × Σ_j a[j] × ψ′^(j(2k2 + 1)), ψ′ read from FS; with another stage table the sums are free words
(log 17). -/
def nttlOut (q logm : Nat) (a fs fp : List Nat) : List Nat :=
  let m := 2 ^ logm
  let r := tableRoot q logm fs
  (List.range m).map fun k2 =>
    let s := if stdTable q logm fs then
        sumMod q ((List.range m).map fun j => nth a j 0 * powMod q r (j * (2 * k2 + 1) % (2 * m)))
      else Config.oddNtt q fs a k2 % max 1 q
    montMul q s (nth fp k2 0)

/-- INTL (R217): a[j] = Σ_k2 C[k2] × IP[k2] × ψ′^(−j(2k2 + 1)), ψ′^−1 read from IS; with another stage table the sums are free words
(log 17). -/
def intlOut (q logm : Nat) (c ip is : List Nat) : List Nat :=
  let m := 2 ^ logm
  let r := tableRoot q logm is
  let x := (List.range m).map fun k2 => montMul q (nth c k2 0) (nth ip k2 0)
  (List.range m).map fun j =>
    if stdTable q logm is then
      sumMod q ((List.range m).map fun k2 => nth x k2 0 * powMod q r (j * (2 * k2 + 1) % (2 * m)))
    else Config.oddNtt q is x j % max 1 q

/-- NTTX (R215, R216): the runs come in the order p = 0 to 15, the result in local index order. -/
def nttxOut (q w16 m : Nat) (x : List Nat) : List Nat :=
  let w := montMul q w16 1
  let n := m / 16
  (List.range m).map fun l =>
    let k1 := l / n
    let k2 := l % n
    sumMod q ((List.range 16).map fun p => nth x (p * n + k2) 0 * powMod q w (p * k1 % 16))

/-- INTX (R217): for each p in turn the run over its M/16 values of k2. -/
def intxOut (q w16 m : Nat) (x : List Nat) : List Nat :=
  let w := montMul q w16 1
  let n := m / 16
  (List.range m).map fun i =>
    let p := i / n
    let k2 := i % n
    sumMod q ((List.range 16).map fun k1 => nth x (k1 * n + k2) 0 * powMod q w ((16 - p * k1 % 16) % 16))

/-- AUTO (R221): where word j of pip p goes, as (local index, negated). -/
def autoPlace (logn g p j : Nat) : Nat × Bool :=
  let n := 2 ^ logn
  let i := g * (16 * j + p) % (2 * n)
  if i < n then (i / 16, false) else ((i - n) / 16, true)

/-- AUTO: the words in increasing local index. -/
def autoOut (q logn g p : Nat) (a : List Nat) : List Nat :=
  let m := 2 ^ logn / 16
  (List.range m).map fun l =>
    match (List.range m).find? (fun j => (autoPlace logn g p j).1 = l) with
    | none => 0
    | some j =>
      let x := nth a j 0
      if (autoPlace logn g p j).2 then (if x = 0 then 0 else q - x) else x

/-- Words of even-numbered and odd-numbered entries: the a and b operands (R214). -/
def splitAb (l : List Line) : List Line × List Line :=
  ((List.range (l.length / 2)).map (fun u => nth l (2 * u) 0),
   (List.range (l.length / 2)).map (fun u => nth l (2 * u + 1) 0))

/-- Result entries of a limb whose function only reads its inputs (Table 8.4). -/
def ringOut (im : List Byte) (rfn slot prime cidx pip : Nat) (inp : List Line) : List Line :=
  let q := primeQ im prime
  let m := slotM im slot
  let n := m / 32
  let logm := slotLogn im slot - 4
  let ws (i : Nat) := redWords q (slice inp (i * n) n)
  let (ea, eb) := splitAb inp
  let a := redWords q ea
  let b := redWords q eb
  let zip (f : Nat → Nat → Nat) := entriesOf (List.zipWith f a b)
  let one (f : Nat → Nat) := entriesOf ((ws 0).map f)
  match rfn with
  | 0x0 => entriesOf (nttlOut q logm (ws 0) (ws 1) (ws 2))
  | 0x1 => entriesOf (nttxOut q (primeW16 im prime) m (ws 0))
  | 0x2 => entriesOf (intxOut q (primeW16 im prime) m (ws 0))
  | 0x3 => entriesOf (intlOut q logm (ws 0) (ws 1) (ws 2))
  | 0x4 => zip fun x y => (x + y) % max 1 q
  | 0x5 => zip fun x y => (x + q - y) % max 1 q
  | 0x6 => zip (montMul q)
  | 0x7 => one fun x => montMul q x (field im (1408 + 4 * cidx) 4) % max 1 q
  | 0x9 => entriesOf (autoOut q (slotLogn im slot) (slotGexp im slot) pip (ws 0))
  | 0xA => one (toMont q)
  | 0xB => one fun x => montMul q x 1
  | _ => []

/-- KMAC on one entry of 32 digit words with its two key entries, into a plane (R222). [DEDUCED, log 17] -/
def kmacLine (q : Nat) (b : Nat) (d : Line) (k0 k1 : Line) (ap : Line) : Line :=
  ofLanes ((List.range 32).map fun j =>
    let kl := if j < 16 then k0 else k1
    let kw := lword kl (16 * b + j % 16) % max 1 q
    BitVec.ofNat 32 ((lword ap j + montMul q (lword d j % max 1 q) kw) % max 1 q))

/-- KMAC of a limb into a plane, from entry `u`. -/
def kmacPlane (q b : Nat) (u : Nat) (ap : Tab Line) : List Line → List Line → Tab Line
  | d :: ds, k0 :: k1 :: ks => kmacPlane q b (u + 1) (Tab.set 0 ap u (kmacLine q b d k0 k1 (Tab.get 0 ap u))) ds ks
  | _, _ => ap

/-- Prime table entry of limb `k` of an operation that started with cursor `c` (R212). [DEDUCED, log 17] -/
def limbPrime (im : List Byte) (slot c k : Nat) : Nat :=
  slotPbase im slot + (c + k) % max 1 (slotPcount im slot)

/-- Constant index of limb `k` (R212). -/
def limbConst (im : List Byte) (slot c k : Nat) : Nat :=
  slotCbase im slot + (c + k) % max 1 (slotPcount im slot)

/-! ### The cycles of a limb (R214) -/

/-- Cycles in which a local phase does butterflies (Table 8.4): (M / 128) × log2 M. -/
def flyCycles (m logm : Nat) : Nat := m * logm / 128

/-- Busy cycles T of a limb of M words (Table 8.4). -/
def limbCycles (rfn m logm : Nat) : Nat :=
  match rfn with
  | 0x0 | 0x3 => m / 16 + flyCycles m logm + 3
  | 0x1 | 0x2 | 0x9 => m / 16 + 4
  | 0x4 | 0x5 | 0x6 => m / 16 + 3
  | 0x8 => m / 16
  | 0xC => m / 16 + 1
  | _ => m / 32 + 2

/-- An RIQ entry is popped in cycle t of a limb of 32 n words. The cross phases and AUTO pop entry u in cycle u. [DEDUCED, log 18] -/
def popsRiq (rfn n fly t : Nat) : Bool :=
  match rfn with
  | 0x0 => decide (t < 2 * n) || (decide (n + fly + 1 ≤ t) && decide (t < 2 * n + fly + 1))
  | 0x3 => decide (t < 3 * n)
  | 0x4 | 0x5 | 0x6 => decide (t < 2 * n)
  | 0x8 => decide (t < 2 * n) && t % 2 = 0
  | 0xC => false
  | _ => decide (t < n)

/-- A key entry is popped in cycle t of a limb. -/
def popsKey (rfn n t : Nat) : Bool := rfn = 0x8 && decide (t < 2 * n)

/-- The result entry that is pushed in cycle t of a limb of T cycles. -/
def pushesAt (rfn n T t : Nat) : Option Nat :=
  match rfn with
  | 0x4 | 0x5 | 0x6 => if 3 ≤ t ∧ t < 2 * n + 3 ∧ t % 2 = 1 then some ((t - 3) / 2) else none
  | 0x7 | 0xA | 0xB => if 2 ≤ t then some (t - 2) else none
  | 0x8 => none
  | 0xC => if 1 ≤ t then some (t - 1) else none
  | _ => if T - n ≤ t then some (t - (T - n)) else none

/-- Butterflies are done in cycle t of a limb (R66, R216). [DESIGN CHOICE, log 18] -/
def fliesAt (rfn n fly t : Nat) : Bool :=
  match rfn with
  | 0x0 | 0x3 => decide (n < t) && decide (t ≤ n + fly)
  | 0x1 | 0x2 => decide (n < t) && decide (t ≤ 2 * n)
  | _ => false

/-- Words of a limb, log2 of it, entries of it, cycles of it. -/
def opM (p : PipSt) (op : RingOp) : Nat := slotM p.rng.image op.slot
def opLogm (p : PipSt) (op : RingOp) : Nat := slotLogn p.rng.image op.slot - 4
def opN (p : PipSt) (op : RingOp) : Nat := opM p op / 32
def opT (p : PipSt) (op : RingOp) : Nat := limbCycles op.rfn (opM p op) (opLogm p op)

/-- Prime table entry of the limb in hand; KMAC and KOUT take the cursor's. -/
def opPrime (p : PipSt) (op : RingOp) : Nat :=
  limbPrime p.rng.image op.slot op.cur (if op.rfn = 0x8 || op.rfn = 0xC then 0 else op.k)

/-- What stalls the ring unit in its present cycle (R214). -/
def ringStall (p : PipSt) (op : RingOp) : List Stall :=
  let n := opN p op
  (if (pushesAt op.rfn n (opT p op) op.t).isSome && !sqRoom p op.sq then [⟨causeSq, b2n op.sq⟩] else [])
  ++ (if popsRiq op.rfn n (flyCycles (opM p op) (opLogm p op)) op.t && !canPop p qRiq then [⟨causeRiq, 0⟩] else [])
  ++ (if popsKey op.rfn n op.t && !keyReady p then [⟨causeKq, 0⟩] else [])

/-- WAITQ of a stall (Table 8.9). -/
def waitOf (w : Stall) : Nat := if w.cause = causeRiq then 1 else if w.cause = causeKq then 2 else 3

/-- The ring unit pops the key queue in cycle `c` (R58). -/
def ringTakesKey (p : PipSt) (c : Nat) : Bool :=
  match p.ops.ring with
  | some op => decide (op.due ≤ c) && decide (op.k < op.count) && popsKey op.rfn (opN p op) op.t && ringStall p op = []
  | none => false

/-- Sum of the words of entries modulo q. -/
def sumEntries (q : Nat) (es : List Line) : Nat := sumMod q (redWords q es)

/-- Residue-checker messages of a limb whose last result has been pushed (R218, R219): `pip` is the pip-in-pod index. [DEDUCED, log 18] -/
def ringMsgs (p : PipSt) (op : RingOp) (pip prime : Nat) : List Fx :=
  let q := primeQ p.rng.image prime
  let logm := opLogm p op
  let big := 16 * opM p op
  let n := opN p op
  let ws (i : Nat) := redWords q (slice op.inp (i * n) n)
  let odd (stage post : List Nat) (pre : Bool) : Bool :=
    !(stdTable q logm stage && stdPost q logm pip pre (tableRoot q logm stage) post)
  match op.rfn with
  | 0x0 =>
    (if odd (ws 1) (ws 2) false then [.rcOdd p.rng.nttl false] else [])
    ++ (if pip = 0 then [.rcForward (big * (lword (op.inp.headD 0) 0 % max 1 q) % max 1 q) prime] else [])
  | 0x1 => [.rcNttx p.rng.nttx (sumEntries q op.out) prime]
  | 0x2 => [.rcIntx p.rng.intx (sumEntries q op.inp) prime]
  | 0x3 =>
    (if odd (ws 2) (ws 1) true then [.rcOdd p.rng.intl true] else [])
    ++ (if pip = 0 then [.rcIntl p.rng.intl (big * lword (op.out.headD 0) 0 % max 1 q) prime] else [])
  | _ => []

/-- Result entry `u` of a limb: of the planes for KOUT, else of the entries taken. -/
def ringEntry (p : PipSt) (op : RingOp) (pip u : Nat) : Line :=
  let n := opN p op
  if op.rfn = 0xC then (if u < n then Tab.get 0 p.rng.ap0 u else Tab.get 0 p.rng.ap1 (u - n))
  else nth (ringOut p.rng.image op.rfn op.slot (opPrime p op) (limbConst p.rng.image op.slot op.cur op.k) pip op.inp) u 0

/-- The end of a limb: planes, counts, and messages (R219, R222, R227). -/
def limbEnd (p : PipSt) (op : RingOp) (pip : Nat) : PRes :=
  let prime := opPrime p op
  let q := primeQ p.rng.image prime
  let rng := match op.rfn with
    | 0x8 => { p.rng with ap0 := kmacPlane q 0 0 p.rng.ap0 op.inp op.kin, ap1 := kmacPlane q 1 0 p.rng.ap1 op.inp op.kin }
    | 0xC => { p.rng with ap0 := [], ap1 := [] }
    | 0x0 => { p.rng with nttl := p.rng.nttl + 1 }
    | 0x1 => { p.rng with nttx := p.rng.nttx + 1 }
    | 0x2 => { p.rng with intx := p.rng.intx + 1 }
    | 0x3 => { p.rng with intl := p.rng.intl + 1 }
    | _ => p.rng
  let op' := { op with k := op.k + 1, t := 0, inp := [], kin := [], out := [] }
  let cnt := { p.cnt with limb := bump p.cnt.limb 1, sf := bump p.cnt.sf (b2n (primeSf p.rng.image prime)) }
  ⟨{ p with rng := rng, cnt := cnt, ops := { p.ops with ring := some op' } }, none, ringMsgs p op pip prime⟩

/-- Cycle `c` of a ring operation that nothing stalls (R214, R227): a pop of each queue it reads, then a push, then its next cycle. -/
def ringCycle (p : PipSt) (c : Nat) (op : RingOp) (pip : Nat) : PRes :=
  let n := opN p op
  let T := opT p op
  let fly := flyCycles (opM p op) (opLogm p op)
  let op1 := if popsRiq op.rfn n fly op.t then { op with inp := op.inp ++ [p.q.riq.headD 0] } else op
  let p1 := if popsRiq op.rfn n fly op.t then popRiq p else p
  let op2 := if popsKey op.rfn n op.t then { op1 with kin := op1.kin ++ [frontKey p] } else op1
  let p2 := if popsKey op.rfn n op.t then popKey p1 else p1
  let e := (pushesAt op.rfn n T op.t).map (ringEntry p2 op2 pip)
  let p3 := match e with | some e => pushSq p2 op.sq e | none => p2
  let op3 := { op2 with out := op2.out ++ e.toList, t := op.t + 1, due := c + 1, hold := {} }
  let prime := opPrime p op
  let p4 := { p3 with
    cnt := { p3.cnt with rbusy := bump p3.cnt.rbusy (b2n (fliesAt op.rfn n fly op.t)) }
    st := { p3.st with prime := prime, rsf := primeSf p.rng.image prime, waitq := 0 }
    ops := { p3.ops with ring := some op3 } }
  if op.t + 1 < T then done p4 else limbEnd p4 op3 pip

/-- The ring operation in progress in cycle `c` (R214). -/
def ringStep (p : PipSt) (c pip : Nat) : UTry :=
  match p.ops.ring with
  | none => .idle
  | some op =>
    if c < op.due ∨ op.count ≤ op.k then .idle
    else match ringStall p op with
      | [] => .moved (ringCycle p c op pip)
      | ws => .held ws

/-- A RING starts in cycle `c0` when its descriptor is valid and its operands fit (R212, R213). -/
def ringStart (p : PipSt) (c0 rfn slot count : Nat) (sq : Bool) : PRes :=
  let im := p.rng.image
  if !slotOk im slot then failWith { p with st := { p.st with descErr := true } } eDesc
  else if (rfn = 0xC && count ≠ 1) || (rfn = 0x9 && slotGexp im slot = 0) then failWith p eDesc
  else
    let c := Tab.get 0 p.rng.cursors slot
    let pc := max 1 (slotPcount im slot)
    let c' := if rfn = 0x8 then c else (c + (if rfn = 0xC then 1 else count)) % pc
    let op : RingOp := { rfn := rfn, slot := slot, count := count, sq := sq, cur := c, due := c0 }
    done { p with rng := { p.rng with cursors := Tab.set 0 p.rng.cursors slot c' },
                  st := { p.st with rfn := rfn, rslot := slot },
                  ops := { p.ops with ring := some op } }

end Sys2Proof.Machine
end

