-- ==== Sys2Proof/Machine/StorePath.lean ====
section
/-!
DEFINITION. The store path: conversion of a slot, choice of block scales, the scale line and aux line buffers, scale memory and watch
counters (R147, R169, R171 to R176, R182), and the transpose of a block (R156, R157).
-/
namespace Sys2Proof.Machine

/-- A pip and the transfer it works on, or the code with which the job ends. -/
structure XRes where
  p    : PipSt
  x    : Xfer
  fail : Option Byte := none
  fx   : List Fx := []
  deriving DecidableEq, Repr

/-- Pack element codes of `w` bits into bytes (R163). -/
def packCodes (w : Nat) (cs : List Nat) : List Byte := toBytes (cs.length * w / 8) (digits w cs)

/-- Converted elements: codes, and how many count as ZERO, SAT and NONFIN (R182). -/
structure Batch where
  codes  : List Nat
  zero   : Nat
  sat    : Nat
  nonfin : Nat
  /-- A finite element saturated under R171. -/
  excess   : Bool
  deriving DecidableEq, Repr

/-- Zero codes: ±0 or integer 0. -/
def isZeroCode (f c : Nat) : Bool :=
  if isIntFmt f then c = 0 else c % 2 ^ (elemBits f - 1) = 0

/-- Convert values under scale byte `e` and classify them in the order of R182. -/
def convBatch (f : Nat) (scaled : Bool) (e : Nat) (vs : List Word32) : Batch :=
  vs.foldr (fun v b =>
    let c := convert f scaled e v
    let fin := isFin32 v
    let sat := fin && c.sat
    let z := fin && !sat && isZeroCode f c.code
    ⟨c.code :: b.codes, b.zero + b2n z, b.sat + b2n sat, b.nonfin + b2n (!fin), b.excess || sat⟩)
    ⟨[], 0, 0, 0, false⟩

/-- Elements of a block whose scale is 0xFF (R172): the non-finite ones are +0, the codes of the finite ones
are free values (log 14); every element counts as NONFIN (R182). -/
def poisonBatch (f : Nat) (vs : List Word32) : Batch :=
  ⟨(List.range vs.length).map (fun i =>
    if isFin32 (nth vs i 0) then Config.poisonCode f vs i % 2 ^ elemBits f else 0), 0, 0, vs.length, false⟩

/-- R172 gives the block the scale 0xFF. [DESIGN CHOICE, log 14] -/
def poisoned (f : Nat) (vs : List Word32) : Bool := poisons f && vs.any (fun v => !isFin32 v)

/-- An exact block (R173, R172): the scale byte and its batch. [DESIGN CHOICE, log 14] -/
def exactBlock (f : Nat) (vs : List Word32) : Nat × Batch :=
  if poisoned f vs then (0xFF, poisonBatch f vs)
  else
    let e := exactScale f vs
    (e, convBatch f true e vs)

/-- A wide or slot write of cycle `c` through a swizzle that passes R137 for the job's context, else the job ends (R48, R75, R152). -/
def storeBytes (p : PipSt) (c id swz : Nat) (a : Int) (bs : List Byte) : PRes :=
  if inRegion p.sp p.st.context a bs.length then done (padWrite (takeBank p a) c id (padWords swz a.toNat bs)) else failWith p eBounds

/-! ### Line buffers (R169) -/

/-- The scale memory entry of a block in an aux line: PEXP and CLEAR (R176). [DEDUCED, log 20] -/
def auxEntry (line : List Byte) (n : Nat) : Nat × Nat :=
  let v := field line 8 112 / 2 ^ (14 * n) % 2 ^ 14
  (v % 256, v / 256)

/-- An aux line with a new entry and, on overflow, its bitmap bit (R175, R176). [DEDUCED, log 20] -/
def auxWith (line : List Byte) (n pexp clear : Nat) (ovf : Bool) : List Byte :=
  let old := field line 8 112
  let cur := old / 2 ^ (14 * n) % 2 ^ 14
  let new := old - cur * 2 ^ (14 * n) + (pexp % 256 + 256 * (clear % 64)) * 2 ^ (14 * n)
  let map := field line 0 8
  toBytes 8 (if ovf && !bit map n then map + 2 ^ n else map) ++ toBytes 112 new ++ slice line 120 8

/-- The entry after a step of a predicted block that used exponent `e` (R175): PEXP and CLEAR. -/
def nextPred (e clear : Nat) (ovf : Bool) : Nat × Nat :=
  if ovf then (min (e + 1) 254, 0)
  else if clear + 1 = 64 then (e - 1, 0) else (e, clear + 1)

/-- An access of a line buffer (Table 6.2). -/
inductive BufAct where
  | scaleRead (a : Int) | scaleWrite (b : LineBuf) | auxRead (a : Int) | auxWrite (b : LineBuf)
  deriving DecidableEq, Repr

/-- Number of the block that slot `q` begins in or lies in (R165). -/
def slotBlock (d : BitVec 512) (la : Int) (q : Nat) : Int :=
  lineBlock d la + ((32 * (q % slotsPerLine (dFmt d)) / dBlock d : Nat) : Int)

/-- The access of a buffer that a block-scaled store makes before slot `q` of the line at `la` (Table 6.2). -/
def slotAct (x : Xfer) (la : Int) (q : Nat) : Option BufAct :=
  let d := x.desc
  if dFmt d = 15 ∨ dBsf d = 0 then none
  else
    let n := slotBlock d la q
    let aux : Int := dAux d + 128 * (n / 64)
    match x.scale with
    | some b => if b.addr ≠ lineOf (dScale d + n) then some (.scaleWrite b) else auxAct x.aux aux d
    | none => auxAct x.aux aux d
where
  auxAct (b : Option LineBuf) (a : Int) (d : BitVec 512) : Option BufAct :=
    if dBsf d ≤ 2 then none
    else match b with
      | none => some (.auxRead a)
      | some b => if b.addr ≠ a then some (.auxWrite b) else none

/-- The accesses of buffers that end a block-scaled store (Table 6.2). -/
def endAct (x : Xfer) : Option BufAct :=
  match x.scale, x.aux with
  | some b, _ => if x.kind = .stq then some (.scaleWrite b) else none
  | none, some b => some (.auxWrite b)
  | none, none => none

/-- The line that an access of a buffer reads or writes. -/
def BufAct.line : BufAct → Int
  | .scaleRead a | .auxRead a => a
  | .scaleWrite b | .auxWrite b => b.addr

def BufAct.writes : BufAct → Bool
  | .scaleWrite _ | .auxWrite _ => true
  | _ => false

/-- An access of a line buffer in cycle `c`, with g = 0 (R169): a scale line is written only where the store has written scale bytes,
and every byte written or read must pass R137 (R170). A word that the masked write covers in part is read, checked and merged as a narrow
write's is (R136), so it gets a fresh code: the spec does not say so of this write. [DESIGN CHOICE, log 20] -/
def bufStep (p : PipSt) (c : Nat) (x : Xfer) (a : BufAct) : XRes :=
  let p := takeBank p a.line
  let ctx := p.st.context
  match a with
  | .scaleRead l =>
    if !inRegion p.sp ctx l 128 then ⟨p, x, some eBounds, []⟩
    else
      let (bs, r) := spRead p l.toNat 128
      ⟨r.p, { x with scale := some ⟨l, bs, []⟩, due := c + 1 }, r.fail, r.fx⟩
  | .auxRead l =>
    if !inRegion p.sp ctx l 128 then ⟨p, x, some eBounds, []⟩
    else
      let (bs, r) := spRead p l.toNat 128
      ⟨r.p, { x with aux := some ⟨l, bs, []⟩, due := c + 3 }, r.fail, r.fx⟩
  | .scaleWrite b =>
    if !b.mask.all (fun i => inRegion p.sp ctx (b.addr + i) 1) then ⟨p, x, some eBounds, []⟩
    else
      let (ws, r) := mergeBytes p (b.addr.toNat / 8) (b.mask.map fun i => (i, nth b.data i 0))
      ⟨padWrite r.p c x.id ws, { x with scale := none, due := c + 1 }, r.fail, r.fx⟩
  | .auxWrite b =>
    if !inRegion p.sp ctx b.addr 128 then ⟨p, x, some eBounds, []⟩
    else ⟨padWrite p c x.id (padWords 0 b.addr.toNat b.data), { x with aux := none, due := c + 1 }, none, []⟩

/-- The store's scale byte of block `n` goes into its buffer. -/
def putScale (x : Xfer) (n : Int) (v : Byte) : Xfer :=
  let a := (dScale x.desc : Int) + n
  let b := x.scale.getD ⟨lineOf a, List.replicate 128 0, []⟩
  let i := (a - b.addr).toNat
  { x with scale := some { b with data := setAt b.data i v, mask := (b.mask.filter (· ≠ i)) ++ [i] } }

/-! ### Slots -/

/-- Add the totals of a batch to the watch counters. -/
def watchBatch (p : PipSt) (x : Xfer) (b : Batch) : PipSt := addWatch p x.handle b.zero b.sat b.nonfin

/-- A slot of a predicted block with exponent `e` counts: all as NONFIN once the block's scale will be 0xFF, its earlier elements
too, which counted otherwise till then (R182). -/
def watchPred (p : PipSt) (x : Xfer) (b : Batch) (bad : Bool) : PipSt × Xfer :=
  let less (w k : Nat) : Nat := if w = 0xFFFFFFFF then w else w - k
  if x.pbad then (addWatch p x.handle 0 0 32, x)
  else if bad then
    let w := Tab.get {} p.watch x.handle
    let p := { p with watch := Tab.set {} p.watch x.handle ⟨less w.zero x.pzero, less w.sat x.psat, w.nonfin⟩ }
    (addWatch p x.handle 0 0 (x.pcnt - x.pnon + 32), { x with pbad := true })
  else (watchBatch p x b, { x with pzero := x.pzero + b.zero, psat := x.psat + b.sat, pnon := x.pnon + b.nonfin })

/-- The end of a predicted block: its scale byte, and its entry unless the scale is 0xFF (R174, R175). -/
def endPred (p : PipSt) (x : Xfer) (n : Int) : PipSt × Xfer :=
  let i := (n % 64).toNat
  let y := putScale x n (if x.pbad then 0xFF else BitVec.ofNat 8 x.pexp)
  let z := { y with povf := false, pbad := false, pzero := 0, psat := 0, pnon := 0, pcnt := 0 }
  if x.pbad then (p, z)
  else
    let line := (x.aux.map (·.data)).getD []
    let (pe, cl) := nextPred x.pexp (auxEntry line i).2 x.povf
    (if x.povf then
      { p with cnt := { p.cnt with ovf := bump p.cnt.ovf 1 }, st := { p.st with ovf := true, ovfHandle := x.handle } }
     else p,
     { z with aux := x.aux.map fun b => { b with data := auxWith b.data i pe cl x.povf } })

/-- One store slot of an STQ with a descriptor in cycle `c`: slot `q` of the line at `la`, 32 values (R147, R171 to R176, R182). -/
def storeSlot (p : PipSt) (c : Nat) (x : Xfer) (la : Int) (q : Nat) (vs : List Word32) : XRes :=
  let d := x.desc
  let f := dFmt d
  let a := la + ((q % slotsPerLine f) * slotSize f : Nat)
  let store (bs : List Byte) : PRes := storeBytes p c x.id (dSwz d) a bs
  if f = 15 then
    let r := store ((vs.map (toBytes 4 ·.toNat)).flatten)
    ⟨r.p, x, r.fail, r.fx⟩
  else if dBsf d = 0 then
    let b := convBatch f false 127 vs
    let r := (store (packCodes (elemBits f) b.codes)).andThen fun p => done (watchBatch p x b)
    ⟨r.p, x, r.fail, r.fx⟩
  else
    let n := slotBlock d la q
    if dBsf d ≤ 2 then
      let blocks := (groups (dBlock d) 2 vs).map (exactBlock f)
      let r := (store (packCodes (elemBits f) (blocks.map (·.2.codes)).flatten)).andThen fun p =>
        done (blocks.foldl (fun p b => watchBatch p x b.2) p)
      ⟨r.p, blocks.zipIdx.foldl (fun x b => putScale x (n + b.2) (BitVec.ofNat 8 b.1.1)) x, r.fail, r.fx⟩
    else
      let pe := (auxEntry ((x.aux.map (·.data)).getD []) (n % 64).toNat).1
      let bad := poisoned f vs
      let e := if x.pcnt = 0 then (if pe = 0xFF then (if bad then 0xFF else exactScale f vs) else pe) else x.pexp
      let b := if e = 0xFF then poisonBatch f vs else convBatch f true e vs
      let r := store (packCodes (elemBits f) b.codes)
      match r.fail with
      | some _ => ⟨r.p, x, r.fail, r.fx⟩
      | none =>
        let (p1, x1) := watchPred r.p x b (bad || e = 0xFF)
        let x2 := { x1 with pexp := e, povf := x1.povf || b.excess, pcnt := x1.pcnt + 32 }
        let (p3, x3) := if x2.pcnt < dBlock d then (p1, x2) else endPred p1 x2 n
        ⟨p3, x3, none, r.fx⟩

/-- Transpose a block of 32 rows of 32 elements: output row c holds elements (r, c) in order of r (R156). -/
def transposeBlock (rows : List (List Word32)) : List (List Word32) :=
  (List.range 32).map fun c => rows.map fun r => nth r c 0

/-- The network of R157: columns 4 to 8 carry lane l to lane (l + k) mod 32 for k = (32 − c) mod 32.
Crossed switches of column 4 + j for output row c, joining lanes p and p XOR 2^j with bit j of p zero. -/
def crossed (c j p : Nat) : Bool :=
  let k := (32 - c) % 32
  Bool.xor (bit k j) (decide (p % 2 ^ j < k % 2 ^ j))

/-- Where a lane goes through column 4 + j for output row c. -/
def netStep (c j l : Nat) : Nat :=
  let p := if bit l j then l - 2 ^ j else l
  if crossed c j p then (if bit l j then p else p + 2 ^ j) else l

/-- Where lane l leaves the network for output row c (R157). -/
def netLane (c l : Nat) : Nat := (List.range 5).foldl (fun l j => netStep c j l) l

end Sys2Proof.Machine
end

