-- ==== Sys2Proof/Machine/Transfers.lean ====
section
/-!
DEFINITION. The access-stream transfers that stay in progress: LDQ, STQ, MSND, MRCV (R48, R49, R73, R75 to R79, R146 to R148, R153 to
R156, R167, R169). `xferStep` makes the access of one cycle or says what stalls it; `accessMoves` is one cycle of every transfer.
-/
namespace Sys2Proof.Machine

/-- One cycle of a transfer: stalled, made, or nothing due. -/
inductive XTry where
  | held (ws : List Stall)
  | moved (r : XRes)
  | idle
  deriving DecidableEq, Repr

/-- Lift a result of a pip to a transfer. -/
def liftX (r : PRes) (x : Xfer) : XRes := ⟨r.p, x, r.fail, r.fx⟩

/-- Nothing stalls the access, or the stalls. -/
def unless_ (ws : List Stall) (r : XRes) : XTry := if ws = [] then .moved r else .held ws

/-- Lines moved so far by a transfer. -/
def linesDone (x : Xfer) : Nat :=
  match x.kind with
  | .ldq | .stq => x.done
  | .msnd | .mrcv => x.done / 2

/-- The transfer accesses the scratchpad. -/
def usesPad (x : Xfer) : Bool := x.kind = .ldq || x.kind = .stq || x.qsel = 5

/-- The index of the access in hand comes from the SCQ (R79), or is the count. -/
def accessOff (p : PipSt) (x : Xfer) : Nat := if x.idx then (frontScq p).toNat % 2 ^ 32 else linesDone x

/-- An absent index stalls the access in hand (R79). -/
def idxStall (p : PipSt) (x : Xfer) : List Stall := if x.idx then scqStall p else []

/-- Pop the index that an access used. -/
def popIdx (p : PipSt) (x : Xfer) : PipSt := if x.idx then popScq p else p

/-- What a wide access through a position reads or writes: a line address, or 16 word addresses (R148). -/
inductive Wide where
  | line (a : Int)
  | words (as_ : List Int)
  | outside
  deriving DecidableEq, Repr

/-- The place of a position (R73, R146, R148). -/
def widePlace (x : Xfer) (off : Nat) : Wide :=
  if x.raw then .line ((x.base : Int) + 128 * off)
  else match walk x.desc ((x.base + off) % 2 ^ 64) with
    | none => .outside
    | some a =>
      if dWord x.desc then .words ((List.range 16).map fun (j : Nat) => a + (j : Int) * dWstride x.desc)
      else .line a

/-- The swizzle of a transfer's data lines: none with RAW = 1 (R73, R152). -/
def xferSwz (x : Xfer) : Nat := if x.raw then 0 else dSwz x.desc

/-- First byte address of a wide access. -/
def wideFirst (w : Wide) : Int := match w with | .line a => a | .words l => l.headD 0 | .outside => -1

/-- The place of each word of a gather. -/
def gatherPlaces (x : Xfer) (as_ : List Int) : List Nat := as_.map fun a => placeOf (xferSwz x) a.toNat

/-- Cycles for which a wide access takes its bank: for a gather the largest number of distinct words in one sub-array (R148, R155). -/
def wideCycles (x : Xfer) (w : Wide) : Nat :=
  match w with
  | .words l =>
    let ps := (gatherPlaces x l).dedup
    (List.range 16).foldl (fun m i => max m (ps.filter fun a => a % 16 = i).length) 1
  | _ => 1

/-- The code of R75, R137 and R148 that ends a wide access. -/
def wideFail (p : PipSt) (w : Wide) : Option Byte :=
  match w with
  | .outside => some eBounds
  | .line a => if inRegion p.sp p.st.context a 128 then none else some eBounds
  | .words as_ =>
    if !as_.all (fun a => inRegion p.sp p.st.context a 8) then some eBounds
    else if !as_.all (fun a => bankOf a.toNat = bankOf (as_.headD 0).toNat) then some eDesc
    else none

/-- The bytes of a wide read; a gather reads each distinct word once (R148, R152, R155). -/
def readWide (p : PipSt) (x : Xfer) (w : Wide) : List Byte × PRes :=
  match w with
  | .outside => ([], done p)
  | .line a => readAt p (xferSwz x) a.toNat 128
  | .words as_ =>
    let ps := gatherPlaces x as_
    let (vs, r) := readWords p ps.dedup
    (wordBytes (ps.map fun w => nth vs (ps.dedup.findIdx (· = w)) 0), r)

/-- The fence of R256 that stalls an access of [a, a + n); INDEX has no number for the key reader. [DESIGN CHOICE, log 45] -/
def fenceStall (p : PipSt) (a : Int) (n : Nat) (write : Bool) : List Stall :=
  match fencedBy p a n write with
  | some e => [⟨causeFence, e % 4⟩]
  | none => []

/-- The fence that stalls a wide access. -/
def wideFence (p : PipSt) (w : Wide) (write : Bool) : List Stall :=
  match w with
  | .line a => fenceStall p a 128 write
  | .words l => (l.flatMap fun a => fenceStall p a 8 write).take 1
  | .outside => []

/-- A bank that another user has in this cycle stalls an access (R49, R141). -/
def bankStall (p : PipSt) (a : Int) : List Stall := if bankTaken p a then [⟨causeBank, 0⟩] else []

/-- What stalls a wide access: a fence, or its bank. -/
def padStall (p : PipSt) (w : Wide) (write : Bool) : List Stall :=
  match w with
  | .outside => []
  | w => wideFence p w write ++ bankStall p (wideFirst w)

/-- Block-scale rules of R170 that a load or store meets at its access. [DESIGN CHOICE, log 20] -/
def scaleRules (x : Xfer) : Bool :=
  let d := x.desc
  if dBsf d = 0 ∨ (x.kind ≠ .ldq ∧ x.kind ≠ .stq) then true
  else
    dScale d % 16 = 0 && (decide (dBsf d < 3) || dAux d % 128 = 0) && !(x.kind = .ldq && dWord d)
    && (x.kind ≠ .stq || decide (dBsf d < 3) ||
      (!x.idx && x.base % (dBlock d / 32) = 0 && x.count % (dBlock d / 32) = 0))

/-- What ends the job with E_DESC in the cycle of an access (R73, R75, R148, R170). -/
def accessRules (x : Xfer) : Bool :=
  if !usesPad x then true
  else if x.raw then x.base % 128 = 0
  else dValid x.desc && (!dWord x.desc || x.kind = .ldq || x.kind = .msnd) && scaleRules x

/-- What ends the job with E_DESC at the issue of a transfer (R154, R156). -/
def issueRules (x : Xfer) : Bool :=
  !usesPad x || x.raw || !dValid x.desc
  || ((!dEbc x.desc || x.kind = .ldq) && (dXmode x.desc = 0 || x.kind ≠ .stq || (!x.idx && x.count % 32 = 0)))

/-- The transfer uses the exchange network (R158). -/
def transposes (x : Xfer) : Bool := x.kind = .stq && !x.raw && dXmode x.desc = 1

/-- An access of a line buffer, or what stalls it (R169). -/
def bufTry (p : PipSt) (c : Nat) (x : Xfer) (a : BufAct) : XTry :=
  unless_ (fenceStall p a.line 128 a.writes ++ bankStall p a.line) (bufStep p c x a)

/-- The scale line that an LDQ reads first (Table 6.2). -/
def loadAct (x : Xfer) (w : Wide) : Option BufAct :=
  match w with
  | .line a =>
    if x.raw ∨ dBsf x.desc = 0 then none
    else
      let l := lineOf (scaleAt x.desc a)
      match x.scale with
      | some b => if b.addr = l then none else some (.scaleRead l)
      | none => some (.scaleRead l)
  | _ => none

/-- The entry that an LDQ pushes for the line `bs` at `a`: broadcast, and the scale bytes of its blocks (R154, R167). -/
def loadEntry (x : Xfer) (a : Int) (bs : List Byte) : LqEntry :=
  let data := ofLineBytes (if !x.raw && dEbc x.desc then broadcast x.desc bs else bs)
  if x.raw || dBsf x.desc = 0 || x.qsel = 4 then ⟨data, [], 0⟩
  else
    let d := x.desc
    let sc := match x.scale with
      | some b => slice b.data (scaleAt d a - b.addr).toNat (dElements.elemsPerLineOf d / dBlock d)
      | none => []
    ⟨data, sc, dBlock d * (match dFmt d with | 5 | 6 => 6 | 7 | 9 => 4 | _ => 8)⟩

/-- A wide read takes its bank for one more cycle of a gather, or is made: `f` gets the bytes (R148). The cycles of a gather after its
first are stalls. -/
def wideRead (p : PipSt) (x : Xfer) (w : Wide) (f : PipSt → Xfer → List Byte → XRes) : XRes :=
  match wideFail p w with
  | some e => ⟨p, x, some e, []⟩
  | none =>
    let m := wideCycles x w
    let p1 := takeBank (if x.cyc = 0 then p else addHold p false ⟨causeBank, 0⟩) (wideFirst w)
    if x.cyc + 1 < m then ⟨p1, { x with cyc := x.cyc + 1 }, none, []⟩
    else
      let (bs, r) := readWide p1 x w
      let fx := r.fx ++ (if m > 1 then [.stallEnd false ⟨m - 1, ⟨causeBank, 0⟩⟩] else [])
      match r.fail with
      | some e => ⟨r.p, x, some e, fx⟩
      | none => let s := f r.p { x with cyc := 0 } bs; { s with fx := fx ++ s.fx }

/-- The previous entry of a transfer that reads the same line again (R153). -/
def repeated (x : Xfer) (w : Wide) : Option LqEntry :=
  match w, x.prev with
  | .line a, some (b, e) => if a = b then some e else none
  | _, _ => none

/-- One cycle of an LDQ (R76, R79, R146 to R148, R153, R154, R167). -/
def ldqStep (p : PipSt) (c : Nat) (x : Xfer) : XTry :=
  let full : List Stall :=
    if canPut p x.qsel 1 then [] else [if x.qsel = 4 then ⟨causeRiq, 0⟩ else ⟨causeLq, x.qsel⟩]
  let ws := full ++ idxStall p x
  if !accessRules x then unless_ ws ⟨p, x, some eDesc, []⟩
  else
    let w := widePlace x (accessOff p x)
    let push (p : PipSt) (x : Xfer) (e : LqEntry) : XRes :=
      ⟨fillLater (popIdx p x) c x.qsel e,
        { x with done := x.done + 1, prev := match w with | .line a => some (a, e) | _ => none }, none, []⟩
    match repeated x w with
    | some e => unless_ ws (push p x e)
    | none =>
      match (if idxStall p x = [] then loadAct x w else none) with
      | some a => bufTry p c x a
      | none => unless_ (ws ++ padStall p w false) (wideRead p x w fun p x bs => push p x (loadEntry x (wideFirst w) bs))

/-- The store slot in hand of an STQ. -/
def slotOf (p : PipSt) (x : Xfer) : Nat := (x.base + accessOff p x) % 2 ^ 64

/-- A slot write: its line's fence and bank, the access of a buffer it needs first, then the write (R147, R169). -/
def slotTry (p : PipSt) (c : Nat) (x : Xfer) (ws : List Stall) (q : Nat) (f : Int → XRes) : XTry :=
  match walk x.desc (q / slotsPerLine (dFmt x.desc)) with
  | none => unless_ ws ⟨p, x, some eBounds, []⟩
  | some la =>
    match slotAct x la q with
    | some a => bufTry p c x a
    | none => unless_ (ws ++ fenceStall p la 128 true ++ bankStall p la) (f la)

/-- Rows of a block in the network that have still to be read from their half of the buffer in cycle `c` (R156). -/
def rowsToRead (c : Nat) (b : OutBlock) : Nat := b.rows.length - (c + 5 - b.next)

/-- One cycle of an STQ's pops (R76, R147, R156). -/
def stqStep (p : PipSt) (c : Nat) (x : Xfer) : XTry :=
  let sqi := x.qsel - 8
  let empty : List Stall := if canPop p (qSq sqi) then [] else [⟨causeSq, sqi⟩]
  let pop (p : PipSt) : PipSt := popIdx (popSq p sqi) x
  let x' := { x with done := x.done + 1 }
  if x.done ≥ x.count then
    match (if x.buf = [] ∧ x.out = [] then endAct x else none) with
    | some a => bufTry p c x a
    | none => .idle
  else if !accessRules x then unless_ (empty ++ idxStall p x) ⟨p, x, some eDesc, []⟩
  else if x.raw then
    let a : Int := (x.base : Int) + 128 * accessOff p x
    let ws := empty ++ idxStall p x
    unless_ (if idxStall p x = [] then ws ++ fenceStall p a 128 true ++ bankStall p a else ws)
      (liftX (storeBytes (pop p) c x.id 0 a (lineBytes (frontSq p sqi))) x')
  else if dXmode x.desc = 1 then
    match (if x.done = 0 then (walk x.desc (x.base / slotsPerLine (dFmt x.desc))).bind (slotAct x · x.base) else none) with
    | some a => bufTry p c x a
    | none =>
      let half : List Stall :=
        if x.buf = [] ∧ x.out.length ≥ 2 ∧ (x.out.head?.map (rowsToRead c)).getD 0 > 0 then [⟨causeBusy, 0⟩] else []
      let buf := x.buf ++ [frontSq p sqi]
      unless_ (empty ++ half)
        (if buf.length < 32 then ⟨pop p, { x' with buf := buf }, none, []⟩
         else
          let after := (x.out.getLast?.map fun b => b.next + b.rows.length).getD 0
          ⟨pop p, { x' with buf := [], out := x.out ++
            [⟨x.base + 32 * (x.done / 32), transposeBlock (buf.map lanes), max (c + 6) after⟩] }, none, []⟩)
  else if idxStall p x ≠ [] then .held (empty ++ idxStall p x)
  else
    slotTry p c x empty (slotOf p x) fun la => storeSlot (pop p) c x' la (slotOf p x) (lanes (frontSq p sqi))

/-- The exit write of a transposing store, if one is due in cycle `c` (R156). A held exit delays the whole store. -/
def exitStep (p : PipSt) (c : Nat) (x : Xfer) : XTry :=
  match x.out with
  | [] => .idle
  | b :: rest =>
    match b.rows with
    | [] => .moved ⟨p, { x with out := rest }, none, []⟩
    | r :: rs =>
      if c < x.due ∨ c < b.next then .idle
      else slotTry p c x [] b.slot fun la =>
        storeSlot p c { x with out := if rs = [] then rest else ⟨b.slot + 1, rs, c + 1⟩ :: rest } la b.slot r

/-- One cycle of an MSND: two flits, or the low one of an odd count (R76, R77, R153). -/
def msndStep (p : PipSt) (c : Nat) (x : Xfer) : XTry :=
  let nf := min 2 (x.count - x.done)
  let full : List Stall := if canPut p (qEgress x.port) nf then [] else [⟨causeEgress, x.port⟩]
  let send (p : PipSt) (x : Xfer) (w : Wide) (l : Line) : XRes :=
    ⟨sendLater p c x.id x.port ((lineFlits l).take nf),
      { x with done := x.done + nf, prev := match w with | .line a => some (a, ⟨l, [], 0⟩) | _ => none }, none, []⟩
  if x.qsel ≠ 5 then
    let sqi := x.qsel - 8
    let empty : List Stall := if canPop p (qSq sqi) then [] else [⟨causeSq, sqi⟩]
    unless_ (full ++ empty) (send (popSq p sqi) x .outside (frontSq p sqi))
  else
    let ws := full ++ idxStall p x
    if !accessRules x then unless_ ws ⟨p, x, some eDesc, []⟩
    else
      let w := widePlace x (accessOff p x)
      match repeated x w with
      | some e => unless_ ws (send (popIdx p x) x w e.data)
      | none =>
        unless_ (if idxStall p x = [] then ws ++ padStall p w false else ws)
          (wideRead p x w fun p x bs => send (popIdx p x) x w (ofLineBytes bs))

/-- Pop an ingress queue. -/
def popIngress (p : PipSt) (port : Nat) : PipSt :=
  { notePop p (qIngress port) with q := { p.q with ing := Tab.set [] p.q.ing port ((Tab.get [] p.q.ing port).drop 1) } }

/-- One cycle of an MRCV: one flit; the second flit of a line, or the last, completes an entry (R76, R77). -/
def mrcvStep (p : PipSt) (c : Nat) (x : Xfer) : XTry :=
  let empty : List Stall := if canPop p (qIngress x.port) then [] else [⟨causeIngress, x.port⟩]
  let f := (Tab.get [] p.q.ing x.port).headD {}
  let p1 := popIngress p x.port
  let cr : Fx := .credit f.from_ f.cr x.port f.hop
  let completes := x.done % 2 = 1 || x.done + 1 = x.count
  let line := match x.buf with | lo :: _ => ofFlits (BitVec.ofNat 512 lo.toNat) f.data | [] => ofFlits f.data 0
  let x' := { x with done := x.done + 1, buf := if completes then [] else [line] }
  if !completes then unless_ empty { liftX (done p1) x' with fx := [cr] }
  else if x.qsel ≠ 5 then
    let full : List Stall :=
      if canPut p x.qsel 1 then [] else [if x.qsel = 4 then ⟨causeRiq, 0⟩ else ⟨causeLq, x.qsel⟩]
    unless_ (empty ++ full) { liftX (done (pushDest p1 x.qsel ⟨line, [], 0⟩)) x' with fx := [cr] }
  else
    let ws := empty ++ idxStall p x
    if !accessRules x then unless_ ws ⟨p, x, some eDesc, []⟩
    else
      match widePlace x (accessOff p x) with
      | .outside => unless_ ws ⟨p, x, some eBounds, []⟩
      | .words _ => unless_ ws ⟨p, x, some eDesc, []⟩
      | .line a =>
        let r := storeBytes (popIdx p1 x) c x.id (xferSwz x) a (lineBytes line)
        unless_ (if idxStall p x = [] then ws ++ fenceStall p a 128 true ++ bankStall p a else ws)
          { liftX r x' with fx := cr :: r.fx }

/-- One cycle of a transfer. -/
def xferStep (p : PipSt) (c : Nat) (x : Xfer) : XTry :=
  if c < x.due then .idle
  else match x.kind with
    | .ldq => if x.done ≥ x.count then .idle else ldqStep p c x
    | .stq => stqStep p c x
    | .msnd => if x.done ≥ x.count then .idle else msndStep p c x
    | .mrcv => if x.done ≥ x.count then .idle else mrcvStep p c x

/-- The last access of a transfer has been made. -/
def xferOver (x : Xfer) : Bool := decide (x.count ≤ x.done) && x.out = [] && (x.kind ≠ .stq || (endAct x).isNone)

/-- One cycle of each transfer of a list in issue order: a stall is noted, a stall that ends is recorded, and the end of the job
stops them. -/
def eachXfer (f : PipSt → Xfer → XTry) (c : Nat) (p : PipSt) : List Xfer → List Xfer × PRes
  | [] => ([], done p)
  | x :: xs =>
    match f p x with
    | .idle => let (l, r) := eachXfer f c p xs; (x :: l, r)
    | .held ws =>
      let w := (lowest ws).getD {}
      let (l, r) := eachXfer f c (addHold p false w) xs
      ({ x with hold := x.hold.more w, due := c + 1 } :: l, r)
    | .moved s =>
      let fx := (if x.hold.n = 0 then [] else [.stallEnd false x.hold]) ++ s.fx
      let y := { s.x with hold := {} }
      match s.fail with
      | some e => (y :: xs, ⟨s.p, some e, fx⟩)
      | none => let (l, r) := eachXfer f c s.p xs; (y :: l, { r with fx := fx ++ r.fx })

/-- A pass over the transfers of a pip. -/
def passXfers (f : PipSt → Xfer → XTry) (c : Nat) (p : PipSt) : PRes :=
  let (l, r) := eachXfer f c p p.ops.xfers
  { r with p := { r.p with ops := { r.p.ops with xfers := l } } }

/-- Lines of a record: one, or enough for NINST instructions (R250). -/
def recLines (first : List Byte) : Nat :=
  if recForm first = 1 then (16 + 8 * bits (field first 0 8) 26 20 + 127) / 128 else 1

/-- The next line of the record that engine `e` is being given: one line a cycle, ahead of the other accesses of the
stream (R250). A stall noted puts its first action off by a cycle. -/
def recordRead (e : Nat) (p : PipSt) : PRes :=
  let g := Tab.get {} p.eng e
  if !g.running || g.recLeft = 0 then done p
  else
    match lowest (fenceStall p g.recNext 128 false ++ bankStall p g.recNext) with
    | some w => done (addHold { p with eng := Tab.set {} p.eng e { g with firstAt := g.firstAt + 1 } } false w)
    | none =>
      if !inRegion p.sp p.st.context g.recNext 128 then failWith p eBounds
      else
        let (bs, r) := spRead (takeBank p g.recNext) g.recNext 128
        let g' := { g with record := g.record ++ bs, recLeft := g.recLeft - 1, recNext := g.recNext + 128 }
        { r with p := { r.p with eng := Tab.set {} r.p.eng e g' } }

/-- Records of STRM starts that are still being read. -/
def recordReads (p : PipSt) : PRes := (List.range 5).foldl (fun r e => r.andThen (recordRead e)) (done p)

/-- One cycle of the access stream's transfers: those whose last access is made leave, exit writes come first (R141), then lines of
stream records (R250), then the accesses in issue order. [DEDUCED, log 12] -/
def accessMoves (c : Nat) (p : PipSt) : PRes :=
  let p := { p with ops := { p.ops with xfers := p.ops.xfers.filter fun x => !xferOver x } }
  ((passXfers (exitStep · c ·) c p).andThen recordReads).andThen (passXfers (xferStep · c ·) c)

/-- The queues and ports a transfer uses, the SCQ for its indices among them. Transfers of one queue are served in issue order: a later
one is held with cause 0x8 till the earlier one's last access is made (log 12). -/
def xferUses (x : Xfer) : List Nat :=
  (match x.kind with
   | .ldq => [x.qsel]
   | .stq => [x.qsel]
   | .msnd => (if x.qsel = 5 then [] else [x.qsel]) ++ [qEgress x.port]
   | .mrcv => (if x.qsel = 5 then [] else [x.qsel]) ++ [qIngress x.port])
  ++ (if x.idx then [qScq] else [])

/-- The transfer writes the scratchpad. -/
def xferWrites (x : Xfer) : Bool := x.kind = .stq || (x.kind = .mrcv && x.qsel = 5)

/-- A copy of an engine holds the exchange network (R158). -/
def copyRuns (p : PipSt) : Bool := p.eng.any fun e => e.2.running && recForm e.2.record = 2 && e.2.started

/-- Two transfers use one queue or port. [DESIGN CHOICE, log 12] -/
def shares (x y : Xfer) : Bool := (xferUses x).any fun q => (xferUses y).contains q

end Sys2Proof.Machine
end

