-- ==== Sys2Proof/Machine/Words.lean ====
section
/-!
DEFINITION. The 64-bit instruction words of the two streams (R67, R76, R80; Tables 3.1 to 3.3, 3.5): fields, encoder and decoder.
-/
namespace Sys2Proof.Machine

/-- DELTA and OP of a word (R67). -/
def wDelta (w : Nat) : Nat := bits w 63 54
def wOp (w : Nat) : Nat := bits w 53 48

/-- A word from DELTA, OP and its operand bits. -/
def mkWord (d op v : Nat) : Nat := d * 2 ^ 54 + op * 2 ^ 48 + v

/-- Operand bits of format Q. -/
def encQ (o : QOp) : Nat :=
  o.qsel * 2 ^ 44 + o.handle * 2 ^ 36 + o.areg * 2 ^ 32 + o.count * 2 ^ 16 + b2n o.post * 2 ^ 15 + b2n o.idx * 2 ^ 14
    + o.port * 2 ^ 12 + b2n o.raw * 2 ^ 11
def decQ (w : Nat) : QOp :=
  ⟨bits w 47 44, bits w 43 36, bits w 35 32, bits w 31 16, bit w 15, bit w 14, bits w 13 12, bit w 11⟩

/-- Operand bits of format D. -/
def encD (o : DOp) : Nat :=
  b2n o.ch * 2 ^ 47 + b2n o.dir * 2 ^ 46 + o.ahbm * 2 ^ 42 + o.asp * 2 ^ 38 + o.handle * 2 ^ 30 + o.len * 2 ^ 16 + b2n o.raw * 2 ^ 15
def decD (w : Nat) : DOp :=
  ⟨bit w 47, bit w 46, bits w 45 42, bits w 41 38, bits w 37 30, bits w 29 16, bit w 15⟩

/-- Operand bits of format A. -/
def encA (o : AOp) : Nat := o.ad * 2 ^ 44 + o.as_ * 2 ^ 40 + o.fn * 2 ^ 36 + o.imm
def decA (w : Nat) : AOp := ⟨bits w 47 44, bits w 43 40, bits w 39 36, bits w 31 0⟩

/-- Operand bits of format S. -/
def encS (o : SOp) : Nat :=
  o.sd * 2 ^ 43 + o.sa * 2 ^ 38 + o.sb * 2 ^ 33 + o.fn * 2 ^ 28 + b2n o.immsel * 2 ^ 27 + o.imm
def decS (w : Nat) : SOp := ⟨bits w 47 43, bits w 42 38, bits w 37 33, bits w 32 28, bit w 27, bits w 23 0⟩

/-- Operand bits of format N. -/
def encN (o : NOp) : Nat :=
  o.sd * 2 ^ 43 + o.sa * 2 ^ 38 + o.handle * 2 ^ 30 + o.size * 2 ^ 28 + b2n o.raw * 2 ^ 27 + o.imm
def decN (w : Nat) : NOp := ⟨bits w 47 43, bits w 42 38, bits w 37 30, bits w 29 28, bit w 27, bits w 23 0⟩

/-- Operand bits of format G; RFN is the function's. -/
def encG (rfn : Nat) (o : GOp) : Nat := rfn * 2 ^ 44 + o.rslot * 2 ^ 40 + o.count * 2 ^ 24 + b2n o.sq * 2 ^ 23
def decG (w : Nat) : GOp := ⟨bits w 43 40, bits w 39 24, bit w 23⟩

/-- Operand bits of BRF. -/
def encB (o : BOp) : Nat := o.cond * 2 ^ 43 + o.test * 2 ^ 40 + o.na * 2 ^ 32 + o.nb * 2 ^ 24 + o.pad * 2 ^ 8
def decB (w : Nat) : BOp := ⟨bits w 47 43, bits w 42 40, bits w 39 32, bits w 31 24, bits w 23 8⟩

/-- The word of an instruction: its stream and the word (Tables 3.1 to 3.3, 3.5, 8.4); no other command has one. -/
def encodeInstr : Instr → Option (Bool × Nat)
  | .nop _ x d => some (x, mkWord d 0x00 0)
  | .ldq _ d o => some (false, mkWord d 0x01 (encQ o))
  | .stq _ d o => some (false, mkWord d 0x02 (encQ o))
  | .msnd _ d o => some (false, mkWord d 0x03 (encQ o))
  | .mrcv _ d o => some (false, mkWord d 0x04 (encQ o))
  | .dma _ d o => some (false, mkWord d 0x05 (encD o))
  | .dmaw _ d ch => some (false, mkWord d 0x06 (b2n ch * 2 ^ 47))
  | .swap _ d h => some (false, mkWord d 0x07 (h * 2 ^ 36))
  | .dld _ d h a => some (false, mkWord d 0x08 (h * 2 ^ 36 + a * 2 ^ 32 + 2 ^ 11))
  | .aop _ d o => some (false, mkWord d 0x09 (encA o))
  | .strmStart _ d a e => some (false, mkWord d 0x0A (a * 2 ^ 40 + e))
  | .strmWait _ d e => some (false, mkWord d 0x0A (8 + e))
  | .sigl _ d obj add => some (false, mkWord d 0x0B (obj * 2 ^ 34 + add * 2 ^ 18))
  | .loop _ x d level body => some (x, mkWord d 0x3C (level * 2 ^ 46 + body * 2 ^ 33))
  | .brf _ x d o => some (x, mkWord d 0x3D (encB o))
  | .lcset _ x d lc src reg imm => some (x, mkWord d 0x3E (lc * 2 ^ 46 + src * 2 ^ 44 + reg * 2 ^ 39 + imm))
  | .endStream _ x d => some (x, mkWord d 0x3F 0)
  | .tlw _ d n => some (true, mkWord d 0x01 (n * 2 ^ 41))
  | .tsw _ d => some (true, mkWord d 0x02 0)
  | .tmm _ d acc clr fa fw => some (true, mkWord d 0x03 (b2n acc * 2 ^ 47 + b2n clr * 2 ^ 46 + fa * 2 ^ 42 + fw * 2 ^ 38))
  | .tdrn _ d acc chain sq => some (true, mkWord d 0x04 (b2n acc * 2 ^ 47 + chain * 2 ^ 34 + b2n sq * 2 ^ 33))
  | .tmode _ d m => some (true, mkWord d 0x05 (b2n m * 2 ^ 46))
  | .nttl _ d o => some (true, mkWord d 0x06 (encG 0x0 o))
  | .nttx _ d o => some (true, mkWord d 0x06 (encG 0x1 o))
  | .intx _ d o => some (true, mkWord d 0x06 (encG 0x2 o))
  | .intl _ d o => some (true, mkWord d 0x06 (encG 0x3 o))
  | .eadd _ d o => some (true, mkWord d 0x06 (encG 0x4 o))
  | .esub _ d o => some (true, mkWord d 0x06 (encG 0x5 o))
  | .emul _ d o => some (true, mkWord d 0x06 (encG 0x6 o))
  | .mulc _ d o => some (true, mkWord d 0x06 (encG 0x7 o))
  | .kmac _ d o => some (true, mkWord d 0x06 (encG 0x8 o))
  | .auto _ d o => some (true, mkWord d 0x06 (encG 0x9 o))
  | .tomont _ d o => some (true, mkWord d 0x06 (encG 0xA o))
  | .frommont _ d o => some (true, mkWord d 0x06 (encG 0xB o))
  | .kout _ d o => some (true, mkWord d 0x06 (encG 0xC o))
  | .sop _ d o => some (true, mkWord d 0x07 (encS o))
  | .sld _ d o => some (true, mkWord d 0x08 (encN o))
  | .sst _ d o => some (true, mkWord d 0x09 (encN o))
  | .spush _ d sa => some (true, mkWord d 0x0A (sa * 2 ^ 38))
  | .ssum _ d sd which => some (true, mkWord d 0x0B (sd * 2 ^ 43 + which))
  | .lrxset _ d idx sa => some (true, mkWord d 0x0C (sa * 2 ^ 38 + idx))
  | _ => none

/-- LOOP, BRF, LCSET, END and NOP of either stream. -/
def decodeBoth (p : Nat) (x : Bool) (w : Nat) : Option Instr :=
  let d := wDelta w
  match wOp w with
  | 0x00 => some (.nop p x d)
  | 0x3C => some (.loop p x d (bits w 47 46) (bits w 45 33))
  | 0x3D => some (.brf p x d (decB w))
  | 0x3E => some (.lcset p x d (bits w 47 46) (bits w 45 44) (bits w 43 39) (bits w 15 0))
  | 0x3F => some (.endStream p x d)
  | _ => none

/-- A word of the access stream (Table 3.2). -/
def decodeAcc (p w : Nat) : Option Instr :=
  let d := wDelta w
  match wOp w with
  | 0x01 => some (.ldq p d (decQ w))
  | 0x02 => some (.stq p d (decQ w))
  | 0x03 => some (.msnd p d (decQ w))
  | 0x04 => some (.mrcv p d (decQ w))
  | 0x05 => some (.dma p d (decD w))
  | 0x06 => some (.dmaw p d (bit w 47))
  | 0x07 => some (.swap p d (bits w 43 36))
  | 0x08 => some (.dld p d (bits w 43 36) (bits w 35 32))
  | 0x09 => some (.aop p d (decA w))
  | 0x0A => some (if bit w 3 then .strmWait p d (bits w 2 0) else .strmStart p d (bits w 43 40) (bits w 2 0))
  | 0x0B => some (.sigl p d (bits w 47 34) (bits w 33 18))
  | _ => decodeBoth p false w

/-- A ring function of Table 8.4. -/
def decodeRing (p w : Nat) : Option Instr :=
  let d := wDelta w
  let o := decG w
  match bits w 47 44 with
  | 0x0 => some (.nttl p d o)
  | 0x1 => some (.nttx p d o)
  | 0x2 => some (.intx p d o)
  | 0x3 => some (.intl p d o)
  | 0x4 => some (.eadd p d o)
  | 0x5 => some (.esub p d o)
  | 0x6 => some (.emul p d o)
  | 0x7 => some (.mulc p d o)
  | 0x8 => some (.kmac p d o)
  | 0x9 => some (.auto p d o)
  | 0xA => some (.tomont p d o)
  | 0xB => some (.frommont p d o)
  | 0xC => some (.kout p d o)
  | _ => none

/-- A word of the execute stream (Table 3.3). -/
def decodeExe (p w : Nat) : Option Instr :=
  let d := wDelta w
  match wOp w with
  | 0x01 => some (.tlw p d (bits w 45 41))
  | 0x02 => some (.tsw p d)
  | 0x03 => some (.tmm p d (bit w 47) (bit w 46) (bits w 45 42) (bits w 41 38))
  | 0x04 => some (.tdrn p d (bit w 47) (bits w 37 34) (bit w 33))
  | 0x05 => some (.tmode p d (bit w 46))
  | 0x06 => decodeRing p w
  | 0x07 => some (.sop p d (decS w))
  | 0x08 => some (.sld p d (decN w))
  | 0x09 => some (.sst p d (decN w))
  | 0x0A => some (.spush p d (bits w 42 38))
  | 0x0B => some (.ssum p d (bits w 47 43) (bits w 1 0))
  | 0x0C => some (.lrxset p d (bits w 5 0) (bits w 42 38))
  | _ => decodeBoth p true w

/-- The instruction that a word of a stream of pip `p` is (R67). -/
def decodeWord (p : Nat) (x : Bool) (w : Nat) : Option Instr := if x then decodeExe p w else decodeAcc p w

end Sys2Proof.Machine
end

