-- ==== Sys2Proof/Machine/Streams.lean ====
section
/-!
DEFINITION. One cycle of the units of the execute stream (R38, R45, R51, R52, R56, R58, R186, R214), the order of issue of the two
streams (R68, R69, R82 to R85, R88), and the load check of their programs (R70, R86).
-/
namespace Sys2Proof.Machine

/-! ### Units of the execute stream -/

/-- One cycle of a unit of the execute stream: a stall is noted and lengthens the unit's hold by `put`, a stall that ends is recorded. -/
def unitMove (t : UTry) (h : Hold) (p : PipSt) (put : Hold → Stall → PipSt) : PRes :=
  match t with
  | .idle => done p
  | .held ws =>
    let w := (lowest ws).getD {}
    done (addHold (put (h.more w) w) true w)
  | .moved r => if h.n = 0 then r else { r with fx := .stallEnd true h :: r.fx }

/-- The ring unit in cycle `c` (R214); a held cycle counts, and WAITQ names the queue (R227). -/
def ringMove (c pip : Nat) (p : PipSt) : PRes :=
  match p.ops.ring with
  | none => done p
  | some op => unitMove (ringStep p c pip) op.hold p fun h w =>
      { p with ops := { p.ops with ring := some { op with hold := h, due := c + 1 } },
               st := { p.st with waitq := waitOf w }, cnt := { p.cnt with rwait := bump p.cnt.rwait 1 } }

/-- The TLW in progress in cycle `c` (R52). -/
def tlwMove (c : Nat) (p : PipSt) : PRes :=
  match p.ops.tlw with
  | none => done p
  | some op =>
    let t : UTry := if c < op.due then .idle else match tlwStall p with
      | [] => .moved (done (tlwPop p c op))
      | ws => .held ws
    unitMove t op.hold p fun h _ => { p with ops := { p.ops with tlw := some { op with hold := h, due := c + 1 } } }

/-- Replace the tile multiply that has rows to enter. -/
def setTmm (p : PipSt) (op : TmmOp) : PipSt :=
  { p with ops := { p.ops with tmms := p.ops.tmms.map fun o => if o.row < 32 then op else o } }

/-- The tile multiply with rows to enter, in cycle `c` (R51, R58). The ring unit has had its turn. -/
def tmmMove (c : Nat) (p : PipSt) : PRes :=
  match p.ops.tmms.find? fun o => decide (o.row < 32) with
  | none => done p
  | some op =>
    let t : UTry := if c < op.due then .idle else match tmmStall p (decide (0 < Tab.get 0 p.cyc.pops qKey)) op with
      | [] => let (q, o, _) := tmmRow p c op; .moved (done (setTmm q o))
      | ws => .held ws
    unitMove t op.hold p fun h _ => setTmm p { op with hold := h, due := c + 1 }

/-- The drain in progress in cycle `c`; a held cycle counts (R186). -/
def drainMove (c : Nat) (p : PipSt) : PRes :=
  match p.ops.drain with
  | none => done p
  | some op => unitMove (drainStep p c) op.hold p fun h _ =>
      { p with ops := { p.ops with drain := some { op with hold := h, due := c + 1 } },
               cnt := { p.cnt with drainStall := bump p.cnt.drainStall 1 } }

/-- A cycle of a mode switch counts as busy (R55, R66). -/
def switchMove (c : Nat) (p : PipSt) : PipSt :=
  if c < p.ten.switchTo then { p with cnt := { p.cnt with tbusy := bump p.cnt.tbusy 1 } } else p

/-- The units of the execute stream in cycle `c`, after the instruction that issues in it: the ring unit first (R58), then the tensor
array and the vector chain, and at the cycle's end the updates of accumulator buffers (R51). `pip` is the pip-in-pod index. -/
def executeMoves (c pip : Nat) (p : PipSt) : PRes :=
  (((((ringMove c pip p).andThen (tlwMove c)).andThen (tmmMove c)).andThen (drainMove c)).andThen fun p =>
    done (applyUpds c (switchMove c p)))

/-! ### Issue order (R68, R69, R82 to R85) -/

/-- Leave the loops that end at `last`: repeat the innermost, or go on after it (R83). [DEDUCED, log 13] -/
def afterLast (last : Nat) : List LoopFrame → Nat × List LoopFrame
  | [] => (last + 1, [])
  | f :: fs =>
    if f.last = last then
      if f.left > 1 then (f.first, { f with left := f.left - 1 } :: fs) else afterLast last fs
    else (last + 1, f :: fs)

/-- Control passes on after the instruction, or skipped part, that ends at `last`. [DEDUCED, log 13] -/
def goAfter (s : StreamSt) (last : Nat) : StreamSt :=
  let (pc, ls) := afterLast last s.loops
  { s with pc := pc, loops := ls }

/-- The stream issues its next instruction in cycle `c` (R44, R68). -/
def issueAt (s : StreamSt) (c : Nat) : StreamSt := { s with base := c, hold := {} }

/-- Control after the instruction at pc has issued (R69, R83, R85). -/
def nextInstr (s : StreamSt) : StreamSt :=
  match s.arm with
  | some a =>
    if s.pc = a.last then
      goAfter { s with arm := none, base := max s.base a.minJoin } (a.join - 1)
    else { s with pc := s.pc + 1 }
  | none => goAfter s s.pc

/-- LOOP: copy the count; run or skip the body (R82). [DEDUCED, log 13] -/
def enterLoop (s : StreamSt) (level body count : Nat) : StreamSt :=
  if count = 0 then goAfter s (s.pc + body)
  else { s with pc := s.pc + 1, loops := ⟨level, s.pc + 1, s.pc + body, count⟩ :: s.loops }

/-- BRF: run the selected arm, or go to the join at once if it is empty (R85). [DEDUCED, log 13] -/
def enterArm (s : StreamSt) (taken : Bool) (na nb pad : Nat) : StreamSt :=
  let join := s.pc + 1 + na + nb
  let minJoin := s.base + pad
  let first := if taken then s.pc + 1 else s.pc + 1 + na
  let n := if taken then na else nb
  if n = 0 then goAfter { s with base := minJoin } (join - 1)
  else { s with pc := first, arm := some ⟨first + n - 1, join, minJoin⟩ }

/-! ### The load check (R70, R81, R86) -/

/-- The codes of a TMM that R81 refuses whatever the mode. [DEDUCED, log 11] -/
def tmmCodesOk (a w : Nat) : Bool :=
  let ok (c : Nat) := (decide (1 ≤ c) && decide (c ≤ 9)) || c = 15
  ok a && ok w && (if a = 15 || w = 15 then a = w
    else isIntFmt a == isIntFmt w && fmtT a = fmtT w)

/-- Format Q fields that are out of range (R70, R79). -/
def fmtQOk (w : Nat) (qsel : Nat → Bool) : Bool :=
  qsel (bits w 47 44) && bits w 31 16 ≠ 0 && bits w 10 0 = 0 && !(bit w 15 && bit w 14)

/-- An operand word of the access stream holds no reserved value (R70). [DEDUCED, log 11] -/
def accWordOk (w : Nat) : Bool :=
  wDelta w ≠ 0 &&
  match wOp w with
  | 0x00 | 0x3F => bits w 47 0 = 0
  | 0x01 => fmtQOk w fun q => decide (q ≤ 4)
  | 0x02 => fmtQOk w fun q => q = 8 || q = 9
  | 0x03 => fmtQOk w fun q => q = 5 || q = 8 || q = 9
  | 0x04 => fmtQOk w fun q => decide (q ≤ 5)
  | 0x05 => bits w 29 16 ≠ 0 && bits w 14 0 = 0
  | 0x06 => bits w 46 0 = 0
  | 0x07 => bits w 47 44 = 0 && bits w 35 0 = 0
  | 0x08 => bits w 47 44 = 0 && bits w 31 12 = 0 && bit w 11 && bits w 10 0 = 0
  | 0x09 => decide (bits w 39 36 ≤ 5) && bits w 35 32 = 0
  | 0x0A => bits w 47 44 = 0 && bits w 39 4 = 0 && decide (bits w 2 0 ≤ 4)
  | 0x0B => bits w 33 18 ≠ 0 && bits w 17 0 = 0
  | 0x3C => bits w 45 33 ≠ 0 && bits w 32 0 = 0
  | 0x3D => decide (bits w 47 43 ≤ 16) && decide (bits w 42 40 ≤ 3) && bits w 23 8 ≠ 0 && bits w 7 0 = 0
  | 0x3E => bits w 45 44 ≠ 3 && bits w 38 16 = 0 && !(bits w 45 44 = 1 && decide (bits w 43 39 ≥ 16))
  | _ => false

/-- An operand word of the execute stream holds no reserved value (R70, R81). [DEDUCED, log 11] -/
def exeWordOk (w : Nat) : Bool :=
  wDelta w ≠ 0 &&
  match wOp w with
  | 0x00 | 0x3F => bits w 47 0 = 0
  | 0x01 => decide (1 ≤ bits w 45 41) && decide (bits w 45 41 ≤ 16) && bits w 40 38 = 0 && bits w 32 0 = 0
  | 0x02 | 0x04 | 0x05 => bits w 32 0 = 0
  | 0x03 => bits w 32 0 = 0 && tmmCodesOk (bits w 45 42) (bits w 41 38)
  | 0x06 => decide (bits w 47 44 ≤ 0xC) && bits w 39 24 ≠ 0 && bits w 22 0 = 0
  | 0x07 => decide (bits w 32 28 ≤ 17) && bits w 26 24 = 0
  | 0x08 | 0x09 => bits w 26 24 = 0
  | 0x0A => bits w 47 43 = 0 && bits w 37 0 = 0
  | 0x0B => bits w 42 2 = 0
  | 0x0C => bits w 47 43 = 0 && bits w 37 33 = 0 && bits w 27 24 = 0 && bits w 23 6 = 0
  | 0x3C => bits w 45 33 ≠ 0 && bits w 32 0 = 0
  | 0x3D => decide (bits w 42 40 ≤ 3) && bits w 23 8 ≠ 0 && bits w 7 0 = 0
  | 0x3E => decide (bits w 45 44 ≤ 1) && bits w 38 16 = 0
  | _ => false

/-- Loops of a program as (level, first, last). -/
def loopsOf (ws : List Nat) : List (Nat × Nat × Nat) :=
  (List.range ws.length).filterMap fun i =>
    let w := nth ws i 0
    if wOp w = 0x3C then some (bits w 47 46, i + 1, i + bits w 45 33) else none

/-- Loop bodies stay inside the program, nest by level, and never overlap in part (R86). -/
def loopsOk (n : Nat) (ls : List (Nat × Nat × Nat)) : Bool :=
  ls.all fun a =>
    decide (a.2.2 < n) &&
    ls.all fun b =>
      -- b's LOOP lies inside a's body
      let inside := decide (a.2.1 ≤ b.2.1 - 1) && decide (b.2.1 - 1 ≤ a.2.2)
      !inside || (decide (a.1 < b.1) && decide (b.2.2 ≤ a.2.2))

/-- The two arms of the branch at `i` keep the rules of R85 and R86. -/
def armOk (ws : List Nat) (ls : List (Nat × Nat × Nat)) (i : Nat) : Bool :=
  let w := nth ws i 0
  let na := bits w 39 32
  let nb := bits w 31 24
  let pad := bits w 23 8
  let armA := slice ws (i + 1) na
  let armB := slice ws (i + 1 + na) nb
  let sum (l : List Nat) := l.foldl (fun s x => s + wDelta x) 0
  decide (i + na + nb < ws.length)
  && (armA ++ armB).all (fun x => wOp x ≠ 0x3C && wOp x ≠ 0x3D && wOp x ≠ 0x3F)
  && decide (sum armA ≤ pad) && decide (sum armB ≤ pad)
  && ls.all (fun a => !(decide (a.2.1 ≤ i) && decide (i ≤ a.2.2)) || decide (i + na + nb ≤ a.2.2))

/-- The load check of one program (R86). [DEDUCED, log 11] -/
def programOk (exe : Bool) (prog : List Word64) : Bool :=
  let ws := prog.map BitVec.toNat
  let ls := loopsOf ws
  ws ≠ [] && ws.all (if exe then exeWordOk else accWordOk)
  && (ws.getLast?.map wOp) = some 0x3F
  && loopsOk ws.length ls
  && (List.range ws.length).all fun i => wOp (nth ws i 0) ≠ 0x3D || armOk ws ls i

end Sys2Proof.Machine
end

