-- ==== Sys2Proof/Machine/EngineOps.lean ====
section
/-!
DEFINITION. Stream engines: stream records and their checks (R251, R252, Table 10.1, Table 10.2), the copy
check and the copies (R159, R160), the address-generator registers (R249, R254), and the footprint test
of a start (R256).
-/
namespace Sys2Proof.Machine

def recWord (r : List Byte) (i : Nat) : Nat := field r (8 * i) 8
def recNinst (r : List Byte) : Nat := bits (recWord r 0) 26 20
def recSen (r : List Byte) : Bool := bit (recWord r 0) 27
def recSobj (r : List Byte) : Nat := bits (recWord r 0) 41 28
def recSadd (r : List Byte) : Nat := bits (recWord r 0) 57 42
def recHbase (r : List Byte) : Nat := recWord r 1
def recCount (r : List Byte) (k : Nat) : Nat := bits (recWord r (2 + k)) 23 0
def recStride (r : List Byte) (k : Nat) : Int := sgn 40 (bits (recWord r (2 + k)) 63 24)
def recNdim (r : List Byte) : Nat := bits (recWord r 7) 2 0

/-- Instruction i of a program record. -/
def recInstr (r : List Byte) (i : Nat) : Nat := recWord r (2 + i)

def agOp (w : Nat) : Nat := bits w 63 58
def agGd (w : Nat) : Nat := bits w 57 55
def agGs (w : Nat) : Nat := bits w 54 52

/-- An address-generator word sets no bit that Table 10.2 leaves RES, and its fields are in range. -/
def agWordOk (w : Nat) : Bool :=
  match agOp w with
  | 0x00 | 0x3F => bits w 57 0 = 0
  | 0x01 => bits w 54 48 = 0
  | 0x02 => bits w 51 48 = 0
  | 0x03 => bits w 48 24 = 0 && bits w 23 0 ≠ 0
  | 0x04 => bits w 51 48 = 0 && bits w 31 0 = 0 && decide (bits w 37 32 ≤ 40)
  | 0x05 => bits w 57 55 = 0 && bits w 51 17 = 0 && bits w 15 0 ≠ 0
  | 0x06 => bits w 57 55 = 0 && bits w 51 17 = 0 && bits w 15 0 = 0
  | 0x07 => bits w 51 48 = 0 && bits w 28 0 = 0
  | 0x08 => bits w 57 46 = 0
  | 0x09 => bits w 57 46 = 0 && bits w 31 16 = 0 && bits w 15 0 ≠ 0
  | 0x0A => bits w 57 55 = 0 && bits w 49 44 ≠ 0 && bits w 42 16 = 0
  | _ => false

/-- The loops of an address-generator program. -/
def agLoops (r : List Byte) : List (Nat × Nat × Nat) :=
  (List.range (recNinst r)).filterMap fun i =>
    let w := recInstr r i
    if agOp w = 0x0A then some (bits w 51 50, i + 1, i + bits w 49 44) else none

/-- Reserved opcodes are those Table 10.2 does not list. -/
def agOpListed (o : Nat) : Bool := decide (o ≤ 0x0A) || o = 0x3F

/-- RES bits of word 0, word 1 and the padding of a record (check 1 of R252). -/
def recResOk (r : List Byte) : Bool :=
  bits (recWord r 0) 63 58 = 0 &&
  match recForm r with
  | 0 => bits (recWord r 7) 63 3 = 0
  | 1 => recWord r 1 = 0
         && (List.range (recNinst r)).all fun i => !agOpListed (agOp (recInstr r i)) || agWordOk (recInstr r i)
              || agRangeOnly (recInstr r i)
  | _ => true
where
  /-- Words whose only fault is a field out of range, left to check 4. -/
  agRangeOnly (w : Nat) : Bool :=
    match agOp w with
    | 0x03 => bits w 48 24 = 0
    | 0x04 => bits w 51 48 = 0 && bits w 31 0 = 0
    | 0x05 => bits w 57 55 = 0 && bits w 51 17 = 0
    | 0x09 => bits w 57 46 = 0 && bits w 31 16 = 0
    | 0x0A => bits w 57 55 = 0 && bits w 42 16 = 0
    | _ => false

/-- Check 4 of R252 on a program record. -/
def recProgOk (r : List Byte) (eng : Nat) : Bool :=
  let n := recNinst r
  let ls := agLoops r
  decide (1 ≤ n) && decide (n ≤ 64)
  && (List.range n).all (fun i => agOpListed (agOp (recInstr r i)) && agWordOk (recInstr r i))
  && loopsOk n ls && agOp (recInstr r (n - 1)) = 0x3F
  && (List.range n).all fun i =>
      let o := agOp (recInstr r i)
      (o ≠ 0x05 || decide (recDir r ≤ 1)) && (o ≠ 0x06 || eng = 4) && (o ≠ 0x07 || eng ≠ 4)

/-- Check 5 of R252 on a descriptor-form record (Table 10.1): SADD counts where SEN = 1. [DEDUCED, log 45] -/
def recDescOk (r : List Byte) : Bool :=
  let nd := recNdim r
  recNinst r = 0 && (!recSen r || recSadd r ≠ 0)
  && recHbase r % 128 = 0 && decide (1 ≤ nd) && decide (nd ≤ 5)
  && (List.range 5).all fun k =>
      if k < nd then decide (1 ≤ recCount r k) && recStride r k % 128 = 0
      else recCount r k = 0 && recStride r k = 0

/-- A dense walk (R159). -/
def dense (d : BitVec 512) : Bool :=
  dStride d 0 = 128 && (List.range 4).all fun k =>
    decide (dNdim d ≤ k + 1) || dStride d (k + 1) = dStride d k * dSize d k

/-- The walks agree (R159). -/
def sameWalk (s d : BitVec 512) : Bool :=
  dNdim s = dNdim d && dSwz s = dSwz d
  && (List.range 5).all fun k => dSize s k = dSize d k && dStride s k = dStride d k

/-- The kinds of copy. -/
inductive CopyKind where
  | translate | relayout | transpose
  deriving DecidableEq, Repr

/-- The kind of a copy whose descriptors passed the first checks (R159). -/
def copyKind (s d : BitVec 512) : CopyKind :=
  if dXmode d = 1 then .transpose else if sameWalk s d then .translate else .relayout

/-- The copy check of R159. -/
def copyCheck (s d : BitVec 512) : Byte :=
  if !dValid s || !dValid d then eDesc
  else if dWord s || dWord d then eDesc
  else if dEbc s || dEbc d || dXmode s ≠ 0 then eDesc
  else if dFmt s ≠ dFmt d || dElements s ≠ dElements d then eDesc
  else
    let k := copyKind s d
    if k = .transpose && (!(elemBits (dFmt s) = 8 || elemBits (dFmt s) = 16 || elemBits (dFmt s) = 32)
        || dBsf s ≠ 0 || dBsf d ≠ 0 || dElements s % 1024 ≠ 0) then eDesc
    else if !meets (footprint s) (footprint d) then eOk
    else if k = .translate then
      (if dActive s = dActive d || dense s then eOk else eOverlap)
    else if k = .transpose && sameWalk s d && dActive s = dActive d && decide (dElements s ≤ 1024) then eOk
    else eOverlap

/-- The checks of R252 in order: number and code of the first that fails. `keyed` says the job's command
takes a key, `agDis` is AG_DIS. -/
def recCheck (p : PipSt) (r : List Byte) (eng : Nat) (keyed agDis : Bool) : Option (Nat × Byte) :=
  let form := recForm r
  let dir := recDir r
  let d := descOf p (recHandle r)
  if form = 3 || dir = 3 || (form = 2 && dir ≠ 0) || !recResOk r then some (1, eDesc)
  else if (eng ≠ 4 && dir = 2) || (eng = 4 && (form ≠ 1 || dir ≠ 2 || !keyed)) then some (2, eDesc)
  else if (form ≠ 2 && decide (dir ≤ 1) && (!dValid d || dWord d)) || (form ≠ 2 && recHandle2 r ≠ 0) then
    some (3, eDesc)
  else if form = 1 && !recProgOk r eng then some (4, eDesc)
  else if form = 0 && !recDescOk r then some (5, eDesc)
  else if form = 2 && copyCheck d (descOf p (recHandle2 r)) ≠ eOk then
    some (6, copyCheck d (descOf p (recHandle2 r)))
  else if form = 1 && decide (eng ≤ 3) && agDis then some (7, eDesc)
  else none

/-- HBM address of line i of a descriptor-form run (R253). -/
def recLineAddr (r : List Byte) : Nat → Nat → Nat → Int → Int
  | 0, _, _, h => h
  | n + 1, k, j, h =>
    let c := recCount r k
    recLineAddr r n (k + 1) (j / max 1 c) (h + ((j % max 1 c : Nat) : Int) * recStride r k)

def recAddr (r : List Byte) (i : Nat) : Int := recLineAddr r (recNdim r) 0 i (recHbase r)

/-- Lines of a descriptor-form run. -/
def recTotal (r : List Byte) : Nat := (List.range (recNdim r)).foldl (fun n k => n * recCount r k) 1

/-! ### Copies (R160) -/

/-- Read one line of a copy with its checks, under its descriptor's swizzle (R152). -/
def copyRead (p : PipSt) (d : BitVec 512) (i : Nat) : List Byte × PRes :=
  match walk d i with
  | none => ([], failWith p eBounds)
  | some a => if inRegion p.sp p.st.context a 128 then readAt p (dSwz d) a.toNat 128 else ([], failWith p eBounds)

/-- Write bytes of a copy with their check. -/
def copyStore (p : PipSt) (d : BitVec 512) (a : Int) (bs : List Byte) : PRes :=
  if inRegion p.sp p.st.context a bs.length then done (storeWords p (padWords (dSwz d) a.toNat bs)) else failWith p eBounds

/-- Move lines one at a time in a stated order (relayout). -/
def copyLines (s d : BitVec 512) : List Nat → PipSt → PRes
  | [], p => done p
  | i :: is, p =>
    let (b, r) := copyRead p s i
    (r.andThen fun p =>
      match walk d i with
      | none => failWith p eBounds
      | some a => copyStore p d a b).andThen (copyLines s d is)

/-- Read a group of lines whole (translation). -/
def copyGroup (s : BitVec 512) : List Nat → PipSt → List (Nat × List Byte) × PRes
  | [], p => ([], done p)
  | i :: is, p =>
    let (b, r) := copyRead p s i
    match r.fail with
    | some _ => ([], r)
    | none => let (l, r') := copyGroup s is r.p; ((i, b) :: l, { r' with fx := r.fx ++ r'.fx })

/-- Write the lines of a group. -/
def copyPut (d : BitVec 512) : List (Nat × List Byte) → PipSt → PRes
  | [], p => done p
  | (i, b) :: l, p =>
    (match walk d i with
     | none => failWith p eBounds
     | some a => copyStore p d a b).andThen (copyPut d l)

/-- Translation: groups of 32 lines, each read whole before any of it is written (R160). -/
def copyTranslate (s d : BitVec 512) : List (List Nat) → PipSt → PRes
  | [], p => done p
  | g :: gs, p =>
    let (l, r) := copyGroup s g p
    (r.andThen (copyPut d l)).andThen (copyTranslate s d gs)

/-- Source elements of a run of lines, as codes. -/
def copyElems (f : Nat) (bs : List Byte) : List Nat :=
  let n := elemBits f / 8
  (groups n bs.length bs).map ofBytes

/-- Transpose: blocks of 1,024 elements, each read whole, then its 32 output rows by slot (R160). -/
def copyTranspose (s d : BitVec 512) : List Nat → PipSt → PRes
  | [], p => done p
  | b :: bs, p =>
    let f := dFmt s
    let lpb := 1024 / elemsPerLine f
    let (l, r) := copyGroup s ((List.range lpb).map (b * lpb + ·)) p
    let el := copyElems f (l.flatMap (·.2))
    (r.andThen fun p =>
      (List.range 32).foldl (fun (acc : PRes) c => acc.andThen fun p =>
        let q := 32 * b + c
        let k := slotsPerLine f
        match walk d (q / k) with
        | none => failWith p eBounds
        | some la =>
          copyStore p d (la + ((q % k) * slotSize f : Nat))
            (((List.range 32).map fun rr => toBytes (elemBits f / 8) (nth el (32 * rr + c) 0)).flatten)) (done p)).andThen
      (copyTranspose s d bs)

/-- Lines of a tensor walk. -/
def dLines (d : BitVec 512) : Nat := (List.range 5).foldl (fun n k => if k < dNdim d then n * dSize d k else n) 1

/-- A whole copy (R160). -/
def runCopy (p : PipSt) (s d : BitVec 512) : PRes :=
  let n := dLines s
  match copyKind s d with
  | .translate =>
    let up := groups 32 n (List.range n)
    copyTranslate s d (if dActive d ≤ dActive s then up else up.reverse) p
  | .relayout => copyLines s d (List.range n) p
  | .transpose => copyTranspose s d (List.range (dElements s / 1024)) p

/-! ### Engine registers and control (R249, R254) -/

def gReg (e : Engine) (i : Nat) : Word64 := Tab.get 0 e.g i
def setG (e : Engine) (i : Nat) (v : Word64) : Engine := { e with g := Tab.set 0 e.g i v }

/-- Control after an address-generator instruction, as R83. -/
def agNext (e : Engine) : Engine :=
  let (pc, ls) := afterLast e.pc e.loops
  { e with pc := pc, loops := ls }

/-- LOOP of an address-generator program (R254). -/
def agEnter (e : Engine) (w : Nat) : Engine :=
  let count := if bit w 43 then (gReg e (agGs w)).toNat % 2 ^ 16 else bits w 15 0
  let body := bits w 49 44
  if count = 0 then
    let (pc, ls) := afterLast (e.pc + body) e.loops
    { e with pc := pc, loops := ls }
  else { e with pc := e.pc + 1, loops := ⟨bits w 51 50, e.pc + 1, e.pc + body, count⟩ :: e.loops }

/-- Element `i` of a handle's element sequence as an unsigned 32-bit word: the line and byte it lies at. -/
def seqWord (d : BitVec 512) (i : Nat) : Option Int :=
  match walk d (i / 32) with
  | none => none
  | some a => some (a + ((4 * (i % 32) : Nat) : Int))

/-- The running engine a STRM start must wait for: its footprint meets the new one where either writes (R256). -/
def startBlocked (p : PipSt) (e : Engine) : Option Nat :=
  (List.range 5).find? fun i =>
    let o := Tab.get {} p.eng i
    o.running &&
    ((engWrites e).any (fun h =>
        (engReads o ++ engWrites o).any fun k => meets (footprint (Tab.get 0 e.descs h)) (footprint (Tab.get 0 o.descs k)))
     || (engReads e).any fun h =>
        (engWrites o).any fun k => meets (footprint (Tab.get 0 e.descs h)) (footprint (Tab.get 0 o.descs k)))

end Sys2Proof.Machine
end

