-- ==== Sys2Proof/Machine/Ending.lean ====
section
/-!
DEFINITION. How work ends, once for every family: shutdown of a field (R398, R399), the end of a job (R46, R177, R242,
R406), completion of a command (R103, R104), failure of a collective (R343, R344), faults, recovery and fences (R429 to
R437), quiesce and departure (R361, R362).
-/
namespace Sys2Proof.Machine

/-! ### Fields -/

/-- An AVSBus voltage write, and Power Mode writes (R404). -/
def avsVolt (s : State) (f mv : Nat) : State := send s (.avs (f / 8) (f % 8) 0 mv)
def avsMode (s : State) (f : Nat) (on : Bool) : State := send s (.avs (f / 8) (f % 8) 1 (b2n on))

/-- Clamp a setpoint to 650–850 mV (R407). -/
def clampMv (v : Int) : Nat := (max 650 (min 850 v)).toNat

/-- The off request of a shutdown to F3 starts, unless the rail still has a request outstanding (R404). [DEDUCED, log 40] -/
def startOff (s : State) (f : Nat) : State :=
  if (fieldSt s f).req = .none then avsMode (modField s f fun v => { v with req := .off, reqAt := s.cycle }) f false else s

/-- A field starts a shutdown (R398). -/
def startDown (s : State) (f : Nat) (tgt : FState) : State :=
  let v := fieldSt s f
  if v.trans ≠ .none ∨ fstateNum tgt ≤ fstateNum v.state then s
  else
    let s := modField s f fun v => { v with trans := .down tgt, pending := false, offDone := false, wakeEntry := false }
    if tgt = .f3 then startOff s f else s

/-- The field goes to `want`, as far down as the floor of R399 lets it. -/
def lowerField (s : State) (f : Nat) (want : FState) : State :=
  let tgt := floored s f want
  if tgt = .f1 then s else startDown s f tgt

/-- The husk asks for VRUN again once no job holds a step in the field (R406). -/
def returnVrun (s : State) (f : Nat) : State :=
  let v := fieldSt s f
  if v.stepJobs = [] ∧ v.req = .none ∧ v.railOn ∧ v.vset ≠ v.vrun ∧ v.trans = .none then
    avsVolt (modField s f fun v => { v with req := .lower v.vrun, reqAt := s.cycle }) f v.vrun
  else s

/-- A job that has ended holds no step. -/
def dropStep (s : State) (j f : Nat) : State :=
  if (fieldSt s f).stepJobs.contains j then
    returnVrun (modField s f fun v => { v with stepJobs := v.stepJobs.filter (· ≠ j) }) f
  else s

/-- The field must be in F3 unless a floor keeps it higher: out of service (R24), excluded (R428), outside every partition (R26), in a
fenced one (R29), or the module is not in M0. -/
def mustF3 (s : State) (f : Nat) : Bool :=
  heldOff s f || (match partOfField s f with | none => true | some n => (partSt s n).fenced)

/-- A field whose transition has ended goes to F3 if it must: what asked for F3 while the transition ran still holds (R24, R26). -/
def afterTrans (s : State) (f : Nat) : State := if mustF3 s f then lowerField s f .f3 else s

/-- No job is queued or running on a pod of the field. -/
def fieldIdle (s : State) (f : Nat) : Bool := !(podsOfField f).any (podBusy s)

/-! ### Trace records of jobs (Table 18.3) -/

/-- SCHED record of a pod. -/
def schedRecord (s : State) (pod event ctx : Nat) (progId : Word64) (code : Byte) : State :=
  fabricRecord s { type := 0, kind := 1, index := pod, arg0 := event + 256 * ctx, arg1 := progId.toNat, code := code }
/-- SCHED record of the module: admission or revocation. -/
def moduleRecord (s : State) (event : Nat) (fp : Word64) : State :=
  fabricRecord s { type := 0, kind := 3, arg0 := event, arg1 := fp.toNat }
/-- ERROR record. -/
def errorRecord (s : State) (event kind index arg1 : Nat) (code : Byte) : State :=
  fabricRecord s { type := 2, kind := kind, index := index, arg0 := event, arg1 := arg1, code := code }

/-! ### The end of a job (R46) -/

/-- SITE of a completion record (Table 3.11). -/
def siteOf (p : Nat) : Nat := 2 ^ 31 + 256 * pipY p + pipX p

/-- The runs of stored bytes that hold elements of the data line at `la`: the whole line, or in an FP6 format its first 96 bytes, by the
places of their words (R135, R151, Table 5.4). -/
def lineRuns (d : BitVec 512) (la : Int) : List (Int × Nat) :=
  if elemBits (dFmt d) ≠ 6 ∨ la < 0 then [(la, 128)]
  else (placesOf (dSwz d) la.toNat 96).map fun w => (((8 * w : Nat) : Int), 8)

/-- What a block-scaled STQ in progress was to write (R177): runs of scratchpad bytes. -/
def stqRuns (x : Xfer) : List (Int × Nat) :=
  if x.kind ≠ .stq ∨ x.raw ∨ dBsf x.desc = 0 then []
  else
    let d := x.desc
    let las := (List.range (dLines d)).filterMap (walk d)
    let per := elemsPerLine (dFmt d) / max 1 (dBlock d)
    las.flatMap fun la =>
      lineRuns d la ++ (scaleAt d la, max 1 per) ::
        (if dBsf d ≥ 3 then [((dAux d : Int) + 128 * (lineBlock d la / 64), 128)] else [])

/-- A run of bytes the job may write becomes free values; bytes outside its regions are no bytes of the destination. -/
def undefRun (p : Nat) (r : Int × Nat) (s : State) : State :=
  let q := pipOf s p
  if inRegion q.sp q.st.context r.1 r.2 then undefBytes s p r.1.toNat r.2 else s

/-- The pip empties its queues and discards its operations; its engines are idle (R46, R439). After E_OK nothing is in
progress, and entries left in the queues stay until the next job start (R88). -/
def clearPip (code : Byte) (q : PipSt) : PipSt :=
  { q with
    q := if code = eOk then q.q else {}
    ops := {}, eng := []
    acc := { q.acc with held := false }, exe := { q.exe with held := false }
    ten := { q.ten with switchTo := 0 }
    chn := if code ≠ eOk && q.ops.drain.any (fun o => decide (o.t ≤ drainLast o)) then { q.chn with open_ := false, complete := false } else q.chn
    net := { q.net with credit := [], owed := [], writer := [] }
    st := { q.st with lastCode := code, kopen := false }
    progId := if q.loaded then q.progId else 0
    resident := q.resident && q.loaded
    job := 0, finished := false }

/-- One pip of an ended job. Writes that have had their bank cycle are made. [DESIGN CHOICE, log 47] -/
def endPip (code : Byte) (p : Nat) (s : State) : State :=
  let s := modPip s p (commitWrites (s.cycle + 2))
  let s := if code = eOk then s else forAll ((pipOf s p).ops.xfers.flatMap stqRuns) (undefRun p) s
  modPip s p (clearPip code)

/-- The request comes from a unit of one of the pips; the key reader (unit 4) only if `keys`. -/
def fromPips (pips : List Nat) (keys : Bool) (r : Req) : Bool :=
  match r.src with | .unit p u => pips.contains p && (keys || u ≠ 4) && u ≠ 8 | _ => false

/-- Something on its way belongs to the pips. -/
def flightOf (pips : List Nat) (keys : Bool) : Flight → Bool
  | .flit d _ _ f | .edge d _ _ f => pips.contains d || pips.contains f.from_
  | .line d u _ _ _ => pips.contains d && (keys || u ≠ 4)
  | .wline _ _ _ r => fromPips pips keys r
  | .key d _ _ _ _ => keys && pips.contains d
  | .short _ _ _ f => pips.contains (pipAt f.sx f.sy)
  | .credit d _ _ _ => pips.contains d

/-- Requests, flits and lines of the pips' units are discarded. -/
def dropWork (pips : List Nat) (keys : Bool) (s : State) : State :=
  let keep (l : List Req) := l.filter fun r => !fromPips pips keys r
  let tabs (t : Tab (List Req)) := (t.map fun e => (e.1, keep e.2)).filter fun e => e.2 ≠ []
  let s := { s with flight := s.flight.filter fun f => !flightOf pips keys f }
  forAll (List.range 12) (fun k s => modStack s k fun v =>
    { v with fifo := tabs v.fifo, wbuf := tabs v.wbuf, lines := tabs v.lines, stq := keep v.stq }) s

/-- The short flits of the job that stand at a pip of it, at a turn or at their destination, are discarded. -/
def dropShort (pips : List Nat) (p : Nat) (s : State) : State :=
  let keep (l : List ShortFlit) : List ShortFlit := l.filter fun f => !pips.contains (pipAt f.sx f.sy)
  modPip s p fun q => { q with net := { q.net with shortOut := keep q.net.shortOut, shortBuf := keep q.net.shortBuf } }

/-- A destination of an encrypted job that ended without E_OK (Table 9.7): VALID clear, contents free. -/
def undefDest (d : Nat × Nat) (s : State) : State :=
  undefObject (setCtDesc s d.1 d.2 (cSetValid (ctDesc s d.1 d.2) false)) d.1 d.2

/-- The key gate of a pod goes back to idle. -/
def closeGate (d : Nat) (s : State) : State := modPod s d fun v =>
  { v with kstate := 0, klead := false, khdr := [], kallow := [], kbad := false }

/-- The job's pods are free again: records, idle times, steps. -/
def leavePods (j : Job) (code : Byte) (s : State) : State :=
  let s := { s with jobs := s.jobs.filter (·.id ≠ j.id) }
  let s := forAll (heldPods j) closeGate s
  let s := forAll (jobPods j) (fun d s => schedRecord s d 2 j.ctx j.progId code) s
  let fs := ((heldPods j).map fieldOfPod).eraseDups
  forAll fs (fun f s => modField (dropStep s j.id f) f fun v => { v with idleFrom := s.cycle }) s

/-- The residue checker of a pod at the end of a job: values left are discarded, and UNMATCHED is set (R219). [DEDUCED, log 18] -/
def endChecker (d : Nat) (s : State) : State :=
  modPod s d fun v =>
    { v with unmatched := v.unmatched || v.fwd ≠ [] || v.inv ≠ [], fwd := [], inv := [], pNttx := [], pIntx := [],
             pIntl := [], primes := [], odd := [], dueAt := [], nNttx := 0, nIntx := 0, nIntl := 0 }

/-- The drain of a job's key stream ends: the command completes with the code of its header failure (R264). -/
def endDrain (s : State) (j : Job) : State :=
  if j.phase = .draining then
    let pips := jobPips j
    leavePods j eKeyset (decideCmd (forAll pips (dropShort pips) (dropWork pips true s)) j.cmd eKeyset 0)
  else s

/-- A job ends on every pip with a code (R46); its command's status is decided. A key stream still drains after
E_KEYSET, and the job leaves its pods when the drain ends (R264). A job that drains goes on draining under a later code, which is
higher than E_KEYSET, and only E_ABORTED or E_FENCED takes its place (R13, R265). -/
def endJob (s : State) (j : Job) (code : Byte) (site : Nat) : State :=
  if j.phase = .draining ∧ lowestCode eKeyset code = eKeyset then s else
  let pips := jobPips j
  let live := j.phase = .loading ∨ j.phase = .running
  let drain := code = eKeyset ∧ j.phase = .running
  let s := if live then forAll (jobPods j) endChecker (forAll pips (endPip code) s) else s
  let s := if live ∨ j.phase = .draining then forAll pips (dropShort pips) (dropWork pips (!drain) s) else s
  let s := if code = eOk then s else forAll (jobPods j) (fun d s => errorRecord s 1 1 d j.ctx code) s
  let s := if code = eOk ∨ j.phase = .draining then s else forAll j.dests undefDest s
  if drain then setJob s { j with phase := .draining }
  else leavePods j code (decideCmd s j.cmd code site)

/-- Every job that satisfies a test ends with a code. -/
def endJobs (s : State) (code : Byte) (test : Job → Bool) : State :=
  forAll (s.jobs.filter test) (fun j s => endJob s j code 0) s

/-- The pip lies in the rectangle of a job. -/
def inJob (p : Nat) (j : Job) : Bool :=
  decide (4 * j.pcx0 ≤ pipX p) && decide (pipX p ≤ 4 * j.pcx1 + 3) && decide (4 * j.pcy0 ≤ pipY p) && decide (pipY p ≤ 4 * j.pcy1 + 3)

/-- The job that runs on a pip. -/
def jobOfPip (s : State) (p : Nat) : Option Job :=
  if (pipOf s p).job = 0 then none else (jobOf s ((pipOf s p).job - 1)).filter (inJob p)

/-! ### Collectives that fail (R343, R344) -/

/-- The ABORT message (Table 13.2). -/
def abortBytes (ch : Nat) (c : ChanSt) (code : Byte) : List Byte :=
  [5, BitVec.ofNat 8 ch, 0, 0] ++ toBytes 4 c.seq.toNat ++ toBytes 4 0 ++ toBytes 4 code.toNat
    ++ slice c.group 4 4 ++ toBytes 4 0

def collP (c : ChanSt) : Nat := field c.group 0 2
def chanTx (c : ChanSt) : Nat := bits (field c.opened 18 2) 11 0
def chanRx (c : ChanSt) : Nat := bits (field c.opened 20 2) 11 0
def chanH (c : ChanSt) : Nat := bits (field c.opened 22 2) 11 0
def chanStack (c : ChanSt) : Nat := field c.opened 17 1
def chanInbox (c : ChanSt) : Nat := field c.opened 32 8

/-- Bytes of module memory become free values. -/
def undefMem (s : State) (a n : Nat) : State := drew (memWrite s a (freeBytes s n)) n

/-- Step 4 of R343: once an ABORT has been sent and received, buffers are free and credit is whole again. -/
def resetCredit (c : ChanSt) : ChanSt :=
  if c.abortSent && c.abortGot then { c with inbox := [], credits := 16, unacked := 0, abortSent := false, abortGot := false }
  else c

/-- The channel closes and keeps no inbox, credits or group (R344). -/
def chanClose (s : State) (ch : Nat) : State :=
  modChan s ch fun c =>
    { c with state := 0, ctx := 0, opened := [], group := [], fifo := [], running := none, inbox := [], credits := 16,
             unacked := 0, abortSent := false, abortGot := false, resIn := 0, resOut := [], recvR := 0, recvG := 0 }

/-- A waiting CL_CLOSE that is at the head of the channel's FIFO closes the channel (R344). -/
def chanAdvance (s : State) (ch : Nat) : State :=
  match (chanSt s ch).running, (chanSt s ch).fifo with
  | none, k :: _ => if k.close then chanClose s ch else s
  | _, _ => s

/-- The running command of a channel ends with a code (R343). `sendIt` is false where the ABORT has been forwarded. -/
def chanFail (s : State) (ch : Nat) (code : Byte) : State :=
  let c := chanSt s ch
  match c.running with
  | none => s
  | some r =>
    let s := decideCmd s r.cmd code 0
    let s := forAll (c.fifo.filter (!·.close)) (fun k s => decideCmd s k.cmd eAborted 0) s
    let s := undefMem s (field r.bytes 56 8) (4 * field r.bytes 32 4)
    let s := modChan s ch fun c =>
      resetCredit { c with
        state := 1, running := none, fifo := c.fifo.filter (·.close), aborted := true, abortCnt := bump c.abortCnt 1
        lastCode := code, resIn := 0, resOut := [], recvR := 0, recvG := 0
        inbox := c.inbox.filter fun m => field m.bytes 4 4 ≠ c.seq.toNat
        outq := c.outq.filter (!·.paid) ++ (if collP c ≤ 1 then [] else [⟨chanTx c, false, abortBytes ch c code, s.cycle⟩])
        abortSent := decide (collP c > 1) }
    chanAdvance s ch

/-- The commands waiting in a channel's FIFO end with E_ABORTED. -/
def chanFlush (s : State) (ch : Nat) : State :=
  let s := forAll ((chanSt s ch).fifo.filter (!·.close)) (fun k s => decideCmd s k.cmd eAborted 0) s
  modChan s ch fun c => { c with fifo := [] }

/-- CL_CLOSE with FORCE (R344). -/
def chanForce (s : State) (ch : Nat) : State := chanClose (chanFlush (chanFail s ch eAborted) ch) ch

/-- Channels open for a context. -/
def chansOf (s : State) (c : Nat) : List Nat :=
  (List.range 16).filter fun ch => (chanSt s ch).state ≠ 0 && (chanSt s ch).ctx = c

/-! ### Completion of a command (R103, R104) -/

def cmdOpc (b : List Byte) : Nat := field b 0 1
def cmdFlag (b : List Byte) (i : Nat) : Bool := bit (field b 1 1) i
def cmdTag (b : List Byte) : Nat := field b 2 2
def cmdSigObj (b : List Byte) : Nat := bits (field b 4 2) 13 0
def cmdSigAdd (b : List Byte) : Nat := field b 6 2
def cmdRec (b : List Byte) : Nat := field b 8 8

/-- The completion record (Table 3.11). -/
def recordBytes (s : State) (b : List Byte) (code : Byte) (site : Nat) : List Byte :=
  [code, BitVec.ofNat 8 (cmdOpc b)] ++ toBytes 2 (cmdTag b) ++ toBytes 4 site ++ toBytes 8 (huskTime s)

/-- R103, step 1: the record, while its bytes are still the context's. [DEDUCED, log 24] A command refused because REC_ADDR is misaligned
(R99, step 1) gets its record at that address too, where the bytes are the context's. [DESIGN CHOICE, log 24] -/
def writeRecord (s : State) (k : Cmd) (code : Byte) : State :=
  if cmdFlag k.bytes 1 && ctxMem s k.ctx (cmdRec k.bytes) 16 then
    memWrite s (cmdRec k.bytes) (recordBytes s k.bytes code k.site)
  else s

/-- The pod rectangle at bytes 24 to 27 of a command (Table 3.9, Table 9.5). -/
def rectOk (b : List Byte) : Bool :=
  decide (field b 24 1 ≤ field b 25 1) && decide (field b 25 1 < 40) && decide (field b 26 1 ≤ field b 27 1)
  && decide (field b 27 1 < 16)
def rectPods (b : List Byte) : List Nat :=
  if rectOk b then podsOfRect (field b 24 1) (field b 25 1) (field b 26 1) (field b 27 1) else []
/-- The command is an encrypted one (Table 9.6). -/
def isCt (b : List Byte) : Bool := decide (0x10 ≤ cmdOpc b) && decide (cmdOpc b ≤ 0x1F)

/-- What the encrypted-object registers of a pod show of a command that ends (R248). -/
def noteCt (b : List Byte) (code : Byte) (d : Nat) (s : State) : State :=
  let pbs := if cmdOpc b = 0x1C then field b 38 2 else if cmdOpc b = 0x1D && field b 44 1 % 16 ≠ 6 then 1 else 0
  modPod s d fun v =>
    { v with lastCode := code, lastOpc := BitVec.ofNat 8 (cmdOpc b),
             opsCnt := if code = eOk then bump v.opsCnt 1 else v.opsCnt,
             pbsCnt := if code = eOk then bump v.pbsCnt pbs else v.pbsCnt }

/-- An update of a sync object, held while its field sleeps (R93). -/
def lateAdd (s : State) (i add : Nat) : State :=
  if syncReady s i then syncAdd s i add
  else enableField { s with lateAdds := s.lateAdds ++ [(i, add)] } (syncField i)

/-- The held updates whose fields are awake (R93). -/
def applyLate (s : State) : State :=
  forAll s.lateAdds (fun e s => if syncReady s e.1 then syncAdd { s with lateAdds := s.lateAdds.erase e } e.1 e.2 else s) s

/-- Steps 1 to 3 of R103 and the halt of R104; the command leaves. [DEDUCED, log 24] -/
def completeCmd (s : State) (k : Cmd) (code : Byte) : State :=
  let s := if code = eOk then
      forAll k.dests (fun d s => setCtDesc s d.1 d.2 (cSetValid (ctDesc s d.1 d.2) true)) s else s
  let mine (d : Nat) : Bool := (ctxSt s k.ctx).part ≠ 0 && inPart s ((ctxSt s k.ctx).part - 1) (fieldOfPod d)
  let s := if isCt k.bytes then forAll ((rectPods k.bytes).filter mine) (noteCt k.bytes code) s else s
  let s := writeRecord s k code
  let s := if code = eOk && cmdFlag k.bytes 0 then lateAdd s (cmdSigObj k.bytes) (cmdSigAdd k.bytes) else s
  let s := if cmdFlag k.bytes 3 then msix s (ctxSt s k.ctx).host (ctxSt s k.ctx).vec else s
  let s := { s with cmds := s.cmds.filter (·.id ≠ k.id) }
  modCtx s k.ctx fun c =>
    { c with doneCnt := bump c.doneCnt 1, lastCode := code,
             haltTag := if code ≠ eOk && !c.halted then cmdTag k.bytes else c.haltTag,
             halted := c.halted || decide (code ≠ eOk) }

/-! ### Faults (R429 to R437) -/

/-- 5 ms and 1 s in pip cycles. -/
def windowLen (s : State) : Nat := cyclesOf s 5000000
def secondLen (s : State) : Nat := cyclesOf s 1000000000

/-- A recovery window of the partition runs (R432). -/
def inWindow (s : State) (n : Nat) : Bool := (partSt s n).windows.any fun d => decide (s.cycle ≤ d + windowLen s)

/-- Platform event of sensor 7 (R448): MFENCED and the number of fenced partitions. -/
def faultSensor (s : State) : State :=
  platformEvent s 7 (256 * b2n s.flt.mfenced + ((List.range 16).filter fun n => (partSt s n).fenced).length)

def addLog (s : State) (e : LogEntry) : State := { s with flt := { s.flt with log := (s.flt.log ++ [e]).drop ((s.flt.log.length + 1) - 4096) } }

/-- Contexts bound to a partition. -/
def ctxsOf (s : State) (n : Nat) : List Nat := (s.ctxs.filter fun e => e.2.created && e.2.part = n + 1).map (·.1)

/-- Steps 1 and 2 of R432 on a partition. -/
def closePart (s : State) (n cls : Nat) (code : Byte) : State :=
  let s := if s.parts.any fun e => e.2.recovery ≠ .open_ then s
    else { s with mod := { s.mod with agWas := s.mod.agDis, agDis := true } }
  let s := modPart s n fun p =>
    { p with recovery := .draining, windows := p.windows ++ [s.cycle], lastCode := code, lastClass := cls }
  let s := endJobs s eAborted (·.part = n)
  forAll ((ctxsOf s n).flatMap (chansOf s)) (fun ch s => chanFail s ch eAborted) s

/-- The recovery of a partition is over; AG_DIS reads again what it read before the first of them (Table 10.9). -/
def endRecovery (s : State) (n : Nat) : State :=
  if (partSt s n).recovery = .open_ then s
  else
    let s := modPart s n fun p => { p with recovery := .open_ }
    if s.parts.any fun e => e.2.recovery ≠ .open_ then s else { s with mod := { s.mod with agDis := s.mod.agWas } }

/-- The routes that serve a partition are no longer enabled: no end of them lies in a live partition (R119). -/
def dropRoutes (s : State) (n : Nat) : State :=
  { s with mod := { s.mod with transit := s.mod.transit.filter fun i => routePart s i ≠ some n } }

/-- A fence (R436): only routes that cross the partition keep its fields from F3 (R29, R399). -/
def fencePart (s : State) (n : Nat) : State :=
  if (partSt s n).fenced then s
  else
    let s := endJobs s eFenced (·.part = n)
    let s := forAll ((ctxsOf s n).flatMap (chansOf s)) (fun ch s => chanFail s ch eAborted) s
    let s := endRecovery (modPart s n fun p =>
      { p with fenced := true, hasPlan := false, plan := [], planFp := 0, plog2 := 0 }) n
    let s := { s with flt := { s.flt with fenceCnt := bump s.flt.fenceCnt 1 }, mod := { s.mod with transitDue := true } }
    faultSensor (forAll (fieldsOfPart s n) (fun f s => lowerField s f .f3) (dropRoutes s n))

/-- A module fence (R437). -/
def fenceModule (s : State) : State :=
  let s := { s with flt := { s.flt with mfenced := true } }
  faultSensor (forAll ((List.range 16).filter fun n => (partSt s n).valid) (fun n s => fencePart s n) s)

/-- A fault is the same as one already counted (R431). -/
def sameFault (s : State) (cls loc : Nat) : Bool :=
  s.flt.recent.any fun r => r.cls = cls && r.loc = loc && decide (s.cycle ≤ r.at_ + windowLen s)

/-- MOD_FLT_LAST (Table 17.12). [DEDUCED, log 26] -/
def fltLast (f : FaultSt) : Nat :=
  f.last.cls % 16 + 16 * (f.last.part % 16) + 2 ^ 8 * (f.last.loc % 2 ^ 16) + 2 ^ 24 * f.lastCode.toNat
    + 2 ^ 32 * (f.lastTime % 2 ^ 32)

/-- KIND and INDEX of the location of a fault in its trace record (Table 17.12, Table 18.2). [DEDUCED, log 26] -/
def faultKind (cls : Nat) : Nat :=
  if cls = 1 ∨ cls = 3 ∨ cls = 8 then 0 else if cls = 7 ∨ cls = 9 then 3 else 2
/-- [DEDUCED, log 26] -/
def faultIndex (cls loc : Nat) : Nat :=
  match cls with
  | 1 | 3 | 8 => loc / 256 % 64 * 160 + loc % 256
  | 2 => 64 + loc
  | 4 => 76 + loc
  | 5 | 6 => loc
  | _ => 0

/-- A partition of a fault's scope: fence on a second fault within a window, else close (R432, R436). -/
def hitPart (cls : Nat) (code : Byte) (n : Nat) (s : State) : State :=
  if (partSt s n).fenced then s
  else if inWindow s n then
    fencePart (modPart s n fun p => { p with windows := p.windows ++ [s.cycle], lastCode := code, lastClass := cls }) n
  else closePart s n cls code

/-- A fault of class `cls` at `loc` with scope `ps` (R429 to R437). The source event has already ended its own job. [DEDUCED, log 18] [DEDUCED, log 26] -/
def raiseFault (s : State) (cls : Nat) (ps : List Nat) (loc : Nat) (code : Byte) : State :=
  let pt := if cls = 9 then 0 else ps.headD 0
  if s.boot.stage ≠ 5 then addLog s ⟨huskTime s, cls, code, pt, loc, .logged⟩
  else
    let now := ps.filter fun n => !s.flt.recent.any fun r => r.at_ = s.cycle && r.part = n && r.cls ≠ 9
    if sameFault s cls loc || (ps ≠ [] && now = []) then s
    else
      let rec' := (if ps = [] then [0] else ps).map fun n => (⟨cls, loc, if cls = 9 then 16 else n, s.cycle⟩ : FaultRec)
      let kept := s.flt.recent.filter fun r => decide (s.cycle ≤ r.at_ + secondLen s)
      let events := ((kept ++ rec').map fun r => (r.cls, r.loc, r.at_)).eraseDups.length
      let s := { s with flt := { s.flt with
        flt := true, cnt := bump s.flt.cnt 1, last := ⟨cls, loc, pt, s.cycle⟩, lastCode := code, lastTime := huskTime s
        recent := kept ++ rec' } }
      let s := errorRecord s 2 (faultKind cls) (faultIndex cls loc) (fltLast s.flt) code
      let fences := now.any fun n => inWindow s n && !(partSt s n).fenced
      let s := forAll now (hitPart cls code) s
      let whole := decide (events ≥ 3) && !s.flt.mfenced
      let s := if whole then fenceModule s else s
      addLog s ⟨huskTime s, cls, code, pt, loc, if whole then .moduleFenced else if fences then .fenced else .counted⟩

/-- Every valid partition. -/
def allParts (s : State) : List Nat := (List.range 16).filter fun n => (partSt s n).valid

/-! ### Pending repairs (R131) -/

/-- Byte of a map after a failure of physical column `col` of its row (R63, R24). -/
def failedByte (b col : Nat) : Nat := if b % 32 = 31 then col else b % 32

/-- The map after a failure: the row's spare is used, or the field goes out of service. A field that is out of service stays so (R24). -/
def addFailure (m : List Byte) (f row col : Nat) : List Byte :=
  let c := failCol m f row
  let out := mapByte m f row / 128 * 128
  if c = col then m
  else if c = 31 then setAt m (8 * f + row) (BitVec.ofNat 8 (failedByte (mapByte m f row) col + out))
  else (List.range 8).foldl (fun m r => setAt m (8 * f + r) (BitVec.ofNat 8 (mapByte m f r % 128 + 128))) m

/-- Every row of the field reads out of service. -/
def addOos (m : List Byte) (f : Nat) : List Byte :=
  (List.range 8).foldl (fun m r => setAt m (8 * f + r) (BitVec.ofNat 8 (mapByte m f r % 128 + 128))) m

/-- The map that the next failure is added to. -/
def pendingBase (s : State) : List Byte := if s.mod.pending then s.mod.pendMap else s.mod.map

/-- A pending repair is recorded with its new pending map. -/
def pendWith (s : State) (m : List Byte) (f row col : Nat) : State :=
  { s with mod := { s.mod with
      pendMap := m, pending := true, pField := f, pRow := row, pCol := col, pOos := oos m f
      nPend := min 255 ((if s.mod.pending then s.mod.nPend else 0) + 1)
      heldOut := if s.mod.heldOut.contains f then s.mod.heldOut else f :: s.mod.heldOut } }

/-- The acorn records a failed site (R131). -/
def recordRepair (s : State) (f row col : Nat) : State := pendWith s (addFailure (pendingBase s) f row col) f row col
/-- The acorn records a field to take out of service (R417). -/
def recordOos (s : State) (f : Nat) : State := pendWith s (addOos (pendingBase s) f) f 0 0

/-- A double-bit error at a second address of one site gives a pending repair (R435); at a further address it is the same failure. -/
def noteSite (s : State) (p addr : Nat) : State :=
  let site := 168 * pipY p + siteX s.mod.map p
  let old := s.mod.ueSites.filter (·.1 = site)
  if old.any fun e => e.2 = addr then s
  else
    let s := { s with mod := { s.mod with ueSites := s.mod.ueSites ++ [(site, addr)] } }
    if old.length = 1 then recordRepair s (fieldOfPip p) (pipY p % 8) (siteX s.mod.map p % 21) else s

/-! ### Quiesce and departure (R361, R362) -/

/-- A region entry of the context is revoked and its granules retired (R138, R139). -/
def retirePip (c : Nat) (q : PipSt) : PipSt :=
  { q with
    stale := q.stale || (q.st.context = c && q ≠ {})
    sp := { q.sp with
      regions := (q.sp.regions.map fun e => (e.1, if e.2.ctx = c then { e.2 with valid := false, scrub := false } else e.2)).filter
        fun e => e.2 ≠ {}
      owners := q.sp.owners.map fun e => (e.1, if e.2 = .ctx c then .retired else e.2) } }

/-- Granule entries that satisfy a test lose PROT and their owner is retired. [DEDUCED, log 27] -/
def retireGrans (t : Tab Granule) (test : Granule → Bool) : Tab Granule :=
  t.map fun e => (e.1, if test e.2 then { e.2 with prot := 0, owner := .retired } else e.2)

/-- A pod forgets the context: descriptors and parameter entries (R361, step 5). [DEDUCED, log 27] -/
def retirePod (c : Nat) (v : PodSt) : PodSt :=
  { v with
    descs := (v.descs.map fun e => (e.1, if cOwner e.2 = c then cSetValid e.2 false else e.2)).filter fun e => e.2 ≠ 0
    psets := v.psets.filter fun e => !(e.2.used && e.2.owner = c) }

/-- Steps 1 to 6 of R361, except the records. [DEDUCED, log 27] -/
def quiesce (s : State) (c : Nat) : State :=
  let x := ctxSt s c
  let s := modCtx s c fun v => { v with ahead := [], readyAt := 0 }
  let s := endJobs s eAborted (·.ctx = c)
  let s := forAll (chansOf s c) (fun ch s => chanForce s ch) s
  let s := { s with
    pips := (s.pips.map fun e => (e.1, retirePip c e.2)).filter fun e => e.2 ≠ {}
    granules := retireGrans s.granules fun g => !g.share && g.ctx = c
    sgranules := retireGrans s.sgranules fun g => !g.share && g.ctx = c
    pods := (s.pods.map fun e => (e.1, retirePod c e.2)).filter fun e => e.2 ≠ {} }
  let s := forAll ((List.range x.scount).map (x.sbase + ·)) (fun i s => syncSet s i 0) s
  { s with ctxs := (s.ctxs.map fun e => (e.1, { e.2 with
      sbase := if e.1 = c then 0 else e.2.sbase, scount := if e.1 = c then 0 else e.2.scount
      grants := if e.1 = c then [] else e.2.grants.filter fun g => g.2.grantee ≠ c })).filter fun e => e.2 ≠ {} }

/-- The context exists no longer. [DEDUCED, log 27] -/
def dropCtx (s : State) (c : Nat) : State := { setCtx s c {} with cmds := s.cmds.filter (·.ctx ≠ c) }

/-- A hull channel whose owner departs (R380). -/
def hullDepart (h ch : Nat) (s : State) : State :=
  let v := hchan s ch
  if v.ownerValid && v.owner = h then
    let s := modHchan s ch fun v => { v with curve := none }
    match v.state with
    | .load | .wait =>
      modHchan s ch fun v => { v with state := .wipe, dropped := true, verdict := eAborted, execAt := s.cycle, waits := false }
    | .exec => modHchan s ch fun v => { v with dropped := true }
    | .store => modHchan s ch fun v => { v with dropped := true, waits := false }
    | _ => s
  else s

/-- Vector 0 of a host (R362). -/
def hostEvent (s : State) (h : Nat) : State := msix s h 0

/-- Accesses of a host that wait at a pip are discarded. -/
def dropWindow (h : Nat) (q : PipSt) : PipSt :=
  { q with net := { q.net with window := q.net.window.filter (·.host ≠ h) } }

/-- A host departs (R362). -/
def departHost (s : State) (h : Nat) : State :=
  if (hostSt s h).state ≠ 1 then s
  else
    let cs := (s.ctxs.filter fun e => e.2.created && e.2.host = h).map (·.1)
    let s := forAll cs (fun c s => dropCtx (quiesce s c) c) s
    let s := { s with
      granules := retireGrans s.granules fun g => g.host = h
      sgranules := retireGrans s.sgranules fun g => g.host = h
      hostq := s.hostq.filter fun a => a.host ≠ h || (a.hull ≠ 0 && (hchan s (a.hull - 1)).state = .exec)
      pips := (s.pips.map fun e => (e.1, dropWindow h e.2)).filter fun e => e.2 ≠ {}
      cxl := { s.cxl with depart := bump s.cxl.depart 1,
                          mgmtValid := s.cxl.mgmtValid && decide (s.cxl.mgmtHost ≠ h) } }
    let s := forAll (List.range 16) (hullDepart h) s
    modHost s h fun v => { v with state := 0, spdm := {} }

/-- Every host departs. -/
def departAll (s : State) : State := forAll (List.range 16) (fun h s => departHost s h) s

end Sys2Proof.Machine
end

