-- ==== Sys2Proof/Machine/Lift.lean ====
section
/-!
DEFINITION. What an operation of a pip does to the module: its effects outside the pip, the end of its job, the fault of a
double-bit error (R136, R429), and the issue of the instructions of its two streams (R44, R67 to R69).
-/
namespace Sys2Proof.Machine

/-- LOC of a fault at a pip (Table 17.12). -/
def locOf (p : Nat) : Nat := pipX p + 256 * pipY p

/-- Mark partial `i` of phase `k` of a checker table. -/
def putPartial (t : Tab Nat) (k i v : Nat) : Tab Nat := Tab.set 0 t (16 * k + i) (v + 1)

/-- The comparison of a phase completes 4 cycles after the push that brings a term, if no later one brings another (R219). -/
def compareAt (now k : Nat) (t : Tab Nat) : Tab Nat := Tab.set 0 t k (now + 5)

/-- An effect of pip `p` outside it. -/
def applyFx (p : Nat) (fx : Fx) (s : State) : State :=
  let d := podOfPip p
  match fx with
  | .credit src cr sto hop => { s with flight := s.flight ++ [.credit src cr (8 * p + sto) (s.cycle + hop + 1)] }
  | .rcForward v prime => modPod s d fun q => { q with fwd := q.fwd ++ [(v, prime)] }
  | .rcNttx k v prime =>
    modPod s d fun q => { q with pNttx := putPartial q.pNttx k (pipInPod p) v, primes := Tab.set 0 q.primes (2 * k) (prime + 1),
                                 dueAt := compareAt s.cycle (2 * k) q.dueAt }
  | .rcIntx k v prime =>
    modPod s d fun q => { q with pIntx := putPartial q.pIntx k (pipInPod p) v, primes := Tab.set 0 q.primes (2 * k + 1) (prime + 1) }
  | .rcIntl k v _ =>
    modPod s d fun q => { q with pIntl := Tab.set 0 q.pIntl k (v + 1), dueAt := compareAt s.cycle (2 * k + 1) q.dueAt }
  | .rcOdd k inverse => modPod s d fun q => { q with odd := Tab.set false q.odd (2 * k + b2n inverse) true }
  | .spUe addr => noteSite s p addr
  | .stallEnd exe h =>
    if decide (h.n ≥ s.trc.stallMin) then
      pipRecord s p { type := 1, arg0 := h.w.cause % 16 + 16 * (h.w.index % 4) + 64 * b2n exe, arg1 := h.n }
    else s

def isUe : Fx → Bool
  | .spUe _ => true
  | _ => false

/-- The effect can lengthen a queue of the residue checker. -/
def isQueued : Fx → Bool
  | .rcForward _ _ | .rcIntx _ _ _ => true
  | _ => false

/-- The job of pip `p` ends with a code; a double-bit error is also a fault of its partition (R136, class 1). -/
def failPip (s : State) (p : Nat) (code : Byte) (ue : Bool) : State :=
  match jobOfPip s p with
  | none => s
  | some j =>
    let s := endJob s j code (siteOf p)
    if ue then raiseFault s 1 [j.part] (locOf p) eEccDet else s

/-- The sum of all 16 pips of the next inverse phase is enqueued, if it is complete (R219). -/
def enqueueOne (q : PodSt) : PodSt :=
  let parts := (List.range 16).map fun i => Tab.get 0 q.pIntx (16 * q.nIntx + i)
  if parts.any (· = 0) then q
  else
    let prime := Tab.get 0 q.primes (2 * q.nIntx + 1) - 1
    { q with inv := q.inv ++ [(parts.foldl (fun a v => a + (v - 1)) 0, prime)], nIntx := q.nIntx + 1 }

/-- Every complete sum of an inverse phase is enqueued. -/
def enqueueInv (q : PodSt) : PodSt := (List.range (q.pIntx.length / 16)).foldl (fun q _ => enqueueOne q) q

/-- A checker queue that would hold more than 64 values ends the job with E_DESC (R219). -/
def checkQueues (p : Nat) (s : State) : State :=
  let q := podSt s (podOfPip p)
  if q.fwd.length > 64 ∨ q.inv.length > 64 then failPip s p eDesc false else s

/-- Take over the result of an operation of pip `p`. -/
def settle (s : State) (p : Nat) (r : PRes) : State :=
  let s := forAll r.fx (applyFx p) (setPip s p r.p)
  match r.fail with
  | some c => failPip s p c (r.fx.any isUe)
  | none => if r.fx.any isQueued then checkQueues p (modPod s (podOfPip p) enqueueInv) else s

/-- Run an operation of pip `p`. -/
def onPip (s : State) (p : Nat) (f : PipSt → PRes) : State := settle s p (f (pipOf s p))

/-! ### Fetch (R67, R102) -/

def streamOf (q : PipSt) (exe : Bool) : StreamSt := if exe then q.exe else q.acc
def setStream (q : PipSt) (exe : Bool) (t : StreamSt) : PipSt := if exe then { q with exe := t } else { q with acc := t }
def modStream (q : PipSt) (exe : Bool) (f : StreamSt → StreamSt) : PipSt := setStream q exe (f (streamOf q exe))

/-- Entry i of a program block (Table 3.10). -/
def blockEntry (s : State) (a i : Nat) : List Byte := memRead s (a + 0x40 + 32 * i) 32

/-- Index of a pip in the rectangle of a job. -/
def pipIndex (j : Job) (p : Nat) : Nat := (pipY p - 4 * j.pcy0) * (4 * (j.pcx1 + 1 - j.pcx0)) + (pipX p - 4 * j.pcx0)

/-- Every pip of the job has loaded and checked its programs (R468). -/
def jobLoaded (s : State) (j : Job) : Bool := (jobPips j).all fun p => (pipOf s p).loadOk

/-- The next word of a stream: of its instruction memory, or while the pip still loads, of the program block (R40, R102). -/
def nextWord (s : State) (p : Nat) (exe : Bool) (j : Job) : Nat :=
  let q := pipOf s p
  let t := streamOf q exe
  if q.loadOk then (nth t.prog t.pc 0).toNat
  else
    let e := blockEntry s j.prog (pipIndex j p)
    ofBytes (memRead s (j.prog + field e (if exe then 8 else 0) 4 + 8 * t.pc) 8)

/-- The instruction that a stream of pip `p` issues next (R67). -/
def readInstr (s : State) (p : Nat) (exe : Bool) : Option Instr :=
  match jobOfPip s p with
  | none => none
  | some j => decodeWord p exe (nextWord s p exe j)

/-! ### Issue (R44, R68, R69) -/

/-- A stream of pip `p` has an instruction that is due and has not tried to issue in this cycle (R38, R68): DELTA cycles have passed since
the issue of the one before it. -/
def streamDue (s : State) (p : Nat) (exe : Bool) : Bool :=
  match jobOfPip s p with
  | none => false
  | some j =>
    let q := pipOf s p
    let t := streamOf q exe
    j.phase = .running && !t.ended && !(if exe then q.cyc.triedX else q.cyc.triedA)
    && decide (t.base + wDelta (nextWord s p exe j) ≤ s.cycle)

/-- Instruction `i` is the one that the stream tries to issue now. In a cycle the access stream goes first (R49). -/
def isNext (s : State) (p : Nat) (exe : Bool) (i : Instr) : Bool :=
  streamDue s p exe && (!exe || !streamDue s p false) && readInstr s p exe = some i

/-- The programs are loaded, so that an instruction can issue (R468). -/
def canIssue (s : State) (p : Nat) : Bool :=
  match jobOfPip s p with
  | none => false
  | some j => jobLoaded s j

/-- The stream has tried to issue in this cycle. -/
def tried (q : PipSt) (exe : Bool) : PipSt :=
  { q with cyc := if exe then { q.cyc with triedX := true } else { q.cyc with triedA := true } }

/-- An instruction passes issue in cycle `c`: control goes to the next instruction. -/
def issued (q : PipSt) (exe : Bool) (c : Nat) : PipSt := tried (modStream q exe fun t => nextInstr (issueAt t c)) exe

/-- The instruction is held this cycle by the causes `ws` (R45). -/
def heldPip (q : PipSt) (exe : Bool) (ws : List Stall) : PipSt :=
  let w := (lowest ws).getD {}
  tried (addHold (modStream q exe fun t => { t with hold := t.hold.more w }) exe w) exe

/-- The record of the stall that the issue of an instruction ends (R444). -/
def stallFx (q : PipSt) (exe : Bool) : List Fx :=
  if (streamOf q exe).hold.n = 0 then [] else [.stallEnd exe (streamOf q exe).hold]

/-- An instruction's attempt: held, or it acts. -/
inductive Attempt where
  | held (ws : List Stall)
  | acts (r : PRes)
  deriving DecidableEq, Repr

/-- Held while anything stalls it, else it acts. -/
def attempt (ws : List Stall) (r : PRes) : Attempt := if ws = [] then .acts r else .held ws

/-- A unit that is still busy stalls an instruction (R39). -/
def busyIf (b : Bool) : List Stall := if b then [⟨causeBusy, 0⟩] else []

/-- The stream of pip `p` tries to issue instruction `i`: nothing unless it is the stream's next instruction and due; a stall while the
programs load (R102); else a stall of its own, or `act` on the pip, which also moves control on. -/
def issueBy (s : State) (p : Nat) (exe : Bool) (i : Instr) (act : PipSt → Attempt) : State :=
  if !isNext s p exe i then s
  else if !canIssue s p then modPip s p fun q => heldPip q exe (busyIf true)
  else
    match act (pipOf s p) with
    | .held ws => modPip s p fun q => heldPip q exe ws
    | .acts r => settle s p { r with fx := stallFx (pipOf s p) exe ++ r.fx }

/-- Issue of an instruction whose operands are in range, and which acts as `f` says; others are refused (R70, R86). -/
def issue (s : State) (p : Nat) (exe : Bool) (i : Instr) (ok : Bool) (f : PipSt → Attempt) : State :=
  issueBy s p exe i fun q =>
    if !ok then .acts (failWith q eDesc)
    else match f q with
      | .held ws => .held ws
      | .acts r => .acts (r.andThen fun q => done (issued q exe s.cycle))

/-- Issue of a control instruction: held by `ws`, else `pre` acts on the pip and control goes where `f` says. -/
def issueJump (s : State) (p : Nat) (exe : Bool) (i : Instr) (ok : Bool) (ws : PipSt → List Stall) (pre : PipSt → PipSt)
    (f : PipSt → StreamSt → StreamSt) : State :=
  issueBy s p exe i fun q =>
    if !ok then .acts (failWith q eDesc)
    else attempt (ws q) (done (tried (modStream (pre q) exe fun t => f q (issueAt t s.cycle)) exe))

end Sys2Proof.Machine
end

