-- ==== Sys2Proof/Machine/Access.lean ====
section
/-!
DEFINITION. The access stream (Table 3.2): loads, stores, mesh transfers, DMA, descriptors, address registers, starts of
stream engines and SIGL.
-/
namespace Sys2Proof.Machine

/-! ### Registers -/

def aReg (q : PipSt) (i : Nat) : Word64 := Tab.get 0 q.regs.a i
def setA (q : PipSt) (i : Nat) (v : Word64) : PipSt := { q with regs := { q.regs with a := Tab.set 0 q.regs.a i v } }
def setDesc (q : PipSt) (h : Nat) (d : BitVec 512) : PipSt :=
  { q with regs := { q.regs with desc := Tab.set 0 q.regs.desc h d } }

/-- What uses a tensor descriptor waits for the descriptor-table image (R468). -/
def descWait (q : PipSt) (raw : Bool) : List Stall := busyIf (!raw && !q.descIn)

/-! ### Transfers -/

/-- The transfer that an instruction of format Q starts in cycle `c`, with what it latches (R74). -/
def xferOf (q : PipSt) (c : Nat) (kind : XKind) (o : QOp) : Xfer :=
  { id := q.ops.seq, kind := kind, qsel := o.qsel, port := o.port, handle := o.handle, raw := o.raw, idx := o.idx,
    base := (aReg q o.areg).toNat, desc := descOf q o.handle, count := o.count, due := c }

/-- Positions by which POST advances AREG (R78). -/
def postBy (kind : XKind) (o : QOp) : Nat :=
  let n := match kind with | .ldq | .stq => o.count | .msnd | .mrcv => (o.count + 1) / 2
  if o.raw then 128 * n else n

/-- What a transfer waits for at issue, besides what its first access waits for: the descriptors, an earlier transfer of one of its
queues or ports, and the exchange network (R158, R468). R39 and Table 2.8 name no unit for the second; it is recorded as a busy unit,
cause 0x8. [DESIGN CHOICE, log 12] -/
def xferBusy (q : PipSt) (x : Xfer) : List Stall :=
  descWait q (x.raw || !usesPad x)
  ++ busyIf (q.ops.xfers.any (shares x) || (transposes x && (q.ops.xfers.any transposes || copyRuns q)))

/-- The transfer of an instruction is under way, after its first access. -/
def listXfer (kind : XKind) (o : QOp) (r : XRes) : PRes :=
  let q := { r.p with ops := { r.p.ops with xfers := r.p.ops.xfers ++ [r.x], seq := r.p.ops.seq + 1 } }
  ⟨if o.post then setA q o.areg (aReg q o.areg + BitVec.ofNat 64 (postBy kind o)) else q, r.fail, r.fx⟩

/-- A transfer's instruction in cycle `c` makes the first access, or is held while it cannot be made (R38, R76). -/
def startXfer (kind : XKind) (o : QOp) (c : Nat) (q : PipSt) : Attempt :=
  let x := xferOf q c kind o
  let ws := xferBusy q x
  if !issueRules x then attempt ws (failWith q eDesc)
  else
    match xferStep q c x with
    | .held ws' => .held (ws ++ ws')
    | .idle => attempt ws (listXfer kind o ⟨q, x, none, []⟩)
    | .moved r => attempt ws (listXfer kind o r)

/-- NOP (R68). -/
def execNop (p : Nat) (exe : Bool) (d : Nat) (s : State) : Host.Outcome State Fault Refusal :=
  within 10240 p (issue s p exe (.nop p exe d) true fun q => .acts (done q))

/-- LDQ (R76). -/
def execLdq (p d : Nat) (o : QOp) (s : State) : Host.Outcome State Fault Refusal :=
  within 10240 p (issue s p false (.ldq p d o) (ldqOk o) (startXfer .ldq o s.cycle))

/-- STQ (R147). -/
def execStq (p d : Nat) (o : QOp) (s : State) : Host.Outcome State Fault Refusal :=
  within 10240 p (issue s p false (.stq p d o) (stqOk o) (startXfer .stq o s.cycle))

/-- MSND (R77). -/
def execMsnd (p d : Nat) (o : QOp) (s : State) : Host.Outcome State Fault Refusal :=
  within 10240 p (issue s p false (.msnd p d o) (msndOk o) (startXfer .msnd o s.cycle))

/-- MRCV (R77). -/
def execMrcv (p d : Nat) (o : QOp) (s : State) : Host.Outcome State Fault Refusal :=
  within 10240 p (issue s p false (.mrcv p d o) (mrcvOk o) (startXfer .mrcv o s.cycle))

/-! ### DMA -/

def dmaOf (q : PipSt) (ch : Bool) : Option DmaOp := if ch then q.ops.dma1 else q.ops.dma0
def setDma (q : PipSt) (ch : Bool) (v : Option DmaOp) : PipSt :=
  if ch then { q with ops := { q.ops with dma1 := v } } else { q with ops := { q.ops with dma0 := v } }

/-- A DMA channel is busy: with a transfer, or DC0 with the job-start load (R39, R468). -/
def dmaBusy (q : PipSt) (ch : Bool) : Bool := (dmaOf q ch).isSome || (!ch && !q.loaded)

/-- DMA starts a transfer on an idle channel. Its HBM address must be a multiple of 128 (Table 3.1) and a descriptor it uses must have
lines and no broadcast (R148, R154). VALID is judged at the access of a line (R75). -/
def startDma (o : DOp) (q : PipSt) : Attempt :=
  let hbm := (aReg q o.ahbm).toNat
  let sp := (aReg q o.asp).toNat
  let d := descOf q o.handle
  attempt (busyIf (dmaBusy q o.ch) ++ descWait q o.raw)
    (if hbm % 128 ≠ 0 || (if o.raw then sp % 128 ≠ 0 else dValid d && (dWord d || dEbc d)) then failWith q eDesc
     else
      let q := setDma q o.ch (some ⟨q.ops.seq, o.dir, hbm, sp, o.raw, d, o.len, 0, 0⟩)
      done { q with ops := { q.ops with seq := q.ops.seq + 1 } })

/-- DMA (R76). -/
def execDma (p d : Nat) (o : DOp) (s : State) : Host.Outcome State Fault Refusal :=
  within 10240 p (issue s p false (.dma p d o) (dOk o) (startDma o))

/-- DMAW (R76). -/
def execDmaw (p d : Nat) (ch : Bool) (s : State) : Host.Outcome State Fault Refusal :=
  within 10240 p (issue s p false (.dmaw p d ch) true fun q => attempt (busyIf (dmaBusy q ch)) (done q))

/-! ### Descriptors and address registers -/

/-- SWAP (R257). -/
def execSwap (p d handle : Nat) (s : State) : Host.Outcome State Fault Refusal :=
  within 10240 p (issue s p false (.swap p d handle) (decide (handle < 256)) fun q =>
    attempt (descWait q false) (done (setDesc q handle (swapSel (descOf q handle)))))

/-- What a read of the line at an address waits for: a fence, its bank. -/
def lineWait (q : PipSt) (a : Nat) : List Stall := fenceStall q a 128 false ++ bankStall q a

/-- A read of the line at an address: misaligned E_DESC, outside the regions E_BOUNDS (R73, R75). -/
def readLine (q : PipSt) (a : Nat) (f : PipSt → List Byte → PRes) : PRes :=
  if a % 128 ≠ 0 then failWith q eDesc
  else if !inRegion q.sp q.st.context a 128 then failWith q eBounds
  else
    let (b, r) := spRead (takeBank q a) a 128
    r.andThen fun q => f q b

/-- DLD (R145): the descriptor is in force from three cycles later (R76). -/
def execDld (p d handle areg : Nat) (s : State) : Host.Outcome State Fault Refusal :=
  within 10240 p (issue s p false (.dld p d handle areg) (decide (handle < 256) && decide (areg < 16)) fun q =>
    let a := (aReg q areg).toNat
    attempt (descWait q false ++ lineWait q a) (readLine q a fun q b =>
      done { q with ops := { q.ops with
        dlds := q.ops.dlds ++ [⟨s.cycle + 3, handle, keepDesc (BitVec.ofNat 512 (ofBytes (b.take 64)))⟩] } }))

/-- Descriptors whose loads come into force; the watch counters of their handles start at zero (R145, R183). -/
def applyDlds (c : Nat) (q : PipSt) : PipSt :=
  let r := (q.ops.dlds.filter fun x => decide (x.due ≤ c)).foldl
    (fun r x => { setDesc r x.handle x.desc with watch := Tab.set {} r.watch x.handle {} }) q
  { r with ops := { r.ops with dlds := q.ops.dlds.filter fun x => !decide (x.due ≤ c) } }

/-- The result of AOP. -/
def aopValue (q : PipSt) (o : AOp) : Word64 :=
  let i := sgn 32 o.imm
  match o.fn with
  | 0 => BitVec.ofInt 64 i
  | 1 => aReg q o.as_ + BitVec.ofInt 64 i
  | 2 => BitVec.ofNat 64 (o.imm % 2 ^ 32 * 2 ^ 32 + (aReg q o.ad).toNat % 2 ^ 32)
  | 3 => frontScq q
  | 4 => aReg q o.as_ + aReg q (o.imm % 16)
  | _ => aReg q o.as_ <<< (o.imm % 64)

/-- AOP (R76). -/
def execAop (p d : Nat) (o : AOp) (s : State) : Host.Outcome State Fault Refusal :=
  within 10240 p (issue s p false (.aop p d o) (aOk o) fun q =>
    attempt (if o.fn = 3 then scqStall q else []) (done (setA (if o.fn = 3 then popScq q else q) o.ad (aopValue q o))))

/-! ### Stream engines -/

def engOf (q : PipSt) (e : Nat) : Engine := Tab.get {} q.eng e
def setEng (q : PipSt) (e : Nat) (v : Engine) : PipSt := { q with eng := Tab.set {} q.eng e v }

/-- Key kind that a command takes (Table 9.6), if any. -/
def keyKind (opc arg : Nat) : Option Nat :=
  match opc with
  | 0x17 => some 0
  | 0x18 => some 1
  | 0x1A => some 3
  | 0x1B => if bit arg 24 then some 3 else none
  | 0x1C => some 2
  | 0x1D => if arg % 16 = 6 then none else some 2
  | 0x1E => some 1
  | _ => none

/-- ARG, KADDR and other fields of an encrypted command (Table 9.5). -/
def ctArg (b : List Byte) : Nat := field b 44 4
def ctKaddr (b : List Byte) : Nat := field b 48 8
def ctPaddr (b : List Byte) : Nat := field b 56 8
def jobKind (j : Job) : Option Nat := keyKind j.opc (ctArg j.payload)

/-- The lead pod: the lowest-numbered pod of the rectangle (R261). -/
def leadPod (j : Job) : Nat := (jobPods j).foldl min 640
/-- The pip that runs the key reader. -/
def readerPip (j : Job) : Nat := (pipsOfPod (leadPod j)).headD 0

/-- The engine that a start with the record at `a` gives in cycle `c`, once its first line has been read: the record's other lines follow,
one a cycle (R250, R257). -/
def startedEngine (q : PipSt) (a c : Nat) (g : Tab Word64) (b : List Byte) : Engine :=
  { running := true, record := b, recLeft := recLines b - 1, recNext := a + 128, firstAt := c + recLines b + 2, g := g,
    descs := q.regs.desc }

/-- The fence of R256 on a start with the record at `a`. -/
def startFence (q : PipSt) (a : Nat) : List Stall :=
  let b := (readAt q 0 a 128).1
  let b := (readAt q 0 a (128 * recLines b)).1
  match startBlocked q { record := b, descs := q.regs.desc } with
  | some g => [⟨causeFence, g % 4⟩]
  | none => []

/-- What a start of engine `e` waits for (R39, R250, R256). -/
def startWait (q : PipSt) (a e : Nat) : List Stall :=
  descWait q false ++ busyIf (engOf q e).running ++ startFence q a ++ lineWait q a

/-- A start of engine `e` in cycle `c` with the address registers `g` (R250). -/
def startEngine (q : PipSt) (a e c : Nat) (g : Tab Word64) : Attempt :=
  attempt (startWait q a e) (readLine q a fun q b => done (setEng q e (startedEngine q a c g b)))

/-- Engine 4 outside a command that takes a key: check 2 of R252 (R261). -/
def refuseKeys (q : PipSt) : Attempt :=
  .acts (failWith { q with st := { q.st with errEng := 4, errCheck := 2, err := true, errCode := eDesc } } eDesc)

/-- The pip's key queue is open (R261). -/
def openKeys (q : PipSt) : PipSt := { q with st := { q.st with kopen := true } }

/-- STRM 4 on a pip (R261): it opens the key queue, and on the reader's pip it starts the key reader with G0 = KADDR. -/
def startKeys (j : Job) (p a c : Nat) (q : PipSt) : Attempt :=
  if p ≠ readerPip j then .acts (done (openKeys q))
  else
    attempt (startWait q a 4) (readLine q a fun q b =>
      done (openKeys (setEng q 4 (startedEngine q a c (Tab.set 0 [] 0 (BitVec.ofNat 64 (ctKaddr j.payload))) b))))

/-- The start of the key reader discards the entries left in the key queues of the command's pods and opens their gates (R47, R261). -/
def clearKeys (j : Job) (s : State) : State :=
  let s := forAll (jobPips j) (fun k s => modPip s k fun q => { q with q := { q.q with kq := [] } }) s
  forAll (jobPods j) (fun k s => modPod s k fun v =>
    { v with kstate := 1, klead := decide (k = leadPod j), knext := 0, knblk := 0, kcount := 0, khdr := [], kallow := [] }) s

/-- What STRM_START does in a pip of job `j`. -/
def strmAct (j : Job) (p areg e c : Nat) (q : PipSt) : Attempt :=
  let a := (aReg q areg).toNat
  if e < 4 then startEngine q a e c (engOf q e).g
  else if (jobKind j).isNone then refuseKeys q
  else startKeys j p a c q

/-- STRM_START (R250, R261). -/
def execStrmStart (p d areg e : Nat) (s : State) : Host.Outcome State Fault Refusal :=
  within 10240 p (
    match jobOfPip s p with
    | none => s
    | some j =>
      let t := issue s p false (.strmStart p d areg e) (decide (e ≤ 4) && decide (areg < 16)) (strmAct j p areg e s.cycle)
      if e = 4 && !(engOf (pipOf s p) 4).running && (engOf (pipOf t p) 4).running then clearKeys j t else t)

/-- The key reader has not delivered its last block: it has not started or still runs, or key lines are on their way (R261). -/
def keysComing (s : State) (j : Job) : Bool :=
  let k := engOf (pipOf s (readerPip j)) 4
  k.running || !k.started || s.flight.any fun f => match f with | .key d _ _ _ _ => (jobPips j).contains d | _ => false

/-- STRM_WAIT (R250, R261). -/
def execStrmWait (p d e : Nat) (s : State) : Host.Outcome State Fault Refusal :=
  within 10240 p (
    match jobOfPip s p with
    | none => s
    | some j =>
      issue s p false (.strmWait p d e) (decide (e ≤ 4)) fun q =>
        if e < 4 then attempt (busyIf (engOf q e).running) (done q)
        else if (jobKind j).isNone then refuseKeys q
        else attempt (busyIf (keysComing s j)) (done q))

/-! ### SIGL (R94) -/

/-- The job's context may name the object in a stream (R91). -/
def jobOwnsSync (s : State) (p obj : Nat) : Bool :=
  match jobOfPip s p with
  | none => false
  | some j => ownsSync s j.ctx obj

/-- SIGL (R94): the increment is held until its stream's earlier work is complete. -/
def execSigl (p d obj add : Nat) (s : State) : Host.Outcome State Fault Refusal :=
  within 10240 p (
    let own := jobOwnsSync s p obj
    issue s p false (.sigl p d obj add) (siglOk obj add) fun q =>
      if !own then .acts (failWith q eBounds)
      else .acts (done { q with ops := { q.ops with sigls := q.ops.sigls ++ [⟨q.ops.seq, obj, add⟩] } }))

/-- Every scratchpad write, DMA and send numbered below `n` of the pip is complete; loads into queues are none of these. -/
def workDone (s : State) (p n : Nat) : Bool :=
  let q := pipOf s p
  q.ops.xfers.all (fun x => decide (n ≤ x.id) || !(xferWrites x || x.kind = .msnd) || xferOver x)
  && q.ops.writes.all (fun w => w.own = 0 || decide (n < w.own))
  && q.ops.fills.all (fun f => f.flits.all fun g => decide (n ≤ g.1))
  && (q.ops.dma0.toList ++ q.ops.dma1.toList).all (fun x => decide (n ≤ x.id))
  && q.q.egr.all (fun e => e.2.all fun f => decide (n ≤ f.1))
  && s.flight.all fun f => match f with
    | .flit _ _ _ m | .edge _ _ _ m => m.from_ ≠ p || decide (n ≤ m.ser)
    | _ => true

/-- The pip to whose router the sync store of an object's field is attached (R117). -/
def syncPip (obj : Nat) : Nat := pipAt (20 * (syncField obj % 8)) (8 * (syncField obj / 8))

/-- The pip's short egress has room (R116). -/
def shortRoom (q : PipSt) (n : Nat) : Bool := decide (q.net.shortOut.length + n ≤ 8)

/-- SIGL_APPLY (R94): the oldest held increment enters the short path to the sync store of its field. -/
def execSiglApply (p : Nat) (s : State) : Host.Outcome State Fault Refusal :=
  within 10240 p (
    let q := pipOf s p
    match q.ops.sigls with
    | [] => s
    | g :: rest =>
      if !(workDone s p g.upto && shortRoom q 1) then s
      else
        let t := syncPip g.obj
        let f : ShortFlit := { sx := pipX p, sy := pipY p, dx := pipX t, dy := pipY t, sync := true, addr := g.obj, add := g.add,
                               ctx := q.st.context, ready := s.cycle }
        setPip s p { q with ops := { q.ops with sigls := rest }, net := { q.net with shortOut := q.net.shortOut ++ [f] } })

end Sys2Proof.Machine
end

