-- ==== Sys2Proof/Machine/HbmOps.lean ====
section
/-!
DEFINITION. Reads of HBM lines with their device errors (R276 to R278).
-/
namespace Sys2Proof.Machine

/-- Stack `k` counts a read error of the line at `a` (R278). -/
def noteError (s : State) (k a : Nat) (ce ue : Bool) : State :=
  if ue then modStack s k fun v => { v with uec := bump v.uec 1, ue := true, errAddr := a }
  else if ce then modStack s k fun v => { v with ce := bump v.ce 1 }
  else s

/-- Account for the read of one line of HBM (R278). -/
def noteLine (line : Nat) (s : State) : State :=
  noteError s (stackOf (128 * line)) (128 * line) (hbmLine s line).ce (hbmLine s line).ue

/-- Account for the read of one word of a staging buffer (R288). -/
def noteStg (w : Nat) (s : State) : State :=
  let a := stgBase + 8 * w
  noteError s (stackOf a) (a / 128 * 128) (stgWord s w).ce (stgWord s w).ue

/-- Account for the read of [a, a + n) of HBM or staging (R278, R288). -/
def noteMem (s : State) (a n : Nat) : State :=
  if isHbm a then forAll (linesOf a n) noteLine s
  else if isStg a then forAll (wordsIn (a - stgBase) n) noteStg s
  else s

/-- A line or word of [a, a + n) is delivered with an uncorrected error (R278). -/
def memUe (s : State) (a n : Nat) : Bool :=
  if isHbm a then (linesOf a n).any fun l => (hbmLine s l).ue
  else isStg a && (wordsIn (a - stgBase) n).any fun w => (stgWord s w).ue

/-- Double-bit errors that reads outside a job have met at pip `p` (R435). -/
def noteSites (p : Nat) (fx : List Fx) (s : State) : State :=
  forAll fx (fun f s => match f with | .spUe a => noteSite s p a | _ => s) s

/-! ### Whose access it is -/

/-- The running job of the unit that asked. -/
def reqJob (s : State) (r : Req) : Option Job :=
  match r.src with | .unit p _ => jobOfPip s p | _ => none

/-- The job of a request ends with a code at its pip. -/
def failReq (s : State) (r : Req) (code : Byte) : State :=
  match r.src, reqJob s r with
  | .unit p _, some j => endJob s j code (siteOf p)
  | _, _ => s

/-- An uncorrected line ends the job that requested it and is a fault of its partition (R278, class 2). -/
def ueReq (s : State) (r : Req) : State :=
  match reqJob s r with
  | some j => raiseFault (failReq s r eEccDet) 2 [j.part] (stackOf r.addr) eEccDet
  | none => s

/-- An access of a hull channel has ended, with the bytes of a read: operands in LOAD, the message in EXEC (R373, R377). -/
def hullGot (s : State) (ch : Nat) (bs : List Byte) : State :=
  modHchan s ch fun v =>
    if !v.waits then v
    else if v.state = .load then { v with waits := false, opmem := v.opmem ++ bs, lastAt := s.cycle }
    else { v with waits := false, msg := v.msg ++ bs, lastAt := s.cycle }

/-- The bytes of a read go to the host, or to the hull channel that read for it. -/
def answerHost (s : State) (a : HostAcc) (bs : List Byte) : State :=
  if a.hull = 0 then send s (.memData a.host a.tag bs) else hullGot s (a.hull - 1) bs

/-- A rejected host access (R351), with its record: a read returns zeros, a write is discarded. An access that a hull channel makes when
the granule is no more its owner's ends the same way, without a record. [DEDUCED, log 38] -/
def rejectAcc (s : State) (a : HostAcc) : State :=
  if a.hull ≠ 0 then hullGot s (a.hull - 1) (List.replicate a.len 0) else
  let s := { s with cxl := { s.cxl with memRej := bump s.cxl.memRej 1, memRejAddr := a.addr } }
  let s := errorRecord s 6 3 0 a.host 0
  if a.write then s else send s (.memData a.host a.tag (List.replicate a.len 0))

end Sys2Proof.Machine
end

