-- ==== Sys2Proof/Machine/Issue.lean ====
section
/-!
DEFINITION. The command reader (R95 to R101): what is next to issue, readiness, the checks of R99 that every command shares,
refusal and acceptance.
-/
namespace Sys2Proof.Machine

/-- The command that is next to issue in a context (R97, R104). [DEDUCED, log 23] -/
def headCmd (s : State) (c : Nat) : Option (List Byte) :=
  if (ctxSt s c).created && !(ctxSt s c).halted then (ctxSt s c).ahead.head? else none

/-- OPC values of Table 3.8 that are not reserved. -/
def opcListed (o : Nat) : Bool := decide (o ≤ 6) || (decide (0x10 ≤ o) && decide (o ≤ 0x22))

/-- The pods a command names (R101, R236). -/
def cmdPods (b : List Byte) : List Nat :=
  let o := cmdOpc b
  if o = 1 ∨ o = 6 ∨ isCt b then
    rectPods b ++ (if o = 0x13 ∧ ctArg b < 640 then [ctArg b] else [])
  else []

/-- The command runs a program: it queues a job. -/
def cmdRuns (b : List Byte) : Bool := cmdOpc b = 1 || (decide (0x13 ≤ cmdOpc b) && isCt b)

/-- The FENCE condition of R97, and no incomplete WAIT. -/
def fenceMet (s : State) (c : Nat) (b : List Byte) : Bool :=
  s.cmds.all fun k => k.ctx ≠ c || (!cmdFlag b 2 && cmdOpc k.bytes ≠ 2)

/-- The partition of a pod. -/
def podPart (s : State) (d : Nat) : Option Nat := partOfField s (fieldOfPod d)
/-- A pod lies in a partition that is closed; in a fenced one. -/
def podClosed (s : State) (d : Nat) : Bool := match podPart s d with | some n => (partSt s n).recovery ≠ .open_ | none => false
def podFenced (s : State) (d : Nat) : Bool := match podPart s d with | some n => (partSt s n).fenced | none => false
/-- The context's partition contains the pod (R27). -/
def podMine (s : State) (c d : Nat) : Bool :=
  (ctxSt s c).part ≠ 0 && inPart s ((ctxSt s c).part - 1) (fieldOfPod d)

/-- A field serves jobs without a wake (R398); one that is too hot does not (R411). -/
def awake (s : State) (f : Nat) : Bool :=
  ((fieldSt s f).state = .f0 || (fieldSt s f).state = .f1) && (fieldSt s f).trans = .none && !(fieldSt s f).hot

/-- Fields of the named pods that need a wake entry (R400); a fenced partition's fields do not wake (R436). -/
def sleepers (s : State) (c : Nat) (b : List Byte) : List Nat :=
  (((cmdPods b).filter fun d => podMine s c d && !podFenced s d).map fieldOfPod).eraseDups.filter fun f => !awake s f

/-- Jobs of a context, each counted once (R359). -/
def jobsOfCtx (s : State) (c : Nat) : Nat := (s.jobs.filter (·.ctx = c)).length

/-- Commands in a channel's FIFO, the running one among them (R332). -/
def chanDepth (v : ChanSt) : Nat := (v.fifo.filter (!·.close)).length + (if v.running.isSome then 1 else 0)

/-- A command of another context that became ready in an earlier cycle names the pod: it counts as enqueued (R101). -/
def podClaimed (s : State) (c d : Nat) : Bool :=
  s.ctxs.any fun e => e.1 ≠ c && e.2.readyAt ≠ 0 && decide (e.2.readyAt ≤ s.cycle) &&
    match e.2.ahead with | b :: _ => (cmdPods b).contains d | [] => false

/-- R101 on a command whose fields are awake. [DEDUCED, log 23] -/
def mayReady (s : State) (c : Nat) (b : List Byte) : Bool :=
  (cmdPods b).all (fun d => !podBusy s d && !podClaimed s c d && !podClosed s d)
  && (!cmdRuns b || decide (jobsOfCtx s c < (ctxSt s c).jobq))
  && (cmdOpc b ≠ 0x21 || decide (chanDepth (chanSt s (field b 16 1 % 16)) < 16))

/-- The command leaves the queue of commands read and stands as issued. -/
def accept (s : State) (c : Nat) (b : List Byte) (k : Cmd → Cmd) : State :=
  let s := modCtx s c fun x => { x with ahead := x.ahead.drop 1, readyAt := 0 }
  { s with cmds := s.cmds ++ [k { id := s.nextId, ctx := c, bytes := b }], nextId := s.nextId + 1 }

/-- A command that ends where it issues: refused (R14), or complete. -/
def atIssue (s : State) (c : Nat) (b : List Byte) (code : Byte) : State := accept s c b fun k => { k with code := some code }

/-- Step 1 of R99 on the header. -/
def hdrOk (b : List Byte) : Bool :=
  bits (field b 1 1) 7 4 = 0
  && (!cmdFlag b 0 || (bits (field b 4 2) 15 14 = 0 && cmdSigAdd b ≠ 0)) && (!cmdFlag b 1 || cmdRec b % 16 = 0)

/-- Step 2 of R99 on the header. -/
def hdrBounds (s : State) (c : Nat) (b : List Byte) : Bool :=
  (!cmdFlag b 1 || ctxMem s c (cmdRec b) 16) && (!cmdFlag b 0 || mayName s c (cmdSigObj b) true)

/-- The code of R99 for a command: its own step 1, its own step 2, the fence of R436, its own checks. [DEDUCED, log 23] -/
def checkCmd (s : State) (c : Nat) (b : List Byte) (form bounds : Bool) (own : Byte) : Byte :=
  if !(hdrOk b && form) then eDesc
  else if !(hdrBounds s c b && bounds) then eBounds
  else if (cmdPods b).any (podFenced s) then eFenced
  else own

/-- The command at the head of a context, if it has become ready and has the opcode. [DEDUCED, log 23] -/
def readyHead (s : State) (c opc : Nat) : Option (List Byte) :=
  match headCmd s c with
  | some b => if (ctxSt s c).readyAt ≠ 0 && cmdOpc b = opc then some b else none
  | none => none

/-- What a ready command has still to find when it issues: its partition open and its fields awake (R398, R432). A command that became ready
in the same cycle may have taken its pods first; it then waits behind that one (R101). -/
def stillReady (s : State) (c : Nat) (b : List Byte) : Bool :=
  (cmdPods b).all (fun d => !podClosed s d) && sleepers s c b = []

/-- Issue of a command: what became ready may have to wait again; a failed check refuses it; else it acts. -/
def issueCmd (s : State) (c opc : Nat) (form bounds : List Byte → Bool) (own : List Byte → Byte)
    (act : List Byte → State) : State :=
  match readyHead s c opc with
  | none => s
  | some b =>
    if !stillReady s c b then modCtx s c fun x => { x with readyAt := 0 }
    else if !cmdRuns b && (cmdPods b).any (podBusy s) then s
    else
      let code := checkCmd s c b (form b) (bounds b) (own b)
      if code ≠ eOk then atIssue s c b code else act b

/-- Issue of a command that uses a sync object: held while the object's field sleeps (R93). -/
def issueSync (s : State) (c opc : Nat) (form bounds : List Byte → Bool) (act : List Byte → State) : State :=
  issueCmd s c opc form bounds (fun _ => eOk) fun b =>
    let i := bits (field b 16 2) 13 0
    if syncReady s i then act b else enableField s (syncField i)

end Sys2Proof.Machine
end

