-- ==== Sys2Proof/Machine/LinkOps.lean ====
section
/-!
DEFINITION. Operations of the Jeand links that several families share: positions and runs (R303, R315, R318), codes that
reach consumers (R327), VOIDs (R323), bursts (R319, R320, R322), links going down (R325), messages from the mesh (R318).
-/
namespace Sys2Proof.Machine

/-- Installation time in 1/64 ns (R308). -/
def instTime (s : State) : Int := (s.cycle : Int) * (if s.nvm.gradeE then 40 else 32) + s.timeOff

/-- The link period and the position that the installation time is in, counted from time 0: a period is 10.24 µs, a position 8/7 ns
(R300, R303). -/
def periodNow (s : State) : Int := instTime s / 655360
def posNow (s : State) : Int := 7 * instTime s / 512
/-- The epoch by the time: 1,024 periods each (R308). -/
def epochNow (s : State) : Int := periodNow s / 1024

/-- The epoch of the transmit position of a flit: a flit of the end of a period that comes in the first half of an epoch was sent in the
epoch before (R326). -/
def flitEpoch (s : State) (f : RxFlit) : BitVec 32 :=
  if periodNow s % 1024 = 0 ∧ posNow s % 8960 < 4480 ∧ 4480 ≤ f.slot then s.lnk.epoch - 1 else s.lnk.epoch

/-! ### Messages and runs -/

/-- Link flits of a message: its header opens the first flit's payload (R319). -/
def linkFlits (bs : List Byte) : Nat := max 1 ((bs.length + 231) / 232)

/-- The position that follows in a run: reserved positions are passed over, odd ones too in half mode (R303). -/
def nextPos (half : Bool) (j : Nat) : Nat :=
  let d := if half then 2 else 1
  if (j + d) % 64 = 0 then j + 2 * d else j + d
def prevPos (half : Bool) (j : Nat) : Nat :=
  let d := if half then 2 else 1
  if (j - d) % 64 = 0 then j - 2 * d else j - d

/-- The TX entry at a position is a local one of the route. -/
def txLocal (rec' : List Byte) (route j : Nat) : Bool :=
  let e := lrTx rec' j
  decide (j < 8960) && j % 64 ≠ 0 && bits e 1 0 = 1 && bits e 13 2 = route

/-- Entries of the run from position `j` on. -/
def runFrom (rec' : List Byte) (route : Nat) : Nat → Nat → Nat
  | 0, _ => 0
  | n + 1, j => if txLocal rec' route j then 1 + runFrom rec' route n (nextPos (lrMode rec' ≠ 0) j) else 0
def runLen (rec' : List Byte) (route j : Nat) : Nat := runFrom rec' route 8960 j
/-- The position is the first of a run. -/
def runStarts (rec' : List Byte) (route j : Nat) : Bool :=
  txLocal rec' route j && !(decide (j ≥ 2) && txLocal rec' route (prevPos (lrMode rec' ≠ 0) j))
/-- Longest run of a route. -/
def longestRun (rec' : List Byte) (route : Nat) : Nat :=
  (List.range 8960).foldl (fun m j => if runStarts rec' route j then max m (runLen rec' route j) else m) 0

/-- The flit arrives outside ±4 ns of its expected arrival: position `slot` of its period, 8/7 ns each, plus D_PLAN (R315). -/
def offWindow (rec' : List Byte) (f : RxFlit) : Bool :=
  let late := (7 * f.arr - (512 * f.slot + 7 * lrDplan rec' : Nat)) % 4587520
  decide (1792 < late) && decide (late < 4587520 - 1792)

/-- The local receive position of a flit sent in the partner's position `j` (R315). -/
def rxPosition (rec' : List Byte) (j : Nat) : Nat := (j + ((lrDplan rec' + 256) * 7 + 511) / 512) % 8960

def rxAct (e : Nat) : Nat := bits e 1 0
def rxRoute (e : Nat) : Nat := bits e 13 2
def rxOut (e : Nat) : Nat := bits e 19 14

/-! ### Codes and VOIDs -/

/-- A link code reaches a deliver entry (R327, R343): the running jobs of the route's partition end, a fault of the
partition, one for each hold or down until the link is scheduled again; a collective on the route fails. -/
def linkCode (s : State) (l route : Nat) (code : Byte) : State :=
  let s := errorRecord (modLink s l fun v => { v with lastCode := code }) 5 2 (76 + l) 0 code
  let chs := (List.range 16).filter fun ch => (chanSt s ch).state ≠ 0 && chanRx (chanSt s ch) = route
  let s := forAll chs (fun ch s => chanFail s ch code) s
  match routePart s route with
  | none => s
  | some n =>
    let live (j : Job) : Bool := j.part = n && j.phase ≠ .queued
    if !s.jobs.any live then s
    else
      let s := endJobs s code live
      let v := linkSt s l
      let lasting := decide (v.state ≠ 3)
      if lasting && v.hitParts.contains n then s
      else
        raiseFault (if lasting then setLink s l { v with hitParts := n :: v.hitParts } else s) 4 [n] l code

/-- The code a link's silent entries carry (R322 to R325). -/
def silentCode (v : LinkSt) : Byte := if v.state = 4 then eLinkHold else if v.state = 3 then eSlotMiss else eLinkDown

/-- The module sends data and forwards (R321, R329): the outgoing link is scheduled. -/
def linkSends (s : State) (l : Nat) : Bool := (linkSt s l).state = 3

/-- A flit leaves on a link at a position, with ETAG and POS written afresh (R301). -/
def sendFlit (s : State) (l pos : Nat) (f : RxFlit) : State :=
  if linkSends s l then
    send s (.linkFlit l { f with slot := pos, pos := pos, etag := s.lnk.epoch.toNat % 256, arr := 0, err0 := 0, err1 := 0 })
  else s

/-- A VOID in place of a flit of link `l` that cannot be forwarded (R319, R323). -/
def sendVoid (s : State) (l out pos : Nat) (code : Byte) : State :=
  let s := errorRecord (modLink s l fun v => { v with lastCode := code }) 5 2 (76 + l) 0 code
  if linkSends s out then
    let node := s.lnk.node % 4096
    let f : RxFlit := { type := 5, src := node, data := code :: toBytes 2 node ++ [BitVec.ofNat 8 out] ++ List.replicate 228 0 }
    sendFlit (modLink s out fun v => { v with void := bump v.void 1 }) out pos f
  else s

/-! ### Bursts -/

/-- Burst of a route, if one is open. -/
def burstOf (v : LinkSt) (route : Nat) : Option Burst := v.bursts.find? (·.route = route)
def setBurst (v : LinkSt) (b : Burst) : LinkSt := { v with bursts := v.bursts.filter (·.route ≠ b.route) ++ [b] }
def dropBurst (v : LinkSt) (route : Nat) : LinkSt := { v with bursts := v.bursts.filter (·.route ≠ route) }

/-- The open burst of a route is discarded with a code; its later flits are dropped without another code (R322). -/
def failBurst (s : State) (l route : Nat) (code : Byte) : State :=
  match burstOf (linkSt s l) route with
  | some b =>
    if b.dead then s
    else linkCode (modLink s l fun v => setBurst v { b with bytes := [], dead := true, held := false }) l route code
  | none => linkCode s l route code

/-- Flits in the receive buffer of a link (R320). -/
def rxFill (v : LinkSt) : Nat :=
  (v.bursts.map fun b => if b.dead then 0 else b.got).foldl (· + ·) 0 + (v.msgs.map fun m => linkFlits m.bytes).foldl (· + ·) 0

/-- Bytes of a COLL message by its header (R338). -/
def collLen (bs : List Byte) : Nat :=
  match field bs 0 1 with
  | 0 | 2 => 24 + 8 * field bs 12 4
  | 1 | 3 => 24 + 4 * field bs 12 4
  | _ => 24

/-- Data bytes of a chunk buffer, and the address of one (R340). -/
def chunkBuf (c : ChanSt) (i : Nat) : Nat := chanInbox c + 8192 * i
/-- A free chunk buffer of a channel for a chunk message: the lowest; none for a CREDIT or an ABORT. [DESIGN CHOICE, log 35] -/
def freeBuf (c : ChanSt) (bs : List Byte) : Nat :=
  if field bs 0 1 = 4 ∨ field bs 0 1 = 5 then 16 else ((List.range 16).find? fun i => !c.inbox.any (·.buf = i)).getD 16

/-- A whole COLL burst goes to its channel; one for a closed channel or on another route is discarded (R341). A CREDIT comes
back from NEXT on the link of TXROUTE. -/
def takeColl (s : State) (l route src : Nat) (bs : List Byte) : State :=
  let ch := field bs 1 1 % 16
  let c := chanSt s ch
  if c.state = 0 ∨ (chanRx c ≠ route ∧ ¬ (field bs 0 1 = 4 ∧ chanTx c = route)) then modLink s l fun v => { v with msgRej := bump v.msgRej 1 }
  else
    let bs := bs.take (collLen bs)
    let i := freeBuf c bs
    let s := if i < 16 then memWrite s (chunkBuf c i) ((bs.drop 24).take 8192) else s
    setChan s ch { c with inbox := c.inbox ++ [⟨src, route, bs, i⟩], rxBytes := bump c.rxBytes bs.length }

/-- A burst is whole: COLL to its channel, DATA to the link's messages. -/
def burstWhole (s : State) (l : Nat) (b : Burst) : State :=
  let s := modLink s l fun v => dropBurst v b.route
  if b.coll then takeColl s l b.route b.src b.bytes
  else modLink s l fun v => { v with msgs := v.msgs ++ [⟨b.route, b.src, 0, false, b.bytes, false⟩] }

/-- A DATA or COLL flit at a deliver entry (R319, R320, R322). -/
def burstFlit (s : State) (l route : Nat) (f : RxFlit) : State :=
  let v := linkSt s l
  let full := decide (rxFill v ≥ 128)
  let payload := f.data ++ List.replicate (232 - f.data.length) 0
  let last := f.bpos = 0 || f.bpos = 3
  if f.bpos = 0 ∨ f.bpos = 1 then
    let cut := match burstOf v route with | some b => !b.dead | none => false
    let s := if cut then failBurst s l route eSlotMiss else s
    let b : Burst := ⟨route, f.type = 2, f.src, payload, 1, false, false⟩
    if full then
      (if last then linkCode s l route eSlotMiss else failBurst (modLink s l fun v => setBurst v b) l route eSlotMiss)
    else if last then burstWhole s l b
    else modLink s l fun v => setBurst v b
  else
    match burstOf v route with
    | some b =>
      if b.dead then
        modLink s l fun v => { (if last then dropBurst v route else v) with miss := bump v.miss 1 }
      else if f.bseq ≠ b.got ∨ full then
        failBurst (modLink s l fun v => { v with miss := bump v.miss 1 }) l route eSlotMiss
      else
        let b := { b with bytes := b.bytes ++ payload, got := b.got + 1 }
        if last then burstWhole s l b else modLink s l fun v => setBurst v b
    | none =>
      -- an orphan: its FIRST was not taken
      let s := modLink s l fun v => { v with miss := bump v.miss 1 }
      let s := if last then s else modLink s l fun v => setBurst v ⟨route, f.type = 2, f.src, [], 0, false, true⟩
      linkCode s l route eSlotMiss

/-- A decision that silence left open becomes E_SLOT_MISS when the link next delivers a flit (R324). -/
def settleHeld (s : State) (l : Nat) : State :=
  forAll ((linkSt s l).bursts.filter fun b => b.held && !b.dead) (fun b s => failBurst s l b.route eSlotMiss) s

/-! ### Down -/

/-- A link goes down (R325): its open bursts end with E_LINK_DOWN; it retrains from step 1. -/
def linkDown (s : State) (l : Nat) : State :=
  let routes := ((linkSt s l).bursts.filter (!·.dead)).map (·.route)
  let s := modLink s l fun v =>
    { v with state := 5, down := bump v.down 1, hitParts := [], bursts := [], step := 1, locked := false, exch := 0, dsum := 0,
             osum := 0, partner := {}, ctrl := [], measSent := 0, echo := none, timeEcho := none }
  forAll routes (fun r s => linkCode s l r eLinkDown) s

/-! ### From the mesh (R296, R318) -/

/-- The enabled transit route from a pip to the link whose attachment pip a flit reaches. -/
def edgeRoute (s : State) (pip from_ : Nat) : Option Nat :=
  let r := resv s
  s.mod.transit.find? fun i =>
    routePip r i = some from_ && (match routeEnd r i 2 with | some e => e.pip = pip | none => false)

/-- Link flits in the transmit buffer (R318). -/
def txFill (v : LinkSt) : Nat :=
  (v.tx.map fun m => linkFlits m.bytes).foldl (· + ·) 0 + (v.part.map fun m => linkFlits m.bytes).foldl (· + ·) 0

/-- A message joins the transmit buffer; one longer than every run of its route, or than the 64 flits of a burst, ends the sending job
(R318, R319). [DEDUCED, log 36] -/
def queueTx (s : State) (l : Nat) (m : LinkMsg) : State :=
  if linkFlits m.bytes > min 64 (longestRun (linkSt s l).record m.route) then
    (if m.pip = 0 then s else failPip s (m.pip - 1) eDesc false)
  else modLink s l fun v => { v with tx := v.tx ++ [m] }

/-- A route flit enters the transmit buffer: a message is whole once the bytes its DATA header names are there. -/
def takeEdge (s : State) (l route from_ : Nat) (data : Flit) : State :=
  let v := linkSt s l
  let old := (v.part.find? fun m => m.route = route && m.pip = from_).map (·.bytes)
  let bs := old.getD [] ++ toBytes 64 data.toNat
  let rest := v.part.filter fun m => !(m.route = route && m.pip = from_)
  let want := 24 + field bs 16 2
  if bs.length < want then setLink s l { v with part := rest ++ [⟨route, from_, bs⟩] }
  else queueTx (setLink s l { v with part := rest }) l ⟨route, s.lnk.node % 4096, from_ + 1, false, bs.take want, false⟩

end Sys2Proof.Machine
end

