-- ==== Sys2Proof/Machine/Collective.lean ====
section
/-!
DEFINITION. Gradient collectives (R332 to R344): channels, the local step, chunks, the ring, failure.
-/
namespace Sys2Proof.Machine

/-! ### Fields of Table 13.1 -/

def clChan (b : List Byte) : Nat := field b 16 1 % 16
def clDense (b : List Byte) : Bool := bit (field b 17 1) 0
def clBf16 (b : List Byte) : Bool := bit (field b 17 1) 1
def clThin (b : List Byte) : Nat := field b 18 2
def clSeq (b : List Byte) : Nat := field b 20 4
def clBucket (b : List Byte) : Nat := field b 24 8
def clNelem (b : List Byte) : Nat := field b 32 4
def clFill (b : List Byte) : Nat := bits (field b 36 2) 13 0
def clThresh (b : List Byte) : Nat := field b 40 4
def clResid (b : List Byte) : Nat := field b 48 8
def clOut (b : List Byte) : Nat := field b 56 8
/-- Bytes of an element of the bucket (R335). -/
def clElem (b : List Byte) : Nat := if clBf16 b then 2 else 4

/-- [a, a + n) lies in the staging buffer of a stack. -/
def inStaging (st a n : Nat) : Bool :=
  decide (stgBase + st * 0x4000000 ≤ a) && decide (a + n ≤ stgBase + (st + 1) * 0x4000000)

/-! ### Groups (R334) -/

def groupLen (s : State) (a : Nat) : Nat := 16 + 2 * field (memRead s a 2) 0 2
def groupNode (g : List Byte) (r : Nat) : Nat := field g (16 + 2 * r) 2
/-- Rank of a node in a group. -/
def groupRank (g : List Byte) (node : Nat) : Option Nat := (List.range (field g 0 2)).find? fun r => groupNode g r = node

/-- A group block is well formed and names this module. -/
def groupOk (s : State) (g : List Byte) : Bool :=
  let p := field g 0 2
  decide (1 ≤ p) && decide (p ≤ 4096) && zeroBytes g 2 2 && zeroBytes g 8 8
  && (List.range (p - 1)).all (fun r => decide (groupNode g r < groupNode g (r + 1)))
  && (groupRank g s.lnk.node).isSome

/-- Rank m of the module, and its neighbours. -/
def rankOf (s : State) (c : ChanSt) : Nat := (groupRank c.group s.lnk.node).getD 0
def nextNode (s : State) (c : ChanSt) : Nat := groupNode c.group ((rankOf s c + 1) % max 1 (collP c))
def prevNode (s : State) (c : ChanSt) : Nat := groupNode c.group ((rankOf s c + max 1 (collP c) - 1) % max 1 (collP c))

/-- A transit route between an attachment pip of a stack and a link attachment. -/
def collRoute (s : State) (st i : Nat) : Bool :=
  decide (i < (resv s).routes.length) && routeStack (resv s) i = some st && (routeLink (resv s) i).isSome

/-- A route of a stack in the admitted plan of a partition. -/
def planRoute (s : State) (n st i : Nat) : Bool :=
  let pt := partSt s n
  let o := tablesLen pt
  pt.hasPlan && (List.range (hbmCount pt.plan o)).any fun k =>
    let w := hbmRec pt.plan o k
    bits w 3 0 = st && bits (bits w 51 20) 19 8 = i

/-! ### Channels -/

def openForm (b : List Byte) : Bool :=
  decide (field b 16 1 < 16) && decide (field b 17 1 < 12) && decide (field b 18 2 < 4096) && decide (field b 20 2 < 4096)
  && decide (field b 22 2 < 4096) && zeroBytes b 40 24

def openCode (s : State) (c : Nat) (b : List Byte) : Byte :=
  let v := chanSt s (clChan b)
  let st := field b 17 1
  let g := memRead s (field b 24 8) (groupLen s (field b 24 8))
  let inbox := field b 32 8
  if v.state ≠ 0 ∧ v.ctx ≠ c then eBounds
  else if v.state ≠ 0 then eDesc
  else if !groupOk s g then eDesc
  else if inbox % 128 ≠ 0 ∨ !inStaging st inbox 0x40000 then eDesc
  else if !(collRoute s st (field b 18 2) && collRoute s st (field b 20 2)
      && (ctxSt s c).part ≠ 0 && planRoute s ((ctxSt s c).part - 1) st (field b 22 2)) then eDesc
  else eOk

/-- CL_OPEN (R333, R334). -/
def execClOpen (c : Nat) (s : State) : Host.Outcome State Fault Refusal :=
  within 10240 c (issueCmd s c 0x20 openForm
    (fun b => let a := field b 24 8
      ctxHbm s c a 16 && ctxHbm s c a (groupLen s a) && ctxMem s c (field b 32 8) 0x40000) (openCode s c) fun b =>
      let a := field b 24 8
      let g := memRead s a (groupLen s a)
      let s1 := modChan (noteMem s a (groupLen s a)) (clChan b) fun v =>
        { v with state := 1, ctx := c, opened := b, group := g, fifo := [], running := none, credits := 16, inbox := [],
                 unacked := 0 }
      atIssue s1 c b eOk)

def reduceForm (b : List Byte) : Bool :=
  decide (field b 16 1 < 16) && decide (field b 17 1 < 4)
  && (if clDense b then clThin b = 0 && clResid b = 0 else decide (1 ≤ clThin b) && decide (clThin b ≤ 100))
  && decide (field b 36 2 < 2 ^ 14) && zeroBytes b 38 2 && zeroBytes b 44 4

/-- Two byte runs do not overlap. -/
def apart (a n b m : Nat) : Bool := decide (a + n ≤ b) || decide (b + m ≤ a)

/-- R335. -/
def placed (s : State) (v : ChanSt) (b : List Byte) : Bool :=
  let n := clNelem b
  let len := n * clElem b
  let st := chanStack v
  len % 128 = 0 && decide (0x200000 ≤ len) && decide (len ≤ 0x2000000) && inStaging st (clBucket b) len
  && clOut b % 128 = 0 && inStaging st (clOut b) (4 * n)
  && apart (clBucket b) len (clOut b) (4 * n) && apart (clBucket b) len (chanInbox v) 0x40000
  && apart (clOut b) (4 * n) (chanInbox v) 0x40000
  && (clDense b ||
      (clResid b % 128 = 0 && decide (clResid b / 0x1000000000 = st) && isHbm (clResid b + 8 * n)
        && decide ((clResid b + 8 * n - 1) / 0x1000000000 = st)
        && (granSteps (clResid b) (8 * n)).all fun a => (granSt s false (a / 2 ^ 30)).prot = 1))

/-- The channel is open for the context. -/
def chanMine (s : State) (c ch : Nat) : Bool := (chanSt s ch).state ≠ 0 && (chanSt s ch).ctx = c

/-- The checks of CL_REDUCE, in the order of Table 13.1. -/
def reduceCode (s : State) (c : Nat) (b : List Byte) : Byte :=
  if !(chanMine s c (clChan b) && placed s (chanSt s (clChan b)) b) then eDesc
  else if !ownsSync s c (clFill b) then eBounds
  else eOk

/-- CL_REDUCE (R333, R335). -/
def execClReduce (c : Nat) (s : State) : Host.Outcome State Fault Refusal :=
  within 10240 c (issueCmd s c 0x21 reduceForm
    (fun b => ctxMem s c (clBucket b) (clNelem b * clElem b) && ctxMem s c (clOut b) (4 * clNelem b)
      && (clDense b || ctxMem s c (clResid b) (8 * clNelem b)))
    (reduceCode s c) fun b =>
      let k : CollCmd := ⟨s.nextId, false, b⟩
      accept (modChan s (clChan b) fun v => { v with fifo := v.fifo ++ [k] }) c b id)

def closeForm (b : List Byte) : Bool := decide (field b 16 1 < 16) && decide (field b 17 1 < 2) && zeroBytes b 18 46

/-- The next command is a CL_CLOSE with the given FORCE. -/
def nextForce (s : State) (c : Nat) (force : Bool) : Bool :=
  match headCmd s c with | some b => bit (field b 17 1) 0 = force | none => false

/-- Issue of CL_CLOSE. -/
def issueClose (s : State) (c : Nat) (act : Nat → State → State) : State :=
  issueCmd s c 0x22 closeForm (fun _ => true) (fun b => if chanMine s c (clChan b) then eOk else eDesc) fun b =>
    atIssue (act (clChan b) s) c b eOk

/-- CL_CLOSE (R344): the channel closes when the close reaches the head of its FIFO. -/
def execClClose (c : Nat) (s : State) : Host.Outcome State Fault Refusal :=
  within 10240 c (if !nextForce s c false then s else
    issueClose s c fun ch s => chanAdvance (modChan s ch fun v => { v with fifo := v.fifo ++ [⟨0, true, []⟩] }) ch)

/-- CL_CLOSE with FORCE (R344). -/
def execClCloseForce (c : Nat) (s : State) : Host.Outcome State Fault Refusal :=
  within 10240 c (if !nextForce s c true then s else issueClose s c fun ch s => chanForce s ch)

/-! ### The local step (R336) -/

/-- 32-bit words of bytes. -/
def words32 (bs : List Byte) : List Word32 := (groups 4 bs.length bs).map fun w => BitVec.ofNat 32 (ofBytes w)
def bytes32 (ws : List Word32) : List Byte := ws.flatMap fun w => toBytes 4 w.toNat

/-- The gradients of a bucket as FP32: BF16 is exact in FP32. -/
def bucketWords (s : State) (b : List Byte) : List Word32 :=
  let bs := memRead s (clBucket b) (clNelem b * clElem b)
  if clBf16 b then (groups 2 bs.length bs).map fun w => BitVec.ofNat 32 (ofBytes w * 65536) else words32 bs

/-- Residual half h (R335). -/
def residHalf (b : List Byte) (h : Nat) : Nat := clResid b + h * clNelem b * 4

/-- The effective gradients. -/
def effective (s : State) (b : List Byte) : List Word32 :=
  let g := bucketWords s b
  if clDense b then g.map fun v => f32add v 0
  else (List.zip g (words32 (memRead s (residHalf b (clSeq b % 2)) (4 * clNelem b)))).map fun e => f32add e.1 e.2

/-- Rank by magnitude: NaN above infinity above finite values. -/
def magKey (v : Word32) : Nat := if isNan32 v then 2 ^ 32 else v.toNat % 2 ^ 31

/-- The entries among the k highest-ranked; of equal magnitudes the lower index ranks higher. -/
def selectTop (k : Nat) (l : List Word32) : List Bool :=
  let keys := l.map magKey
  let t := (keys.mergeSort fun a b => decide (b ≤ a)).getD (k - 1) 0
  let above := (keys.filter fun x => decide (t < x)).length
  (keys.foldl (fun (acc : List Bool × Nat) x =>
    if t < x then (true :: acc.1, acc.2)
    else if x = t ∧ acc.2 < k - above then (true :: acc.1, acc.2 + 1)
    else (false :: acc.1, acc.2)) ([], 0)).1.reverse

def collK (b : List Byte) : Nat := (clNelem b * clThin b + 999) / 1000

/-! ### Shards and chunks (R337, R338) -/

/-- Indices in a shard. -/
def shardZ (n p : Nat) : Nat := (n + p - 1) / max 1 p
/-- First index and length of each chunk of shard j. -/
def chunksOf (n p j : Nat) : List (Nat × Nat) :=
  let z := shardZ n p
  let lo := min n (j * z)
  let hi := min n ((j + 1) * z)
  (List.range ((hi - lo + 2047) / 2048)).map fun i => (lo + 2048 * i, min 2048 (hi - (lo + 2048 * i)))
/-- Chunks of all shards but one. -/
def chunksBut (n p j : Nat) : Nat := (((List.range p).filter (· ≠ j)).map fun i => (chunksOf n p i).length).foldl (· + ·) 0

/-- A chunk message, sparse where that is shorter (R338, Table 13.2). -/
def chunkBytes (gather : Bool) (ch step seq ibase : Nat) (tag : List Byte) (vs : List Word32) : List Byte :=
  let pairs := (List.zip (List.range vs.length) vs).filter fun e => e.2 ≠ 0
  let sparse := decide (8 * pairs.length < 4 * vs.length)
  let kind := (if gather then 2 else 0) + (if sparse then 0 else 1)
  let num := if sparse then pairs.length else vs.length
  let body := if sparse then pairs.flatMap fun e => toBytes 4 (ibase + e.1) ++ toBytes 4 e.2.toNat else bytes32 vs
  [BitVec.ofNat 8 kind, BitVec.ofNat 8 ch] ++ toBytes 2 step ++ toBytes 4 seq ++ toBytes 4 ibase ++ toBytes 4 num ++ tag
    ++ toBytes 4 0 ++ body

/-- The values of a chunk message over a run of indices: an absent entry is +0. -/
def chunkValues (m : List Byte) (ibase len : Nat) : List Word32 :=
  let num := field m 12 4
  let body := m.drop 24
  if field m 0 1 % 2 = 1 then (words32 (body.take (4 * len))) ++ List.replicate (len - num) 0
  else
    let t : Tab Word32 := (groups 8 num body).foldl (fun t e => Tab.set 0 t (field e 0 4) (BitVec.ofNat 32 (field e 4 4))) []
    (List.range len).map fun i => Tab.get 0 t (ibase + i)

/-- The values of OUT at indices [i, i + n). -/
def outWords (s : State) (b : List Byte) (i n : Nat) : List Word32 := words32 (memRead s (clOut b + 4 * i) (4 * n))

/-- Queue chunks of a shard for NEXT. -/
def sendShard (s : State) (ch : Nat) (b : List Byte) (gather : Bool) (step shard : Nat) : State :=
  let c := chanSt s ch
  let msgs := (chunksOf (clNelem b) (collP c) shard).map fun e =>
    (⟨chanTx c, true, chunkBytes gather ch step (clSeq b) e.1 (slice c.group 4 4) (outWords s b e.1 e.2), s.cycle⟩ : CollOut)
  forAll (chunksOf (clNelem b) (collP c) shard) (fun e s => noteMem s (clOut b + 4 * e.1) (4 * e.2)) (setChan s ch { c with outq := c.outq ++ msgs })

/-- A kept entry as OUT holds it: in a group of one it is the whole sum of R337, which starts from +0. -/
def keptWord (c : ChanSt) (v : Word32) : Word32 := if collP c ≤ 1 then f32add 0 v else v

/-- Pass 3: OUT and the new residual half; then the ring begins (R336, R338). -/
def localPass (s : State) (ch : Nat) (b : List Byte) : State :=
  let geff := effective s b
  let sel := if clDense b then geff.map fun _ => true else selectTop (collK b) geff
  let out := (List.zip sel geff).map fun e => if e.1 then keptWord (chanSt s ch) e.2 else 0
  let res := (List.zip sel geff).map fun e => if e.1 then 0 else e.2
  let resBytes := bytes32 res
  let lines := if clDense b then [] else (groups 128 resBytes.length resBytes).map ofLineBytes
  let s := memWrite (noteMem s (clBucket b) (clNelem b * clElem b)) (clOut b) (bytes32 out)
  let s := modChan s ch fun c =>
    { c with state := 3, nonfin := bump c.nonfin (geff.filter fun v => !isFin32 v).length, resOut := lines, resNext := 0,
             recvR := 0, recvG := 0 }
  let c := chanSt s ch
  let p := collP c
  if p ≤ 1 then s else sendShard s ch b false 0 ((rankOf s c + p - 1) % p)

/-- Residual lines that a pass of a command reads. -/
def residLines (b : List Byte) : Nat := if clDense b then 0 else (4 * clNelem b + 127) / 128

/-- LOCAL_STEP (R336): the head command starts once FILL_OBJ meets its threshold; once the residual lines of its three passes have
been staged, and three passes of 32 elements a cycle can have run, they are complete. -/
def execLocalStep (ch : Nat) (s : State) : Host.Outcome State Fault Refusal :=
  within 16 ch (
    let c := chanSt s ch
    let run (s : State) (b : List Byte) : State := if (chanSt s ch).resIn ≥ 3 * residLines b ∧ (chanSt s ch).passAt ≤ s.cycle then localPass s ch b else s
    match c.running, c.fifo with
    | some k, _ => if c.state = 2 then run s k.bytes else s
    | none, k :: rest =>
      if c.state ≠ 1 ∨ k.close ∨ c.abortSent then s
      else if !syncReady s (clFill k.bytes) then enableField s (syncField (clFill k.bytes))
      else if satisfied (syncVal s (clFill k.bytes)) (BitVec.ofNat 32 (clThresh k.bytes)) then
        run (setChan s ch { c with
          state := 2, running := some k, fifo := rest, seq := BitVec.ofNat 32 (clSeq k.bytes), resIn := 0
          passAt := s.cycle + 3 * ((clNelem k.bytes + 31) / 32) }) k.bytes
      else s
    | _, _ => s)

/-! ### The ring (R338 to R341) -/

/-- The first message of the queue that can go: none of its route is ahead of it, and it has its credit. -/
def nextOut (c : ChanSt) : Option CollOut :=
  ((List.range c.outq.length).find? fun i =>
    match c.outq[i]? with
    | none => false
    | some m => (!m.paid || decide (c.credits ≥ 1)) && !(c.outq.take i).any fun n => n.route = m.route).bind (c.outq[·]?)

/-- The link of a message's route, where a run of the route can hold the message (R318). -/
def outLink (s : State) (m : CollOut) : Option Nat :=
  (routeLink (resv s) m.route).filter fun l => decide (l < 36) && decide (linkFlits m.bytes ≤ longestRun (linkSt s l).record m.route)

/-- Another channel has a message of the route that can go and became whole earlier, or in the same cycle on a lower channel (R339).
[DESIGN CHOICE, log 36] -/
def outAhead (s : State) (ch : Nat) (m : CollOut) : Bool :=
  s.chans.any fun e =>
    e.1 ≠ ch && (match nextOut e.2 with
      | some n => n.route = m.route && (outLink s n).isSome && (decide (n.whole < m.whole) || (n.whole = m.whole && decide (e.1 < ch)))
      | none => false)

/-- CHUNK_SEND (R339, R340): a message joins the transmit buffer of its route's link, in the order in which the messages of the route
became whole. -/
def execChunkSend (ch : Nat) (s : State) : Host.Outcome State Fault Refusal :=
  within 16 ch (
    let c := chanSt s ch
    match nextOut c with
    | none => s
    | some m =>
      let l := (outLink s m).getD 36
      if l ≥ 36 ∨ txFill (linkSt s l) + linkFlits m.bytes > 128 ∨ outAhead s ch m then s
      else
        let s := queueTx s l ⟨m.route, s.lnk.node % 4096, 0, true, m.bytes, false⟩
        setChan s ch { c with
          outq := c.outq.erase m, txBytes := bump c.txBytes m.bytes.length
          credits := if m.paid then c.credits - 1 else c.credits, unacked := if m.paid then c.unacked + 1 else c.unacked })

def msgKind (m : CollMsg) : Nat := field m.bytes 0 1
def msgSeq (m : CollMsg) : Nat := field m.bytes 4 4
/-- The oldest message that is a chunk; that has a kind. -/
def firstChunk (c : ChanSt) : Option CollMsg := c.inbox.find? fun m => msgKind m ≠ 4 && msgKind m ≠ 5
def firstKind (c : ChanSt) (k : Nat) : Option CollMsg := c.inbox.find? fun m => msgKind m = k
def takeMsg (c : ChanSt) (m : CollMsg) : ChanSt := { c with inbox := c.inbox.erase m }

/-- CREDIT for a message whose buffer is free (Table 13.2). -/
def creditBytes (ch : Nat) (c : ChanSt) (m : CollMsg) : List Byte :=
  [4, BitVec.ofNat 8 ch, 0, 0] ++ toBytes 4 (msgSeq m) ++ toBytes 4 0 ++ toBytes 4 0 ++ slice c.group 4 4 ++ toBytes 4 0

/-- A message with the data that its chunk buffer holds, read with its errors noted (R288, R340). -/
def fromBuf (s : State) (c : ChanSt) (m : CollMsg) : State × CollMsg :=
  let n := min 8192 (m.bytes.length - 24)
  if m.buf ≥ 16 ∨ n = 0 then (s, m)
  else (noteMem s (chunkBuf c m.buf) n, { m with bytes := m.bytes.take 24 ++ memRead s (chunkBuf c m.buf) n })

/-- Length of the chunk that begins at an index. -/
def chunkLen (n p ibase : Nat) : Nat :=
  let z := max 1 (shardZ n p)
  min 2048 (min n ((ibase / z + 1) * z) - ibase)

/-- The fields of a chunk message are in the ranges of Table 13.2: a step of its phase, the first index of a chunk, the count of its form
(R338, R341). -/
def chunkForm (n p : Nat) (m : CollMsg) : Bool :=
  let step := field m.bytes 2 2
  let ibase := field m.bytes 8 4
  let num := field m.bytes 12 4
  (if msgKind m ≤ 1 then decide (step + 2 ≤ p) else decide (p ≤ step + 1) && decide (step + 3 ≤ 2 * p))
  && decide (ibase < n) && ibase % max 1 (shardZ n p) % 2048 = 0
  && (if msgKind m % 2 = 1 then num = chunkLen n p ibase else decide (8 * num < 4 * chunkLen n p ibase))
  && zeroBytes m.bytes 20 4 && decide (field m.bytes 1 1 < 16)

/-- Merge or forward a chunk of the running command. The sum of R337 starts from +0, so a first contribution of -0 enters as +0. -/
def mergeChunk (s : State) (ch : Nat) (b : List Byte) (m : CollMsg) : State :=
  let c := chanSt s ch
  let p := collP c
  let n := clNelem b
  let step := field m.bytes 2 2
  let ibase := field m.bytes 8 4
  let len := chunkLen n p ibase
  let got := chunkValues m.bytes ibase len
  let tag := slice c.group 4 4
  let forward (gather : Bool) (step : Nat) (vs : List Word32) (s : State) : State :=
    modChan s ch fun c => { c with outq := c.outq ++ [⟨chanTx c, true, chunkBytes gather ch step (clSeq b) ibase tag vs, s.cycle⟩] }
  if msgKind m ≤ 1 then
    let vs := (List.zip got (outWords s b ibase len)).map fun e => f32add (f32add 0 e.1) e.2
    let s := modChan (memWrite (noteMem s (clOut b + 4 * ibase) (4 * len)) (clOut b + 4 * ibase) (bytes32 vs)) ch fun c => { c with recvR := c.recvR + 1 }
    if step + 2 < p then forward false (step + 1) vs s else forward true (p - 1) vs s
  else
    let s := modChan (memWrite s (clOut b + 4 * ibase) (bytes32 got)) ch fun c => { c with recvG := c.recvG + 1 }
    if step + 3 < 2 * p then forward true (step + 1) got s else s

/-- COLL (R340, R341): the oldest chunk is checked and consumed, and its buffer freed with a CREDIT on the link it came by. -/
def execColl (ch : Nat) (s : State) : Host.Outcome State Fault Refusal :=
  within 16 ch (
    let c := chanSt s ch
    match firstChunk c with
    | none => s
    | some m =>
      if c.abortSent && msgSeq m = c.seq.toNat then setChan s ch (takeMsg c m)
      else
        match c.running with
        | none => s
        | some k =>
          if c.state ≠ 3 then s
          else
            let s := setChan s ch (takeMsg c m)
            if m.src ≠ prevNode s c ∨ slice m.bytes 16 4 ≠ slice c.group 4 4 ∨ msgSeq m ≠ clSeq k.bytes ∨ msgKind m > 5
                ∨ !chunkForm (clNelem k.bytes) (collP c) m then chanFail s ch eDesc
            else
              let (s, m) := fromBuf s c m
              let s := mergeChunk s ch k.bytes m
              modChan s ch fun c => { c with outq := c.outq ++ [⟨chanRx c, false, creditBytes ch c m, s.cycle⟩] })

/-- CREDIT (R340): one whose SEQ is not the running command's is discarded. -/
def execCredit (ch : Nat) (s : State) : Host.Outcome State Fault Refusal :=
  within 16 ch (
    let c := chanSt s ch
    match firstKind c 4 with
    | none => s
    | some m =>
      let c' := takeMsg c m
      match c.running with
      | none => setChan s ch c'
      | some k =>
        if msgSeq m ≠ clSeq k.bytes then setChan s ch c'
        else if m.src ≠ nextNode s c ∨ slice m.bytes 16 4 ≠ slice c.group 4 4 then chanFail (setChan s ch c') ch eDesc
        else setChan s ch { c' with credits := min 16 (c'.credits + 1), unacked := c'.unacked - 1 })

/-- The ABORT that a channel queued last is the one it received, forwarded unchanged. -/
def forwardAbort (c : ChanSt) (bytes : List Byte) : ChanSt :=
  match c.outq.getLast? with
  | some m => { c with outq := c.outq.dropLast ++ [{ m with bytes := bytes }] }
  | none => c

/-- ABORT (R343): one that comes back around the ring ends the recovery of the channel; one for the running command ends it
and is forwarded once; one for a command not yet started waits. -/
def execAbortMsg (ch : Nat) (s : State) : Host.Outcome State Fault Refusal :=
  within 16 ch (
    let c := chanSt s ch
    match firstKind c 5 with
    | none => s
    | some m =>
      let c' := takeMsg c m
      if c.abortSent && msgSeq m = c.seq.toNat then setChan s ch (resetCredit { c' with abortGot := true })
      else
        match c.running with
        | some k =>
          if msgSeq m ≠ clSeq k.bytes then setChan s ch c'
          else
            let s := chanFail (setChan s ch c') ch (BitVec.ofNat 8 (field m.bytes 12 1))
            modChan s ch fun c => resetCredit { (if collP c' ≤ 1 then c else forwardAbort c m.bytes) with abortGot := c.abortSent }
        | none => if c.aborted && msgSeq m = c.seq.toNat then setChan s ch c' else s)

/-- CL_REDUCE_COMPLETE (R342). -/
def execClReduceComplete (ch : Nat) (s : State) : Host.Outcome State Fault Refusal :=
  within 16 ch (
    let c := chanSt s ch
    match c.running with
    | none => s
    | some k =>
      let p := collP c
      let n := clNelem k.bytes
      let m := rankOf s c
      let whole := decide (p ≤ 1) ||
        (decide (c.recvR ≥ chunksBut n p ((m + p - 1) % p)) && decide (c.recvG ≥ chunksBut n p m))
      if c.state = 3 ∧ whole ∧ c.resOut = [] ∧ c.unacked = 0 ∧ !c.outq.any (·.paid) then
        let s := decideCmd s k.cmd eOk 0
        chanAdvance (setChan s ch { c with state := 1, running := none, lastCode := eOk, done := bump c.done 1 }) ch
      else s)

end Sys2Proof.Machine
end

