-- ==== Sys2Proof/Machine/Jobs.lean ====
section
/-!
DEFINITION. Jobs from LAUNCH to their first instruction (R100 to R102, R108, R128, R132, R235, R468).
-/
namespace Sys2Proof.Machine

/-! ### The program block (Table 3.10) -/

def progAddr (b : List Byte) : Nat := field b 16 8
/-- Pods of the rectangle of a command. -/
def nPods (b : List Byte) : Nat := (rectPods b).length

/-- Step 2 of R99 on the block: its header and entries lie in the context's HBM granules (R100). -/
def blockMine (s : State) (c a : Nat) : Bool :=
  ctxHbm s c a 64 && ctxHbm s c a (64 + 32 * field (memRead s a 64) 0x1C 4)

/-- An entry holds lengths in range and no RES byte. -/
def entryFine (e : List Byte) : Bool :=
  decide (1 ≤ field e 4 2) && decide (field e 4 2 ≤ 8192) && decide (1 ≤ field e 6 2) && decide (field e 6 2 ≤ 8192)
  && decide (field e 0x10 2 ≤ 256) && zeroBytes e 0x12 14

/-- The partition of a context holds an admitted plan (R128). -/
def hasPlan (s : State) (c : Nat) : Bool := (ctxSt s c).part ≠ 0 && (partSt s ((ctxSt s c).part - 1)).hasPlan

/-- The own checks of a command that runs a program block (R100, R128). -/
def blockCode (s : State) (c : Nat) (b : List Byte) : Byte :=
  let a := progAddr b
  let h := memRead s a 64
  if !hasPlan s c || field h 8 8 ≠ s.nvm.serial.toNat || field h 0x10 8 ≠ (repairFp s).toNat then eImage
  else if slice h 0x18 4 ≠ slice b 24 4 then eDesc
  else if field h 0x1C 4 ≠ 16 * nPods b || !zeroBytes h 0x20 32
      || !(List.range (field h 0x1C 4)).all (fun i => entryFine (blockEntry s a i)) then eDesc
  else eOk

/-- A job takes its place by the cycle in which its command became ready, and among equals by the lower context number (R101). -/
def queueJob (j : Job) : List Job → List Job
  | [] => [j]
  | k :: l => if k.phase ≠ .queued ∨ k.t0 < j.t0 ∨ (k.t0 = j.t0 ∧ k.ctx ≤ j.ctx) then k :: queueJob j l else j :: k :: l

/-- A command enters the job queues of its pods, for R20 in the cycle in which it became ready (R101); the fields leave F1 for F0 (R398). -/
def enqueue (s : State) (c : Nat) (b : List Byte) (k : Cmd → Cmd) (f : Job → Job) : State :=
  let j := f
    { id := s.nextId, cmd := s.nextId, ctx := c, part := (ctxSt s c).part - 1,
      pcx0 := field b 24 1, pcx1 := field b 25 1, pcy0 := field b 26 1, pcy1 := field b 27 1,
      prog := progAddr b, progId := BitVec.ofNat 64 (field (memRead s (progAddr b) 8) 0 8),
      loadCycles := field b 28 4, t0 := (ctxSt s c).readyAt - 1, opc := cmdOpc b, payload := b }
  let s := accept s c b k
  let s := { s with jobs := queueJob j s.jobs }
  forAll ((heldPods j).map fieldOfPod).eraseDups (fun f s => fieldTo s f .f0) s

/-- LAUNCH (R100). [DESIGN CHOICE, log 46] -/
def execLaunch (c : Nat) (s : State) : Host.Outcome State Fault Refusal :=
  within 10240 c (issueCmd s c 1 (fun b => progAddr b % 64 = 0 && rectOk b)
    (fun b => (rectPods b).all (podMine s c) && blockMine s c (progAddr b)) (blockCode s c) fun b =>
      enqueue s c b id fun j => { j with args := (List.range 4).map fun i => BitVec.ofNat 64 (field b (32 + 8 * i) 8) })

/-! ### Job start (R102, R108) -/

/-- State that R41 zeroes before a job of a different context. -/
def zeroContext (q : PipSt) : PipSt :=
  { q with regs := {}, ten := {}, chn := {}, rng := {}, watch := [], progId := 0, resident := false, stale := false }

/-- S24 to S31 (R72, R235). -/
def jobArgs (s : State) (j : Job) (pod : Nat) : List (Nat × Word64) :=
  let b := j.payload
  if j.opc = 1 then [(28, nth j.args 0 0), (29, nth j.args 1 0), (30, nth j.args 2 0), (31, nth j.args 3 0)]
  else
    let w (d : BitVec 512) (k : Nat) : Word64 := BitVec.ofNat 64 (dbits d k 63 0)
    let dst := ctDesc s (if j.opc = 0x13 then ctArg b else pod) (field b 32 2 % 1024)
    [(24, w dst 3), (25, w (ctDesc s pod (field b 34 2 % 1024)) 3), (26, w (ctDesc s pod (field b 36 2 % 1024)) 3),
     (27, w dst 4), (28, BitVec.ofNat 64 (ctKaddr b)), (29, BitVec.ofNat 64 (ctPaddr b)), (30, BitVec.ofNat 64 (ctArg b)),
     (31, BitVec.ofNat 64 (field b 38 2))]

/-- Parts of a pip's load (R468, Table 3.10): module address and length of the access program, the execute program, the chain image, the
ring image and the descriptor-table image. -/
def loadParts (a : Nat) (e : List Byte) : List (Nat × Nat) :=
  let xoff := field e 8 4
  let xlen := field e 6 2
  [(a + field e 0 4, 8 * field e 4 2), (a + xoff, 8 * xlen), (a + xoff + 8 * xlen, 2048), (a + xoff + 8 * xlen + 2048, 2048),
   (a + field e 0xC 4, 64 * field e 0x10 2)]

/-- The pip is ready for a job: queues emptied but for the key queue, streams, engines and cursors at their start (R47,
R52, R212, R249), the accumulation planes zeroed (R222), state of another context zeroed (R41), and unless it holds the programs, its
load under way (R102, R468). -/
def startPip (s : State) (j : Job) (pips : List Nat) (p : Nat) : PipSt :=
  let q := pipOf s p
  let fresh := q.stale || q.st.context ≠ j.ctx
  let q := if fresh then zeroContext q else q
  let skip := q.resident && q.progId = j.progId
  let credit := (List.range 8).foldl (fun t i => Tab.set 0 t i (creditStart s pips p i)) []
  { q with
    regs := { q.regs with s := (jobArgs s j (podOfPip p)).foldl (fun t e => Tab.set 0 t e.1 e.2) q.regs.s, sAt := [] }
    q := { kq := q.q.kq }
    acc := { prog := q.acc.prog }, exe := { prog := q.exe.prog }
    ten := { q.ten with fill := 0, t0 := 0, t1 := 0, key0 := false, key1 := false, switchTo := 0 }
    rng := { q.rng with cursors := [], ap0 := [], ap1 := [], nttl := 0, nttx := 0, intx := 0, intl := 0 }
    ops := { load := if skip then none else some { parts := loadParts j.prog (blockEntry s j.prog (pipIndex j p)) } }
    eng := []
    net := { q.net with credit := credit, owed := [] }
    st := { q.st with context := j.ctx }
    progId := j.progId, resident := skip, loaded := skip, loadOk := skip, chainIn := skip, ringAt := b2n skip, descIn := skip
    job := j.id + 1, finished := false, endAt := s.cycle }

/-- Pods that an earlier job holds or will hold: the pod sequencers start jobs in their order (R101). -/
def firstOnPods (s : State) (j : Job) : Bool :=
  (s.jobs.takeWhile fun k => k.id ≠ j.id).all fun k => (heldPods j).all fun d => !(heldPods k).contains d

/-- The job may start (R108): first cycle of a period, 1,024 cycles after it was enqueued; no earlier job is on its pods, its partition is
open, no repair is being applied and no field is held out of work. -/
def jobMayStart (s : State) (j : Job) : Bool :=
  j.phase = .queued && firstOnPods s j && !s.mod.applying && (partSt s j.part).recovery = .open_
  && decide (s.cycle ≥ j.t0 + 1024) && s.cycle % 2 ^ (partSt s j.part).plog2 = 0
  && (heldPods j).all fun d => !s.mod.heldOut.contains (fieldOfPod d) && (fieldSt s (fieldOfPod d)).state = .f0

/-- JOB_START (R102). [DEDUCED, log 28] [DESIGN CHOICE, log 46] -/
def execJobStart (j : Nat) (s : State) : Host.Outcome State Fault Refusal :=
  .next (
    match jobOf s j with
    | none => s
    | some j =>
      if !jobMayStart s j then s
      else
        let pips := partPips (partSt s j.part)
        let s0 := s
        let s := forAll (jobPips j) (fun p s => setPip s p (startPip s0 j pips p)) s
        let s := setJob s { j with phase := .loading, t0 := s.cycle }
        forAll (jobPods j) (fun d s => schedRecord s d 0 j.ctx j.progId 0) s)

/-! ### The load (R86, R145, R183, R210, R468) -/

/-- Module addresses of the lines of [a, a + n), from the line that holds byte a. -/
def lineAddrs (a n : Nat) : List Nat := (linesOf a n).map (128 * ·)

/-- Lines of the load in order. -/
def loadLines (op : LoadOp) : List Nat := op.parts.flatMap fun r => lineAddrs r.1 r.2

/-- Lines up to the end of part `i`. -/
def linesUpTo (op : LoadOp) (i : Nat) : Nat := ((op.parts.take (i + 1)).map fun r => (lineAddrs r.1 r.2).length).sum

/-- Bytes of part `i`, of the lines that have arrived. -/
def loadedPart (op : LoadOp) (i : Nat) : List Byte :=
  let r := nth op.parts i (0, 0)
  let first := linesUpTo op i - (lineAddrs r.1 r.2).length
  slice ((slice op.got first (lineAddrs r.1 r.2).length).flatten) (r.1 % 128) r.2

/-- 64-bit words of bytes. -/
def wordsOf (bs : List Byte) : List Word64 := (groups 8 bs.length bs).map fun w => BitVec.ofNat 64 (ofBytes w)

/-- The programs are there and checked (R86); a program that fails ends the job before any instruction issues. -/
def takePrograms (op : LoadOp) (q : PipSt) : PRes :=
  let prog0 := wordsOf (loadedPart op 0)
  let prog1 := wordsOf (loadedPart op 1)
  if programOk false prog0 && programOk true prog1 then
    done { q with acc := { q.acc with prog := prog0 }, exe := { q.exe with prog := prog1 }, loadOk := true }
  else failWith { q with acc := { q.acc with prog := prog0 }, exe := { q.exe with prog := prog1 } } eDesc

/-- The chain image (R183, R188). -/
def takeChain (op : LoadOp) (q : PipSt) : PipSt :=
  { q with chn := { q.chn with image := loadedPart op 2, imageOk := decide ((nth op.parts 2 (0, 0)).1 % 64 = 0) }, chainIn := true }

/-- The ring image in cycle `c`: its prime derivations take 24 cycles for each entry in use (R210). -/
def takeRing (op : LoadOp) (c : Nat) (q : PipSt) : PipSt :=
  let im := loadedPart op 3
  { q with rng := { q.rng with image := im }, ringAt := c + 2 + 24 * ((List.range 16).filter (primeUsed im)).length }

/-- The descriptor-table image: handle i receives entry i, every other handle reads as not VALID (R143, R145). -/
def takeDescs (op : LoadOp) (q : PipSt) : PipSt :=
  let ds := groups 64 256 (loadedPart op 4)
  let desc := (List.range ds.length).foldl (fun t i => Tab.set 0 t i (keepDesc (BitVec.ofNat 512 (ofBytes (nth ds i []))))) []
  { q with regs := { q.regs with desc := desc }, watch := [], descIn := true }

/-- What the written lines complete, in the order of the parts (R468). -/
def takeParts (c : Nat) (q : PipSt) : PRes :=
  match q.ops.load with
  | none => done q
  | some op =>
    let has (i : Nat) : Bool := decide (linesUpTo op i ≤ op.landed)
    (if has 1 && !q.loadOk then takePrograms op q else done q).andThen fun q =>
      let q := if has 2 && !q.chainIn then takeChain op q else q
      let q := if has 3 && q.ringAt = 0 then takeRing op c q else q
      done (if has 4 && !q.descIn then takeDescs op q else q)

/-- The load writer in cycle `c` writes the next line that has arrived, in a cycle in which nothing above rank 8 has bank 7 (R141, R468). -/
def loadWrite (c : Nat) (q : PipSt) : PRes :=
  match q.ops.load with
  | none => done q
  | some op =>
    if op.got.length ≤ op.landed || q.cyc.banks.contains 7 then done q
    else takeParts c { q with cyc := { q.cyc with banks := q.cyc.banks ++ [7] },
                              ops := { q.ops with load := some { op with landed := op.landed + 1 } } }

/-- The load has ended: every line is written and the prime derivations are made (R468). -/
def loadOver (c : Nat) (q : PipSt) : Bool :=
  match q.ops.load with
  | none => false
  | some op => decide (linesUpTo op 4 ≤ op.landed) && q.loadOk && q.descIn && q.ringAt ≠ 0 && decide (q.ringAt ≤ c + 1)

/-- JOB_LOAD_END (R468): the load of a pip has ended, and DC0 is free. [DEDUCED, log 28] -/
def execJobLoadEnd (p : Nat) (s : State) : Host.Outcome State Fault Refusal :=
  within 10240 p (
    if loadOver s.cycle (pipOf s p) then modPip s p fun q => { q with loaded := true, resident := true, ops := { q.ops with load := none } }
    else s)

/-- The streams of a pip start: their first DELTA counts from T_S (R68). -/
def startStreams (ts : Nat) (q : PipSt) : PipSt := { q with acc := { q.acc with base := ts }, exe := { q.exe with base := ts } }

/-- STREAM_START (R102): the stream start cycle has come. -/
def execStreamStart (j : Nat) (s : State) : Host.Outcome State Fault Refusal :=
  .next (
    match jobOf s j with
    | none => s
    | some j =>
      let ts := j.t0 + j.loadCycles
      if j.phase ≠ .loading ∨ s.cycle < ts then s
      else
        let s := setJob s { j with phase := .running, ts := ts }
        let s := forAll (jobPips j) (fun p s => modPip s p (startStreams ts)) s
        forAll (jobPods j) (fun d s => schedRecord s d 1 j.ctx j.progId 0) s)

end Sys2Proof.Machine
end

