-- ==== Sys2Proof/Machine/KeyCheck.lean ====
section
/-!
DEFINITION. Key block headers (R259, R260) and their comparison (R240, R263, Table 10.4).
-/
namespace Sys2Proof.Machine

def khKind (h : List Byte) : Nat := field h 5 1
def khKeyset (h : List Byte) : Nat := field h 8 4
def khExp (h : List Byte) : Nat := field h 0xC 4
def khPfp (h : List Byte) : Nat := field h 0x10 8
def khIndex (h : List Byte) : Nat := field h 0x18 4
def khNblk (h : List Byte) : Nat := field h 0x1C 4
def khPlen (h : List Byte) : Nat := field h 0x20 4

/-- PLEN keeps R259. -/
def plenOk (n : Nat) : Bool := decide (2048 ≤ n) && decide (n ≤ 2 ^ 24) && n % 2048 = 0

/-- MAGIC, VERSION, RES and PLEN. -/
def khFormat (h : List Byte) : Bool :=
  field h 0 4 = 0x424B5153 && field h 4 1 = 1 && zeroBytes h 6 2 && zeroBytes h 0x24 92 && plenOk (khPlen h)

/-- What a gate expects of the next header. -/
structure KeyWant where
  keyset : Nat
  pfp    : Nat
  kind   : Nat
  /-- Exponent, or none where no exponent may pass. -/
  exp    : Option Nat
  index  : Nat
  /-- NBLK of the current key, 0 before its block 0. -/
  nblk   : Nat
  gran   : Bool

/-- FAIL bits of Table 10.8. -/
def keyFail (h : List Byte) (w : KeyWant) : Nat :=
  let f (i : Nat) (ok : Bool) : Nat := if ok then 0 else 2 ^ i
  f 0 (khFormat h) + f 1 (khKeyset h = w.keyset) + f 2 (khPfp h = w.pfp) + f 3 (khKind h = w.kind)
    + f 4 (w.exp = some (khExp h)) + f 5 (khIndex h = w.index)
    + f 6 (if w.nblk = 0 then khNblk h ≠ 0 else khNblk h = w.nblk) + f 7 w.gran

/-- The least s with n ≤ 2^s. -/
def ceilLog2 (n : Nat) : Nat := ((List.range 64).find? fun t => decide (n ≤ 2 ^ t)).getD 64

/-- Exponent that key t of a command must carry (Table 10.4); `n` is N of the packed set. -/
def wantExp (opc arg count n t : Nat) : Option Nat :=
  if opc = 0x18 then some (bits arg 17 0)
  else if opc = 0x1E then (if t < ceilLog2 count then some (n / 2 ^ t + 1) else none)
  else some 0

end Sys2Proof.Machine
end

