-- ==== Sys2Proof/Machine/Control.lean ====
section
/-!
DEFINITION. Control of the two streams (Table 3.5): loops, branches, loop counts, END; the end of transfers and of a pip's
part of a job (R88), and the watchdogs (R46, R250).
-/
namespace Sys2Proof.Machine

/-! ### Loops and branches -/

def lcOf (q : PipSt) (exe : Bool) (i : Nat) : BitVec 16 := Tab.get 0 (if exe then q.regs.lcx else q.regs.lca) i
def setLc (q : PipSt) (exe : Bool) (i : Nat) (v : BitVec 16) : PipSt :=
  if exe then { q with regs := { q.regs with lcx := Tab.set 0 q.regs.lcx i v } }
  else { q with regs := { q.regs with lca := Tab.set 0 q.regs.lca i v } }
def sReg (q : PipSt) (i : Nat) : Word64 := Tab.get 0 q.regs.s i
/-- Write an S register that the next instruction can read. A later write in program order stands. [DESIGN CHOICE, log 47] -/
def setS (q : PipSt) (i : Nat) (v : Word64) : PipSt :=
  { q with regs := { q.regs with s := Tab.set 0 q.regs.s i v, sAt := Tab.set 0 q.regs.sAt i 0 } }

/-- An S register that is written later than the next cycle stalls an instruction that reads it in cycle `c` (R50, R71). -/
def regWait (q : PipSt) (c : Nat) (rs : List Nat) : List Stall :=
  if rs.any fun i => decide (c < Tab.get 0 q.regs.sAt i) then [⟨causeReg, 0⟩] else []

/-- Write an S register that can be read from cycle `c` on. -/
def setSAt (q : PipSt) (i : Nat) (v : Word64) (c : Nat) : PipSt :=
  let r := setS q i v
  { r with regs := { r.regs with sAt := Tab.set 0 r.regs.sAt i c } }

/-- LOOP (R82). -/
def execLoop (p : Nat) (exe : Bool) (d level body : Nat) (s : State) : Host.Outcome State Fault Refusal :=
  within 10240 p (issueJump s p exe (.loop p exe d level body) (loopOk level body) (fun _ => []) id
    fun q t => enterLoop t level body (lcOf q exe level).toNat)

/-- The branch reads the SCQ. -/
def brfPops (exe : Bool) (o : BOp) : Bool := !exe && o.cond = 16
/-- The value a branch tests. -/
def brfValue (q : PipSt) (exe : Bool) (o : BOp) : Word64 :=
  if exe then sReg q o.cond else if o.cond = 16 then frontScq q else aReg q o.cond
/-- TEST (Table 3.5). -/
def brfTest (test : Nat) (v : Word64) : Bool :=
  match test with
  | 0 => v = 0
  | 1 => v ≠ 0
  | 2 => v.msb
  | _ => !v.msb

/-- BRF (R85). -/
def execBrf (p : Nat) (exe : Bool) (d : Nat) (o : BOp) (s : State) : Host.Outcome State Fault Refusal :=
  within 10240 p (issueJump s p exe (.brf p exe d o) (bOk exe o)
    (fun q => if brfPops exe o then scqStall q else if exe then regWait q s.cycle [o.cond] else [])
    (fun q => if brfPops exe o then popScq q else q)
    fun q t => enterArm t (brfTest o.test (brfValue q exe o)) o.na o.nb o.pad)

/-- The count LCSET writes. -/
def lcsetValue (q : PipSt) (exe : Bool) (src reg imm : Nat) : BitVec 16 :=
  match src with
  | 0 => BitVec.ofNat 16 imm
  | 1 => BitVec.ofNat 16 (if exe then sReg q reg else aReg q reg).toNat
  | _ => BitVec.ofNat 16 (frontScq q).toNat

/-- LCSET (R84). -/
def execLcset (p : Nat) (exe : Bool) (d lc src reg imm : Nat) (s : State) : Host.Outcome State Fault Refusal :=
  within 10240 p (issue s p exe (.lcset p exe d lc src reg imm) (lcsetOk exe lc src reg imm) fun q =>
    attempt (if src = 2 then scqStall q else if exe && src = 1 then regWait q s.cycle [reg] else [])
      (done (setLc (if src = 2 then popScq q else q) exe lc (lcsetValue q exe src reg imm))))

/-- END (R88): the stream issues nothing further; the cycle of the second END is kept. -/
def execEndStream (p : Nat) (exe : Bool) (d : Nat) (s : State) : Host.Outcome State Fault Refusal :=
  within 10240 p (issueJump s p exe (.endStream p exe d) true (fun _ => [])
    (fun q => if (streamOf q (!exe)).ended then { q with endAt := s.cycle } else q)
    fun _ t => { t with ended := true })

/-! ### Completion -/

/-- DMA_COMPLETE (R76): every line of the channel's transfer has landed. -/
def execDmaComplete (p : Nat) (ch : Bool) (s : State) : Host.Outcome State Fault Refusal :=
  within 10240 p (
    match dmaOf (pipOf s p) ch with
    | none => s
    | some o => if o.landed < o.len then s else modPip s p fun q => setDma q ch none)

/-- A short flit of the pip is on its way. -/
def shortOwn (s : State) (p : Nat) : Bool :=
  let own (f : ShortFlit) : Bool := f.sx = pipX p && f.sy = pipY p
  (pipOf s p).net.shortOut.any own
  || s.flight.any (fun f => match f with | .short _ _ _ f => own f | _ => false)
  || s.pips.any fun e => e.2.net.shortBuf.any own

/-- A flit of the pip is on its way, in its egress or on the mesh. -/
def flitOwn (s : State) (p : Nat) : Bool :=
  (pipOf s p).q.egr.any (fun e => e.2 ≠ [])
  || s.flight.any fun f => match f with | .flit _ _ _ m | .edge _ _ _ m => m.from_ = p | _ => false

/-- All operations of the pip are complete (R88, R250). -/
def opsDone (s : State) (p : Nat) : Bool :=
  let q := pipOf s p
  let o := q.ops
  o.xfers.all xferOver && o.tlw = none && o.tmms = [] && o.upds = [] && o.drain = none && o.ring = none && o.dma0 = none
  && o.dma1 = none && o.sigls = [] && o.fills = [] && o.writes = [] && o.dlds = [] && q.ten.switchTo ≤ s.cycle && (List.range 5).all (fun e => !(engOf q e).running)
  && !shortOwn s p && !flitOwn s p

/-- A run of an object's bytes is read in its pip and written at the run of the copy; an error that ends the job is kept as its pip. -/
def moveRun (a b : Nat) (r : (Nat × Nat × Nat) × (Nat × Nat × Nat)) (acc : State × Option Nat) : State × Option Nat :=
  let p := nth (pipsOfPod a) r.1.1 0
  let q := nth (pipsOfPod b) r.2.1 0
  let (bs, res) := spRead (pipOf acc.1 p) r.1.2.1 r.1.2.2
  let s := forAll res.fx (applyFx p) (setPip acc.1 p res.p)
  let (ws, w) := mergeBytes (pipOf s q) (r.2.2.1 / 8) (bs.zipIdx.map fun x => (r.2.2.1 % 8 + x.2, x.1))
  let s := forAll w.fx (applyFx q) (setPip s q (storeWords w.p ws))
  (s, acc.2.or (if res.fail.isSome then some p else if w.fail.isSome then some q else none))

/-- The object that a CT_COPY has moved to the pod that its ARG names, by the runs of R233 (R19, R236). What its program's block moves do
line by line is made once, as the job completes. [DESIGN CHOICE, log 19] -/
def moveObject (s : State) (j : Job) : State × Option Nat :=
  match j.extra with
  | none => (s, none)
  | some b =>
    let a := leadPod j
    let x := ctDesc s a (field j.payload 34 2 % 1024)
    let y := ctDesc s b (field j.payload 32 2 % 1024)
    ((objRuns (psetOf s a x) x).zip (objRuns (psetOf s b y) y)).foldl (fun acc r => moveRun a b r acc) (s, none)

/-- A job whose pips have all finished ends with E_OK, or with the error that its copy met. -/
def finishJob (s : State) (j : Job) : State :=
  match moveObject s j with
  | (s, none) => endJob s j eOk 0
  | (s, some p) => failPip s p eEccDet true

/-- PIP_FINISH (R88): the pip has finished its part; with the last pip the job completes. -/
def execPipFinish (p : Nat) (s : State) : Host.Outcome State Fault Refusal :=
  within 10240 p (
    match jobOfPip s p with
    | none => s
    | some j =>
      let q := pipOf s p
      if j.phase ≠ .running ∨ !jobLoaded s j ∨ !q.acc.ended ∨ !q.exe.ended ∨ !opsDone s p ∨ q.finished then s
      else
        let s := modPip s p fun q => { q with finished := true }
        if (jobPips j).all fun k => (pipOf s k).finished then finishJob s j else s)

/-- Stalls of the instructions of a stream: of the one at pc, and of those that are under way (R45). -/
def holdsOf (q : PipSt) (exe : Bool) : List Hold :=
  (streamOf q exe).hold ::
  (if exe then
    (q.ops.tlw.map (·.hold)).toList ++ q.ops.tmms.map (·.hold) ++ (q.ops.drain.map (·.hold)).toList ++ (q.ops.ring.map (·.hold)).toList
   else q.ops.xfers.map (·.hold))

/-- One instruction of the stream has been stalled for 2^20 consecutive cycles (R46). -/
def stuck (q : PipSt) (exe : Bool) : Bool := (holdsOf q exe).any fun h => decide (2 ^ 20 ≤ h.n)

/-- JOB_WATCHDOG (R46). -/
def execJobWatchdog (p : Nat) (exe : Bool) (s : State) : Host.Outcome State Fault Refusal :=
  within 10240 p (if stuck (pipOf s p) exe then failPip s p eWatchdog false else s)

/-- ENGINE_WATCHDOG (R250). -/
def execEngineWatchdog (p : Nat) (s : State) : Host.Outcome State Fault Refusal :=
  within 10240 p (
    let q := pipOf s p
    if q.acc.ended && q.exe.ended && (List.range 5).any (fun e => (engOf q e).running) && decide (q.endAt + 2 ^ 20 ≤ s.cycle) then
      failPip s p eWatchdog false
    else s)

end Sys2Proof.Machine
end

