-- ==== Sys2Proof/Machine/Tensor.lean ====
section
/-!
DEFINITION. The tensor array, the vector chain and the scalar unit as instructions of the execute stream (Table 3.3), with
the ends of a tile multiply, a mode switch and a drain.
-/
namespace Sys2Proof.Machine

/-! ### The tensor array -/

/-- A tile multiply still has rows to enter. -/
def rowsToEnter (q : PipSt) : Bool := q.ops.tmms.any fun o => decide (o.row < 32)
/-- A tile multiply has still to update its buffer in cycle `c` or later (R51). -/
def tmmLive (c : Nat) (o : TmmOp) : Bool := decide (o.row < 32) || decide (c ≤ o.last)
/-- The array accepts no row in cycle `c` because it switches modes (R55). -/
def switches (q : PipSt) (c : Nat) : Bool := decide (c < q.ten.switchTo)
/-- The vector chain is busy: the drain has still to push (R187). -/
def chainBusy (q : PipSt) : Bool := q.ops.drain.any fun o => decide (o.t ≤ drainLast o)

/-- TLW (R52): entries of LQ1 into the shadow set, the first in the cycle of issue. -/
def execTlw (p d count : Nat) (s : State) : Host.Outcome State Fault Refusal :=
  within 10240 p (issue s p true (.tlw p d count) (decide (1 ≤ count) && decide (count ≤ 16)) fun q =>
    attempt (busyIf (switches q s.cycle || q.ops.tlw.isSome) ++ tlwStall q)
      (if q.ten.tmode && count ≠ 3 then failWith q eDesc else done (tlwPop q s.cycle ⟨count, s.cycle, {}⟩)))

/-- The exchange of the weight sets, with the check of R223. -/
def exchange (q : PipSt) : PRes :=
  let q := { q with ten := { q.ten with active := q.ten.shadow, shadow := q.ten.active, fill := 0 } }
  if q.ten.tmode && !modSetOk q.ten.active then failWith q eDesc else done q

/-- TSW (R52, R223). -/
def execTsw (p d : Nat) (s : State) : Host.Outcome State Fault Refusal :=
  within 10240 p (issue s p true (.tsw p d) true fun q =>
    attempt (busyIf (switches q s.cycle || rowsToEnter q || q.ops.tlw.isSome)) (exchange q))

/-- A drain still reads the buffer (R53, R187, R189). -/
def drainReads (q : PipSt) (acc : Bool) : Bool :=
  q.ops.drain.any fun o => o.acc = acc && !cSrc o.cfg && !cStload o.cfg && decide (o.t < o.len)

/-- The condition on a TMM's codes that depends on the mode (R81). -/
def tmmModeOk (q : PipSt) (fa fw : Nat) : Bool :=
  if q.ten.tmode then fa = 15 && fw = 15 else fa ≠ 15 && fw ≠ 15

/-- The buffer that a tile multiply leaves is read as its mapping says (R185, R226). -/
def tmmMaps (ten : Tensor) (acc : Bool) (fmtW : Nat) : Tensor :=
  let t := if ten.tmode then 1 else fmtT fmtW
  let key := ten.tmode && modKey ten.active
  if acc then { ten with t1 := t, key1 := key } else { ten with t0 := t, key0 := key }

/-- A tile multiply starts in cycle `c`: its first row enters (R51). -/
def startTmm (q : PipSt) (c : Nat) (op : TmmOp) : PipSt :=
  let (r, o, _) := tmmRow q c op
  { r with ten := tmmMaps r.ten op.acc op.fmtW, ops := { r.ops with tmms := r.ops.tmms ++ [o] } }

/-- TMM (R51, R53, R58, R81, R224, R225). -/
def execTmm (p d : Nat) (acc clr : Bool) (fmtA fmtW : Nat) (s : State) : Host.Outcome State Fault Refusal :=
  within 10240 p (issue s p true (.tmm p d acc clr fmtA fmtW) (tmmCodesOk fmtA fmtW) fun q =>
    let op : TmmOp := { acc := acc, clr := clr, fmtA := fmtA, fmtW := fmtW }
    let ws := busyIf (switches q s.cycle || rowsToEnter q) ++ (if drainReads q acc then [⟨causeAcc, 0⟩] else [])
    if !tmmModeOk q fmtA fmtW then attempt ws (failWith q eDesc)
    else attempt (ws ++ tmmStall q (ringTakesKey q s.cycle) op) (done (startTmm q s.cycle op)))

/-- TMM_COMPLETE (R51): the oldest tile multiply whose last row has updated its buffer is complete. -/
def execTmmComplete (p : Nat) (s : State) : Host.Outcome State Fault Refusal :=
  within 10240 p (
    match (pipOf s p).ops.tmms with
    | [] => s
    | op :: _ =>
      if op.row < 32 ∨ s.cycle ≤ op.last then s
      else modPip s p fun q => { q with ops := { q.ops with tmms := q.ops.tmms.drop 1 } })

/-- Contents that a TMODE leaves undefined, from counter `k` (R55): 64 buffer rows and 32 weight entries. -/
def freeTensor (k : Nat) (t : Tensor) : Tensor :=
  let rows (b : Nat) : Tab (BitVec 4096) := (List.range 32).foldl (fun t i => Tab.set 0 t i (Config.freeBits (k + b + i))) []
  let entry (i : Nat) : LqEntry :=
    let w := (Config.freeBits (k + 64 + i)).toNat
    ⟨BitVec.ofNat 1024 w, toBytes 32 (w / 2 ^ 1024), w / 2 ^ 1280 % 1025⟩
  let set (b : Nat) : Tab LqEntry := (List.range 16).foldl (fun t i => Tab.set {} t i (entry (b + i))) []
  { t with acc0 := rows 0, acc1 := rows 32, active := set 0, shadow := set 16 }

/-- The switch of TMODE in cycle `c`. -/
def switchMode (mode : Bool) (k c : Nat) (q : PipSt) : PipSt :=
  let t := freeTensor k q.ten
  { q with ten := { t with tmode := mode, switchTo := c + 8, fill := 0, t0 := 0, t1 := 0, key0 := false, key1 := false } }

/-- TMODE (R55). -/
def execTmode (p d : Nat) (mode : Bool) (s : State) : Host.Outcome State Fault Refusal :=
  within 10240 p (
    let t := issue s p true (.tmode p d mode) true fun q =>
      attempt (busyIf (switches q s.cycle || q.ops.tmms.any (tmmLive s.cycle) || chainBusy q || q.ops.tlw.isSome))
        (done (switchMode mode s.free s.cycle q))
    if (pipOf t p).ten.switchTo = (pipOf s p).ten.switchTo then t else { t with free := t.free + 96 })

/-- TMODE_COMPLETE (R55): the array accepts rows again. -/
def execTmodeComplete (p : Nat) (s : State) : Host.Outcome State Fault Refusal :=
  within 10240 p (
    if s.cycle < (pipOf s p).ten.switchTo then s
    else modPip s p fun q => { q with ten := { q.ten with switchTo := 0 } })

/-! ### The vector chain -/

/-- The drain would read the buffer of a tile multiply that has not completed (R53). -/
def accPending (q : PipSt) (c : Nat) (acc : Bool) (g : List Byte) : Bool :=
  !cSrc g && !cStload g && q.ops.tmms.any fun o => o.acc = acc && tmmLive c o

/-- A refused TDRN (R191). -/
def refuseDrain (q : PipSt) (chain check : Nat) : PRes :=
  failWith { q with st := { q.st with chain := chain, check := check, refused := true } } eDesc

/-- The chain's unit after a drain that is over. -/
def freeChain (q : PipSt) : PipSt := if q.ops.drain.isSome then drainFinish q else q

/-- TDRN (R186, R191, R468). -/
def execTdrn (p d : Nat) (acc : Bool) (chain : Nat) (sq : Bool) (s : State) : Host.Outcome State Fault Refusal :=
  within 10240 p (issue s p true (.tdrn p d acc chain sq) (decide (chain < 16)) fun q =>
    let g := cfgOf q.chn chain
    let n := cfgFail q.chn g
    attempt (busyIf (!q.chainIn || chainBusy q) ++ (if accPending q s.cycle acc g then [⟨causeAcc, 0⟩] else []))
      (if n ≠ 0 then refuseDrain q chain n else done (drainStart (freeChain q) s.cycle acc sq chain)))

/-- DRAIN_END (R187): the last push has been made, and the chain becomes free. -/
def execDrainEnd (p : Nat) (s : State) : Host.Outcome State Fault Refusal :=
  within 10240 p (if chainBusy (pipOf s p) then s else modPip s p freeChain)

/-! ### The scalar unit -/

/-- The second operand of SOP. -/
def sopB (q : PipSt) (o : SOp) : Word64 := if o.immsel then BitVec.ofInt 64 (imm24 o.imm) else sReg q o.sb

/-- SOP's result (Table 3.3): `v` SA, `w` the second operand, `z` the old SD. -/
def sopResult (o : SOp) (v w z : Word64) : Word64 :=
  let flag (b : Bool) : Word64 := if b then 1 else 0
  let n := w.toNat % 64
  match o.fn with
  | 0 => v + w
  | 1 => v - w
  | 2 => v * w
  | 3 => v &&& w
  | 4 => v ||| w
  | 5 => v ^^^ w
  | 6 => v <<< n
  | 7 => v >>> n
  | 8 => v.sshiftRight n
  | 9 => if v.slt w then v else w
  | 10 => if v.slt w then w else v
  | 11 => if v.ult w then v else w
  | 12 => if v.ult w then w else v
  | 13 => flag (v = w)
  | 14 => flag (v.slt w)
  | 15 => flag (v.ult w)
  | 16 => w
  | _ => BitVec.ofNat 64 (o.imm % 2 ^ 24 * 2 ^ 40 + z.toNat % 2 ^ 40)

/-- S registers that SOP reads (Table 3.3). -/
def sopReads (o : SOp) : List Nat :=
  if o.fn = 17 then [o.sd] else (if o.fn = 16 then [] else [o.sa]) ++ (if o.immsel then [] else [o.sb])

/-- SOP (R80): the product of a multiply can be read three cycles later. -/
def execSop (p d : Nat) (o : SOp) (s : State) : Host.Outcome State Fault Refusal :=
  within 10240 p (issue s p true (.sop p d o) (sOk o) fun q =>
    let v := sopResult o (sReg q o.sa) (sopB q o) (sReg q o.sd)
    attempt (regWait q s.cycle (sopReads o)) (done (if o.fn = 2 then setSAt q o.sd v (s.cycle + 3) else setS q o.sd v)))

/-- The byte address of a narrow access (R73, R150). -/
def narrowAddr (q : PipSt) (o : NOp) : Int :=
  let off := (sReg q o.sa + BitVec.ofInt 64 (imm24 o.imm)).toInt
  if o.raw then off else (dActive (descOf q o.handle) : Int) + off

/-- The code that refuses a narrow access, if any (R73, R75, R137, R148, R150, R154). -/
def narrowCheck (q : PipSt) (o : NOp) : Option Byte :=
  let a := narrowAddr q o
  let n : Nat := 2 ^ o.size
  let d := descOf q o.handle
  if !o.raw && (!dValid d || dWord d || dEbc d) then some eDesc
  else if a % (n : Int) ≠ 0 then some eDesc
  else if !o.raw && !(decide ((footprint d).1 ≤ a) && decide (a + n - 1 ≤ (footprint d).2)) then some eBounds
  else if !inRegion q.sp q.st.context a n then some eBounds
  else none

/-- The swizzle of a narrow access (R73, R152). -/
def narrowSwz (q : PipSt) (o : NOp) : Nat := if o.raw then 0 else dSwz (descOf q o.handle)

/-- What a narrow access of cycle `c` that reads the S registers `rs` waits for: registers, the descriptors, a fence, its bank (R49,
R50, R256, R468). -/
def narrowWait (q : PipSt) (c : Nat) (o : NOp) (rs : List Nat) (write : Bool) : List Stall :=
  let a := narrowAddr q o
  regWait q c rs ++ descWait q o.raw ++ fenceStall q a (2 ^ o.size) write ++ bankStall q a

/-- A narrow access: refused, or made at its address in its bank (R75). -/
def narrow (q : PipSt) (o : NOp) (f : PipSt → Nat → PRes) : PRes :=
  match narrowCheck q o with
  | some c => failWith q c
  | none => f (takeBank q (narrowAddr q o)) (narrowAddr q o).toNat

/-- SLD (R50, R150): SIZE bytes, zero-extended, which can be read three cycles later. -/
def execSld (p d : Nat) (o : NOp) (s : State) : Host.Outcome State Fault Refusal :=
  within 10240 p (issue s p true (.sld p d o) (nOk o) fun q =>
    attempt (narrowWait q s.cycle o [o.sa] false) (narrow q o fun r a =>
      let (b, r) := readAt r (narrowSwz q o) a (2 ^ o.size)
      ⟨setSAt r.p o.sd (BitVec.ofNat 64 (ofBytes b)) (s.cycle + 3), r.fail, r.fx⟩))

/-- SST (R50, R136, R150): the low SIZE bytes of SD, read-modify-write where they are part of a word. -/
def execSst (p d : Nat) (o : NOp) (s : State) : Host.Outcome State Fault Refusal :=
  within 10240 p (issue s p true (.sst p d o) (nOk o) fun q =>
    attempt (narrowWait q s.cycle o [o.sa, o.sd] true) (narrow q o fun r a =>
      let bs := toBytes (2 ^ o.size) (sReg q o.sd).toNat
      let (ws, r) := mergeBytes r (placeOf (narrowSwz q o) a) (bs.zipIdx.map fun b => (a % 8 + b.2, b.1))
      { r with p := holdWrite r.p s.cycle 0 ws }))

/-- SPUSH (R59): a full SCQ stalls. -/
def execSpush (p d sa : Nat) (s : State) : Host.Outcome State Fault Refusal :=
  within 10240 p (issue s p true (.spush p d sa) (decide (sa < 32)) fun q =>
    attempt (regWait q s.cycle [sa] ++ (if canPut q qScq 1 then [] else [⟨causeScq, 0⟩]))
      (done { notePut q qScq 1 with q := { q.q with scq := q.q.scq ++ [sReg q sa] } }))

/-- A summary of the last completed drain (R197). -/
def summaryOf (c : Chain) (which : Nat) : Word64 :=
  match which with
  | 0 => BitVec.ofNat 64 c.count
  | 1 => if c.count ≠ 0 then 1 else 0
  | 2 => BitVec.ofNat 64 c.vmax.toNat
  | _ => BitVec.ofNat 64 c.argmax

/-- SSUM (R59, R197): it waits until the summaries can be read. -/
def execSsum (p d sd which : Nat) (s : State) : Host.Outcome State Fault Refusal :=
  within 10240 p (issue s p true (.ssum p d sd which) (decide (sd < 32) && decide (which < 4)) fun q =>
    attempt (if s.cycle < q.chn.readyAt then [⟨causeReg, 0⟩] else []) (done (setS q sd (summaryOf q.chn which))))

/-- LRXSET (R181). -/
def execLrxset (p d idx sa : Nat) (s : State) : Host.Outcome State Fault Refusal :=
  within 10240 p (issue s p true (.lrxset p d idx sa) (decide (idx < 64) && decide (sa < 32)) fun q =>
    attempt (regWait q s.cycle [sa])
      (done { q with regs := { q.regs with lrx := Tab.set 0 q.regs.lrx idx (BitVec.ofNat 8 (sReg q sa).toNat) } }))

end Sys2Proof.Machine
end

