-- ==== Sys2Proof/Machine/Ring.lean ====
section
/-!
DEFINITION. The ring unit as instructions (Table 8.4): one shared start (R213), the end of an operation (R214) and the
residue comparison (R219, R220).
-/
namespace Sys2Proof.Machine

/-- The ring unit is busy with an operation (R39). -/
def ringBusy (q : PipSt) : Bool := q.ops.ring.any fun o => decide (o.k < o.count)

/-- The ring image and its derivations are ready in cycle `c` (R210, R468). -/
def ringReady (q : PipSt) (c : Nat) : Bool := q.ringAt ≠ 0 && decide (q.ringAt ≤ c + 1)

/-- RING instruction `i` with function `rfn`: it waits while the unit is busy, then starts (R39, R212, R213, R468). -/
def issueRing (s : State) (p rfn : Nat) (i : Instr) (o : GOp) : State :=
  issue s p true i (gOk o) fun q =>
    attempt (busyIf (!ringReady q s.cycle || ringBusy q)) (ringStart q s.cycle rfn o.rslot o.count o.sq)

/-- NTTL: forward local phase (R216). -/
def execNttl (p d : Nat) (o : GOp) (s : State) : Host.Outcome State Fault Refusal :=
  within 10240 p (issueRing s p 0x0 (.nttl p d o) o)

/-- NTTX: forward cross phase (R216). -/
def execNttx (p d : Nat) (o : GOp) (s : State) : Host.Outcome State Fault Refusal :=
  within 10240 p (issueRing s p 0x1 (.nttx p d o) o)

/-- INTX: inverse cross phase (R217). -/
def execIntx (p d : Nat) (o : GOp) (s : State) : Host.Outcome State Fault Refusal :=
  within 10240 p (issueRing s p 0x2 (.intx p d o) o)

/-- INTL: inverse local phase (R217). -/
def execIntl (p d : Nat) (o : GOp) (s : State) : Host.Outcome State Fault Refusal :=
  within 10240 p (issueRing s p 0x3 (.intl p d o) o)

/-- EADD: sum modulo q (Table 8.4). -/
def execEadd (p d : Nat) (o : GOp) (s : State) : Host.Outcome State Fault Refusal :=
  within 10240 p (issueRing s p 0x4 (.eadd p d o) o)

/-- ESUB: difference modulo q (Table 8.4). -/
def execEsub (p d : Nat) (o : GOp) (s : State) : Host.Outcome State Fault Refusal :=
  within 10240 p (issueRing s p 0x5 (.esub p d o) o)

/-- EMUL: Montgomery product (Table 8.4). -/
def execEmul (p d : Nat) (o : GOp) (s : State) : Host.Outcome State Fault Refusal :=
  within 10240 p (issueRing s p 0x6 (.emul p d o) o)

/-- MULC: Montgomery product with the limb's constant (R212). -/
def execMulc (p d : Nat) (o : GOp) (s : State) : Host.Outcome State Fault Refusal :=
  within 10240 p (issueRing s p 0x7 (.mulc p d o) o)

/-- KMAC: multiply-accumulate of a digit with key words (R222). -/
def execKmac (p d : Nat) (o : GOp) (s : State) : Host.Outcome State Fault Refusal :=
  within 10240 p (issueRing s p 0x8 (.kmac p d o) o)

/-- AUTO: automorphism (R221). -/
def execAuto (p d : Nat) (o : GOp) (s : State) : Host.Outcome State Fault Refusal :=
  within 10240 p (issueRing s p 0x9 (.auto p d o) o)

/-- TOMONT: into Montgomery form (Table 8.4). -/
def execTomont (p d : Nat) (o : GOp) (s : State) : Host.Outcome State Fault Refusal :=
  within 10240 p (issueRing s p 0xA (.tomont p d o) o)

/-- FROMMONT: out of Montgomery form (Table 8.4). -/
def execFrommont (p d : Nat) (o : GOp) (s : State) : Host.Outcome State Fault Refusal :=
  within 10240 p (issueRing s p 0xB (.frommont p d o) o)

/-- KOUT: the accumulator planes, then both cleared (R222). -/
def execKout (p d : Nat) (o : GOp) (s : State) : Host.Outcome State Fault Refusal :=
  within 10240 p (issueRing s p 0xC (.kout p d o) o)

/-- RING_OP_COMPLETE (R214): the last result entry is pushed and the unit becomes free. -/
def execRingOpComplete (p : Nat) (s : State) : Host.Outcome State Fault Refusal :=
  within 10240 p (
    if ringBusy (pipOf s p) then s
    else modPip s p fun q => { q with ops := { q.ops with ring := none }, st := { q.st with waitq := 0 } })

/-! ### The residue checker (R219, R220) -/

/-- The pip whose ring image gives the checker its primes, and which locates a mismatch. -/
def podLead (pod : Nat) : Nat := (pipsOfPod pod).headD 0

/-- The job that runs on a pod. -/
def jobOfPod (s : State) (pod : Nat) : Option Job := jobOfPip s (podLead pod)

/-- A forward phase that has all 16 partials, or an inverse phase whose last word has arrived: the expected value and its
prime entry, what arrived, and the pod afterwards. [DEDUCED, log 18] -/
def compareOf (v : PodSt) (inverse : Bool) : Option ((Nat × Nat) × Nat × PodSt) :=
  if inverse then
    match v.inv, Tab.get 0 v.pIntl v.nIntl with
    | e :: rest, w + 1 => some (e, w, { v with inv := rest, nIntl := v.nIntl + 1 })
    | _, _ => none
  else
    let parts := (List.range 16).map fun i => Tab.get 0 v.pNttx (16 * v.nNttx + i)
    match v.fwd with
    | e :: rest =>
      if parts.any (· = 0) then none
      else some (e, parts.foldl (fun a x => a + (x - 1)) 0, { v with fwd := rest, nNttx := v.nNttx + 1 })
    | [] => none

/-- The next comparison of a direction completes by cycle `c` (R219). -/
def compareDue (v : PodSt) (inverse : Bool) (c : Nat) : Bool :=
  decide (Tab.get 0 v.dueAt (2 * (if inverse then v.nIntl else v.nNttx) + b2n inverse) ≤ c + 1)

/-- The phase to be compared next used a table that is not that of Table 8.5, which the check does not detect (R218). -/
def compareOdd (v : PodSt) (inverse : Bool) : Bool :=
  Tab.get false v.odd (2 * (if inverse then v.nIntl else v.nNttx) + b2n inverse)

/-- RESIDUE_COMPARE (R218 to R220). -/
def execResidueCompare (pod : Nat) (inverse : Bool) (s : State) : Host.Outcome State Fault Refusal :=
  within 640 pod (
    let due := compareDue (podSt s pod) inverse s.cycle
    let odd := compareOdd (podSt s pod) inverse
    match (if due then compareOf (podSt s pod) inverse else none), jobOfPod s pod with
    | some (e, got, v), some j =>
      let q := max 1 (primeQ (pipOf s (podLead pod)).rng.image e.2)
      let s := setPod s pod { v with checkCnt := bump v.checkCnt 1 }
      if odd || e.1 % q = got % q then s
      else
        let s := modPod s pod fun v =>
          { v with failCnt := bump v.failCnt 1, mismatch := true, failPrime := e.2, failDir := inverse }
        let s := endJob s j eEccDet (siteOf (podLead pod))
        raiseFault s 3 [j.part] (locOf (podLead pod)) eEccDet
    | _, _ => s)

end Sys2Proof.Machine
end

