-- ==== Sys2Proof/Machine/Mesh.lean ====
section
/-!
DEFINITION. The mesh: slots and credits (R60, R61, R106, R109 to R111), deliveries (Table 4.2), the DMA writer (R18) and the short
path (R113 to R117).
-/
namespace Sys2Proof.Machine

/-! ### Slots (R61, R106, R111) -/

/-- The position is one in which output `port` of the router takes the pip's egress queue: the credit counter it names. A position of
the base plan takes it only where an enabled route starts (R119, R120). -/
def sendSlot (s : State) (p port pos : Nat) : Option Nat :=
  let e := slotEntry s p pos
  let r := resv s
  if entSrc e port = 5 && (!owns r p port pos || s.mod.transit.any fun i => (routeWays r i).any (wayFrom r s.mod.map p port pos))
  then some (entCr e port) else none

/-- Credit counter `cr` of a pip. [DEDUCED, log 19] -/
def creditOf (q : PipSt) (cr : Nat) : Nat := Tab.get 0 q.net.credit cr
def setCredit (q : PipSt) (cr v : Nat) : PipSt := { q with net := { q.net with credit := Tab.set 0 q.net.credit cr v } }
/-- Flits sent under a counter that some destination has still to take in. [DEDUCED, log 19] -/
def owedOf (q : PipSt) (cr : Nat) : List (List Nat) := Tab.get [] q.net.owed cr
def setOwed (q : PipSt) (cr : Nat) (l : List (List Nat)) : PipSt :=
  { q with net := { q.net with owed := Tab.set [] q.net.owed cr l } }

/-- A copy of a flit that leaves in cycle `c` on its way to one destination. -/
def flyTo (c : Nat) (f : MFlit) (d : Dest × Nat) : Flight :=
  let f := { f with hop := d.2 }
  match d.1 with | .pip q i => .flit q i (c + d.2) f | .edge q i => .edge q i (c + d.2) f

/-- Work that a part of a pip does once a cycle: 24 to 27 the egress ports, 28 the short-path unit. -/
def didWork (q : PipSt) (k : Nat) : Bool := decide (0 < Tab.get 0 q.cyc.pops k)

/-- The flit at the head of egress `port` leaves under counter `cr`, or the slot passes and is counted (R61). -/
def leaveFlit (s : State) (p port cr ser : Nat) (data : Flit) (rest : List (Nat × Flit)) : State :=
  let q := notePop (pipOf s p) (24 + port)
  if creditOf q cr = 0 then setPip s p { q with cnt := { q.cnt with defer_ := bump q.cnt.defer_ 1 } }
  else
    let f : MFlit := { cls := 0, ser := ser, from_ := p, cr := cr, data := data }
    let ends := flitPath s pathFuel p port (s.cycle % 4096) 0
    let q := notePop { q with q := { q.q with egr := Tab.set [] q.q.egr port rest } } (qEgress port)
    let q := setOwed (setCredit q cr (creditOf q cr - 1)) cr (owedOf q cr ++ [ends.map fun x => destNum x.1])
    setPip { s with flight := s.flight ++ ends.map (flyTo s.cycle f) } p q

/-- MESH_FLIT_SEND (R61, R106): in the frame position of this cycle, which every router shares, the flit at the head of the egress queue
leaves in its slot, or the slot passes. -/
def execMeshFlitSend (p port pos : Nat) (s : State) : Host.Outcome State Fault Refusal :=
  within 10240 p (
    if port ≥ 4 ∨ pos ≠ s.cycle % 4096 ∨ didWork (pipOf s p) (24 + port) ∨ !canPop (pipOf s p) (qEgress port) then s
    else
      match sendSlot s p port pos, Tab.get [] (pipOf s p).q.egr port with
      | some cr, (ser, data) :: rest => leaveFlit s p port cr ser data rest
      | _, _ => s)

/-! ### Deliveries (Table 4.2) -/

/-- Two things that keep their order: they travel one way to one place. -/
def sameWay : Flight → Flight → Bool
  | .flit d i _ f, .flit e j _ g => d = e && i = j && f.from_ = g.from_
  | .edge d i _ f, .edge e j _ g => d = e && i = j && f.from_ = g.from_
  | .line d u _ i _, .line e v _ j _ => d = e && u = v && i = j
  | .wline k r _ _, .wline m t _ _ => k = m && r = t
  | .key d _ h _ _, .key e _ i _ _ => d = e && h = i
  | .short a b _ _, .short c d _ _ => a = c && b = d
  | _, _ => false

/-- Cycle in which something arrives; a short flit at the end of its leg (R114). -/
def arrivesAt (m : List Byte) : Flight → Nat
  | .flit _ _ due _ | .edge _ _ due _ | .line _ _ due _ _ | .wline _ _ due _ | .key _ due _ _ _ | .credit _ _ _ due => due
  | .short a b e _ =>
    let d := if pipX a ≠ pipX b then (if pipX a < pipX b then 1 else 3) else if pipY a < pipY b then 2 else 0
    e + legCycles m d (max (max (pipX a) (pipX b) - min (pipX a) (pipX b)) (max (pipY a) (pipY b) - min (pipY a) (pipY b))) a

/-- Element `k` of what travels, if it has reached its end (R60) and nothing is ahead of it on its way. -/
def arriving (s : State) (k : Nat) : Option Flight :=
  match s.flight[k]? with
  | none => none
  | some f => if decide (s.cycle < arrivesAt s.mod.map f) || (s.flight.take k).any (sameWay f) then none else some f

/-- Element `k` has arrived. -/
def landed (s : State) (k : Nat) : State := { s with flight := s.flight.eraseIdx k }

/-- A key line at a pip: an entry of a block that has passed is passed on arrival (R263). -/
def takeKey (s : State) (p : Nat) (e : Line) : State :=
  let d := podOfPip p
  let i := pipInPod p
  let v := podSt s d
  let n := Tab.get 0 v.kallow i
  let s := setPod s d { v with kallow := if n = 0 then v.kallow else Tab.set 0 v.kallow i (n - 1), kentCnt := bump v.kentCnt 1 }
  modPip s p fun q => { q with q := { q.q with kq := q.q.kq ++ [(e, decide (n ≠ 0))] } }

/-- The pod drains the key stream of a command that ended with E_KEYSET (R264). -/
def draining (s : State) (d : Nat) : Bool := s.jobs.any fun j => j.phase = .draining && (jobPods j).contains d

/-- A flit for an ingress queue: pushed, or it waits while the queue is full. -/
def flitIn (s t : State) (p i : Nat) (f : MFlit) : State :=
  if (Tab.get [] (pipOf s p).q.ing i).length ≥ depthMesh then s
  else modPip t p fun q => { q with q := { q.q with ing := Tab.set [] q.q.ing i (Tab.get [] q.q.ing i ++ [f]) } }

/-- A flit at an attachment of a link: it enters the transmit buffer and its credit goes back (R111, R318). -/
def edgeIn (s t : State) (p i : Nat) (f : MFlit) : State :=
  match edgeRoute s p f.from_ with
  | none => s
  | some r =>
    let l := (routeLink (resv s) r).getD 36
    if txFill (linkSt s l) ≥ 128 then s
    else
      let t := { t with flight := t.flight ++ [.credit f.from_ f.cr (destNum (.edge p i)) (s.cycle + f.hop + 1)] }
      takeEdge t l r f.from_ f.data

/-- An access takes its place among those that have reached a staging buffer: by cycle, and in a cycle by attachment index with the host
last (R289). -/
def joinStq (r : Req) : List Req → List Req
  | [] => [r]
  | q :: l => if q.ready < r.ready ∨ (q.ready = r.ready ∧ q.att ≤ r.att) then q :: joinStq r l else r :: q :: l

/-- The credit of two flits of a line goes back to the stack that sent it (R61, R111). -/
def lineCredit (s : State) (k route hop : Nat) : State :=
  { s with flight := s.flight ++ [.credit (10240 + k) route 2 (s.cycle + hop + 1)] }

/-- A line at a pip: for the job-start load, or in the DMA writer (R110, R468). -/
def lineIn (s : State) (p u route : Nat) (r : Req) : State :=
  if u = 7 then
    let got (o : LoadOp) : LoadOp := { o with got := o.got ++ [lineBytes r.data] }
    lineCredit (modPip s p fun q => { q with ops := { q.ops with load := q.ops.load.map got } }) (stackOf r.addr) route r.hop
  else
    modPip s p fun q => { q with net := { q.net with writer := q.net.writer ++ [⟨u, r.sp, stackOf r.addr, route, r.hop, r.data⟩] } }

/-- A line for a stack's write buffer, or with an address of a staging buffer or request window an access of it (R281, R289). -/
def wlineIn (s t : State) (n route : Nat) (r : Req) : State :=
  if !isHbm r.addr then modStack t n fun v => { v with stq := joinStq { r with ready := s.cycle } v.stq }
  else if (Tab.get [] (stackSt s n).wbuf route).length ≥ 8 then s
  else modStack t n fun v => { v with wbuf := Tab.set [] v.wbuf route (Tab.get [] v.wbuf route ++ [r]) }

/-- A key line at a pod: discarded by a draining gate, a header for the gate, or an entry of the key queue (R262 to R264). -/
def keyIn (s t : State) (p : Nat) (header gran : Bool) (e : Line) : State :=
  let d := podOfPip p
  if draining s d then modPod t d fun v => { v with kdrainCnt := bump v.kdrainCnt 2 }
  else if header then modPod t d fun v => { v with khdr := v.khdr ++ [(e, gran, s.cycle)] }
  else if !(pipOf s p).st.kopen || decide ((pipOf s p).q.kq.length ≥ depthKq) then s
  else takeKey t p e

/-- A short flit joins the short egress of a pip, where it is ready once it is at the head. -/
def intoShort (c : Nat) (f : ShortFlit) (q : PipSt) : PipSt :=
  { q with net := { q.net with shortOut := q.net.shortOut ++ [{ f with ready := c }] } }

/-- A short flit at the end of a leg: in the buffer of its destination's short-path unit; at a turn, in the short egress of the pip at the
turn, where it is ready in that cycle. It waits while there is no room. The spec does not say where a flit stands between its two legs.
[DESIGN CHOICE, log 21] -/
def shortIn (s t : State) (at_ : Nat) (f : ShortFlit) : State :=
  let q := pipOf s at_
  if pipX at_ = f.dx ∧ pipY at_ = f.dy then
    (if q.net.shortBuf.length ≥ 8 then s
     else modPip t at_ fun q => { q with net := { q.net with shortBuf := q.net.shortBuf ++ [f] } })
  else if !shortRoom q 1 then s
  else modPip t at_ (intoShort s.cycle f)

/-- MESH_FLIT_ARRIVE (R60, R110, R114): delivery to the storage of the flit's class; it waits while that has no room. -/
def execMeshFlitArrive (k : Nat) (s : State) : Host.Outcome State Fault Refusal :=
  .next (
    match arriving s k with
    | some (.flit p i _ f) => flitIn s (landed s k) p i f
    | some (.edge p i _ f) => edgeIn s (landed s k) p i f
    | some (.line p u _ route r) => lineIn (landed s k) p u route r
    | some (.wline n route _ r) => wlineIn s (landed s k) n route r
    | some (.key p _ header gran e) => keyIn s (landed s k) p header gran e
    | some (.short _ at_ _ f) => shortIn s (landed s k) at_ f
    | _ => s)

/-- Destination `by_` has taken in the oldest flit it owed a credit for: the flits left, and whether that one is now taken
in by all its destinations (R111). [DEDUCED, log 19] -/
def takenBy (by_ : Nat) : List (List Nat) → List (List Nat) × Bool
  | [] => ([], false)
  | f :: l =>
    if f.contains by_ then (if f.erase by_ = [] then (l, true) else (f.erase by_ :: l, false))
    else (f :: (takenBy by_ l).1, (takenBy by_ l).2)

/-- A credit of destination storage `by_` comes back (R61, R111). [DEDUCED, log 19] -/
def returnCredit (s : State) (p cr by_ : Nat) : State :=
  let q := pipOf s p
  let r := takenBy by_ (owedOf q cr)
  setPip s p (setOwed (setCredit q cr (creditOf q cr + b2n r.2)) cr r.1)

/-- CREDIT_RETURN (R61): in the cycle in which the credit arrives. -/
def execCreditReturn (k : Nat) (s : State) : Host.Outcome State Fault Refusal :=
  .next (
    match arriving s k with
    | some (.credit p cr by_ _) =>
      if p ≥ 10240 ∨ (pipOf s p).job = 0 then landed s k else returnCredit (landed s k) p cr by_
    | _ => s)

/-! ### The DMA writer (R18, R110, R111, R141) -/

/-- The field of a pip serves its scratchpad; it wakes for an access held in F2 (R143). -/
def padAwake (s : State) (p : Nat) : Bool :=
  ((fieldSt s (fieldOfPip p)).state = .f0 || (fieldSt s (fieldOfPip p)).state = .f1)

/-- A line of a unit has landed, or a write has been accepted by its stack. -/
def lineLanded (q : PipSt) (u : Nat) : PipSt :=
  if u = 5 ∨ u = 6 then
    match dmaOf q (u = 6) with
    | none => q
    | some o => setDma q (u = 6) (some { o with landed := o.landed + 1 })
  else setEng { q with cnt := { q.cnt with line := bump q.cnt.line 1 } } u { engOf q u with inFlight := (engOf q u).inFlight - 1 }

/-- Tag of an engine's writes among those under way. -/
def engOwn (u : Nat) : Nat := 2 ^ 64 + u

/-- The descriptor through which unit `u` writes a line, if any, and the tag of its writes. -/
def lineDesc (q : PipSt) (u : Nat) : Option (BitVec 512) × Nat :=
  if u = 5 ∨ u = 6 then
    match dmaOf q (u = 6) with
    | none => (none, 0)
    | some o => (if o.raw then none else some o.desc, o.id + 1)
  else if u ≤ 3 then (some (Tab.get 0 (engOf q u).descs (recHandle (engOf q u).record)), engOwn u)
  else (none, 0)

/-- The writer writes a line in cycle `c` at its bank (R75, R137, R152). -/
def writeLine (q : PipSt) (c : Nat) (w : WLine) : PRes :=
  let (d, own) := lineDesc q w.unit
  match d with
  | some d =>
    if !dValid d then failWith q eDesc
    else if !inRegion q.sp q.st.context w.sp 128 then failWith q eBounds
    else done (lineLanded (holdWrite (takeBank q w.sp) c own (padWords (dSwz d) w.sp (lineBytes w.data))) w.unit)
  | none =>
    if !inRegion q.sp q.st.context w.sp 128 then failWith q eBounds
    else done (lineLanded (holdWrite (takeBank q w.sp) c own (padWords 0 w.sp (lineBytes w.data))) w.unit)

/-- DMA_WRITER_WRITE (R18, R137, R141, R143): the oldest line, in a cycle in which nothing above rank 5 has its bank. -/
def execDmaWriterWrite (p : Nat) (s : State) : Host.Outcome State Fault Refusal :=
  within 10240 p (
    match (pipOf s p).net.writer with
    | [] => s
    | w :: rest =>
      if !padAwake s p then enableField s (fieldOfPip p)
      else if bankTaken (pipOf s p) w.sp then s
      else
        let t := onPip s p fun q => writeLine { q with net := { q.net with writer := rest } } s.cycle w
        if w.unit ≤ 6 then lineCredit t w.stack w.route w.hop else t)

/-! ### The short path (R114 to R117) -/

/-- Direction of the leg a short flit takes from a pip: X first, then Y; none at its destination. -/
def legDir (p : Nat) (f : ShortFlit) : Option Nat :=
  if pipX p < f.dx then some 1 else if pipX p > f.dx then some 3
  else if pipY p < f.dy then some 2 else if pipY p > f.dy then some 0 else none

/-- Where that leg ends. -/
def legEnd (p : Nat) (f : ShortFlit) : Nat := if pipX p ≠ f.dx then pipAt f.dx (pipY p) else pipAt f.dx f.dy

/-- Hops from one pip to another in direction `d`, if the second lies ahead on the line. -/
def ahead (d from_ p : Nat) : Option Nat :=
  let x := pipX from_; let y := pipY from_; let u := pipX p; let v := pipY p
  match d with
  | 0 => if u = x && decide (v ≤ y) then some (y - v) else none
  | 1 => if v = y && decide (x ≤ u) then some (u - x) else none
  | 2 => if u = x && decide (y ≤ v) then some (v - y) else none
  | _ => if v = y && decide (u ≤ x) then some (x - u) else none

/-- A flit in flight holds output `d` of pip `p` in cycle `c` (R115). -/
def shortHeld (s : State) (p d c : Nat) : Bool :=
  s.flight.any fun g =>
    match g with
    | .short a b e f =>
      legDir a f = some d && p ≠ b && (ahead d p b).isSome &&
      (match ahead d a p with | some n => decide (e + legCycles s.mod.map d n a = c) | none => false)
    | _ => false

/-- The flit at the head of the short egress leaves it; the next one is ready in cycle `c`. [DESIGN CHOICE, log 21] -/
def popShort (c : Nat) (q : PipSt) : PipSt :=
  { q with net := { q.net with shortOut := match q.net.shortOut with | _ :: f :: l => { f with ready := c } :: l | _ => [] } }

/-- The flit at the head is put off to the next short position of its output, 64 cycles later (R115). -/
def deferShort (c : Nat) (q : PipSt) : PipSt :=
  { q with net := { q.net with shortOut := match q.net.shortOut with | f :: l => { f with ready := c } :: l | [] => [] } }

/-- SHORT_FLIT_ENTER (R114, R115): in a short position of its output at least one cycle after it was ready, the flit leaves, or is put off
where a flit in flight holds the position, which is counted once. -/
def execShortFlitEnter (p : Nat) (s : State) : Host.Outcome State Fault Refusal :=
  within 10240 p (
    match (pipOf s p).net.shortOut with
    | [] => s
    | f :: _ =>
      match legDir p f with
      | none => if (pipOf s p).net.shortBuf.length ≥ 8 then s
                else modPip s p fun q => let q := popShort s.cycle q; { q with net := { q.net with shortBuf := q.net.shortBuf ++ [f] } }
      | some d =>
        if s.cycle ≤ f.ready ∨ !shortPos s.mod.map p d (s.cycle % 4096) then s
        else if shortHeld s p d s.cycle then
          modPip { s with mod := { s.mod with shortDefer := bump s.mod.shortDefer 1 } } p (deferShort s.cycle)
        else
          let t := modPip s p (popShort s.cycle)
          { t with flight := t.flight ++ [.short p (legEnd p f) s.cycle f] })

/-- The last flit of a SPUT has been written: its engine knows (R255, R267). -/
def putWritten (f : ShortFlit) (s : State) : State :=
  if !f.last ∨ f.eng ≥ 4 then s
  else modPip s (pipAt f.sx f.sy) fun q =>
    setEng { q with cnt := { q.cnt with put := bump q.cnt.put 1 } } f.eng { engOf q f.eng with puts := (engOf q f.eng).puts - 1 }

/-- The flit leaves the unit's buffer, or what lies beyond its first line stays for the next cycle (R116). -/
def restShort (f : ShortFlit) (n : Nat) (q : PipSt) : PipSt :=
  { q with net := { q.net with shortBuf :=
    (if n < f.data.length then [{ f with addr := f.addr + n, data := f.data.drop n }] else []) ++ q.net.shortBuf.drop 1 } }

/-- A masked wide write of the flit's bytes in one line, in one bank cycle (R116). -/
def shortWrite (s : State) (p : Nat) (f : ShortFlit) : State :=
  let n := min f.data.length (128 - f.addr % 128)
  let s := modPip s p fun q =>
    holdWrite (takeBank (restShort f n q) f.addr) s.cycle 0 (padWords 0 f.addr (f.data.take n))
  if n < f.data.length then s else putWritten f s

/-- SHORT_PATH_WRITE (R93, R116, R117, R141, R143, R266): a sync update, held while its field sleeps, or a masked wide write in a cycle in
which its bank is free. One flit a cycle. -/
def execShortPathWrite (p : Nat) (s : State) : Host.Outcome State Fault Refusal :=
  within 10240 p (
    let q := pipOf s p
    match q.net.shortBuf with
    | [] => s
    | f :: rest =>
      let pop := modPip s p fun q => { notePop q 28 with net := { q.net with shortBuf := rest } }
      if didWork q 28 then s
      else if f.sync then
        (if syncReady s f.addr then syncAdd pop f.addr f.add else enableField s (syncField f.addr))
      else if !padAwake s p then enableField s (fieldOfPip p)
      else if !inRegion q.sp f.ctx f.addr f.data.length then failPip pop (pipAt f.sx f.sy) eBounds false
      else if bankTaken q f.addr then s
      else shortWrite (modPip s p fun q => notePop q 28) p f)

end Sys2Proof.Machine
end

