-- ==== Sys2Proof/Machine/EngineRun.lean ====
section
/-!
DEFINITION. Runs of the stream engines and the key reader (R252 to R258, R261 to R267, Table 10.2): start, address-generator
instructions, dependence marks, completion; key block headers at the gates (R263, R264).
-/
namespace Sys2Proof.Machine

/-! ### Start and completion -/

/-- The pip with the descriptors that a run latched (R257). -/
def latchedView (q : PipSt) (e : Engine) : PipSt := { q with regs := { q.regs with desc := e.descs } }

/-- The job of the pip runs, and takes a key. -/
def runningJob (s : State) (p : Nat) : Option Job :=
  match jobOfPip s p with | some j => if j.phase = .running then some j else none | none => none

/-- A run is refused (R252). -/
def refuseRun (s : State) (p e : Nat) (c : Nat × Byte) : State :=
  failPip (modPip s p fun q => { q with st := { q.st with errEng := e, errCheck := c.1, err := true, errCode := c.2 } }) p c.2 false

/-- Lines or rows that a copy reads, and writes: one of each a cycle (R160). -/
def copySteps (src : BitVec 512) (k : CopyKind) : Nat :=
  match k with
  | .transpose => 64 * (dElements src / 1024) + 5
  | _ => 2 * dLines src

/-- A copy runs whole at its start, and its engine stays busy for the cycles of its reads and writes. A copy waits while a transposing store
holds the exchange network (R158, R160). [DESIGN CHOICE, log 45] -/
def startCopy (s : State) (p e : Nat) : State :=
  let q := pipOf s p
  let g := engOf q e
  let src := Tab.get 0 g.descs (recHandle g.record)
  let dst := Tab.get 0 g.descs (recHandle2 g.record)
  if q.ops.xfers.any transposes || copyRuns q then s
  else
    onPip s p fun q =>
      (runCopy (setEng q e { g with started := true, ending := true, busyTo := s.cycle + copySteps src (copyKind src dst) }) src dst).andThen
        fun q => done { q with cnt := { q.cnt with line := bump q.cnt.line (dLines src) } }

/-- The engine takes its first action, a program's or a descriptor form's, in cycle `c` (R253, R254). -/
def beginRun (g : Engine) (c : Nat) : Engine :=
  let desc := decide (recForm g.record = 0)
  { g with started := true, ending := desc, pc := 0, loops := [], pos := 0, ipos := 0, marked := false, actAt := c,
           todo := if desc then [{ left := recTotal g.record, desc := true }] else [] }

/-- STREAM_RUN_START (R250, R252, R253): the record has been read, and the cycle of the engine's first action has come. -/
def execStreamRunStart (p e : Nat) (s : State) : Host.Outcome State Fault Refusal :=
  within 10240 p (
    let q := pipOf s p
    let g := engOf q e
    match runningJob s p with
    | none => s
    | some j =>
      if e > 4 ∨ !g.running ∨ g.started ∨ g.recLeft ≠ 0 ∨ s.cycle < g.firstAt then s
      else
        match recCheck (latchedView q g) g.record e (jobKind j).isSome s.mod.agDis with
        | some c => refuseRun s p e c
        | none => if recForm g.record = 2 then startCopy s p e else setPip s p (setEng q e (beginRun g s.cycle)))

/-- Every line, SPUT and scratchpad write of the run so far is complete (R254, R255). -/
def movesDone (q : PipSt) (e : Nat) : Bool :=
  let g := engOf q e
  g.todo = [] && g.inFlight = 0 && g.puts = 0 && q.ops.writes.all fun w => w.own ≠ engOwn e

/-- A completion signal or SIGSO of the job's pip (R91, R93): held while its field sleeps. -/
def engSignal (s : State) (p obj add : Nat) (next : State → State) : State :=
  match jobOfPip s p with
  | none => s
  | some j =>
    if !ownsSync s j.ctx obj then failPip s p eBounds false
    else if !syncReady s obj then enableField s (syncField obj)
    else next (syncAdd s obj add)

/-- The run is over: the engine is idle, and the lead pod runs the key reader no more. -/
def stopRun (p e : Nat) (s : State) : State :=
  let s := modPip s p fun q => setEng q e { engOf q e with running := false }
  if e = 4 then modPod s (podOfPip p) fun v => { v with klead := false } else s

/-- STREAM_RUN_COMPLETE (R255). -/
def execStreamRunComplete (p e : Nat) (s : State) : Host.Outcome State Fault Refusal :=
  within 10240 p (
    let q := pipOf s p
    let g := engOf q e
    if !(g.running && g.started && g.ending && decide (g.busyTo ≤ s.cycle) && g.keys = [] && movesDone q e) then s
    else if recSen g.record then engSignal s p (recSobj g.record) (recSadd g.record) (stopRun p e)
    else stopRun p e s)

/-! ### Address-generator instructions (R254, R255) -/

/-- The engine may execute an instruction in cycle `c`: one a cycle, none while an XFER issues its lines, and none while a KBLK with POST
waits for the PLEN that it adds to its register. [DEDUCED, log 45] -/
def agFree (g : Engine) (c : Nat) : Bool :=
  g.running && g.started && !g.ending && decide (g.actAt ≤ c) && g.todo = []
  && g.keys.all fun k => k.post.isNone || k.plen.isSome

/-- The instruction that an engine executes in this cycle, if it is a program's (R255). [DEDUCED, log 45] -/
def agAt (s : State) (p e op : Nat) : Option (Engine × Nat) :=
  let g := engOf (pipOf s p) e
  let w := recInstr g.record g.pc
  if e ≤ 4 && agFree g s.cycle && recForm g.record = 1 && agOp w = op && (runningJob s p).isSome then some (g, w) else none

/-- The engine acts next in the cycle after `c`. -/
def actNext (c : Nat) (g : Engine) : Engine := { g with actAt := c + 1 }

/-- Execute an instruction on the engine alone. [DEDUCED, log 45] -/
def agRun (s : State) (p e op : Nat) (f : Engine → Nat → Engine) : State :=
  match agAt s p e op with
  | none => s
  | some (g, w) => modPip s p fun q => setEng q e (actNext s.cycle (f g w))

/-- The immediate of GSET and GADD. -/
def agImm (w : Nat) : Word64 := BitVec.ofInt 64 (sgn 48 (bits w 47 0))

/-- GSET (R254). -/
def execGset (p e : Nat) (s : State) : Host.Outcome State Fault Refusal :=
  within 10240 p (agRun s p e 0x01 fun g w => agNext (setG g (agGd w) (agImm w)))

/-- GADD (R254). -/
def execGadd (p e : Nat) (s : State) : Host.Outcome State Fault Refusal :=
  within 10240 p (agRun s p e 0x02 fun g w => agNext (setG g (agGd w) (gReg g (agGs w) + agImm w)))

/-- GMOD (R254): the offset from the ring's base is a signed 64-bit number. -/
def execGmod (p e : Nat) (s : State) : Host.Outcome State Fault Refusal :=
  within 10240 p (agRun s p e 0x03 fun g w =>
    let b := gReg g (bits w 51 49)
    let n : Int := ((128 * bits w 23 0 : Nat) : Int)
    agNext (setG g (agGd w) (b + BitVec.ofInt 64 ((gReg g (agGs w) - b).toInt % n))))

/-- The index line in hand is the line at `a` of handle `h`. -/
def indexHeld (g : Engine) (h : Nat) (a : Int) : Option LineBuf :=
  g.iline.bind fun l => if l.1 = h && l.2.addr = a then some l.2 else none

/-- GIDX takes the word at `a` of handle `h` (R254): the line is read at its bank under the descriptor's swizzle, checked under R137, when
it is not the one in hand (R151, R255). [DEDUCED, log 45] -/
def indexLine (q : PipSt) (g : Engine) (h : Nat) (d : BitVec 512) (a : Int) : LineBuf × PRes :=
  match indexHeld g h (lineOf a) with
  | some l => (l, done q)
  | none =>
    if !inRegion q.sp q.st.context (lineOf a) 128 then ({}, failWith q eBounds)
    else
      let (bs, r) := readAt (takeBank q a) (dSwz d) (lineOf a).toNat 128
      ({ addr := lineOf a, data := bs }, r)

/-- The engine after a GIDX that found the word in line `l`. -/
def indexed (g : Engine) (w h c : Nat) (a : Int) (l : LineBuf) : Engine :=
  let i := field l.data (a - l.addr).toNat 4
  let v := gReg g (agGs w) + BitVec.ofNat 64 (i * 2 ^ bits w 37 32)
  actNext c (agNext { setG g (agGd w) v with ipos := g.ipos + 1, iline := some (h, l) })

/-- GIDX (R254, R255): it waits for the bank of its index line. -/
def execGidx (p e : Nat) (s : State) : Host.Outcome State Fault Refusal :=
  within 10240 p (
    match agAt s p e 0x04 with
    | none => s
    | some (g, w) =>
      let h := bits w 47 40
      let d := Tab.get 0 g.descs h
      if !dValid d || dWord d then failPip s p eDesc false
      else
        match seqWord d g.ipos with
        | none => failPip s p eBounds false
        | some a =>
          if (indexHeld g h (lineOf a)).isNone && bankTaken (pipOf s p) a then s
          else
            onPip s p fun q =>
              let (l, r) := indexLine q g h d a
              r.andThen fun q => done (setEng q e (indexed g w h s.cycle a l)))

/-- XFER (R254): it issues its lines, one a cycle from this cycle on. -/
def execXfer (p e : Nat) (s : State) : Host.Outcome State Fault Refusal :=
  within 10240 p (
    match agAt s p e 0x05 with
    | none => s
    | some (g, w) =>
      let n := bits w 15 0
      let a := gReg g (agGs w)
      if a.toNat % 128 ≠ 0 then failPip s p eDesc false
      else
        let g := { g with todo := [⟨a.toNat, g.pos, n, false⟩], pos := g.pos + n }
        let g := if bit w 16 then setG g (agGs w) (a + BitVec.ofNat 64 (128 * n)) else g
        modPip s p fun q => setEng q e (agNext g))

/-- KBLK (R262): the block joins the key reader's blocks. -/
def execKblk (p : Nat) (s : State) : Host.Outcome State Fault Refusal :=
  within 10240 p (
    match agAt s p 4 0x06 with
    | none => s
    | some (g, w) =>
      let a := (gReg g (agGs w)).toNat
      if g.stopped then s
      else if a % 128 ≠ 0 then failPip s p eDesc false
      else
        let k : KeyRun := { ser := g.blocks, addr := a, post := if bit w 16 then some (agGs w) else none }
        modPip s p fun q => setEng q 4 (actNext s.cycle (agNext { g with keys := g.keys ++ [k], blocks := g.blocks + 1 })))

/-- The header of block `k` has come: PLEN is known, and the register of POST gets the byte after the payload; after a malformed PLEN the
reader reads no further (R254, R262). -/
def keyHeaderIn (g : Engine) (k : KeyRun) (plen : Nat) : Engine :=
  if !plenOk plen then { g with keys := [], stopped := true }
  else
    let g := { g with keys := g.keys.map fun b => if b.ser = k.ser then { b with plen := some plen, sent := 1 } else b }
    match k.post with
    | some i => setG g i (BitVec.ofNat 64 (k.addr + 128 + plen))
    | none => g

/-- Payload bytes of a SPUT split into short flits of 56 B (R266). -/
def putFlits (p dx dy addr ctx e c : Nat) (bs : List Byte) : List ShortFlit :=
  let parts := groups 56 5 bs
  (List.range parts.length).map fun i =>
    { sx := pipX p, sy := pipY p, dx := dx, dy := dy, addr := addr + 56 * i, ctx := ctx, eng := e, ready := c,
      data := nth parts i [], last := decide (i + 1 = parts.length) }

/-- SPUT (R266): held while the short egress has no room for its flits and while the bank of its source serves another. It reads a line a
cycle. [DESIGN CHOICE, log 45] -/
def execSput (p e : Nat) (s : State) : Host.Outcome State Fault Refusal :=
  within 10240 p (
    match agAt s p e 0x07, jobOfPip s p with
    | some (g, w), some j =>
      let dx := bits w 47 40
      let dy := bits w 39 34
      let n := 8 * (bits w 33 29 + 1)
      let src := (gReg g (agGs w)).toNat
      let dst := (gReg g (agGd w)).toNat % 2 ^ 23
      let q := pipOf s p
      if src % 8 ≠ 0 ∨ dst % 8 ≠ 0 then failPip s p eDesc false
      else if !(dx < 160 && (jobPips j).contains (pipAt dx dy)) || !inRegion q.sp q.st.context src n then failPip s p eBounds false
      else if !shortRoom q ((n + 55) / 56) || bankTaken q src then s
      else
        onPip s p fun q =>
          let (bs, r) := spRead (takeBank q src) src n
          r.andThen fun q =>
            let q := { q with net := { q.net with shortOut := q.net.shortOut ++ putFlits p dx dy dst q.st.context e s.cycle bs } }
            done (setEng q e (actNext (s.cycle + (src % 128 + n - 1) / 128) (agNext { g with puts := g.puts + 1 })))
    | _, _ => s)

/-- WAITSO (R258): the engine holds at the mark till the end of a cycle that satisfies it. -/
def execWaitso (p e : Nat) (s : State) : Host.Outcome State Fault Refusal :=
  within 10240 p (
    match agAt s p e 0x08, jobOfPip s p with
    | some (g, w), some j =>
      if g.marked then s
      else if ownsSync s j.ctx (bits w 45 32) then
        modPip s p fun q => setEng q e (actNext s.cycle { g with marked := true, met := false })
      else failPip s p eBounds false
    | _, _ => s)

/-- The engine is held at its dependence mark for this cycle (R258, R268). -/
def markHeld (s : State) (p e : Nat) : State :=
  modPip s p fun q => setEng { q with cnt := { q.cnt with mark := bump q.cnt.mark 1 } } e (actNext s.cycle (engOf q e))

/-- DEPENDENCE_MARK_RELEASE (R90, R93, R258): the mark was satisfied at the end of the last cycle, or the engine is held for this one. -/
def execDependenceMarkRelease (p e : Nat) (s : State) : Host.Outcome State Fault Refusal :=
  within 10240 p (
    match agAt s p e 0x08 with
    | none => s
    | some (g, w) =>
      let i := bits w 45 32
      if !g.marked then s
      else if g.met then modPip s p fun q => setEng q e (agNext { g with marked := false, met := false })
      else if !syncReady s i then enableField (markHeld s p e) (syncField i)
      else markHeld s p e)

/-- The mark of an engine that is held, if it is satisfied at the end of this cycle (R90, R258). -/
def testMark (s : State) (p e : Nat) : State :=
  let g := engOf (pipOf s p) e
  let w := recInstr g.record g.pc
  let i := bits w 45 32
  if g.running && g.marked && syncReady s i && satisfied (syncVal s i) (BitVec.ofNat 32 (bits w 31 0)) then
    modPip s p fun q => setEng q e { engOf q e with met := true }
  else s

/-- SIGSO (R254, R267): once every earlier XFER and SPUT of the run is complete. -/
def execSigso (p e : Nat) (s : State) : Host.Outcome State Fault Refusal :=
  within 10240 p (
    match agAt s p e 0x09 with
    | none => s
    | some (g, w) =>
      if !movesDone (pipOf s p) e then s
      else engSignal s p (bits w 45 32) (bits w 15 0) fun s => modPip s p fun q => setEng q e (actNext s.cycle (agNext g)))

/-- AG_LOOP (R254). -/
def execAgLoop (p e : Nat) (s : State) : Host.Outcome State Fault Refusal :=
  within 10240 p (agRun s p e 0x0A agEnter)

/-- AG_NOP (R254). -/
def execAgNop (p e : Nat) (s : State) : Host.Outcome State Fault Refusal :=
  within 10240 p (agRun s p e 0x00 fun g _ => agNext g)

/-- AG_END (R254). -/
def execAgEnd (p e : Nat) (s : State) : Host.Outcome State Fault Refusal :=
  within 10240 p (agRun s p e 0x3F fun g _ => { g with ending := true })

/-! ### Key gates (R263, R264) -/

/-- What the gate of a pod expects (Table 10.4). -/
def gateWant (s : State) (j : Job) (pod : Nat) (gran : Bool) : KeyWant :=
  let b := j.payload
  let v := podSt s pod
  let src := ctDesc s pod (field b 34 2 % 1024)
  let dst := ctDesc s pod (field b 32 2 % 1024)
  { keyset := field b 40 4, pfp := cFp src, kind := (jobKind j).getD 0,
    exp := wantExp j.opc (ctArg b) (field b 38 2) (2 ^ pLogn (psetOf s pod dst)) v.kcount,
    index := v.knext, nblk := v.knblk, gran := gran }

/-- The first `n` entries that have not passed become passed; the rest of `n` pass as they arrive. -/
def passEntries : Nat → List (Line × Bool) → List (Line × Bool) × Nat
  | n, [] => ([], n)
  | 0, l => (l, 0)
  | n + 1, (e, true) :: l => let (l', r) := passEntries (n + 1) l; ((e, true) :: l', r)
  | n + 1, (e, false) :: l => let (l', r) := passEntries n l; ((e, true) :: l', r)

/-- A block has passed its gate. -/
def passBlock (s : State) (pod : Nat) (h : List Byte) : State :=
  let last := decide (khIndex h + 1 = khNblk h)
  let s := modPod s pod fun v =>
    { v with kblkCnt := bump v.kblkCnt 1, khdr := v.khdr.drop 1
             knext := if last then 0 else khIndex h + 1, knblk := if last then 0 else khNblk h
             kcount := if last then v.kcount + 1 else v.kcount }
  forAll (pipsOfPod pod) (fun p s =>
    let (kq, rest) := passEntries (khPlen h / 2048) (pipOf s p).q.kq
    let i := pipInPod p
    let s := modPod s pod fun v => { v with kallow := Tab.set 0 v.kallow i (Tab.get 0 v.kallow i + rest) }
    modPip s p fun q => { q with q := { q.q with kq := kq } }) s

/-- A gate records the header that failed (R264). -/
def recordFail (h : List Byte) (f : Nat) (v : PodSt) : PodSt :=
  { v with kfail := v.kfail ||| BitVec.ofNat 8 f, kfailIndex := khIndex h % 2 ^ 24, keysetCnt := bump v.keysetCnt 1, kbad := true }

/-- The job ends on every pip for a header that failed, and its key stream drains (R264); a job that drains already goes on. -/
def failBlock (s : State) (j : Job) (pod : Nat) : State :=
  let s := modPod s pod fun v => { v with khdr := v.khdr.drop 1, kbad := false }
  if j.phase = .draining then s
  else forAll (jobPods j) (fun d s => modPod s d fun v => { v with kstate := 2 }) (endJob s j eKeyset 0)

/-- The job of a pod whose key stream runs or drains. -/
def podJob (s : State) (pod : Nat) : Option Job :=
  s.jobs.find? fun j => (j.phase = .running || j.phase = .draining) && (jobPods j).contains pod

/-- KEY_HEADER_CHECK (R263, R264): the comparison of the oldest header at the gate, whose second flit came in cycle h, completes in cycle
h + 2, when a gate that fails records it; in cycle h + 4 the block passes, or the job ends. -/
def execKeyHeaderCheck (pod : Nat) (s : State) : Host.Outcome State Fault Refusal :=
  within 640 pod (
    match (podSt s pod).khdr, podJob s pod with
    | (e, gran, at_) :: _, some j =>
      let h := lineBytes e
      let f := keyFail h (gateWant s j pod gran)
      if s.cycle < at_ + 2 then s
      else if f = 0 && !(podSt s pod).kbad then
        (if s.cycle < at_ + 4 then s
         else if j.phase = .draining then modPod s pod fun v => { v with khdr := v.khdr.drop 1 }
         else passBlock s pod h)
      else
        let s := if (podSt s pod).kbad then s else modPod s pod (recordFail h f)
        if s.cycle < at_ + 4 then s else failBlock s j pod
    | _, _ => s)

/-- A key request or flit of the job is still on its way, or a header still at a gate. -/
def keysMoving (s : State) (j : Job) : Bool :=
  let p := readerPip j
  let mine (r : Req) : Bool := match r.src with | .unit q u => q = p && u = 4 | _ => false
  s.flight.any (fun f => match f with | .key d _ _ _ _ => (jobPips j).contains d | _ => false)
  || ((List.range 12).any fun k => let v := stackSt s k
      v.fifo.any (fun e => e.2.any mine) || v.lines.any (fun e => e.2.any mine))
  || (jobPods j).any fun d => (podSt s d).khdr ≠ []

/-- KEY_DRAIN_END (R264): the last key flit requested has been discarded, and the command completes with E_KEYSET. -/
def execKeyDrainEnd (j : Nat) (s : State) : Host.Outcome State Fault Refusal :=
  .next (
    match jobOf s j with
    | none => s
    | some j => if j.phase ≠ .draining ∨ keysMoving s j then s else endDrain s j)

end Sys2Proof.Machine
end

