-- ==== Sys2Proof/Machine/Hbm.lean ====
section
/-!
DEFINITION. Line requests, the schedule of a stack and the effect of its entries (R269 to R271, R279 to R286, R289, R352), and the lines
that leave an attachment pip (R281).
-/
namespace Sys2Proof.Machine

/-! ### Slots, banks, slip (R271, R279, R282) -/

/-- HBM slots since start-up, at a cycle; now. -/
def slotAt (s : State) (c : Nat) : Nat := if s.nvm.gradeE then c * 25 / 32 else c * 5 / 8
def slotNow (s : State) : Nat := slotAt s s.cycle

/-- Channel group and bank of an HBM address, by its stack offset. -/
def groupOf (a : Nat) : Nat := a / 128 % 16
def chipBank (a : Nat) : Nat := a / 2048 % 32

/-- First slot in which the group is free of its last refresh. -/
def refEnd (v : StackSt) (g : Nat) : Nat := let t := Tab.get 0 v.refAt g; if t = 0 then 0 else t - 1 + 140
/-- First slot in which the bank is ready. -/
def bankFree (v : StackSt) (i : Nat) : Nat := let t := Tab.get 0 v.bankAt i; if t = 0 then 0 else t - 1 + 40

/-- The slot in which the entry of group `g` serves bank `b`: after the slip of its group, a refresh, and the bank's last service (R282,
R286). -/
def serveAt (v : StackSt) (now g b : Nat) : Nat :=
  max (now + Tab.get 0 v.slip g) (max (refEnd v g) (bankFree v (32 * g + b)))

/-- The entry of group `g` serves bank `b`: the slip it leaves, counted. -/
def serveBank (now g b : Nat) (v : StackSt) : StackSt :=
  let at_ := serveAt v now g b
  { v with slip := Tab.set 0 v.slip g (at_ - now), slipCnt := bump v.slipCnt (at_ - now), bankAt := Tab.set 0 v.bankAt (32 * g + b) (at_ + 1) }

/-- One slot of slip goes. -/
def easeSlip (g : Nat) (v : StackSt) : StackSt := { v with slip := Tab.set 0 v.slip g (Tab.get 0 v.slip g - 1) }

/-- The entry of group `g` in this slot has had its turn. -/
def markServed (s : State) (g : Nat) (v : StackSt) : StackSt := { v with servedAt := Tab.set 0 v.servedAt g (slotNow s + 1) }

/-- The entry passes idle and is counted (R281). -/
def passIdle (s : State) (k g : Nat) : State :=
  modStack s k fun v => { markServed s g (easeSlip g v) with idleCnt := bump v.idleCnt 1 }

/-! ### The schedule (R279, R280, R283, R284, R469) -/

/-- The boot schedule (R284). -/
def bootEntry (slot g : Nat) : Nat := if slot % 2400 = 320 * g % 2400 then 3 else if slot % 4 = 3 then 7 else 4

/-- Records of an HBM section at offset `o`. -/
def hbmRecs (b : List Byte) (o : Nat) : List Nat := (List.range (hbmCount b o)).map (hbmRec b o)

/-- The record of a section for a position, if it names it (R283). -/
def entryIn (recs : List Nat) (k slot g : Nat) : Option Nat :=
  (recs.find? fun w => bits w 3 0 = k && bits w 15 4 = slot && bits w 19 16 = g).map fun w => bits w 51 20

/-- The schedule entry of stack `k` and group `g` in this slot: the boot schedule's until a base plan is admitted, then the base plan's, a
partition plan's, or idle. -/
def schedNow (s : State) (k g : Nat) : Nat :=
  let slot := slotNow s
  if (stackSt s k).boot then bootEntry slot g
  else
    let f := slot % frameSlots s
    match entryIn (hbmRecs s.mod.base (bhbmOff s.mod.base)) k f g with
    | some e => e
    | none =>
      ((List.range 16).findSome? fun n =>
        if (partSt s n).valid && (partSt s n).hasPlan then entryIn (hbmRecs (partSt s n).plan (tablesLen (partSt s n))) k f g else none).getD 0

/-- The entry of group `g` in this slot, if it has the operation, its stack is trained and it has not had its turn. -/
def entryNow (s : State) (k g op : Nat) : Option Nat :=
  let e := schedNow s k g
  if g < 16 && (stackSt s k).state = 2 && Tab.get 0 (stackSt s k).servedAt g ≠ slotNow s + 1 && bits e 2 0 = op then some e else none

/-- The entry with the operation and the route. -/
def routeEntry (s : State) (k g op route : Nat) : Option Nat := (entryNow s k g op).filter fun e => bits e 19 8 = route

/-! ### Routes of a stack (R119, R270, R281) -/

/-- An enabled route with an end at stack `k`: that end's pip. -/
def stackEnd (s : State) (route k : Nat) : Option Nat :=
  if s.mod.transit.contains route then (((routeEnd (resv s) route 1).filter fun e => e.idx = k).map (·.pip)) else none

/-- Attachment index of a pip at stack `k` (Table 11.2). -/
def attOf (k p : Nat) : Nat := ((List.range 20).find? fun a => stackPip k a = p).getD 20

/-- Cycles from one pip to another along a row, then a column: what a request word or line takes to its stack. [DESIGN CHOICE, log 30] -/
def meshCycles (m : List Byte) (p q : Nat) : Nat :=
  legCycles m (if pipX p < pipX q then 1 else 3) (max (pipX p) (pipX q) - min (pipX p) (pipX q)) p
  + legCycles m (if pipY p < pipY q then 2 else 0) (max (pipY p) (pipY q) - min (pipY p) (pipY q)) (pipAt (pipX q) (pipY p))

/-! ### Request words (R253, R255, R258, R262, R281, R468) -/

/-- A line that a unit would request next: direction, module address, scratchpad address or key position. -/
structure LineAsk where
  write : Bool
  hbm   : Int
  sp    : Option Int
  deriving DecidableEq, Repr

/-- The next line of an engine 0 to 3, in a cycle in which it may issue one (R255). -/
def engAsk (g : Engine) (c : Nat) : Option LineAsk :=
  match g.todo with
  | [] => none
  | t :: _ =>
    let d := Tab.get 0 g.descs (recHandle g.record)
    let i := recTotal g.record - t.left
    if g.running && g.started && decide (g.actAt ≤ c) then
      some ⟨recDir g.record = 1, if t.desc then recAddr g.record i else t.hbm, walk d (if t.desc then i else t.pos)⟩
    else none

/-- The engine after that request: its next line comes in the next cycle. -/
def engAsked (g : Engine) (c : Nat) : Engine :=
  match g.todo with
  | [] => g
  | t :: ts =>
    let t := { t with hbm := t.hbm + 128, pos := t.pos + 1, left := t.left - 1 }
    { g with todo := if t.left = 0 then ts else t :: ts, inFlight := g.inFlight + 1, actAt := c + 1 }

/-- The next line of a DMA transfer. -/
def dmaAsk (o : DmaOp) : Option LineAsk :=
  if o.asked ≥ o.len then none
  else some ⟨o.dir, o.hbm + 128 * o.asked, if o.raw then some ((o.sp + 128 * o.asked : Nat) : Int) else walk o.desc (o.sp + o.asked)⟩

/-- The next line of a job-start load (R468). -/
def loadAsk (o : LoadOp) : Option LineAsk := ((loadLines o)[o.asked]?).map fun a => ⟨false, (a : Int), some 0⟩

/-- Lines of a key block, once its header has given PLEN; before that, the header. -/
def keyLines (k : KeyRun) : Nat := match k.plen with | some n => 1 + n / 128 | none => 1

/-- The key block whose next line the reader would request: blocks one after another, a payload once its header has given PLEN. -/
def keyAsk (g : Engine) : Option KeyRun :=
  if g.stopped || !g.started then none
  else (g.keys.find? fun k => decide (k.asked < keyLines k) || k.plen.isNone).filter fun k => decide (k.asked < keyLines k)

/-- Share and entry of line `i` of a payload, counted from 1: the entries of equal number of the 16 shares come one after another (R262). -/
def shareOf (i : Nat) : Nat := (i - 1) % 16
def entryOf (i : Nat) : Nat := (i - 1) / 16

/-- Module address of line `i` of a key block (R259). -/
def keyLineAddr (k : KeyRun) (i : Nat) : Nat :=
  if i = 0 then k.addr else k.addr + 128 + shareOf i * (k.plen.getD 0 / 16) + 128 * entryOf i

/-- Entries of a share that have been requested and have not left HBM. -/
def sharePending (g : Engine) (n : Nat) : Nat := (g.keys.map fun k => (k.asked + 14 - n) / 16 - Tab.get 0 k.shares n).sum

/-- Entries in the key queues of the share's pips and on their way there: the most that any pod of the job has. -/
def keyAhead (s : State) (j : Job) (n : Nat) : Nat :=
  (jobPods j).foldl (fun m d =>
    let p := nth (pipsOfPod d) n 0
    max m ((pipOf s p).q.kq.length + (s.flight.filter fun f => match f with | .key q _ h _ _ => q = p && !h | _ => false).length)) 0

/-- The reader's next line, while the 64 entries of its key queues have room for it (R258). -/
def readerAsk (s : State) (p : Nat) (j : Job) : Option LineAsk :=
  let g := engOf (pipOf s p) 4
  (keyAsk g).bind fun k =>
    if k.asked = 0 || decide (keyAhead s j (shareOf k.asked) + sharePending g (shareOf k.asked) < depthKq) then
      some ⟨false, (keyLineAddr k k.asked : Int), some ((2 ^ 20 * k.ser + k.asked : Nat) : Int)⟩
    else none

/-- One line of that block is requested. -/
def keyAsked : List KeyRun → List KeyRun
  | [] => []
  | k :: ks => if k.asked < keyLines k then { k with asked := k.asked + 1 } :: ks else k :: keyAsked ks

/-- What the unit of a pip of job `j` would request next. -/
def unitAsk (s : State) (p u : Nat) (j : Job) : Option LineAsk :=
  let q := pipOf s p
  match u with
  | 4 => readerAsk s p j
  | 5 => q.ops.dma0.bind dmaAsk
  | 6 => q.ops.dma1.bind dmaAsk
  | 7 => q.ops.load.bind loadAsk
  | _ => if u ≤ 3 then engAsk (engOf q u) s.cycle else none

/-- The unit has made its next request. -/
def unitAsked (u c : Nat) (q : PipSt) : PipSt :=
  let dma (o : DmaOp) : DmaOp := { o with asked := o.asked + 1 }
  match u with
  | 4 => setEng q 4 { engOf q 4 with keys := keyAsked (engOf q 4).keys }
  | 5 => { q with ops := { q.ops with dma0 := q.ops.dma0.map dma } }
  | 6 => { q with ops := { q.ops with dma1 := q.ops.dma1.map dma } }
  | 7 => { q with ops := { q.ops with load := q.ops.load.map fun o => { o with asked := o.asked + 1 } } }
  | _ => setEng q u (engAsked (engOf q u) c)

/-- The line a write carries, read at its bank under the descriptor's swizzle, with the checks of R75 and R137. -/
def askData (q : PipSt) (u : Nat) (a : Nat) : List Byte × PRes :=
  match (lineDesc q u).1 with
  | some d => if dValid d then readAt (takeBank q a) (dSwz d) a 128 else ([], failWith q eDesc)
  | none => readAt (takeBank q a) 0 a 128

/-- An address that the unit may access: HBM granules of the job's context, and for a DMA channel the staging granules and, to write, the
request windows of Table 11.1 (R253, R269, R273). [DEDUCED, log 30] -/
def askOk (s : State) (c u : Nat) (a : LineAsk) : Bool :=
  decide (0 ≤ a.hbm) &&
    (if u = 5 ∨ u = 6 then ctxMem s c a.hbm.toNat 128 || (a.write && isReq a.hbm.toNat) else ctxHbm s c a.hbm.toNat 128)

/-- Lines of a route on their way to a write buffer of stack `k`, or in it (R281). -/
def wlinesOf (s : State) (k route : Nat) : Nat :=
  (s.flight.filter fun f => match f with | .wline n i _ _ => n = k && i = route | _ => false).length
    + (Tab.get [] (stackSt s k).wbuf route).length

/-- The route has room for a request: in the FIFO of 16, and for a write in the buffer of 8 lines. -/
def routeRoom (s : State) (k route : Nat) (a : LineAsk) : Bool :=
  !isHbm a.hbm.toNat || (decide ((Tab.get [] (stackSt s k).fifo route).length < 16) && (!a.write || decide (wlinesOf s k route < 8)))

/-- A request is on its way to the stack at whose attachment pip `t` its route ends: in the FIFO of its route it can be served 64 slots
after it has come; a line to write, and an access of the staging buffer, travels as flits (R281, R289). -/
def placeReq (s : State) (p k route t : Nat) (r : Req) : State :=
  let due := s.cycle + meshCycles s.mod.map p t
  let r := { r with att := attOf k t, route := route }
  if isHbm r.addr then
    let s := modStack s k fun v =>
      { v with fifo := Tab.set [] v.fifo route (Tab.get [] v.fifo route ++ [{ r with ready := slotAt s due + 64 }]) }
    if r.write then { s with flight := s.flight ++ [.wline k route due r] } else s
  else { s with flight := s.flight ++ [.wline k route due r] }

/-- A unit makes its next request `a` on the route. -/
def makeAsk (s : State) (p u k route t : Nat) (j : Job) (a : LineAsk) (x : Nat) : State :=
  let (bs, r) := if a.write then askData (pipOf s p) u x else ([], done (pipOf s p))
  let req : Req := { src := .unit p u, write := a.write, addr := a.hbm.toNat, ctx := j.ctx, sp := x, data := ofLineBytes bs, bytes := bs }
  let s := onPip s p fun _ => r.andThen fun q => done (unitAsked u s.cycle q)
  if r.fail.isSome then s else placeReq s p k route t req

/-- REQUEST_WORD (R253, R255, R273, R281): the unit's next line is requested at stack `k` on an enabled route that ends there. It waits for
room, and a write for the bank of its line. [DESIGN CHOICE, log 30] -/
def execRequestWord (p u k route : Nat) (s : State) : Host.Outcome State Fault Refusal :=
  within 10240 p (
    match jobOfPip s p with
    | none => s
    | some j =>
      match unitAsk s p u j, stackEnd s route k with
      | some a, some t =>
        if !askOk s j.ctx u a then failPip s p eBounds false
        else
          match a.sp with
          | none => failPip s p eBounds false
          | some x =>
            if x < 0 ∨ (a.write && !inRegion (pipOf s p).sp (pipOf s p).st.context x 128) then failPip s p eBounds false
            else if stackOf a.hbm.toNat ≠ k ∨ !routeRoom s k route a ∨ (a.write && bankTaken (pipOf s p) x) then s
            else makeAsk s p u k route t j a x.toNat
      | _, _ => s)

/-! ### Served entries -/

/-- The head request of a route's FIFO, once it can be served. -/
def headReq (s : State) (k route : Nat) : Option Req :=
  (Tab.get [] (stackSt s k).fifo route).head?.filter fun r => decide (r.ready ≤ slotNow s)
/-- It leaves the FIFO. -/
def popReq (route : Nat) (v : StackSt) : StackSt := { v with fifo := Tab.set [] v.fifo route ((Tab.get [] v.fifo route).drop 1) }

/-- The granule check of a request when its line moves (R253, R273, R274); the requests of a stream that drains have no job left to fail. -/
def reqOpen (s : State) (r : Req) : Bool := (reqJob s r).isNone || ctxMem s r.ctx r.addr 128

/-- The line of read request `r` is delivered by the entry of group `g`: it is ready at its attachment pip 80 slots later (R281). -/
def serveRead (s : State) (k g route att : Nat) (r : Req) : State :=
  let at_ := serveAt (stackSt s k) (slotNow s) g (chipBank r.addr)
  let line := { r with data := ofLineBytes (memRead s r.addr 128), att := att, ready := at_ + 80, sent := 0 }
  let ue := memUe s r.addr 128
  let s := modStack (noteMem s r.addr 128) k fun v =>
    let v := markServed s g (popReq route (serveBank (slotNow s) g (chipBank r.addr) v))
    { v with lines := Tab.set [] v.lines route (Tab.get [] v.lines route ++ [line]) }
  if ue then ueReq s r else s

/-- HBM_READ (R278, R280 to R282): the entry of the schedule serves the head of its route, or passes idle. A head whose line lies in another
group is none of its requests. [DESIGN CHOICE, log 30] -/
def execHbmRead (k g route : Nat) (s : State) : Host.Outcome State Fault Refusal :=
  within 12 k (
    match routeEntry s k g 1 route with
    | none => s
    | some e =>
      match headReq s k route with
      | none => passIdle s k g
      | some r =>
        if r.write ∨ groupOf r.addr ≠ g then passIdle s k g
        else if !reqOpen s r then failReq (modStack s k fun v => markServed s g (popReq route v)) r eBounds
        else serveRead s k g route (bits e 7 3) r)

/-- A write of a unit has been accepted by its stack (R255). -/
def writeAccepted (s : State) (r : Req) : State :=
  match r.src with
  | .unit p u => onPip s p fun q => done (lineLanded q u)
  | .hull ch => hullGot s ch []
  | _ => s

/-- HBM_WRITE (R280 to R282): the head of the route, once its line is in the write buffer, or the entry passes idle. [DESIGN CHOICE, log 30] -/
def execHbmWrite (k g route : Nat) (s : State) : Host.Outcome State Fault Refusal :=
  within 12 k (
    match routeEntry s k g 2 route with
    | none => s
    | some _ =>
      match headReq s k route, Tab.get [] (stackSt s k).wbuf route with
      | some r, w :: ws =>
        if !r.write ∨ groupOf r.addr ≠ g then passIdle s k g
        else
          let pop (v : StackSt) : StackSt := { markServed s g (popReq route v) with wbuf := Tab.set [] v.wbuf route ws }
          if !reqOpen s r then failReq (modStack s k pop) r eBounds
          else
            writeAccepted (modStack (memWrite s r.addr (lineBytes w.data)) k fun v =>
              pop (serveBank (slotNow s) g (chipBank r.addr) v)) r
      | _, _ => passIdle s k g)

/-- HBM_IDLE (R282). -/
def execHbmIdle (k g : Nat) (s : State) : Host.Outcome State Fault Refusal :=
  within 12 k (if (entryNow s k g 0).isSome then modStack s k fun v => markServed s g (easeSlip g v) else s)

/-- REF (R282, R285, R286): served after the group's slip, which is counted; idle while a refresh of the group is in progress. -/
def execRef (k g : Nat) (s : State) : Host.Outcome State Fault Refusal :=
  within 12 k (
    if (entryNow s k g 3).isNone then s
    else modStack s k fun v =>
      let due := slotNow s + Tab.get 0 v.slip g
      if due < refEnd v g then markServed s g (easeSlip g v)
      else { markServed s g v with refAt := Tab.set 0 v.refAt g (due + 1), slipCnt := bump v.slipCnt (Tab.get 0 v.slip g) })

/-- Slots since the start of the group's last refresh, or since start-up. -/
def sinceRef (s : State) (k g : Nat) : Nat := slotNow s - (Tab.get 0 (stackSt s k).refAt g - 1)

/-- REFRESH_INSERT (R285): counted but under the boot schedule; with its record. -/
def execRefreshInsert (k g : Nat) (s : State) : Host.Outcome State Fault Refusal :=
  within 12 k (
    if sinceRef s k g < (stackSt s k).rint ∨ g ≥ 16 ∨ (stackSt s k).state ≠ 2 then s
    else
      let boot := (stackSt s k).boot
      let now := slotNow s
      let s := modStack s k fun v =>
        { v with refAt := Tab.set 0 v.refAt g (now + 1)
                 schedFault := if boot then v.schedFault else bump v.schedFault 1, sfault := v.sfault || !boot }
      if boot then s else errorRecord s 3 2 (64 + k) g 0)

/-! ### The host (R351, R352) -/

/-- A queued access stands at the stack, and an entry of the group can serve it. -/
def hostHere (k g : Nat) (a : HostAcc) : Bool := stackOf a.addr = k && (!isHbm a.addr || groupOf a.addr = g)

/-- Lines of [a, a + n) that a write covers in part (R276). -/
def partLines (a n : Nat) : List Nat := (linesOf a n).filter fun l => decide (128 * l < a) || decide (a + n < 128 * l + 128)

/-- A write of the host: what it covers in part of a line is read, and merged, unless it is whole 64 B halves of a detected granule (R276,
R277). -/
def hostWrite (s : State) (a : Nat) (bs : List Byte) : State :=
  let det := match granAt s a with | some g => g.prot = 2 | none => false
  let s := if det && a % 64 = 0 && bs.length % 64 = 0 then s else forAll (partLines a bs.length) noteLine s
  memWrite s a bs

/-- A host access to HBM is served (R276, R278, R351); one to staging joins the accesses of its buffer behind those of its cycle
(R289); bytes of a request line that the host does not write are free values. -/
def serveHost (s : State) (k g : Nat) (a : HostAcc) : State :=
  let n := if a.write then a.data.length else a.len
  if isHbm a.addr then
    let s := modStack s k (serveBank (slotNow s) g (chipBank a.addr))
    if !hostMem s a.host a.addr n then rejectAcc s a
    else if a.write then (let t := hostWrite s a.addr a.data; if a.hull = 0 then t else hullGot t (a.hull - 1) [])
    else answerHost (noteMem s a.addr n) a (memRead s a.addr n)
  else
    let bs := if isReq a.addr then a.data ++ freeBytes s (128 - a.data.length) else a.data
    let s := if isReq a.addr then drew s (128 - a.data.length) else s
    let r : Req := { src := if a.hull = 0 then .host a.host a.tag else .hull (a.hull - 1), write := a.write, addr := a.addr, data := ofLineBytes bs, bytes := bs, len := n,
                     att := 20, ready := s.cycle }
    modStack s k fun v => { v with stq := joinStq r v.stq }

/-- HOST (R284, R352): the oldest access of the group, in the cycle of the entry's first slot. [DESIGN CHOICE, log 30] -/
def execHost (k g : Nat) (s : State) : Host.Outcome State Fault Refusal :=
  within 12 k (
    if (entryNow s k g 4).isNone then s
    else
      match s.hostq.find? (hostHere k g) with
      | none => modStack s k fun v => markServed s g (easeSlip g v)
      | some a => serveHost (modStack { s with hostq := s.hostq.erase a } k (markServed s g)) k g a)

/-! ### Staging moves of a channel (R289, R336, R340) -/

/-- A channel whose HROUTE the entry serves, in a test. -/
def movesChan (s : State) (k route : Nat) (t : ChanSt → Bool) : Option (Nat × ChanSt × List Byte) :=
  ((List.range 16).find? fun ch =>
    let c := chanSt s ch
    c.running.isSome && chanStack c = k && chanH c = route && t c).bind fun ch =>
      (chanSt s ch).running.map fun r => (ch, chanSt s ch, r.bytes)

/-- Line `i` of the residual window of a channel's INBOX: 1,024 lines behind the 16 chunk buffers, used in turn (R340). [DESIGN CHOICE, log 35] -/
def windowLine (c : ChanSt) (i : Nat) : Nat := chanInbox c + 0x20000 + 128 * (i % 1024)

/-- Group of the entry of stack `k` that moves lines of a route in this slot. -/
def stageGroup (s : State) (k route op : Nat) : Option Nat := (List.range 16).find? fun g => (routeEntry s k g op route).isSome

/-- A staging move takes its line's bank, ahead of the arrivals of the cycle (R289). -/
def takeStage (a : Nat) (v : StackSt) : StackSt := { v with stUsed := v.stUsed ++ [(a - stgBase) / 2 ^ 22 % 16] }

/-- The channel waits for the residual lines of its three passes. -/
def wantsResid (c : ChanSt) : Bool :=
  c.state = 2 && decide (c.resIn < (match c.running with | some r => 3 * residLines r.bytes | none => 0))

/-- STAGE_IN (R281, R289, R336, R343): the next residual line of the pass, if it lies in the entry's group, into the residual window, or the
entry passes idle. -/
def execStageIn (k route : Nat) (s : State) : Host.Outcome State Fault Refusal :=
  within 12 k (
    match stageGroup s k route 5 with
    | none => s
    | some g =>
      match movesChan s k route wantsResid with
      | none => passIdle s k g
      | some (ch, c, b) =>
        let a := residHalf b (clSeq b % 2) + 128 * (c.resIn % residLines b)
        let w := windowLine c c.resIn
        if groupOf a ≠ g then passIdle s k g
        else if !ctxMem s c.ctx a 128 then chanFail (modStack s k (markServed s g)) ch eBounds
        else
          let ue := memUe s a 128
          let bs := memRead s a 128
          let s := modStack (noteMem s a 128) k fun v => takeStage w (markServed s g (serveBank (slotNow s) g (chipBank a) v))
          if ue then chanFail s ch eEccDet else modChan (memWrite s w bs) ch fun c => { c with resIn := c.resIn + 1 })

/-- STAGE_OUT (R281, R289, R336, R342): the next line of the new residual half, which pass 3 has left in the residual window, if it lies in
the entry's group, or the entry passes idle. -/
def execStageOut (k route : Nat) (s : State) : Host.Outcome State Fault Refusal :=
  within 12 k (
    match stageGroup s k route 6 with
    | none => s
    | some g =>
      match movesChan s k route fun c => c.resOut ≠ [] with
      | none => passIdle s k g
      | some (ch, c, b) =>
        let a := residHalf b ((clSeq b + 1) % 2) + 128 * c.resNext
        let w := windowLine c c.resNext
        if groupOf a ≠ g then passIdle s k g
        else if !ctxMem s c.ctx a 128 then chanFail (modStack s k (markServed s g)) ch eBounds
        else
          let bs := lineBytes (c.resOut.headD 0)
          let s := modStack (memWrite (memWrite s w bs) a bs) k fun v =>
            takeStage w (markServed s g (serveBank (slotNow s) g (chipBank a) v))
          modChan s ch fun c => { c with resOut := c.resOut.drop 1, resNext := c.resNext + 1 })

/-! ### Lines that leave (R111, R262, R281) -/

/-- Flits of class 1 that the route has sent to a pip's DMA writer and whose credit has not come back: two for each line (R111). -/
def owedLines (s : State) (k p route : Nat) : Nat :=
  2 * (s.flight.filter fun f => match f with
      | .line d _ _ i _ => d = p && i = route
      | .credit q i _ _ => q = 10240 + k && i = route
      | _ => false).length
  + 2 * ((pipOf s p).net.writer.filter fun w => w.route = route && w.stack = k).length

/-- Credit start value of a route into a pip's DMA writer, of Table 4.2; a whole line counts as one. [DESIGN CHOICE, log 19] -/
def lineStart (s : State) (p : Nat) : Nat := max 2 (16 / max 1 (linesInto s s.mod.transit p).length)

/-- Cycles from attachment `a` of stack `k` to each pip of a list, if a flit that leaves in this cycle is delivered to all of them. -/
def travelAll (s : State) (k a : Nat) (ps : List Nat) : Option (List (Nat × Nat)) :=
  let l := ps.filterMap fun p => (travel s k a (s.cycle % 4096) p).map fun t => (p, t)
  if l.length = ps.length then some l else none

/-- The job that a key line of the reader at pip `p` belongs to: one that runs, or one whose stream drains (R264). -/
def keyJob (s : State) (p : Nat) : Option Job :=
  match jobOfPip s p with
  | some j => some j
  | none => s.jobs.find? fun j => j.phase = .draining && readerPip j = p

/-- The block of the key reader that a line belongs to, and its number in the block. -/
def keyOf (s : State) (p : Nat) (r : Req) : Option (KeyRun × Nat) :=
  ((engOf (pipOf s p) 4).keys.find? fun k => k.ser = r.sp / 2 ^ 20).map fun k => (k, r.sp % 2 ^ 20)

/-- Pips that a key line goes to: of the gates for a header and for a stream that drains, of its share in every pod for an entry (R262). -/
def keyPips (j : Job) (r : Req) : List Nat :=
  let i := r.sp % 2 ^ 20
  (jobPods j).map fun d => if i = 0 ∨ j.phase = .draining then (pipsOfPod d).headD 0 else nth (pipsOfPod d) (shareOf i) 0

/-- The broadcast of an entry waits till every key queue it feeds is open and has room, and for the entries before it in its share
(R262). -/
def keyMayLeave (s : State) (j : Job) (p : Nat) (r : Req) : Bool :=
  j.phase = .draining ||
  match keyOf s p r with
  | none => true
  | some (k, i) =>
    i = 0 || (Tab.get 0 k.shares (shareOf i) = entryOf i && decide (keyAhead s j (shareOf i) < depthKq)
      && (keyPips j r).all fun q => (pipOf s q).st.kopen)

/-- Every granule of a key block is corrected (R259). -/
def keyCorrected (s : State) (a plen : Nat) : Bool :=
  (granSteps a (128 + (if plenOk plen then plen else 0))).all fun b => isHbm b && (match granAt s b with | some g => g.prot = 1 | none => false)

/-- The reader knows that a line of its block has gone. -/
def keySent (g : Engine) (k : KeyRun) (i : Nat) : Engine :=
  let k' := { k with sent := k.sent + 1, shares := Tab.set 0 k.shares (shareOf i) (entryOf i + 1) }
  { g with keys := (g.keys.map fun b => if b.ser = k.ser then k' else b).filter fun b => decide (b.sent < keyLines b) || b.plen.isNone }

/-- A key line has left for its pips: the header goes to the gates and gives the reader PLEN (R262). -/
def sendKey (s : State) (p : Nat) (r : Req) (to_ : List (Nat × Nat)) : State :=
  let fly (header gran : Bool) : State :=
    { s with flight := s.flight ++ to_.map fun d => .key d.1 (s.cycle + d.2) header gran r.data }
  match keyOf s p r with
  | none => fly false false
  | some (k, i) =>
    if i = 0 then
      let n := khPlen (lineBytes r.data)
      modPip (fly true (keyCorrected s k.addr n)) p fun q => setEng q 4 (keyHeaderIn (engOf q 4) k n)
    else modPip (fly false false) p fun q => setEng q 4 (keySent (engOf q 4) k i)

/-- The pips a line goes to, if it may leave now. -/
def linePips (s : State) (k route : Nat) (r : Req) : Option (List Nat) :=
  match r.src with
  | .unit p u =>
    if u = 4 then
      match keyJob s p with
      | some j => if r.sent = 1 || keyMayLeave s j p r then some (keyPips j r) else none
      | none => some []
    else if r.sent = 1 || decide (owedLines s k p route + 2 ≤ lineStart s p) then some [p] else none
  | _ => some []

/-- The second flit of a line has left: the line arrives with it. -/
def departLine (s : State) (route : Nat) (r : Req) (to_ : List (Nat × Nat)) : State :=
  match r.src with
  | .unit p u =>
    if u = 4 then sendKey s p r to_
    else { s with flight := s.flight ++ to_.map fun d => .line d.1 u (s.cycle + d.2) route { r with hop := d.2 } }
  | _ => s

/-- READ_LINE_READY (R111, R119, R281): the next flit of the line at the head of a route leaves its attachment pip, in a mesh position of
the route at or after the slot in which the line is ready, under the credits of the route. A line whose position leads to none of its pips
waits. -/
def execReadLineReady (k route : Nat) (s : State) : Host.Outcome State Fault Refusal :=
  within 12 k (
    match Tab.get [] (stackSt s k).lines route with
    | [] => s
    | r :: rs =>
      if slotNow s < r.ready ∨ Tab.get 0 (stackSt s k).outAt route = s.cycle + 1 ∨ (stackEnd s route k).isNone
          ∨ !routeIn (resv s) s.mod.map route k r.att (s.cycle % 4096) then s
      else
        match (linePips s k route r).bind (travelAll s k r.att) with
        | none => s
        | some to_ =>
          let out (l : List Req) : State := modStack s k fun v =>
            { v with lines := Tab.set [] v.lines route l, outAt := Tab.set 0 v.outAt route (s.cycle + 1) }
          if r.sent = 0 then out ({ r with sent := 1 } :: rs) else departLine (out rs) route r to_)

end Sys2Proof.Machine
end

