-- ==== Sys2Proof/Machine/Scratchpad.lean ====
section
/-!
DEFINITION. Scratchpad regions and their scrubbing (R137 to R140), watch counters (R184).
-/
namespace Sys2Proof.Machine

/-- The region entry that a PIP_REGIONn value names (Table 5.8). -/
def regionOf (v : Nat) : Region := { base := bits v 10 0, len := bits v 22 12, ctx := bits v 37 24, valid := bit v 38 }

/-- Granules of an entry. -/
def granulesOf (r : Region) : List Nat := (List.range (r.len + 1)).map (r.base + ·)

/-- A granule is scrubbed before context `c` reaches it (R139). -/
def mustScrub (sp : Scratch) (c g : Nat) : Bool :=
  match Tab.get .none sp.owners g with | .none => false | .ctx d => d ≠ c | .retired => true

/-- Record `c` as the last owner of an entry's granules. -/
def ownAll (sp : Scratch) (r : Region) : Scratch :=
  { sp with owners := (granulesOf r).foldl (fun t g => Tab.set .none t g (.ctx r.ctx)) sp.owners }

/-- A write of a region entry is ignored with REG_ERR (R138). An entry that the write leaves not VALID overlaps nothing. [DESIGN CHOICE, log 27] -/
def regionBad (sp : Scratch) (n : Nat) (r : Region) : Bool :=
  let old := Tab.get {} sp.regions n
  (old.valid && r.valid && decide ({ old with scrub := false, zeroed := 0 } ≠ r))
  || decide (r.base + r.len + 1 > 2048)
  || (r.valid && sp.regions.any fun e => e.1 ≠ n && e.2.valid && e.2.ctx ≠ r.ctx
        && decide (e.2.base ≤ r.base + r.len) && decide (r.base ≤ e.2.base + e.2.len))

/-- PIP_REGION (R138, R139). -/
def execPipRegion (w : Writer) (p n v : Nat) (s : State) : Host.Outcome State Fault Refusal :=
  within 10240 p (
    let q := pipOf s p
    let r := regionOf v
    let old := Tab.get {} q.sp.regions n
    if !mgmtOnly s w ∨ n ≥ 16 then s
    else if regionBad q.sp n r then setPip s p { q with st := { q.st with regErr := true } }
    else if old.valid && r.valid then s
    else
      let dirty := r.valid && (granulesOf r).any (mustScrub q.sp r.ctx)
      let sp := { q.sp with regions := Tab.set {} q.sp.regions n { r with scrub := dirty } }
      setPip s p { q with sp := if r.valid && !dirty then ownAll sp r else sp })

/-- Bytes [a, a + n) of a table read 0. -/
def zeroRange {α : Type} (t : Tab α) (a n : Nat) : Tab α := t.filter fun e => decide (e.1 < a) || decide (a + n ≤ e.1)

/-- A line of a scratchpad holds zeros with valid codes. -/
def zeroLine (sp : Scratch) (l : Nat) : Scratch :=
  { sp with mem := zeroRange sp.mem (128 * l) 128, flips := zeroRange sp.flips (16 * l) 16 }

/-- Granules of an entry that are scrubbed before its context reaches them. -/
def toScrub (sp : Scratch) (r : Region) : List Nat := (granulesOf r).filter (mustScrub sp r.ctx)

/-- Scrubbing of entry `n` writes its next line in a cycle in which nothing else has the bank (R139, R141). -/
def scrubLine (q : PipSt) (n : Nat) : PipSt :=
  let r := Tab.get {} q.sp.regions n
  let l := 32 * nth (toScrub q.sp r) (r.zeroed / 32) 0 + r.zeroed % 32
  if !(r.valid && r.scrub) || decide (32 * (toScrub q.sp r).length ≤ r.zeroed) || q.cyc.banks.contains (bankOf (128 * l)) then q
  else
    let q := takeBank q ((128 * l : Nat) : Int)
    { q with sp := { zeroLine q.sp l with regions := Tab.set {} q.sp.regions n { r with zeroed := r.zeroed + 1 } } }

/-- Scrubbing of a pip in one cycle. -/
def scrubLines (q : PipSt) : PipSt := (List.range 16).foldl scrubLine q

/-- SCRUB_DONE (R139, R143): every line that had to be scrubbed is zero, and the context owns the granules. -/
def execScrubDone (p n : Nat) (s : State) : Host.Outcome State Fault Refusal :=
  within 10240 p (
    let q := pipOf s p
    let r := Tab.get {} q.sp.regions n
    if !(r.valid && r.scrub) then s
    else if !(syncReady s (256 * fieldOfPip p)) then enableField s (fieldOfPip p)
    else if r.zeroed < 32 * (toScrub q.sp r).length then s
    else setPip s p { q with sp := ownAll { q.sp with regions := Tab.set {} q.sp.regions n { r with scrub := false, zeroed := 0 } } r })

/-- CLR (R184): the three watch counters of the selected handle. -/
def execClr (_w : Writer) (p : Nat) (s : State) : Host.Outcome State Fault Refusal :=
  within 10240 p (modPip s p fun q => { q with watch := Tab.set {} q.watch q.st.watchSel {} })

end Sys2Proof.Machine
end

