-- ==== Sys2Proof/Machine/Granules.lean ====
section
/-!
DEFINITION. Granule entries and zeroing (R272 to R275), temperature and training of a stack (R285, R287).
-/
namespace Sys2Proof.Machine

/-! ### Granule entries (Table 11.3) -/

/-- The owner that an entry names (R275). -/
def namedOwner (g : Granule) : GOwner := if g.share then .shared g.host else .single g.host g.ctx

/-- Assignment zeroes the granule first (R275). -/
def mustZero (staging : Bool) (old new : Granule) : Bool :=
  (match old.owner with | .none => false | o => decide (o ≠ namedOwner new)) || (!staging && decide (old.lastProt ≠ new.prot))

/-- The write is ignored with GRAN_ERR (R274, R287). -/
def granBad (staging failed : Bool) (old : Granule) (prot : Nat) (same : Bool) : Bool :=
  (old.prot ≠ 0 && prot ≠ 0 && !same) || prot = 3 || (staging && prot = 2) || (failed && prot ≠ 0)

/-- A write of a granule entry by who may write one. -/
def writeGran (s : State) (staging : Bool) (g v : Nat) : State :=
  let old := granSt s staging g
  let new : Granule := { old with prot := bits v 1 0, share := bit v 2, host := bits v 6 3, ctx := bits v 20 7 }
  let failed := (stackSt s (g / 64)).state = 3
  if granBad staging failed old new.prot (decide (new = old)) then modStack s 0 fun v => { v with granErr := true }
  else if old.prot ≠ 0 ∨ new.prot = 0 then setGran s staging g new
  else
    let zero := mustZero staging old new
    setGran s staging g { new with
      scrub := old.scrub || zero, zeroed := if zero then [] else old.zeroed, owner := namedOwner new
      lastProt := if staging then old.lastProt else new.prot }

/-- HBM_GRAN (R274, R275). -/
def execHbmGran (w : Writer) (g v : Nat) (s : State) : Host.Outcome State Fault Refusal :=
  within 768 g (if priv s w then writeGran s false g v else s)

/-- HBM_SGRAN (R274, R275). -/
def execHbmSgran (w : Writer) (g v : Nat) (s : State) : Host.Outcome State Fault Refusal :=
  within 768 g (if priv s w then writeGran s true g v else s)

/-! ### Zeroing (R275, R288) -/

/-- Lines of an HBM granule in one channel group, and of a staging granule (R275, R288). -/
def groupLines : Nat := 524288
def stgLines : Nat := 8192

/-- The granule is zeroed and has lines of the group left. -/
def wantsScrub (s : State) (g grp : Nat) : Bool :=
  (granSt s false g).scrub && decide (Tab.get 0 (granSt s false g).zeroed grp < groupLines)

/-- The group of a SCRUB entry of this slot that has lines of the granule left. -/
def scrubGroup (s : State) (g : Nat) : Option Nat :=
  (List.range 16).find? fun grp => (entryNow s (g / 64) grp 7).isSome && wantsScrub s g grp

/-- SCRUB (R275, R280): the entry zeroes the next line of the granule in its group. -/
def execScrub (g : Nat) (s : State) : Host.Outcome State Fault Refusal :=
  within 768 g (
    match scrubGroup s g with
    | none => s
    | some grp =>
      let v := granSt s false g
      let n := Tab.get 0 v.zeroed grp
      let a := g * 2 ^ 30 + 128 * (16 * n + grp)
      let s := modStack s (g / 64) fun v => markServed s grp (serveBank (slotNow s) grp (chipBank a) v)
      setGran (memWrite s a (List.replicate 128 0)) false g { v with zeroed := Tab.set 0 v.zeroed grp (n + 1) })

/-- A SCRUB entry with no granule to zero is an idle entry. [DESIGN CHOICE, log 30] -/
def idleScrub (s : State) (k grp : Nat) : State :=
  if (entryNow s k grp 7).isSome && !(List.range 64).any fun i => wantsScrub s (64 * k + i) grp then
    modStack s k fun v => markServed s grp (easeSlip grp v)
  else s

/-- A line of staging granule `g` is zeroed in a cycle in which its bank has served no other access (R288). -/
def zeroStaging (g : Nat) (s : State) : State :=
  let v := granSt s true g
  let n := Tab.get 0 v.zeroed 0
  let bank := g % 64 / 4
  if !v.scrub || decide (n ≥ stgLines) || (stackSt s (g / 64)).stUsed.contains bank then s
  else
    let s := modStack (memWrite s (stgBase + g * 2 ^ 20 + 128 * n) (List.replicate 128 0)) (g / 64) fun k =>
      { k with stUsed := k.stUsed ++ [bank] }
    setGran s true g { v with zeroed := Tab.set 0 v.zeroed 0 (n + 1) }

/-- Every line of a granule has been zeroed. -/
def zeroedAll (staging : Bool) (v : Granule) : Bool :=
  if staging then decide (stgLines ≤ Tab.get 0 v.zeroed 0) else (List.range 16).all fun i => decide (groupLines ≤ Tab.get 0 v.zeroed i)

/-- GRANULE_ZEROED (R275, R288): the last line has been zeroed. -/
def execGranuleZeroed (staging : Bool) (g : Nat) (s : State) : Host.Outcome State Fault Refusal :=
  within 768 g (
    let v := granSt s staging g
    if !v.scrub ∨ !zeroedAll staging v then s else setGran s staging g { v with scrub := false, zeroed := [] })

/-! ### Temperature and training -/

/-- Temperature of the hottest stack (sensor 4). -/
def hottestStack (s : State) : Nat := (List.range 12).foldl (fun t k => max t (stackSt s k).temp) 0

/-- HBM_HOT (R285): the interval is 4,875 slots up to 85 °C and 2,437 above; the crossing is reported (R448). -/
def execHbmHot (k temp : Nat) (s : State) : Host.Outcome State Fault Refusal :=
  within 12 k (
    let hot := decide (temp % 256 > 85)
    let was := (stackSt s k).hot
    let s := modStack s k fun v => { v with temp := temp % 256, hot := hot, rint := if hot then 2437 else 4875 }
    if hot = was then s else platformEvent s 4 (hottestStack s))

/-- HBM_TRAINING_END (R287). -/
def execHbmTrainingEnd (k : Nat) (ok : Bool) (s : State) : Host.Outcome State Fault Refusal :=
  within 12 k (if (stackSt s k).state = 1 then modStack s k fun v => { v with state := if ok then 2 else 3 } else s)

end Sys2Proof.Machine
end

