-- ==== Sys2Proof/Machine/HostPort.lean ====
section
/-!
DEFINITION. The host port (chapter 14): CXL.mem accesses, the scratchpad window, heads and hosts, management, contexts.
-/
namespace Sys2Proof.Machine

/-! ### Heads and hosts (R348, R354, R362) -/

/-- Heads of the configuration. -/
def headCount (s : State) : Nat := match s.cxl.bifur with | 0 => 1 | 1 => 2 | _ => 4

/-- Hosts of a head. -/
def hostsOfHead (s : State) (hd : Nat) : List Nat :=
  if s.cxl.bifur = 0 then (if s.cxl.mld then List.range s.cxl.nld else [0]) else [hd]

/-- The head of a host. -/
def headOfHost (s : State) (h : Nat) : Nat := if s.cxl.bifur = 0 then 0 else h

/-- A host of the configuration is attached. -/
def attached (s : State) (h : Nat) : Bool := (hostSt s h).state = 1

/-- A bound host of a head whose link is up attaches. -/
def attachHost (h : Nat) (s : State) : State :=
  if (hostSt s h).bound then modHost s h fun v => { v with state := 1, spdm := {} } else s

/-- The head's link is down: its IDE stream ends and its hosts depart. -/
def dropHead (s : State) (hd : Nat) : State :=
  forAll (hostsOfHead s hd) (fun h s => departHost s h)
    (modHead s hd fun v => { v with up := false, ide := false, ideKeys := 0, width := 0, rate := 0 })

/-- HEAD_LINK_UP (R362): the head has trained. -/
def execHeadLinkUp (hd width rate : Nat) (s : State) : Host.Outcome State Fault Refusal :=
  within 4 hd (
    if hd ≥ headCount s ∨ (headSt s hd).up ∨ (headSt s hd).perst ∨ !s.boot.working ∨ s.pwr.mstate ≠ .m0 then s
    else forAll (hostsOfHead s hd) attachHost (modHead s hd fun v => { v with up := true, width := width, rate := rate }))

/-- HEAD_LINK_DOWN (R362). -/
def execHeadLinkDown (hd : Nat) (s : State) : Host.Outcome State Fault Refusal :=
  within 4 hd (if (headSt s hd).up then dropHead s hd else s)

/-- PERST_N (R459): in M0 it resets the head; in M1 the module ignores it but for the pin. -/
def execPerstN (hd : Nat) (s : State) : Host.Outcome State Fault Refusal :=
  within 4 hd (
    let s := modHead s hd fun v => { v with perst := true }
    if s.pwr.mstate = .m0 ∧ hd < headCount s then dropHead s hd else s)

/-- PERST_N_RISE (R459): the head may train. -/
def execPerstNRise (hd : Nat) (s : State) : Host.Outcome State Fault Refusal :=
  within 4 hd (modHead s hd fun v => { v with perst := false })

/-- IDE_FAIL (R364): counted, and the link is dropped. -/
def execIdeFail (hd : Nat) (s : State) : Host.Outcome State Fault Refusal :=
  within 4 hd (if (headSt s hd).up then dropHead { s with cxl := { s.cxl with ideFail := bump s.cxl.ideFail 1 } } hd else s)

/-- FM_UNBIND (R349, R362). -/
def execFmUnbind (h : Nat) (s : State) : Host.Outcome State Fault Refusal :=
  within 16 h (if s.cxl.mld ∧ h < s.cxl.nld then modHost (departHost s h) h fun v => { v with bound := false } else s)

/-- FM_BIND (R349). -/
def execFmBind (h : Nat) (s : State) : Host.Outcome State Fault Refusal :=
  within 16 h (
    if s.cxl.mld ∧ h < s.cxl.nld ∧ !(hostSt s h).bound then
      let s := modHost s h fun v => { v with bound := true }
      if (headSt s 0).up then attachHost h s else s
    else s)

/-- FUNCTION_LEVEL_RESET (R362): the host departs, and is departing until it attaches again. -/
def execFunctionLevelReset (h : Nat) (s : State) : Host.Outcome State Fault Refusal :=
  within 16 h (if attached s h then modHost (departHost s h) h fun v => { v with state := 2 } else s)

/-- FLR_REATTACH (R362). -/
def execFlrReattach (h : Nat) (s : State) : Host.Outcome State Fault Refusal :=
  within 16 h (if (hostSt s h).state = 2 ∧ (headSt s (headOfHost s h)).up then modHost s h fun v => { v with state := 1 } else s)

/-! ### CXL.mem (R350 to R353) -/

/-- The scratchpad window. -/
def winBase : Nat := 0x20000000000
def winSize : Nat := 10240 * 2 ^ 23
def isWin (a : Nat) : Bool := decide (winBase ≤ a) && decide (a < winBase + winSize)

/-- The runs of scratchpad bytes that window offsets [w, w + n) name: pip, byte address, length. -/
def winRuns (w n : Nat) : List (Nat × Nat × Nat) :=
  (List.range ((w + n + 2 ^ 23 - 1) / 2 ^ 23 - w / 2 ^ 23)).map fun i =>
    let p := w / 2 ^ 23 + i
    let lo := max w (p * 2 ^ 23)
    (p, lo % 2 ^ 23, min (w + n) ((p + 1) * 2 ^ 23) - lo)

/-- Granule `g` of a scratchpad lies in a region in force whose context the host created (R353, R137). -/
def hostGranule (s : State) (h : Nat) (sp : Scratch) (g : Nat) : Bool :=
  sp.regions.any fun e =>
    e.2.valid && !e.2.scrub && decide (e.2.base ≤ g) && decide (g ≤ e.2.base + e.2.len) &&
    (ctxSt s e.2.ctx).created && (ctxSt s e.2.ctx).host = h

/-- The pip can be reached and every granule is the host's. -/
def winRunOk (s : State) (h : Nat) (r : Nat × Nat × Nat) : Bool :=
  (fieldSt s (fieldOfPip r.1)).state ≠ .f3 && !oos s.mod.map (fieldOfPip r.1) &&
  (List.range ((r.2.1 + r.2.2 + 4095) / 4096 - r.2.1 / 4096)).all fun i =>
    hostGranule s h (pipOf s r.1).sp (r.2.1 / 4096 + i)

/-- A CXL.mem access is not rejected (R351). -/
def memAccepted (s : State) (h a n : Nat) (write : Bool) : Bool :=
  decide (1 ≤ n) &&
  if isWin a then isWin (a + n - 1) && (winRuns (a - winBase) n).all (winRunOk s h)
  else if isReq a then isReq (a + n - 1) && (stackSt s (stackOf a)).state = 2 && (!write || decide (n ≤ 128))
  else hostMem s h a n && (stackSt s (stackOf a)).state = 2 && (stackSt s (stackOf (a + n - 1))).state = 2

/-- Queued accesses at a stack. -/
def stackQueue (s : State) (k : Nat) : Nat := (s.hostq.filter fun a => stackOf a.addr = k).length

/-- An access of an attached host: rejected, or it goes to its pip or to the queue of its stack, which holds 64. -/
def hostAccess (s : State) (a : HostAcc) : State :=
  let n := if a.write then a.data.length else a.len
  if !attached s a.host then s
  else if !memAccepted s a.host a.addr n a.write then rejectAcc s a
  else if isWin a.addr then
    let w := a.addr - winBase
    modPip s (w / 2 ^ 23) fun q => { q with net := { q.net with window := q.net.window ++
      [⟨a.write, w, a.data, n, a.host, a.tag, s.cycle⟩] } }
  else if stackQueue s (stackOf a.addr) ≥ 64 then s
  else { s with hostq := s.hostq ++ [a] }

/-- CXL_MEM_READ (R351, R352). -/
def execCxlMemRead (h addr len tag : Nat) (s : State) : Host.Outcome State Fault Refusal :=
  within 16 h (hostAccess s ⟨h, false, addr, [], len, tag, 0⟩)

/-- CXL_MEM_WRITE (R351, R352). -/
def execCxlMemWrite (h addr : Nat) (bs : List Byte) (s : State) : Host.Outcome State Fault Refusal :=
  within 16 h (hostAccess s ⟨h, true, addr, bs, 0, 0, 0⟩)

/-- A masked wide write in cycle `c`: a word that it covers in part is read, checked and merged, and every word gets a fresh code (R136,
R353). [DEDUCED, log 37] -/
def winWrite (c a : Nat) (bs : List Byte) (q : PipSt) : PRes :=
  let (ws, r) := mergeBytes q (a / 8) (bs.zipIdx.map fun b => (a % 8 + b.2, b.1))
  { r with p := holdWrite r.p c 0 ws }

/-- Bytes of one run, with the errors they count; a host read ends no job. -/
def readRun (r : Nat × Nat × Nat) (acc : State × List Byte) : State × List Byte :=
  let (bs, res) := spRead (pipOf acc.1 r.1) r.2.1 r.2.2
  (noteSites r.1 res.fx (setPip acc.1 r.1 res.p), acc.2 ++ bs)

/-- Write the runs in turn; an error that a host's write meets ends no job. -/
def writeRuns : List (Nat × Nat × Nat) → List Byte → State → State
  | [], _, s => s
  | r :: rs, bs, s =>
    let res := winWrite s.cycle r.2.1 (bs.take r.2.2) (pipOf s r.1)
    writeRuns rs (bs.drop r.2.2) (noteSites r.1 res.fx (setPip s r.1 res.p))

/-- The banks of the runs have been taken in this cycle. -/
def winBusy (s : State) (runs : List (Nat × Nat × Nat)) : Bool := runs.any fun r => bankTaken (pipOf s r.1) ((r.2.1 : Nat) : Int)
/-- The access takes them. -/
def winTake (runs : List (Nat × Nat × Nat)) (s : State) : State :=
  forAll runs (fun r s => modPip s r.1 fun q => takeBank q ((r.2.1 : Nat) : Int)) s

/-- The oldest window access of a pip is served, or rejected if it has lost its region; it is held while a field sleeps, and waits for its
bank (R141). [DEDUCED, log 37] -/
def serveWindow (s : State) (p : Nat) (a : WinAccess) (rest : List WinAccess) : State :=
  let runs := winRuns a.addr a.len
  let pop := modPip s p fun q => { q with net := { q.net with window := rest } }
  if !runs.all (winRunOk s a.host) then rejectAcc pop ⟨a.host, a.write, winBase + a.addr, a.data, a.len, a.tag, 0⟩
  else
    match runs.find? fun r => !syncReady s (256 * fieldOfPip r.1) with
    | some r => enableField s (fieldOfPip r.1)
    | none =>
      if winBusy s runs then s
      else if a.write then writeRuns runs a.data (winTake runs pop)
      else
        let (s, bs) := runs.foldl (fun acc r => readRun r acc) (winTake runs pop, [])
        send s (.memData a.host a.tag bs)

/-- SCRATCHPAD_WINDOW_ACCESS (R353, R143). -/
def execScratchpadWindowAccess (p : Nat) (s : State) : Host.Outcome State Fault Refusal :=
  within 10240 p (match (pipOf s p).net.window with | [] => s | a :: rest => serveWindow s p a rest)

/-- WINDOW_ESCALATION (R353): the oldest access has waited 8,192 cycles and takes its bank before any other user of the cycle. -/
def execWindowEscalation (p : Nat) (s : State) : Host.Outcome State Fault Refusal :=
  within 10240 p (
    match (pipOf s p).net.window with
    | [] => s
    | a :: rest => if a.since + 8192 ≤ s.cycle then serveWindow s p a rest else s)

/-- Size of the range of an HDM decoder (Table 14.3). -/
def decoderSize (n : Nat) : Nat :=
  match n with | 0 => 768 * 2 ^ 30 | 1 => 768 * 2 ^ 20 | 2 => 256 * 2 ^ 20 | _ => 80 * 2 ^ 30

/-- HDM_DECODER_COMMIT (R350): a commit with another size or interleave fails. -/
def execHdmDecoderCommit (h n base size ways : Nat) (s : State) : Host.Outcome State Fault Refusal :=
  within 16 h (
    if !attached s h ∨ n > 3 ∨ size ≠ decoderSize n ∨ ways ≠ 1 then s
    else modHost s h fun v => { v with decoders := v.decoders.filter (·.1 ≠ n) ++ [(n, base, size)] })

/-! ### Fabric manager and DOE discovery (R346, R349) -/

/-- Every DPA range allocated to every logical device: number of the device, first address, size (log 31). -/
def allocations (s : State) : List Byte :=
  (List.range s.cxl.nld).flatMap fun l =>
    (List.zip [0, stgBase, reqBase, winBase] [0, 1, 2, 3]).flatMap fun r => toBytes 2 l ++ toBytes 8 r.1 ++ toBytes 8 (decoderSize r.2)

/-- FM_API_QUERY (R349): answered in MLD mode. [PRESUMED, log 31] -/
def execFmApiQuery (cmd : Nat) (s : State) : Host.Outcome State Fault Refusal :=
  .next (if s.cxl.mld then send s (.fmApi cmd false (allocations s)) else s)

/-- FM_API_ALLOCATION_CHANGE (R349): refused. -/
def execFmApiAllocationChange (cmd : Nat) (s : State) : Host.Outcome State Fault Refusal :=
  .next (if s.cxl.mld then send s (.fmApi cmd true []) else s)

/-- DOE_DISCOVERY (R346): the mailbox's three protocols; the numbers are the PCI-SIG's (log 32). -/
def execDoeDiscovery (h i : Nat) (s : State) : Host.Outcome State Fault Refusal :=
  within 16 h (if !attached s h then s
    else if i ≤ 2 then send s (.doe h 1 i ((i + 1) % 3)) else send s (.doe h 0xFFFF 0xFF 0))

/-! ### Management (R355 to R357) -/

/-- The management role and its events (R356, R362). -/
def setMgmt (s : State) (v : Nat) : State :=
  let h := bits v 3 0
  let valid := bit v 4 && attached s h
  let old := s.cxl
  let s := { s with cxl := { s.cxl with mgmtHost := h, mgmtValid := valid } }
  if old.mgmtHost = h ∧ old.mgmtValid = valid then s
  else
    let s := if old.mgmtValid then hostEvent s old.mgmtHost else s
    if valid ∧ (old.mgmtHost ≠ h ∨ !old.mgmtValid) then hostEvent s h else s

/-- CXL_MGMT (R356). -/
def execCxlMgmt (w : Writer) (v : Nat) (s : State) : Host.Outcome State Fault Refusal := .next (if priv s w then setMgmt s v else s)

/-- CXL_CTXPAGE (R357). -/
def execCxlCtxpage (w : Writer) (p v : Nat) (s : State) : Host.Outcome State Fault Refusal :=
  within 640 p (
    if !mgmtOnly s w ∨ (List.range 16).any (fun i => (ctxSt s (16 * p + i)).created) then s
    else { s with cxl := { s.cxl with pages := Tab.set (0, false) s.cxl.pages p (bits v 3 0, bit v 4) } })

/-! ### Contexts (R358 to R361) -/

/-- One request to a DRBG; it reseeds after every 2^16 (R385). -/
def drbgRequest (engB : Bool) (s : State) : State :=
  let n := (if engB then s.hull.drbgB else s.hull.drbgA) + 1
  let full := decide (n ≥ 65536)
  let n := if full then 0 else n
  let h := { s.hull with reseedCnt := if full then bump s.hull.reseedCnt 1 else s.hull.reseedCnt }
  { s with hull := if engB then { h with drbgB := n } else { h with drbgA := n } }

/-- Check 2 of R358 for context `c` of host `h` with the given sync range and queue, on partition `n`. -/
def bindOk (s : State) (h c n sbase scount qbase : Nat) : Bool :=
  Tab.get (0, false) s.cxl.pages (c / 16) = (h, true)
  && (partSt s n).valid && bit (partSt s n).hostMask h
  && (span (sbase / 256) ((sbase + scount - 1) / 256)).all (inPart s n)
  && s.ctxs.all (fun e => e.1 = c || !e.2.created || decide (e.2.sbase + e.2.scount ≤ sbase) || decide (sbase + scount ≤ e.2.sbase))
  && ctxMem (modCtx s c fun v => { v with created := true, host := h }) c qbase 0x4000

/-- Check 1 of R358, and the DRBG of R385. -/
def createForm (s : State) (v : HostSt) : Bool :=
  decide (v.crCtx ≤ 10239) && decide (1 ≤ v.crJobq) && decide (v.crJobq ≤ 64) && v.crVec ≠ 0 && v.crScount ≠ 0
  && decide (v.crSbase + v.crScount ≤ 16384) && decide (v.crKlo ≤ v.crKhi) && v.crQbase.toNat % 0x4000 = 0
  && !(ctxSt s v.crCtx).created && s.hull.drbgOk

/-- The result of a context operation (R358). -/
def crResult (s : State) (h : Nat) (code : Byte) : State :=
  modHost s h fun v => { v with crCode := code, crErr := v.crErr || decide (code ≠ eOk) }

/-- The new context. -/
def newCtx (v : HostSt) (h : Nat) (nonce : List Byte) : CtxSt :=
  { created := true, host := h, part := v.crPart + 1, jobq := v.crJobq, vec := v.crVec, sbase := v.crSbase, scount := v.crScount
    klo := v.crKlo, khi := v.crKhi, qbase := v.crQbase.toNat, nonce := BitVec.ofNat 128 (ofBytes nonce) }

/-- CREATE (R358, R384). [DEDUCED, log 37] -/
def execCreate (h : Nat) (s : State) : Host.Outcome State Fault Refusal :=
  within 16 h (
    let v := hostSt s h
    if !attached s h then s
    else if !createForm s v then crResult s h eDesc
    else if !bindOk s h v.crCtx v.crPart v.crSbase v.crScount v.crQbase.toNat then crResult s h eBounds
    else
      let s := setCtx s v.crCtx (newCtx v h (freeBytes s 16))
      let s := drbgRequest true (drew s 16)
      crResult (forAll (span v.crSbase (v.crSbase + v.crScount - 1)) (fun i s => syncSet s i 0) s) h eOk)

/-- This host created the context in CR_CTX. -/
def crMine (s : State) (h : Nat) : Bool :=
  (ctxSt s (hostSt s h).crCtx).created && (ctxSt s (hostSt s h).crCtx).host = h

/-- Commands of a context that have issued. -/
def cmdsOfCtx (s : State) (c : Nat) : List Cmd := s.cmds.filter (·.ctx = c)

/-- DESTROY (R361): what has ended completes with its own code, the rest with E_ABORTED. -/
def execDestroy (h : Nat) (s : State) : Host.Outcome State Fault Refusal :=
  within 16 h (
    let c := (hostSt s h).crCtx
    if !attached s h then s
    else if !crMine s h then crResult s h eBounds
    else
      let s := forAll (cmdsOfCtx s c) (fun k s => match k.code with | some code => completeCmd s k code | none => s) s
      let s := quiesce s c
      let s := forAll (cmdsOfCtx s c) (fun k s => completeCmd s k eAborted) s
      crResult (dropCtx s c) h eOk)

/-- REBIND (R360). -/
def execRebind (h : Nat) (s : State) : Host.Outcome State Fault Refusal :=
  within 16 h (
    let v := hostSt s h
    let c := v.crCtx
    let x := ctxSt s c
    if !attached s h then s
    else if !crMine s h then crResult s h eBounds
    else if s.jobs.any (·.ctx = c) then crResult s h eDesc
    else if !bindOk s h c v.crPart x.sbase x.scount x.qbase then crResult s h eBounds
    else crResult (modCtx s c fun x => { x with part := v.crPart + 1 }) h eOk)

end Sys2Proof.Machine
end

