-- ==== Sys2Proof/Machine/Hull.lean ====
section
/-!
DEFINITION. Jobs of the hull (R368 to R385, R392): start, LOAD, WAIT, EXEC with the operations of Table 15.3, STORE, WIPE.
-/
namespace Sys2Proof.Machine

/-! ### Job blocks (Tables 15.2, 15.3) -/

def hbOp (b : List Byte) : Nat := field b 0 1
def hbCurve (b : List Byte) : Nat := field b 1 1
def hbW (b : List Byte) : Nat := field b 2 1
def hbEw (b : List Byte) : Nat := field b 3 1
def hbLen (b : List Byte) : Nat := field b 4 4
def hbCtx (b : List Byte) : Nat := bits (field b 8 2) 13 0
def hbSrc (b : List Byte) : Nat := field b 0x10 8
def hbDst (b : List Byte) : Nat := field b 0x18 8
/-- Number of `w` words in slot `i`. -/
def hbNum (b : List Byte) (i w : Nat) : Nat := field b (0x40 + 512 * i) (8 * w)
/-- The 32-byte digest in slot `i`. -/
def hbHash (b : List Byte) (i : Nat) : List Byte := slice b (0x40 + 512 * i) 32

/-- [DEDUCED, log 38] -/
def hullOps : List Nat := [1, 2, 3, 0x10, 0x11, 0x12, 0x13, 0x14, 0x20, 0x21, 0x22, 0x23]

/-- Bytes that follow the header of a block. -/
def hbBody (op len : Nat) : Nat :=
  match op with
  | 1 | 2 | 0x10 | 0x11 => 3 * 512
  | 3 => 4 * 512
  | 0x12 => 2 * 512
  | 0x13 => 5 * 512
  | 0x14 => 512
  | 0x21 => len
  | 0x22 => len + 32
  | _ => 0

/-- The curve of a job: field words come from FBITS. -/
def hbCurveOf (b : List Byte) (slot : Option CurveNum) : Option CurveNum :=
  match hbCurve b with | 0 => some p256 | 1 => some p384 | _ => slot

/-- Field words F of a curve. -/
def fieldWords (c : CurveNum) : Nat := (bitLen c.p + 63) / 64

/-- Bytes of the result. -/
def hbResult (b : List Byte) (slot : Option CurveNum) : Nat :=
  let f := match hbCurveOf b slot with | some c => fieldWords c | none => 0
  match hbOp b with
  | 1 | 2 => 8 * hbW b
  | 0x10 | 0x12 => 16 * f
  | 0x11 => 8 * f
  | 0x20 => 32
  | 0x21 => hbLen b + 32
  | 0x22 | 0x23 => hbLen b
  | _ => 0

/-- The header holds no reserved value, no RES byte and no length out of range (R376). [DEDUCED, log 38] -/
def hbForm (b : List Byte) (slot : Option CurveNum) : Bool :=
  let op := hbOp b
  let ec := op = 0x10 || op = 0x11 || op = 0x12 || op = 0x13
  hullOps.contains op && decide (hbCurve b ≤ 2) && bits (field b 8 2) 15 14 = 0 && zeroBytes b 0xA 6 && zeroBytes b 0x20 32
  && (decide (3 < op) || (decide (8 ≤ hbW b) && decide (hbW b ≤ 64)))
  && ((op ≠ 1 && op ≠ 3) || (decide (1 ≤ hbEw b) && decide (hbEw b ≤ hbW b)))
  && (match op with
      | 0x20 => decide (1 ≤ hbLen b) && decide (hbLen b ≤ 2 ^ 24)
      | 0x21 | 0x22 => decide (1 ≤ hbLen b) && decide (hbLen b ≤ 2048)
      | 0x23 => decide (1 ≤ hbLen b) && decide (hbLen b ≤ 256)
      | _ => true)
  && (op = 0x20 || hbSrc b = 0) && hbDst b % 8 = 0 && (hbResult b slot ≠ 0 || hbDst b = 0)
  && (!ec || hbCurve b ≠ 2 || slot.isSome)

/-! ### Where a channel reads and writes (R371, R373) -/

/-- Channels of the acorn work on husk memory. -/
def isHusk (ch : Nat) : Bool := decide (ch < 2)

def huskSize : Nat := 32 * 2 ^ 20

/-- The channel may access `n` bytes at `a`. -/
def hullMay (s : State) (ch a n : Nat) : Bool :=
  if isHusk ch then decide (2 ^ 63 ≤ a) && decide (a - 2 ^ 63 + n ≤ huskSize) else hostMem s (hchan s ch).owner a n

def hullRead (s : State) (ch a n : Nat) : List Byte :=
  if isHusk ch then Tab.getMany 0 s.nvm.husk (a - 2 ^ 63) n else memRead s a n

def hullWrite (s : State) (ch a : Nat) (bs : List Byte) : State :=
  if isHusk ch then { s with nvm := { s.nvm with husk := Tab.setMany 0 s.nvm.husk (a - 2 ^ 63) bs } } else memWrite s a bs

/-! ### Start (R372, R392) -/

/-- Who may write a channel's control register. -/
def hullWriter (s : State) (w : Writer) (ch : Nat) : Bool :=
  match w with
  | .acorn => isHusk ch
  | .host h => !isHusk ch && (hchan s ch).ownerValid && (hchan s ch).owner = h

/-- Lines that hold any of [a, a + n), and the part of it that lies in line `i`: its address and length. -/
def lineCount (a n : Nat) : Nat := if n = 0 then 0 else (a + n - 1) / 128 - a / 128 + 1
def pieceAt (a n i : Nat) : Nat × Nat :=
  let lo := max a (128 * (a / 128 + i))
  (lo, min (a + n) (128 * (a / 128 + i + 1)) - lo)

/-- A host channel makes its next access for its owner, one at a time, where the queue of the stack has room (R352, R373).
[DESIGN CHOICE, log 38] -/
def hullAsk (s : State) (ch a n : Nat) (data : Option (List Byte)) : State :=
  if (stackSt s (stackOf a)).state ≠ 2 ∨ stackQueue s (stackOf a) ≥ 64 then s
  else
    let s := modHchan s ch fun v => { v with moved := v.moved + 1, waits := true }
    { s with hostq := s.hostq ++ [⟨(hchan s ch).owner, data.isSome, a, data.getD [], n, 0, ch + 1⟩] }

/-- START of a job block whose OP is the row's; a reserved OP fails at the end of LOAD whichever row names it. -/
def startHull (ops : List Nat) (w : Writer) (ch : Nat) (s : State) : Host.Outcome State Fault Refusal :=
  within 16 ch (
    let v := hchan s ch
    let op := hbOp (hullRead s ch v.job.toNat 1)
    if !hullWriter s w ch then s
    else if v.state ≠ .idle then setHchan s ch { v with startErr := true }
    else if !ops.contains op && hullOps.contains op then s
    else setHchan s ch { v with
      state := .load, dropped := false, verdict := 0, result := [], execAt := s.cycle, moved := 0, waits := false, msg := []
      opmem := if isHusk ch then v.opmem else [] })

/-- MODEXP (R375). -/
def execModexp (w : Writer) (ch : Nat) (s : State) : Host.Outcome State Fault Refusal := startHull [1] w ch s
/-- MODMUL (R375). -/
def execModmul (w : Writer) (ch : Nat) (s : State) : Host.Outcome State Fault Refusal := startHull [2] w ch s
/-- RSA_VERIFY (R375). -/
def execRsaVerify (w : Writer) (ch : Nat) (s : State) : Host.Outcome State Fault Refusal := startHull [3] w ch s
/-- ECMUL (R375). -/
def execEcmul (w : Writer) (ch : Nat) (s : State) : Host.Outcome State Fault Refusal := startHull [0x10] w ch s
/-- ECDH (R375). -/
def execEcdh (w : Writer) (ch : Nat) (s : State) : Host.Outcome State Fault Refusal := startHull [0x11] w ch s
/-- ECDSA_SIGN (R375). -/
def execEcdsaSign (w : Writer) (ch : Nat) (s : State) : Host.Outcome State Fault Refusal := startHull [0x12] w ch s
/-- ECDSA_VERIFY (R375). -/
def execEcdsaVerify (w : Writer) (ch : Nat) (s : State) : Host.Outcome State Fault Refusal := startHull [0x13] w ch s
/-- CURVE_LOAD (R382). -/
def execCurveLoad (w : Writer) (ch : Nat) (s : State) : Host.Outcome State Fault Refusal := startHull [0x14] w ch s
/-- SHA256 (R375). -/
def execSha256 (w : Writer) (ch : Nat) (s : State) : Host.Outcome State Fault Refusal := startHull [0x20] w ch s
/-- KWRAP (R384). -/
def execKwrap (w : Writer) (ch : Nat) (s : State) : Host.Outcome State Fault Refusal := startHull [0x21] w ch s
/-- KUNWRAP (R384). -/
def execKunwrap (w : Writer) (ch : Nat) (s : State) : Host.Outcome State Fault Refusal := startHull [0x22] w ch s
/-- RANDOM (R385). -/
def execRandom (w : Writer) (ch : Nat) (s : State) : Host.Outcome State Fault Refusal := startHull [0x23] w ch s

/-- Bytes of a block with its header. -/
def blockLen (h : List Byte) : Nat := 0x40 + hbBody (hbOp h) (hbLen h)

/-- The block with header `h` may be loaded (R376). -/
def blockOk (s : State) (ch : Nat) (h : List Byte) : Bool :=
  let v := hchan s ch
  hbForm h v.curve && hullMay s ch v.job.toNat (blockLen h) && (hbOp h ≠ 0x20 || hullMay s ch (hbSrc h) (hbLen h))
  && (hbResult h v.curve = 0 || hullMay s ch (hbDst h) (hbResult h v.curve))

/-- Hull cycles (2.5 ns) in pip cycles. -/
def hullCycles (s : State) (n : Nat) : Nat := if s.nvm.gradeE then 4 * n else 5 * n

/-- HULL_LOAD_END (R371, R373, R376): the block of an acorn channel has been read at 128 B a hull cycle; a host channel reads its block line
by line through the HOST entries, the header first, and the phase ends with the last line. -/
def execHullLoadEnd (ch : Nat) (s : State) : Host.Outcome State Fault Refusal :=
  within 16 ch (
    let v := hchan s ch
    let a := v.job.toNat
    let fail : State := setHchan s ch { v with state := .wipe, verdict := eHull, execAt := s.cycle }
    let wait (b : List Byte) : State := setHchan s ch { v with state := .wait, opmem := b, moved := 0 }
    if v.state ≠ .load ∨ v.waits then s
    else if a % 128 ≠ 0 ∨ !hullMay s ch a 0x40 then fail
    else if isHusk ch then
      let h := hullRead s ch a 0x40
      if !blockOk s ch h then fail
      else if s.cycle < v.execAt + hullCycles s (lineCount a (blockLen h)) then s
      else wait (hullRead s ch a (blockLen h))
    else if v.moved = 0 then hullAsk s ch a 128 none
    else
      let h := v.opmem.take 0x40
      if !blockOk s ch h then fail
      else if v.moved < lineCount a (blockLen h) then hullAsk s ch (a + 128 * v.moved) 128 none
      else wait (v.opmem.take (blockLen h)))

/-! ### EXEC (R375 to R378, R382, R384, R385) -/

/-- Hull cycles of one Montgomery multiply of `w` words (R377). -/
def montTime (w : Nat) : Nat := w * ((w + 7) / 8) + 12

/-- T1 (Table 15.4). -/
def hullTime (b : List Byte) (slot : Option CurveNum) : Nat :=
  let f := match hbCurveOf b slot with | some c => fieldWords c | none => 0
  let fl := (field b 0x40 2 + 63) / 64
  match hbOp b with
  | 1 => (128 * hbEw b + 2) * montTime (hbW b)
  | 2 => 3 * montTime (hbW b)
  | 3 => (128 * hbEw b + 2) * montTime (hbW b) + 4 * hbW b
  | 0x10 | 0x11 => 1280 * f * montTime f
  | 0x12 => 1408 * f * montTime f
  | 0x13 => 2688 * f * montTime f
  | 0x14 => 128 * (128 * fl + 2) * montTime fl + 1280 * fl * montTime fl + 256
  | 0x20 => 72 * ((hbLen b + 9 + 63) / 64)
  | 0x21 | 0x22 => 400 + 16 * ((hbLen b + 15) / 16)
  | _ => 200 + 72 * ((hbLen b + 31) / 32)

/-- EXEC length. -/
def execLen (b : List Byte) (slot : Option CurveNum) : Nat := 2 * hullTime b slot + 64

/-- A SHA256 job of a host channel reads its message through the HOST entries during EXEC (R373, R377). -/
def readsMsg (ch : Nat) (b : List Byte) : Bool := hbOp b = 0x20 && !isHusk ch
/-- Lines of the message that EXEC still has to read. -/
def msgLeft (ch : Nat) (v : HullChanSt) : Bool :=
  readsMsg ch v.opmem && decide (v.moved < lineCount (hbSrc v.opmem) (hbLen v.opmem))

/-- The length of an EXEC in hull cycles: the fixed time, or for a message read from HBM what its last line took if that is longer.
[DEDUCED, log 38] -/
def execHull (s : State) (ch : Nat) (v : HullChanSt) : Nat :=
  if readsMsg ch v.opmem then max v.execN ((v.lastAt - v.execAt + hullCycles s 1 - 1) / hullCycles s 1) else v.execN

/-- A modulus of `w` words: odd, top word not zero. [DESIGN CHOICE, log 22] -/
def modulusOk (n w : Nat) : Bool := n % 2 = 1 && decide (2 ^ (64 * (w - 1)) ≤ n)

/-- A curve point given by its coordinates. -/
def pointOk (c : CurveNum) (x y : Nat) : Bool := decide (x < c.p) && decide (y < c.p) && onCurve c x y
/-- A scalar or signature half in range. -/
def inOrder (n k : Nat) : Bool := k ≠ 0 && decide (k < n)

/-- A curve block (Table 15.7). -/
def blockCurve (k : List Byte) : CurveNum :=
  let w (i : Nat) : Nat := field k (8 + 72 * i) 72
  ⟨w 0, w 1, w 2, w 3, w 4, w 5, field k 2 1⟩

/-- The checks of R382. -/
def curveOk (k : List Byte) : Bool :=
  let c := blockCurve k
  let fb := field k 0 2
  let f := (fb + 63) / 64
  let d := sha256Num k
  let gap : Int := (c.h * c.n : Nat) - ((c.p : Int) + 1)
  decide (192 ≤ fb) && decide (fb ≤ 521) && decide (1 ≤ c.h) && decide (c.h ≤ 8) && zeroBytes k 3 5 && zeroBytes k 0x1B8 72
  && [c.p, c.a, c.b, c.gx, c.gy, c.n].all (fun v => decide (v < 2 ^ (64 * f)))
  && bitLen c.p = fb && c.p % 2 = 1 && millerRabin d c.p
  && decide (c.a < c.p) && decide (c.b < c.p) && decide (c.gx < c.p) && decide (c.gy < c.p)
  && (4 * c.a ^ 3 + 27 * c.b ^ 2) % c.p ≠ 0
  && c.n % 2 = 1 && decide (2 ^ (fb - 4) < c.n) && millerRabin d c.n
  && decide (gap * gap ≤ 4 * c.p) && onCurve c c.gx c.gy && ptMul c c.n (some (c.gx, c.gy)) = none

/-- What EXEC decides: nothing valid, or a result. -/
abbrev HullResult := Option (List Byte)

/-- Big-number operations. -/
def execBig (b : List Byte) : HullResult :=
  let w := hbW b
  let n := hbNum b 0 w
  if !modulusOk n w then none
  else
    match hbOp b with
    | 1 =>
      let x := hbNum b 1 w
      let e := hbNum b 2 (hbEw b)
      if inOrder n x && e ≠ 0 then some (toBytes (8 * w) (modPow n x e)) else none
    | 2 =>
      let x := hbNum b 1 w
      let y := hbNum b 2 w
      if inOrder n x && inOrder n y then some (toBytes (8 * w) (x * y % n)) else none
    | _ =>
      let e := hbNum b 1 (hbEw b)
      let sig := hbNum b 2 w
      if e % 2 = 1 && decide (3 ≤ e) && decide (e < n) && inOrder n sig && rsaOk n e sig (hbHash b 3) then some [] else none

/-- Elliptic-curve operations. -/
def execCurve (b : List Byte) (c : CurveNum) : HullResult :=
  let f := fieldWords c
  let num (i : Nat) : Nat := hbNum b i f
  let out (x : Nat) : List Byte := toBytes (8 * f) x
  match hbOp b with
  | 0x10 =>
    if inOrder c.n (num 0) && pointOk c (num 1) (num 2) then
      (ptMul c (num 0) (some (num 1, num 2))).map fun q => out q.1 ++ out q.2
    else none
  | 0x11 =>
    if inOrder c.n (num 0) && pointOk c (num 1) (num 2) then
      (ptMul c (c.h * num 0) (some (num 1, num 2))).map fun q => out q.1
    else none
  | 0x12 =>
    if inOrder c.n (num 0) then
      let (r, t) := ecdsaSign c (num 0) (hbHash b 1)
      if r ≠ 0 && t ≠ 0 then some (out r ++ out t) else none
    else none
  | _ =>
    if pointOk c (num 0) (num 1) && inOrder c.n (num 3) && inOrder c.n (num 4)
        && ecdsaOk c (num 0) (num 1) (hbHash b 2) (num 3) (num 4) then some []
    else none

/-- K_c of a context (R384). -/
def ctxKey (s : State) (c : Nat) : List Byte :=
  let x := ctxSt s c
  hmac (toBytes 32 Config.kWrap.toNat) (toBytes 8 s.nvm.serial.toNat ++ toBytes 2 c ++ [BitVec.ofNat 8 x.host] ++ toBytes 16 x.nonce.toNat)

/-- The owner host created the context, and the hull holds its keys (R375, R388). -/
def wrapOk (s : State) (ch : Nat) (b : List Byte) : Bool :=
  let x := ctxSt s (hbCtx b)
  !isHusk ch && x.created && x.host = (hchan s ch).owner && s.hull.idOk && s.hull.pufOk

/-- Key wrapping and unwrapping (R384), with `iv` for a KWRAP. -/
def execWrap (s : State) (ch : Nat) (b iv : List Byte) : HullResult :=
  let key := ctxKey s (hbCtx b)
  let serial := toBytes 8 s.nvm.serial.toNat
  if !wrapOk s ch b then none
  else if hbOp b = 0x21 then
    let head := toBytes 2 (hbLen b) ++ toBytes 2 (hbCtx b)
    let ct := gctr key iv (slice b 0x40 (hbLen b))
    some (head ++ iv ++ ct ++ gcmTag key iv (head ++ serial) ct)
  else
    let blob := slice b 0x40 (hbLen b + 32)
    let iv := slice blob 4 12
    let ct := slice blob 16 (hbLen b)
    if field blob 0 2 = hbLen b && field blob 2 2 = hbCtx b
        && gcmTag key iv (blob.take 4 ++ serial) ct = slice blob (16 + hbLen b) 16 then some (gctr key iv ct)
    else none

/-- The operation on the operands in operand memory; `rnd` are the bytes it draws. [DEDUCED, log 38] -/
def hullResult (s : State) (ch : Nat) (rnd : List Byte) : HullResult :=
  let v := hchan s ch
  let b := v.opmem
  match hbOp b with
  | 1 | 2 | 3 => execBig b
  | 0x14 => if curveOk (slice b 0x40 512) then some [] else none
  | 0x20 => some (sha256 (if isHusk ch then hullRead s ch (hbSrc b) (hbLen b) else v.msg))
  | 0x21 => if s.hull.drbgOk then execWrap s ch b rnd else none
  | 0x22 => execWrap s ch b []
  | 0x23 => if s.hull.drbgOk then some rnd else none
  | _ => match hbCurveOf b v.curve with | some c => execCurve b c | none => none

/-- Random bytes that the operation draws. -/
def hullDraws (b : List Byte) : Nat := match hbOp b with | 0x21 => 12 | 0x23 => hbLen b | _ => 0

/-- ENGINE_TAKE (R369): engine B if `b`; a free engine takes the next waiting channel. [DEDUCED, log 38] -/
def execEngineTake (b : Bool) (s : State) : Host.Outcome State Fault Refusal :=
  .next (
    let waits (ch : Nat) : Bool := (hchan s ch).state = .wait
    let start (ch : Nat) (s : State) : State := modHchan s ch fun v => 
      { v with state := .exec, execAt := s.cycle, execN := execLen v.opmem v.curve, moved := 0, msg := [] }
    if b then
      if s.hull.engB ≠ 0 then s
      else
        match ((List.range 14).map fun i => (s.hull.lastB - 2 + 1 + i) % 14 + 2).find? waits with
        | none => s
        | some ch => start ch { s with hull := { s.hull with engB := ch + 1, lastB := ch } }
    else if s.hull.engA ≠ 0 then s
    else
      match [0, 1].find? waits with
      | none => s
      | some ch => start ch { s with hull := { s.hull with engA := ch + 1 } })

/-- EXEC_END (R377, R378, R380, R382): the fixed time has passed; the engine is free. Where the two computations differ, that is counted
and the result withheld. -/
def execExecEnd (e : EngineEnd) (s : State) : Host.Outcome State Fault Refusal :=
  let ch := e.ch
  within 16 ch (
    let v := hchan s ch
    if v.state ≠ .exec ∨ v.waits then s
    else if msgLeft ch v then
      let r := pieceAt (hbSrc v.opmem) (hbLen v.opmem) v.moved
      hullAsk s ch r.1 r.2 none
    else if s.cycle < v.execAt + hullCycles s v.execN then s
    else
      let n := hullDraws v.opmem
      let r := if e.differ then none else hullResult s ch (freeBytes s n)
      let curve := if hbOp v.opmem = 0x14 && r.isSome && !v.dropped then some (blockCurve (slice v.opmem 0x40 512)) else v.curve
      let s := if n = 0 then s else drbgRequest (!isHusk ch) (drew s n)
      let s := { s with hull := if isHusk ch then { s.hull with engA := 0 } else { s.hull with engB := 0 } }
      let s := if e.differ then { s with hull := { s.hull with faultCnt := bump s.hull.faultCnt 1 } } else s
      setHchan s ch { v with
        state := .store, exec := execHull s ch v, moved := 0, curve := curve, verdict := if r.isSome then eOk else eHull
        result := r.getD (List.replicate (hbResult v.opmem v.curve) 0) })

/-- STORE_END (R373, R378, R380): the result goes to husk memory at once, or line by line through the HOST entries. -/
def execStoreEnd (ch : Nat) (s : State) : Host.Outcome State Fault Refusal :=
  within 16 ch (
    let v := hchan s ch
    let a := hbDst v.opmem
    let wipe (s : State) : State := modHchan s ch fun v => { v with state := .wipe, execAt := s.cycle }
    if v.state ≠ .store ∨ v.waits then s
    else if v.dropped ∨ v.result = [] then wipe s
    else if isHusk ch then wipe (hullWrite s ch a v.result)
    else if v.moved < lineCount a v.result.length then
      let r := pieceAt a v.result.length v.moved
      hullAsk s ch r.1 0 (some (slice v.result (r.1 - a) r.2))
    else wipe s)

/-- WIPE_END (R369, R373, R379, R444): 256 hull cycles have passed. -/
def execWipeEnd (ch : Nat) (s : State) : Host.Outcome State Fault Refusal :=
  within 16 ch (
    let v := hchan s ch
    if v.state ≠ .wipe ∨ s.cycle < v.execAt + hullCycles s 256 then s
    else
      let code := if v.dropped then eAborted else v.verdict
      let s := { s with hull := { s.hull with jobCnt := bump s.hull.jobCnt 1 } }
      let s := setHchan s ch { v with
        state := .idle, code := code, opmem := if isHusk ch then v.opmem else [], msg := [], result := [], verdict := 0, dropped := false
        doneCnt := if code = eOk then bump v.doneCnt 1 else v.doneCnt
        failCnt := if code = eHull then bump v.failCnt 1 else v.failCnt }
      if isHusk ch then s else errorRecord s 4 2 (112 + ch) v.exec code)

/-! ### Control (R383, R385, R392) -/

/-- CLRCURVE (R383). -/
def execClrcurve (w : Writer) (ch : Nat) (s : State) : Host.Outcome State Fault Refusal :=
  within 16 ch (
    if hullWriter s w ch ∧ (hchan s ch).state = .idle then modHchan s ch fun v => { v with curve := none } else s)

/-- HULL_CHAN_OWNER (R383, R392). -/
def execHullChanOwner (w : Writer) (ch v : Nat) (s : State) : Host.Outcome State Fault Refusal :=
  within 16 ch (
    let x := hchan s ch
    if !mgmtOnly s w ∨ ch < 2 ∨ x.state ≠ .idle then s
    else
      let same := x.owner = bits v 3 0 && x.ownerValid = bit v 4
      setHchan s ch { x with owner := bits v 3 0, ownerValid := bit v 4, curve := if same then x.curve else none })

/-- A security event of the hull (Table 18.5, sensor 6). -/
def securitySensor (s : State) : State :=
  platformEvent s 6 (b2n s.hull.pufOk + 2 * b2n s.hull.idOk + 4 * b2n s.hull.drbgOk + 8 * b2n (s.hull.owner ≠ 0))

/-- DRBG_HEALTH_RETEST (R385): of a failed test. -/
def execDrbgHealthRetest (pass : Bool) (s : State) : Host.Outcome State Fault Refusal :=
  .next (if !s.hull.drbgOk && pass then securitySensor { s with hull := { s.hull with drbgOk := true } } else s)

end Sys2Proof.Machine
end

