-- ==== Sys2Proof/Machine/Power.lean ====
section
/-!
DEFINITION. Power and clocks (chapter 16): field transitions, regulator requests, power steps, standby and wake sources,
limits, crossings, ageing monitors and the margin table.
-/
namespace Sys2Proof.Machine

/-! ### Field transitions (R397 to R403) -/

/-- FIELD_GATE (R398): no job on any pod of the field for 4,096 cycles. -/
def execFieldGate (f : Nat) (s : State) : Host.Outcome State Fault Refusal :=
  within 64 f (
    let v := fieldSt s f
    if v.state = .f0 ∧ fieldIdle s f ∧ v.idleFrom + 4096 ≤ s.cycle then fieldTo s f .f1 else s)

/-- The resting state that REST names. -/
def restOf (v : FieldSt) : FState := match v.rest with | 1 => .f1 | 2 => .f2 | _ => .f3

/-- IDLE_EXPIRY (R399). [DESIGN CHOICE, log 2] [DEDUCED, log 40] -/
def execIdleExpiry (f : Nat) (s : State) : Host.Outcome State Fault Refusal :=
  within 64 f (
    let v := fieldSt s f
    if v.state = .f1 ∧ v.trans = .none ∧ fieldIdle s f ∧ v.idleFrom + cyclesOf s (1000 * v.idle) ≤ s.cycle then
      lowerField s f (restOf v)
    else s)

/-- What a pip keeps in F2: scratchpad, regions, last owners, counters, and what waits at its edges (R142, R403). -/
def pipF2 (q : PipSt) : PipSt := { sp := q.sp, cnt := q.cnt, net := { window := q.net.window, shortBuf := q.net.shortBuf } }
/-- What is left of a pip in F3. -/
def pipF3 (q : PipSt) : PipSt := { cnt := q.cnt, net := { window := q.net.window, shortBuf := q.net.shortBuf } }

/-- The counters of a pod. -/
def podCounters (v : PodSt) : PodSt :=
  { checkCnt := v.checkCnt, failCnt := v.failCnt, opsCnt := v.opsCnt, pbsCnt := v.pbsCnt, refuseCnt := v.refuseCnt,
    keysetCnt := v.keysetCnt, kblkCnt := v.kblkCnt, kentCnt := v.kentCnt, kdrainCnt := v.kdrainCnt }
def podF2 (v : PodSt) : PodSt := { podCounters v with psets := v.psets, descs := v.descs }

/-- A field loses what Table 16.3 says. -/
def loseField (s : State) (f : Nat) (tgt : FState) : State :=
  match tgt with
  | .f2 =>
    let s := forAll (pipsOfField f) (fun p s => modPip s p pipF2) s
    forAll (podsOfField f) (fun d s => modPod s d podF2) s
  | .f3 =>
    let s := forAll (pipsOfField f) (fun p s => modPip s p pipF3) s
    let s := forAll (podsOfField f) (fun d s => modPod s d podCounters) s
    { s with syncs := s.syncs.filter fun e => syncField e.1 ≠ f }
  | _ => s

/-- SHUTDOWN_COMPLETE (R24, R26, R398, R401, R404): a field in F2 that must be in F3 goes on there; else a latched enable starts a wake.
[DEDUCED, log 40] -/
def execShutdownComplete (f : Nat) (s : State) : Host.Outcome State Fault Refusal :=
  within 64 f (
    let v := fieldSt s f
    match v.trans with
    | .down tgt =>
      if tgt = .f3 ∧ !v.offDone then s
      else
        let s := modField (loseField s f tgt) f fun v => { v with trans := .none, pending := false }
        let s := afterTrans (fieldTo s f tgt) f
        if v.pending then enableField s f else s
    | _ => s)

/-- Fields that a trace route now needs in F1 are enabled (R399, R446). -/
def wakeFloor (s : State) : State :=
  if !s.trc.en.getLsbD 1 then s
  else forAll ((List.range 64).filter fun f => floorF1 s f && ((fieldSt s f).state = .f2 || (fieldSt s f).state = .f3))
    (fun f s => enableField s f) s

/-- What leaving F3 clears in a pip (R140). -/
def zeroBanks (q : PipSt) : PipSt := { q with sp := {} }

/-- WAKE_COMPLETE (R24, R26, R140, R398, R400): the field reaches F1, out of F3 with its banks zeroed; a field that must be in F3, and every
field of a module that enters M1, shuts down again. -/
def execWakeComplete (f : Nat) (s : State) : Host.Outcome State Fault Refusal :=
  within 64 f (
    let v := fieldSt s f
    if v.trans ≠ .wake ∨ (v.state = .f3 ∧ !v.railAck) then s
    else
      let s := if v.state = .f3 then forAll (pipsOfField f) (fun p s => modPip s p zeroBanks) s else s
      let s := modField s f fun v => { v with trans := .none, railAck := false, wakeEntry := false, wakeCnt := bump v.wakeCnt 1 }
      let s := fieldTo s f .f1
      if s.pwr.mstate = .m0 then afterTrans (wakeFloor s) f else startDown s f .f3)

/-- FLD_PWR_CTRL (R399): a value of 0 in a part is ignored; a REST above the present state is an enable. -/
def execFldPwrCtrl (w : Writer) (f v : Nat) (s : State) : Host.Outcome State Fault Refusal :=
  within 64 f (
    if !priv s w then s
    else
      let rest := bits v 1 0
      let idle := bits v 17 2
      let s := modField s f fun x => { x with rest := if rest = 0 then x.rest else rest, idle := if idle = 0 then x.idle else idle }
      if rest ≠ 0 ∧ fstateNum (restOf (fieldSt s f)) < fstateNum (fieldSt s f).state then enableField s f else s)

/-! ### Regulator requests (R404, Table 16.5) -/

/-- A shutdown that waits for the rail sends its off request. -/
def pendingOff (s : State) (f : Nat) : State :=
  let v := fieldSt s f
  if v.trans = .down .f3 ∧ !v.offDone then startOff s f else s

/-- The last cycle in which the request of a field can be acknowledged: 50 µs from its first frame (R404). -/
def reqEnd (s : State) (f : Nat) : Nat := (fieldSt s f).reqAt + cyclesOf s 50000

/-- VR_ACK (R404, R406, R418). -/
def execVrAck (f : Nat) (s : State) : Host.Outcome State Fault Refusal :=
  within 64 f (
    let set (s : State) (mv : Nat) : State := modField s f fun v => { v with req := .none, vset := mv }
    let step (s : State) : State := powerRecord s (some f) 5 (fieldSt s f).vset 0
    if reqEnd s f < s.cycle then s else
    match (fieldSt s f).req with
    | .none => s
    | .on mv => modField (set s mv) f fun v => { v with railOn := true, railAck := true }
    | .off => modField s f fun v => { v with req := .none, railOn := false, offDone := true }
    | .raise mv _ => pendingOff (returnVrun (step (set s mv)) f) f
    | .lower mv =>
      let own := (fieldSt s f).stepJobs ≠ []
      let s := set s mv
      pendingOff (returnVrun (if own then step s else s) f) f
    | .margin mv => pendingOff (modField (set s mv) f fun v => { v with vrun := mv, newVrun := none }) f)

/-- A context whose oldest command waits on a wake entry of the field. -/
def waitsWake (s : State) (f c : Nat) : Option (List Byte) :=
  match headCmd s c with
  | some b => if (ctxSt s c).readyAt = 0 && !(ctxSt s c).halted && fenceMet s c b && (sleepers s c b).contains f then some b else none
  | none => none

/-- Every command that waits on the wake entry is refused (R14, Table 16.5). -/
def refuseWaiters (s : State) (f : Nat) : State :=
  forAll (s.ctxs.map (·.1)) (fun c s => match waitsWake s f c with | some b => atIssue s c b eVrNack | none => s) s

/-- VR_NACK (R404, Table 16.5): the window has passed; counted, and the domain stays as it was. [DEDUCED, log 40] -/
def execVrNack (f : Nat) (s : State) : Host.Outcome State Fault Refusal :=
  within 64 f (
    let req := (fieldSt s f).req
    if req = .none ∨ s.cycle ≤ reqEnd s f then s
    else
      let s := modField s f fun v => { v with req := .none, vrFault := true, nackCnt := bump v.nackCnt 1 }
      let s := { s with pwr := { s.pwr with nackCnt := bump s.pwr.nackCnt 1 } }
      let s := powerRecord s (some f) 2 0 eVrNack
      match req with
      | .on _ =>
        let waits := (fieldSt s f).wakeEntry
        let s := if waits then refuseWaiters s f else s
        modField s f fun v => { v with trans := .none, wakeEntry := false }
      | .off => modField s f fun v => { v with offDone := true }
      | .raise _ j =>
        let s := match jobOf s j with
          | some j => raiseFault (endJob s j eVrNack 0) 5 [j.part] f eVrNack
          | none => s
        pendingOff s f
      | _ => pendingOff s f)

/-- POWER_STEP_ISSUE (R405, R406): record `i` of the plan of job `j`, once its time has come and the rail is free. -/
def execPowerStepIssue (j i : Nat) (s : State) : Host.Outcome State Fault Refusal :=
  .next (
    match jobOf s j with
    | none => s
    | some j =>
      match (powerSteps (partSt s j.part))[i]? with
      | none => s
      | some r =>
        let f := r.fld
        let v := fieldSt s f
        if (j.phase ≠ .loading ∧ j.phase ≠ .running) ∨ r.prog ≠ j.progId.toNat ∨ j.steps.contains i
            ∨ s.cycle + stepLead s < j.t0 + r.offset ∨ v.req ≠ .none ∨ v.trans ≠ .none ∨ !v.railOn then s
        else
          let mv := clampMv (v.vrun + r.dv)
          let s := setJob s { j with steps := j.steps ++ [i] }
          let s := modField s f fun v =>
            { v with req := if v.vset < mv then .raise mv j.id else .lower mv, reqAt := s.cycle
                     stepJobs := if v.stepJobs.contains j.id then v.stepJobs else v.stepJobs ++ [j.id] }
          avsVolt s f mv)

/-! ### Standby (R408, R409, Table 16.7) -/

def mstateNum : MState → Nat | .m0 => 0 | .entering => 1 | .m1 => 2 | .m2 => 3

/-- The module changes state, with its record (Table 18.3, event 6). -/
def moduleTo (s : State) (m : MState) : State :=
  powerRecord { s with pwr := { s.pwr with mstate := m } } none 6 (mstateNum m) 0

/-- Steps 1 and 2 of an entry into M1. -/
def enterM1 (s : State) : State :=
  let s := moduleTo (departAll s) .entering
  forAll (List.range 64) (fun f s => startDown s f .f3) s

/-- Some context is created. -/
def anyContext (s : State) : Bool := s.ctxs.any fun e => e.2.created

/-- A write of STANDBY by who may write it. -/
def standby (s : State) : State :=
  if s.pwr.mstate ≠ .m0 then s
  else if anyContext s then { s with pwr := { s.pwr with stbyErr := true } }
  else enterM1 s

/-- STANDBY (R408). -/
def execStandby (w : Writer) (s : State) : Host.Outcome State Fault Refusal := .next (if priv s w then standby s else s)

/-- A stack without power. -/
def offStack : StackSt := { state := 0 }

/-- M1_ENTRY (R408, Table 16.2): every field is in F3; stacks, links and heads go off. -/
def execM1Entry (s : State) : Host.Outcome State Fault Refusal :=
  .next (
    if s.pwr.mstate ≠ .entering ∨ (List.range 64).any (fun f => (fieldSt s f).state ≠ .f3 || (fieldSt s f).trans ≠ .none) then s
    else
      let s := moduleTo s .m1
      { s with
        pwr := { s.pwr with m1At := s.cycle }, hbm := [], staging := [], hbmFlips := [], stgFlips := [], links := []
        hstacks := (List.range 12).map fun k => (k, offStack)
        heads := (s.heads.map fun e => (e.1, { perst := e.2.perst : HeadSt })).filter fun e => e.2 ≠ {} })

/-- Wake source `n` fires in M1: recorded, and start-up runs from stage 3 (R409). -/
def wakeSource (s : State) (n : Nat) : State :=
  if s.pwr.mstate ≠ .m1 ∨ !s.pwr.wakeEn.getLsbD n then s
  else { s with pwr := { s.pwr with wakeSrc := s.pwr.wakeSrc ||| BitVec.ofNat 5 (2 ^ n) }, boot := { s.boot with stage := 3 } }

/-- LINKSD (R409). -/
def execLinksd (l : Nat) (s : State) : Host.Outcome State Fault Refusal := within 36 l (wakeSource s 0)
/-- PATTERN (R299, R409). -/
def execPattern (l : Nat) (s : State) : Host.Outcome State Fault Refusal := within 36 l (wakeSource s 1)
/-- CWAKE_N (R459). -/
def execCwakeN (s : State) : Host.Outcome State Fault Refusal := .next (wakeSource s 2)
/-- WAKE_N (R461). -/
def execWakeN (s : State) : Host.Outcome State Fault Refusal := .next (wakeSource s 3)
/-- PWR_TIMER (R408): TIMER ms after M1 entry. -/
def execPwrTimer (s : State) : Host.Outcome State Fault Refusal :=
  .next (
    let t := s.pwr.timer.toNat
    if t ≠ 0 ∧ s.pwr.m1At + cyclesOf s (1000000 * t) ≤ s.cycle then wakeSource s 4 else s)

/-! ### Limits (R395, R411 to R413) -/

/-- The hottest field (sensor 3). -/
def hottestField (s : State) : Nat := (List.range 64).foldl (fun t f => max t (fieldSt s f).temp) 0

/-- A reading crosses a threshold. -/
def crosses (old new limit : Nat) : Bool := decide (old < limit) ≠ decide (new < limit)

/-- Every running job of a partition ends. -/
def endRunning (s : State) (code : Byte) (test : Job → Bool) : State := endJobs s code fun j => j.phase ≠ .queued && test j

/-- A field at 105 °C (R411): its partition's running jobs end, which is a fault of the partition. -/
def tooHot (s : State) (f : Nat) : State :=
  let s := modField s f fun v => { v with hot := true }
  let s := match partOfField s f with
    | some n => raiseFault (endRunning s eThermal (·.part = n)) 6 [n] f eThermal
    | none => s
  if (fieldSt s f).state = .f0 then fieldTo s f .f1 else s

/-- TEMPERATURE_READING (R411, R448). [DESIGN CHOICE, log 7] -/
def execTemperatureReading (f t : Nat) (s : State) : Host.Outcome State Fault Refusal :=
  within 64 f (
    let v := fieldSt s f
    let t := t % 256
    let s := modField s f fun v =>
      { v with temp := t, coolAt := if 95 < v.temp ∧ t ≤ 95 then s.cycle else v.coolAt, hot := v.hot && decide (95 < t), wakeEntry := v.wakeEntry && !(v.hot && decide (t ≤ 95)) }
    let s := if v.temp ≤ 95 ∧ 95 < t then
        powerRecord { modField s f (fun v => { v with monDue := true }) with pwr := { s.pwr with texc := true } } (some f) 3 t 0
      else s
    let s := if 105 ≤ t ∧ !v.hot then tooHot s f else s
    let s := if crosses v.temp t 96 ∨ crosses v.temp t 105 ∨ crosses v.temp t 115 then platformEvent s 3 (hottestField s) else s
    if 115 ≤ t ∧ s.pwr.mstate = .m0 then enterM1 (endJobs s eThermal fun _ => true) else s)

/-- TDP of the grade, 10 W units. -/
def tdp (s : State) : Nat := if s.nvm.gradeE then 2200 else 3000

/-- A power excursion (R412). -/
def powerExcursion (s : State) : State :=
  let ps := ((s.jobs.filter fun j => j.phase ≠ .queued).map (·.part)).eraseDups
  let s := { s with pwr := { s.pwr with excCnt := bump s.pwr.excCnt 1, pexc := true } }
  let s := powerRecord s none 4 s.pwr.pin 0
  raiseFault (endRunning s eThermal fun _ => true) 7 ps 0 eThermal

/-- 46 to 56 V, in 10 mV (R395). -/
def vinIn (vin : Nat) : Bool := decide (4600 ≤ vin) && decide (vin ≤ 5600)

/-- INPUT_MEASURE (R395, R412): voltage in 10 mV, power and its averages in 10 W. [DESIGN CHOICE, log 7] -/
def execInputMeasure (vin pin avg10ms avg1s : Nat) (s : State) : Host.Outcome State Fault Refusal :=
  .next (
    let old := s.pwr
    let excess := decide (3400 < avg10ms) || decide (tdp s < avg1s)
    let s := { s with pwr := { s.pwr with
      vin := vin, pin := pin, excess := excess, vinTold := old.vinTold && !vinIn vin
      vinBadAt := if vinIn vin then none else some (old.vinBadAt.getD s.cycle) } }
    let s := if crosses old.vin vin 4600 ∨ crosses old.vin vin 5601 then platformEvent s 1 vin else s
    let s := if crosses old.pin pin (tdp s) ∨ crosses old.pin pin 3400 then platformEvent s 2 pin else s
    if excess && !old.excess then powerExcursion s else s)

/-- A fault of the module (class 9). -/
def moduleFault (s : State) : State := raiseFault (endJobs s eAborted fun _ => true) 9 (allParts s) 0 eAborted

/-- VIN_FAULT (R395): the input voltage has been out of range for more than 1 ms. -/
def execVinFault (s : State) : Host.Outcome State Fault Refusal :=
  .next (
    match s.pwr.vinBadAt with
    | none => s
    | some t =>
      if s.pwr.vinTold ∨ s.cycle ≤ t + cyclesOf s 1000000 then s
      else moduleFault { s with pwr := { s.pwr with vinFault := true, vinTold := true } })

/-- HOLDOVER (R413). -/
def execHoldover (s : State) : Host.Outcome State Fault Refusal :=
  .next (moduleFault { s with pwr := { s.pwr with refOk := false, holdover := true } })

/-- REFCLK_RETURN (R413). -/
def execRefclkReturn (s : State) : Host.Outcome State Fault Refusal := .next { s with pwr := { s.pwr with refOk := true } }

/-- CDC_TIMEOUT (R415): counted; the job ends, the read returns 0, and the acorn's request is retried once. -/
def execCdcTimeout (k : Crossing) (s : State) : Host.Outcome State Fault Refusal :=
  let count (s : State) (f : Nat) : State := modField s f fun v => { v with cdcCnt := bump v.cdcCnt 1 }
  let fabric (s : State) : State := { s with pwr := { s.pwr with cdcCnt := bump s.pwr.cdcCnt 1 } }
  match k with
  | .job p => within 10240 p (
      let s := count s (fieldOfPip p)
      match jobOfPip s p with
      | some j => raiseFault (endJob s j eCdcTimeout (siteOf p)) 8 [j.part] (locOf p) eCdcTimeout
      | none => s)
  | .field f => within 64 f (count s f)
  | .fabric => .next (fabric s)
  | .acorn again => .next (if again then moduleFault (fabric s) else fabric s)
  | .read (some f) h off => within 64 f (send (count s f) (.regData h off 0))
  | .read none h off => .next (send (fabric s) (.regData h off 0))

/-! ### Ageing and margin (R416 to R418) -/

/-- Ceiling of a quotient by a positive number. -/
def ceilDiv (a : Int) (b : Nat) : Int := -((-a) / (b : Int))

/-- VMIN and VRUN before its clamp to 850 mV (R417): KV is in 0.01 mV per ps. -/
def replan (vset floor_ : Nat) (kv sl : Int) : Nat × Nat :=
  let vmin100 : Int := 100 * vset - sl * kv
  let vrun := 5 * ceilDiv (vmin100 + 2500) 500
  ((max 0 (ceilDiv vmin100 100)).toNat % 4096, (max vrun (floor_ : Int)).toNat)

/-- The period of 24 h by the husk timer (R416). -/
def monDayNow (s : State) : Nat := huskTime s / 2160000000000

/-- A read of the monitors is due: of the 24 h, or of a thermal excursion once the field has read 95 °C or below for 1 s (R416). -/
def monRead (s : State) (f : Nat) : Bool :=
  let v := fieldSt s f
  decide (v.monDay < monDayNow s) || (v.monDue && decide (v.temp ≤ 95) && decide (v.coolAt + cyclesOf s 1000000000 ≤ s.cycle))

/-- A read of the monitors of a field and its re-plan; a VRUN out of range is clamped (R407, R416, R417). -/
def readMonitors (s : State) (f : Nat) (slack : List Int) : State :=
  let v := fieldSt s f
  let sl := slack.foldl min (slack.headD 0)
  let (vmin, vrun) := replan v.vset s.nvm.cal.vfloor ((Tab.get 0 s.nvm.cal.kv f : Nat) : Int) sl
  let low := decide (850 < vrun)
  let vrun := clampMv vrun
  let s := modField s f fun v =>
    { v with monCnt := bump v.monCnt 1, monDue := false, monDay := monDayNow s, vmin := vmin, marginLow := v.marginLow || low
             newVrun := if vrun = v.vrun then none else some vrun, hours := huskTime s / 90000000000 }
  if sl < 0 ∧ v.vset = 850 then recordOos s f else s

/-- MONITOR_READ (R416, R417): of a field in F0 or F1, when a read is due. -/
def execMonitorRead (f : Nat) (slack : List Int) (s : State) : Host.Outcome State Fault Refusal :=
  within 64 f (
    let v := fieldSt s f
    if !(v.state = .f0 || v.state = .f1) ∨ !monRead s f ∨ slack.length ≠ 16 then s else readMonitors s f slack)

/-- MARGIN_APPLY (R418): with the rail on by a voltage write, else at the next wake. -/
def execMarginApply (f : Nat) (s : State) : Host.Outcome State Fault Refusal :=
  within 64 f (
    let v := fieldSt s f
    match v.newVrun with
    | none => s
    | some mv =>
      if !fieldIdle s f ∨ v.req ≠ .none ∨ v.trans ≠ .none then s
      else if v.railOn ∧ v.state ≠ .f3 then avsVolt (modField s f fun v => { v with req := .margin (clampMv mv), reqAt := s.cycle }) f (clampMv mv)
      else modField s f fun v => { v with vrun := clampMv mv, newVrun := none })

end Sys2Proof.Machine
end

