-- ==== Sys2Proof/Machine/Boot.lean ====
section
/-!
DEFINITION. Start-up (R420 to R428), signed images (R389, R390), recovery and weight verification (R432 to R434), resets
(R439, R440), loss of power (R410).
-/
namespace Sys2Proof.Machine

/-! ### Signed images (R389, R390) -/

def siType (b : List Byte) : Nat := field b 4 1
def siSigner (b : List Byte) : Nat := field b 5 1
def siSvn (b : List Byte) : Nat := field b 8 4
def siCommit (b : List Byte) : Bool := bit (field b 12 4) 0
def siSerial (b : List Byte) : Nat := field b 16 8
def siLength (b : List Byte) : Nat := field b 24 4
def siPayload (b : List Byte) : List Byte := slice b 0x380 (siLength b)
/-- N ∥ E of the envelope. -/
def siKey (b : List Byte) : List Byte := slice b 0x40 388

/-- K_seal opens the identity record (R386, R387): the owner digest and the floors can be read. -/
def sealOpen (s : State) : Bool := s.hull.pufOk && s.hull.keys && s.nvm.identOk

/-- Check 1: MAGIC, TYPE, RES bytes; and the payload is there. -/
def envelopeOk (b : List Byte) : Bool :=
  field b 0 4 = 0x46475153 && decide (1 ≤ siType b) && decide (siType b ≤ 5) && zeroBytes b 6 2
  && bits (field b 12 4) 31 1 = 0 && zeroBytes b 0x1C 36 && zeroBytes b 0x1C4 60 && decide (0x380 + siLength b ≤ b.length)

/-- Checks 2 to 5. -/
def signerOk (s : State) (b : List Byte) : Bool :=
  let own := siType b = 2 || siType b = 4
  (if own then siSigner b = 2 && sealOpen s && s.hull.owner ≠ 0 && sha256Num (siKey b) = s.hull.owner
   else decide (siSigner b ≤ 1) && sha256Num (siKey b) = Config.signerDigest (siSigner b))
  && (siSerial b = s.nvm.serial.toNat || (siSerial b = 0 && decide (siType b < 4)))
  && (!sealOpen s || decide (Tab.get 0 s.hull.floors (siType b) ≤ siSvn b))

/-- The message that the signature covers. -/
def signedPart (b : List Byte) : List Byte := b.take 0x200 ++ siPayload b

/-- Check 6: a SHA256 job and an RSA_VERIFY job (R375). -/
def shaJobOk (b : List Byte) : Bool := decide ((signedPart b).length ≤ 2 ^ 24)
def rsaJobOk (b : List Byte) : Bool :=
  let n := field b 0x40 384
  let e := field b 0x1C0 4
  let sig := field b 0x200 384
  modulusOk n 48 && e % 2 = 1 && decide (3 ≤ e) && decide (e < n) && inOrder n sig && rsaOk n e sig (sha256 (signedPart b))

/-- An image of one of the types is accepted. -/
def imageOk (s : State) (types : List Nat) (b : List Byte) : Bool :=
  envelopeOk b && types.contains (siType b) && signerOk s b && shaJobOk b && rsaJobOk b

/-- A job of channel 0 that the acorn has run, as the hull registers show it (R371, R393). -/
def huskJob (s : State) (ok : Bool) (exec : Nat) : State :=
  let job : Word64 := BitVec.ofNat 64 (Config.freeBits s.free).toNat
  let s := { s with free := s.free + 1, hull := { s.hull with jobCnt := bump s.hull.jobCnt 1 } }
  modHchan s 0 fun v =>
    { v with job := job, exec := exec, code := if ok then eOk else eHull
             doneCnt := if ok then bump v.doneCnt 1 else v.doneCnt, failCnt := if ok then v.failCnt else bump v.failCnt 1 }

/-- EXEC lengths of the two jobs (R377). -/
def shaExec (b : List Byte) : Nat := 2 * (72 * (((signedPart b).length + 9 + 63) / 64)) + 64
def rsaExec : Nat := 78448

/-- The checks run: jobs on channel 0, and on acceptance with COMMIT the floor rises (R390). -/
def tryImage (s : State) (types : List Nat) (b : List Byte) : State :=
  if !(envelopeOk b && types.contains (siType b) && signerOk s b) then s
  else
    let s := huskJob s (shaJobOk b) (shaExec b)
    let s := if shaJobOk b then huskJob s (rsaJobOk b) rsaExec else s
    if imageOk s types b && siCommit b && sealOpen s then
      { s with hull := { s.hull with floors := Tab.set 0 s.hull.floors (siType b) (siSvn b) } }
    else s

/-- An image is copied into husk memory before it is verified (R371). -/
def toHusk (s : State) (b : List Byte) : State := { s with nvm := { s.nvm with husk := Tab.setMany 0 s.nvm.husk 0 b } }

/-! ### Resets (R410, R439) -/

/-- The boot sensor reports a stage or a cause (Table 18.5). -/
def bootSensor (s : State) : State := platformEvent s 5 (s.boot.stage + 8 * s.boot.cause)
/-- [DEDUCED, log 41] -/
def toStage (s : State) (n : Nat) : State := bootSensor { s with boot := { s.boot with stage := n } }
/-- STAGE 7 with its cause. -/
def bootFail (s : State) (cause : Nat) : State := bootSensor { s with boot := { s.boot with stage := 7, cause := cause } }

/-- What the margin table in NVM holds of each field; a VRUN that waited is applied at the next wake (R418). -/
def marginFields (t : Tab FieldSt) : Tab FieldSt :=
  (t.map fun e =>
    let f := e.2
    (e.1, { vrun := f.newVrun.getD f.vrun, vmin := f.vmin, marginLow := f.marginLow, hours := f.hours : FieldSt })).filter
    fun e => e.2 ≠ {}

/-- Stacks without power. -/
def offStacks : Tab StackSt := (List.range 12).map fun k => (k, offStack)

/-- The state of a module that has lost all but what NVM holds: fault log, identity record, margin table. -/
def powerless (s : State) : State :=
  { pending := s.pending, free := s.free, out := s.out, nvm := { s.nvm with husk := [] }
    boot := { stage := 0 }, flt := { log := s.flt.log }, fields := marginFields s.fields
    hstacks := offStacks, hull := { owner := s.hull.owner, floors := s.hull.floors, pufOk := false, idOk := false, drbgOk := false, keys := false }
    pwr := { mstate := .m2, refOk := false, synLock := false, hbmLock := false } }

/-- Start-up begins again from a stage: everything it sets is reset, every counter with it (R439, R370, R442). What stays:
NVM, husk memory, the identity and keys of the hull, test mode, the I3C address and its events, the repair map, the
configuration in use, the wake registers. [DEDUCED, log 41] -/
def restart (s : State) (stage : Nat) : State :=
  { pending := s.pending, free := s.free, out := s.out, nvm := s.nvm
    boot := { s.boot with stage := stage, cause := 0, excl := [], time := 0, vinBad := none, refBad := none }
    mod := { map := s.mod.map, agDis := true }, flt := { log := s.flt.log, resetting := s.flt.resetting }
    fields := marginFields s.fields, hstacks := offStacks
    lnk := { node := s.boot.nodeCfg }
    cxl := { bifur := s.cxl.bifur, mld := s.cxl.mld, nld := s.cxl.nld,
             mgmtHost := bits s.boot.mgmtCfg 3 0, mgmtValid := bit s.boot.mgmtCfg 4 }
    heads := (s.heads.map fun e => (e.1, { perst := e.2.perst : HeadSt })).filter fun e => e.2 ≠ {}
    hull := { owner := s.hull.owner, floors := s.hull.floors, pufOk := s.hull.pufOk, idOk := s.hull.idOk, drbgOk := s.hull.drbgOk
              keys := s.hull.keys, debug := s.hull.debug, fwDigest := s.hull.fwDigest, cfgDigest := s.hull.cfgDigest
              calDigest := s.hull.calDigest }
    pwr := { mstate := s.pwr.mstate, refOk := s.pwr.refOk, wakeEn := s.pwr.wakeEn, wakeSrc := s.pwr.wakeSrc, timer := s.pwr.timer }
    mgt := { daValid := s.mgt.daValid, da := s.mgt.da, testEn := s.mgt.testEn, events := s.mgt.events
             tapInstr := s.mgt.tapInstr, boundary := s.mgt.boundary, extest := s.mgt.extest } }

/-- PWR_EN_FALL (R410, R465). -/
def execPwrEnFall (s : State) : Host.Outcome State Fault Refusal := .next (powerless s)
/-- BARS_LOSS (R410, R465). -/
def execBarsLoss (s : State) : Host.Outcome State Fault Refusal := .next (powerless s)

/-- HUSK_POWER_UP (R465, R386, R385): stage 0 ends, and stage 1 begins. -/
def execHuskPowerUp (pufOk drbgOk : Bool) (s : State) : Host.Outcome State Fault Refusal :=
  .next (
    if s.pwr.mstate ≠ .m2 then s
    else
      let s := powerless s
      let puf := pufOk && s.nvm.helperOk
      let s := { s with pwr := { s.pwr with mstate := .m0 }
                        hull := { s.hull with pufOk := puf, keys := puf, drbgOk := drbgOk } }
      toStage (securitySensor s) 1)

/-- A write of MOD_RESET by who may write it (R439, R440): every host departs, and start-up runs from stage 2. [DEDUCED, log 41] -/
def moduleReset (s : State) : State :=
  let s := departAll s
  let s := restart { s with flt := { s.flt with resetting := true } } 2
  bootSensor { s with pwr := { s.pwr with wakeEn := 0b01110, wakeSrc := 0, timer := 0 } }

/-- MOD_RESET (R440). -/
def execModReset (w : Writer) (s : State) : Host.Outcome State Fault Refusal :=
  .next (if priv s w ∧ s.pwr.mstate = .m0 ∧ s.boot.stage ≠ 0 ∧ s.boot.stage ≠ 1 then moduleReset s else s)

/-! ### Stages 1 to 5 (R420 to R428) -/

/-- The firmware of a slot. -/
def slotImage (s : State) (b : Bool) : List Byte := if b then s.nvm.fwB else s.nvm.fwA

/-- Try a slot: copied, verified; on success measured, and stage 2 begins. -/
def bootSlot (s : State) (slot : Bool) : State × Bool :=
  let b := slotImage s slot
  let ok := imageOk s [1] b
  let s := tryImage (toHusk s b) [1] b
  if ok then
    (toStage { s with boot := { s.boot with fwSlot := slot }, hull := { s.hull with fwDigest := sha256Num b } } 2, true)
  else (s, false)

/-- FIRMWARE (R420, stage 1). -/
def execFirmware (s : State) : Host.Outcome State Fault Refusal :=
  .next (
    if s.boot.stage ≠ 1 then s
    else
      let (t, ok) := bootSlot s s.nvm.slotB
      if ok then t
      else
        let (t, ok) := bootSlot t (!s.nvm.slotB)
        if ok then t else bootFail t 1)

/-- A configuration payload is used (Table 17.3). -/
def configOk (p : List Byte) : Bool :=
  let heads := field p 2 1
  let nld := field p 3 1
  p.length = 64 && field p 0 2 = 1 && decide (heads ≤ 2) && decide (1 ≤ nld) && decide (nld ≤ 16) && (nld = 1 || heads = 0)
  && decide (field p 4 1 < 32) && decide (field p 5 1 < 4) && decide (field p 6 2 < 2 ^ 12) && decide (field p 8 4 < 2 ^ 24)
  && zeroBytes p 12 4 && decide (field p 0x10 8 < 2 ^ 36) && zeroBytes p 0x18 40

/-- The default configuration, in the form of a payload. -/
def defaultConfig : List Byte := [1, 0, 0, 1, 16, 0, 0xFF, 0x0F] ++ List.replicate 56 0

/-- Registers take the values of the configuration in use. -/
def useConfig (s : State) (p : List Byte) (dflt : Bool) : State :=
  let nld := field p 3 1
  { s with
    boot := { s.boot with cfgDefault := dflt, stackEn := field p 6 2, linkEn := field p 0x10 8, joinCfg := bit (field p 5 1) 0
                          ppsCfg := bit (field p 5 1) 1, mgmtCfg := field p 4 1, nodeCfg := field p 8 4 }
    cxl := { s.cxl with bifur := field p 2 1, mld := decide (2 ≤ nld), nld := nld,
                        mgmtHost := bits (field p 4 1) 3 0, mgmtValid := bit (field p 4 1) 4 }
    lnk := { s.lnk with node := field p 8 4 } }

/-- The configuration image is read (R425). -/
def readConfig (s : State) : State :=
  let b := s.nvm.config
  let ok := imageOk s [2] b && configOk (siPayload b)
  let s := tryImage s [2] b
  let s := useConfig s (if ok then siPayload b else defaultConfig) (!ok)
  { s with hull := { s.hull with cfgDigest := if ok then sha256Num b else 0 } }

/-- Values of a calibration record (R426). -/
def calibOf (p : List Byte) : Calib :=
  let tab (base n : Nat) : Tab Nat :=
    ((List.range n).map fun i => (i, Config.calField p (base + i))).filter fun e => e.2 ≠ 0
  { ok := true, ileak := tab 1 64, kv := tab 65 64, dfix := tab 129 36, vfloor := Config.calField p 165, toff := tab 166 128 }

/-- The calibration record is read: the record the module was made with, or one that an update has placed (R426, R450). -/
def readCalib (s : State) : State :=
  let b := s.nvm.calib
  if b = [] then s
  else
    let ok := imageOk s [3] b && Config.calField (siPayload b) 0 = s.nvm.serial.toNat
    let s := tryImage s [3] b
    { s with hull := { s.hull with calDigest := sha256Num b }
             nvm := { s.nvm with cal := if ok then calibOf (siPayload b) else { s.nvm.cal with ok := false } } }

/-- The identity record is unsealed (R387, R388). -/
def readIdentity (s : State) : State :=
  securitySensor { s with hull := { s.hull with idOk := sealOpen s } }

/-- The repair map with the higher SEQ of those that pass (R424). [DEDUCED, log 41] -/
def readMap (s : State) : State :=
  let n := s.nvm
  let b := n.okB && (!n.okA || decide (n.seqA < n.seqB))
  let m := if b then n.mapB else n.mapA
  { s with mod := { s.mod with map := m }, boot := { s.boot with repairCopy := b } }

/-- A margin table that fails its CRC gives 850 mV to every field (R424). -/
def readMargin (s : State) : State :=
  if s.nvm.marginOk then s
  else forAll (List.range 64) (fun f s => modField s f fun v => { v with vrun := 850 }) s

/-- CONFIG (R420, R424 to R426, stage 2). -/
def execConfig (s : State) : Host.Outcome State Fault Refusal :=
  .next (
    if s.boot.stage ≠ 2 then s
    else
      let s := readCalib (readConfig s)
      if !s.nvm.cal.ok then bootFail s 2
      else
        let s := readIdentity s
        if !(s.nvm.okA || s.nvm.okB) then bootFail s 5 else toStage (readMargin (readMap s)) 3)

/-- The rail current of a field, in 0.1 A, is above 1.5 × ILEAK (Table 17.4). -/
def railExcess (s : State) (m : BootMeas) (f : Nat) : Bool := decide (3 * Tab.get 0 s.nvm.cal.ileak f < 2 * m.amps.getD f 0)

/-- An intermediate bus out of range goes to the fault log (R427). [DESIGN CHOICE, log 41: as an entry of class 0 at the segment] -/
def logBus (m : BootMeas) (k : Nat) (s : State) : State :=
  if bit m.buses k then s else addLog s ⟨huskTime s, 0, eOk, 0, k, .logged⟩

/-- A field whose bus or rail fails is excluded, else it is woken, measured and shut down again (Table 17.4, R428). -/
def measureField (m : BootMeas) (f : Nat) (s : State) : State :=
  let exclude (s : State) : State := { s with boot := { s.boot with excl := s.boot.excl ++ [f] } }
  if !bit m.buses (f / 8) then exclude s
  else if !bit m.rails f then
    let s := modField s f fun v => { v with vrFault := true, nackCnt := bump v.nackCnt 1 }
    exclude (powerRecord { s with pwr := { s.pwr with nackCnt := bump s.pwr.nackCnt 1 } } (some f) 2 0 eVrNack)
  else
    let s := modField s f fun v => { v with vset := v.vrun, wakeCnt := bump v.wakeCnt 1 }
    let sl := m.slack[f]?.getD []
    let s := if sl.length = 16 then readMonitors s f sl else modField s f fun v => { v with monCnt := bump v.monCnt 1 }
    let s := modField s f fun v => { v with vrun := v.newVrun.getD v.vrun, newVrun := none }
    if railExcess s m f then exclude s else s

/-- HBM presence: an enabled stack that does not respond has failed. -/
def probeStack (m : BootMeas) (k : Nat) (s : State) : State :=
  if bit s.boot.stackEn k ∧ !bit m.hstacks k then modStack s k fun v => { v with state := 3 } else s

/-- A stage that waits for the input voltage reads it again every 10 ms (Table 17.4). -/
def readsVin (s : State) : Bool := s.boot.vinBad = none || decide (s.boot.vinRead + cyclesOf s 10000000 ≤ s.cycle)

/-- What is out of range since a cycle has been so for 1 s (Table 17.4). -/
def badLong (s : State) (since : Option Nat) : Bool :=
  match since with | some d => decide (d + cyclesOf s 1000000000 ≤ s.cycle) | none => false

/-- The input voltage is out of range: the stage waits, and fails after 1 s. -/
def vinWait (s : State) : State :=
  if badLong s s.boot.vinBad then bootFail s 3
  else { s with boot := { s.boot with vinBad := some (s.boot.vinBad.getD s.cycle), vinRead := s.cycle } }

/-- REFCLK is absent or out of range: the stage waits, and fails after 1 s. -/
def refWait (s : State) : State :=
  if badLong s s.boot.refBad then bootFail s 4
  else { s with boot := { s.boot with refBad := some (s.boot.refBad.getD s.cycle) } }

/-- MEASURE (R427, stage 3): also the first stage of a wake from M1 (R409). [DESIGN CHOICE, log 7] -/
def execMeasure (m : BootMeas) (s : State) : Host.Outcome State Fault Refusal :=
  .next (
    if s.boot.stage ≠ 3 ∨ !readsVin s then s
    else
      let s := if s.pwr.mstate = .m1 then moduleTo (restart s 3) .m0 else s
      let s := { s with pwr := { s.pwr with vin := m.vin, pin := m.pin } }
      if !vinIn m.vin then vinWait s
      else
        let s := { s with pwr := { s.pwr with refOk := m.refOk, synLock := m.refOk, hbmLock := m.refOk }
                          boot := { s.boot with vinBad := none } }
        if !m.refOk then refWait s
        else
          let s := forAll (List.range 64) (measureField m) (forAll (List.range 8) (logBus m) s)
          let s := { s with nvm := { s.nvm with marginOk := true } }
          let s := forAll (List.range 12) (probeStack m) s
          toStage { s with boot := { s.boot with trainAt := s.cycle, refBad := none } } 4)

/-- Granules of a trained stack at start-up: zeroed under the boot schedule, with no owner and last PROT corrected (R275). -/
def startGrans (s : State) : Tab Granule :=
  ((List.range 768).filter fun g => (stackSt s (g / 64)).state = 1).map fun g => (g, { scrub := true })

/-- TRAIN (R275, R287, R288, stage 4): training of the stacks begins, and with it the zeroing of their granules. What a granule holds
until it is zeroed cannot be read. -/
def execTrain (s : State) : Host.Outcome State Fault Refusal :=
  .next (
    if s.boot.stage ≠ 4 then s
    else
      let train (k : Nat) (s : State) : State :=
        if bit s.boot.stackEn k ∧ (stackSt s k).state = 0 then modStack s k fun v => { v with state := 1 } else s
      let s := forAll (List.range 12) train { s with hbm := [], staging := [], hbmFlips := [], stgFlips := [] }
      { s with granules := startGrans s, sgranules := startGrans s })

/-- A CXL head has trained, or has timed out after 100 ms (R420). -/
def headSettled (s : State) (h : Nat) : Bool := (headSt s h).up || decide (s.boot.trainAt + cyclesOf s 100000000 ≤ s.cycle)

/-- READY (R420, R425, stage 5). -/
def execReady (s : State) : Host.Outcome State Fault Refusal :=
  .next (
    let settled (k : Nat) : Bool := !bit s.boot.stackEn k || (stackSt s k).state = 2 || (stackSt s k).state = 3
    if s.boot.stage ≠ 4 ∨ !(List.range 12).all settled ∨ !(List.range (headCount s)).all (headSettled s) then s
    else
      toStage { s with
        boot := { s.boot with time := huskTime s }, flt := { s.flt with resetting := false }
        lnk := { s.lnk with joinEn := s.boot.joinCfg, ppsEn := s.boot.ppsCfg } } 5)

/-! ### Recovery (R432 to R434) -/

/-- RECOVERY_IDLE (R432, step 3): no job of the partition is left in its units. -/
def execRecoveryIdle (n : Nat) (s : State) : Host.Outcome State Fault Refusal :=
  within 16 n (
    if (partSt s n).recovery = .draining ∧ !s.jobs.any (·.part = n) then modPart s n fun p => { p with recovery := .verifying }
    else s)

/-- The module can read bytes of its HBM: assigned granules of a trained stack, with no uncorrected error. -/
def moduleReads (s : State) (a n : Nat) : Bool :=
  n = 0 || (isHbm a && isHbm (a + n - 1) && !memUe s a n &&
    (granSteps a n).all fun b =>
      match granAt s b with | some g => g.prot ≠ 0 && !g.scrub && (stackSt s (stackOf b)).state = 2 | none => false)

def weX (e : List Byte) : Nat := field e 0 1
def weY (e : List Byte) : Nat := field e 1 1
def weCtx (e : List Byte) : Nat := bits (field e 2 2) 13 0
def weAddr (e : List Byte) : Nat := bits (field e 4 4) 22 0
def weLen (e : List Byte) : Nat := field e 8 4

/-- X, Y, ADDR and LEN of an entry do not fail it. -/
def entryPlace (s : State) (n : Nat) (e : List Byte) : Bool :=
  decide (weX e ≤ 159) && decide (weY e ≤ 63) && inPart s n (fieldOfPip (pipAt (weX e) (weY e)))
  && weAddr e % 128 = 0 && weLen e % 128 = 0 && decide (128 ≤ weLen e) && decide (weLen e ≤ spSize)
  && decide (weAddr e + weLen e ≤ spSize)

/-- The entry names a created context. -/
def entryCtx (s : State) (e : List Byte) : Bool := decide (weCtx e ≤ 10239) && (ctxSt s (weCtx e)).created

/-- A context that verification halts (R434). -/
def haltCtx (c : Nat) (s : State) : State :=
  modCtx s c fun x => if x.created && !x.halted then { x with halted := true, lastCode := eEccDet, haltTag := 0 } else x

/-- One entry, read at address `a` (R434). -/
def verifyEntry (n : Nat) (a : Nat) (s : State) : State :=
  let e := memRead s a 16
  let place := entryPlace s n e
  let p := pipAt (weX e) (weY e)
  let (bs, r) := if place then spRead (pipOf s p) (weAddr e) (weLen e) else ([], done {})
  let s := if place then noteSites p r.fx (setPip s p r.p) else s
  let ok := place && bit (field e 2 2) 14 = false && bits (field e 4 4) 31 23 = 0 && entryCtx s e && r.fail = none
    && inRegion (pipOf s p).sp (weCtx e) (weAddr e) (weLen e) && (crc32c bs).toNat = field e 12 4
  if ok then s
  else
    let s := memWrite s (a + 3) [BitVec.ofNat 8 (field e 3 1 ||| 0x80)]
    let s := { s with flt := { s.flt with verifyFail := bump s.flt.verifyFail 1 } }
    if entryCtx s e then haltCtx (weCtx e) s else s

/-- The manifest can be read whole. -/
def manifestOk (s : State) (a : Nat) : Bool :=
  a % 128 = 0 && moduleReads s a 16 && zeroBytes (memRead s a 16) 4 12 && decide (field (memRead s a 4) 0 4 ≤ 65536)
  && moduleReads s a (16 + 16 * field (memRead s a 4) 0 4)

/-- Weight verification of a partition (R434). -/
def verifyWeights (s : State) (n : Nat) : State :=
  let a := (partSt s n).manifest.toNat
  if a = 0 then s
  else if manifestOk s a then
    forAll ((List.range (field (memRead s a 4) 0 4)).map fun i => a + 16 + 16 * i) (verifyEntry n)
      (noteMem s a (16 + 16 * field (memRead s a 4) 0 4))
  else
    forAll (ctxsOf s n) haltCtx { s with flt := { s.flt with verifyFail := bump s.flt.verifyFail 1 } }

/-- WEIGHT_VERIFY (R432, step 4). -/
def execWeightVerify (n : Nat) (s : State) : Host.Outcome State Fault Refusal :=
  within 16 n (
    if (partSt s n).recovery = .verifying then modPart (verifyWeights s n) n fun p => { p with recovery := .verified } else s)

/-- REOPEN (R432, step 5). -/
def execReopen (n : Nat) (s : State) : Host.Outcome State Fault Refusal :=
  within 16 n (if (partSt s n).recovery = .verified then endRecovery s n else s)

/-- RECOVERY_WINDOW_END (R432): windows whose 5 ms have passed. -/
def execRecoveryWindowEnd (n : Nat) (s : State) : Host.Outcome State Fault Refusal :=
  within 16 n (modPart s n fun p => { p with windows := p.windows.filter fun d => decide (s.cycle ≤ d + windowLen s) })

/-- A write of PART_RESET by who may write it (R440, Table 17.9). -/
def partReset (s : State) (n : Nat) : State :=
  if !(partSt s n).fenced ∨ s.flt.mfenced then s
  else
    let s := modPart s n fun p => { p with fenced := false, windows := [] }
    let s := { s with mod := { s.mod with transitDue := true } }
    faultSensor (forAll (fieldsOfPart s n) (fun f s => if (fieldSt s f).rest = 3 then s else enableField s f) s)

/-- PART_RESET (R440). -/
def execPartReset (w : Writer) (n : Nat) (s : State) : Host.Outcome State Fault Refusal :=
  within 16 n (if priv s w then partReset s n else s)

end Sys2Proof.Machine
end

