-- ==== Sys2Proof/Machine/Command.lean ====
section
/-!
DEFINITION. Contexts' queues and the commands of Table 3.8 that run no program (R89 to R105).
-/
namespace Sys2Proof.Machine

/-! ### The queue (R95, R96, R101) -/

/-- DOORBELL (R95, R360): accepted within the queue's room. -/
def execDoorbell (w : Writer) (c v : Nat) (s : State) : Host.Outcome State Fault Refusal :=
  within 10240 c (
    let x := ctxSt s c
    let t := v % 65536
    if !(ownsPage s w c && x.created) then s
    else if (t + 65536 - x.tail) % 65536 ≤ 256 - (x.tail + 65536 - x.head) % 65536 then setCtx s c { x with tail := t }
    else setCtx s c { x with dbErr := true })

/-- COMMAND_READ (R96, R360). -/
def execCommandRead (c : Nat) (s : State) : Host.Outcome State Fault Refusal :=
  within 10240 c (
    let x := ctxSt s c
    let waits := x.ahead.any (fun b => cmdOpc b = 2) || s.cmds.any fun k => k.ctx = c && cmdOpc k.bytes = 2
    if !x.created || x.part = 0 || x.head = x.tail || decide (x.ahead.length ≥ 9) || waits then s
    else
      let a := x.qbase + x.head % 256 * 64
      setCtx (noteMem s a 64) c { x with head := (x.head + 1) % 65536, ahead := x.ahead ++ [memRead s a 64] })

/-- COMMAND_READY (R101, R400): wake entries for fields that sleep, else ready; a reserved opcode is refused (R99). -/
def execCommandReady (c : Nat) (s : State) : Host.Outcome State Fault Refusal :=
  within 10240 c (
    match headCmd s c with
    | none => s
    | some b =>
      if (ctxSt s c).readyAt ≠ 0 || !fenceMet s c b then s
      else if !opcListed (cmdOpc b) then atIssue s c b eDesc
      else if sleepers s c b ≠ [] then
        forAll (sleepers s c b) (fun f s => modField (enableField s f) f fun v => { v with wakeEntry := true }) s
      else if mayReady s c b then modCtx s c fun x => { x with readyAt := s.cycle + 1 }
      else s)

/-! ### Completion (R103, R104) -/

/-- COMMAND_COMPLETE (R103): its completion signal is held while the object's field sleeps (R93). -/
def execCommandComplete (k : Nat) (s : State) : Host.Outcome State Fault Refusal :=
  .next (
    match cmdOf s k with
    | none => s
    | some m =>
      match m.code with
      | none => s
      | some code =>
        if code = eOk && cmdFlag m.bytes 0 && !syncReady s (cmdSigObj m.bytes) then enableField s (syncField (cmdSigObj m.bytes))
        else completeCmd s m code)

/-- RESUME (R104). [DEDUCED, log 37] -/
def execResume (w : Writer) (c : Nat) (s : State) : Host.Outcome State Fault Refusal :=
  within 10240 c (if ownsPage s w c && (ctxSt s c).created then modCtx s c fun x => { x with halted := false } else s)

/-- FLUSH (R104): accepted commands that have not issued are discarded; a halted context continues. -/
def execFlush (w : Writer) (c : Nat) (s : State) : Host.Outcome State Fault Refusal :=
  within 10240 c (
    if ownsPage s w c && (ctxSt s c).created then
      modCtx s c fun x => { x with halted := false, ahead := [], readyAt := 0, head := x.tail }
    else s)

/-! ### Commands that run no program -/

/-- COMMAND_NOP (R97). -/
def execCommandNop (c : Nat) (s : State) : Host.Outcome State Fault Refusal :=
  within 10240 c (issueCmd s c 0 (fun b => zeroBytes b 16 48) (fun _ => true) (fun _ => eOk) fun b => atIssue s c b eOk)

/-- Payload of WAIT, SIGNAL and SYNCSET: OBJ and one word. -/
def objForm (b : List Byte) : Bool := bits (field b 16 2) 15 14 = 0 && zeroBytes b 18 2 && zeroBytes b 24 40
def objOf (b : List Byte) : Nat := bits (field b 16 2) 13 0
def objWord (b : List Byte) : Nat := field b 20 4

/-- WAIT (R97, R90): it is satisfied in a later cycle at the earliest. -/
def execWait (c : Nat) (s : State) : Host.Outcome State Fault Refusal :=
  within 10240 c (issueSync s c 2 objForm (fun b => mayName s c (objOf b) false) fun b =>
    accept s c b fun k => { k with waiting := true })

/-- The WAITs that the present values satisfy are met at the end of this cycle (R90). -/
def testWaits (s : State) : State :=
  { s with cmds := s.cmds.map fun k =>
      if k.waiting then
        { k with met := syncReady s (objOf k.bytes) && satisfied (syncVal s (objOf k.bytes)) (BitVec.ofNat 32 (objWord k.bytes)) }
      else k }

/-- WAIT_RELEASE (R90, R93, R97): the WAIT was satisfied at the end of the last cycle; one on an object whose field sleeps wakes it. -/
def execWaitRelease (c : Nat) (s : State) : Host.Outcome State Fault Refusal :=
  within 10240 c (
    match s.cmds.find? fun k => k.ctx = c && k.waiting with
    | none => s
    | some k =>
      if k.met then setCmd s { k with waiting := false, met := false, code := some eOk }
      else if !syncReady s (objOf k.bytes) then enableField s (syncField (objOf k.bytes))
      else s)

/-- SIGNAL (R89). -/
def execSignal (c : Nat) (s : State) : Host.Outcome State Fault Refusal :=
  within 10240 c (issueSync s c 3 objForm (fun b => mayName s c (objOf b) true) fun b =>
    atIssue (syncAdd s (objOf b) (objWord b)) c b eOk)

/-- SYNCSET (R89, R90): the value, and the updates of the same cycle. -/
def execSyncset (c : Nat) (s : State) : Host.Outcome State Fault Refusal :=
  within 10240 c (issueSync s c 4 objForm (fun b => ownsSync s c (objOf b)) fun b =>
    atIssue (syncSet s (objOf b) (BitVec.ofNat 32 (objWord b) + Tab.get 0 s.adds (objOf b))) c b eOk)

/-- SRC, DST and LEN of a COPY. -/
def copySrc (b : List Byte) : Nat := field b 16 8
def copyDst (b : List Byte) : Nat := field b 24 8
def copyLen (b : List Byte) : Nat := field b 32 8

/-- COPY (R98): the whole source is taken as it reads at issue, and lines move one a cycle from then on. [DESIGN CHOICE, log 23] -/
def execCopy (c : Nat) (s : State) : Host.Outcome State Fault Refusal :=
  within 10240 c (
    issueCmd s c 5 (fun b => copySrc b % 64 = 0 && copyDst b % 64 = 0 && copyLen b % 64 = 0 && zeroBytes b 40 24)
      (fun b => ctxHbm s c (copySrc b) (copyLen b) && ctxHbm s c (copyDst b) (copyLen b)) (fun _ => eOk) fun b =>
        if copyLen b = 0 then atIssue s c b eOk
        else accept s c b fun k =>
          { k with new_ := memRead s (copySrc b) (copyLen b), old := memRead s (copyDst b) (copyLen b),
                   bad := memUe s (copySrc b) (copyLen b) })

/-- Each byte of the destination holds its earlier value or the value the COPY wrote, a free choice (R98). -/
def copyMix (s : State) (k : Cmd) : List Byte :=
  (List.range k.new_.length).map fun i => if (freeByte s.free i).toNat % 2 = 0 then nth k.old i 0 else nth k.new_ i 0

/-- A COPY in progress moves its next line, with the check of R273, or ends (R98). [DESIGN CHOICE, log 23] -/
def copyLine (k : Cmd) (s : State) : State :=
  let n := min 128 (k.new_.length - k.moved)
  let src := copySrc k.bytes + k.moved
  let dst := copyDst k.bytes + k.moved
  if k.new_ = [] ∨ k.code.isSome then s
  else if !(ctxHbm s k.ctx src n && ctxHbm s k.ctx dst n) then
    setCmd (drew (memWrite s (copyDst k.bytes) (copyMix s k)) k.new_.length) { k with code := some eBounds, new_ := [], old := [] }
  else
    let s := memWrite (noteMem s src n) dst (slice k.new_ k.moved n)
    if k.moved + n < k.new_.length then setCmd s { k with moved := k.moved + n }
    else setCmd s { k with code := some (if k.bad then eEccDet else eOk), moved := k.moved + n, new_ := [], old := [] }

/-- RELEASE (R98, R138): the context's region entries of the named pods are revoked. -/
def execRelease (c : Nat) (s : State) : Host.Outcome State Fault Refusal :=
  within 10240 c (issueCmd s c 6 (fun b => rectOk b && zeroBytes b 16 8 && zeroBytes b 28 36)
    (fun b => (rectPods b).all (podMine s c)) (fun _ => eOk) fun b =>
      atIssue (forAll ((rectPods b).flatMap pipsOfPod) (fun p s => modPip s p fun q =>
        { q with sp := { q.sp with
            regions := (q.sp.regions.map fun e => (e.1, if e.2.ctx = c then { e.2 with valid := false, scrub := false } else e.2)).filter
              fun e => e.2 ≠ {} } }) s) c b eOk)

/-! ### Registers of a context -/

/-- Offset of a register of a context block. -/
def ctxReg (c o : Nat) : Nat := 0x01000000 + c * 0x100 + o

/-- The host reads MOD_CTX_SYNC_VAL: judged under R91 at the read, held while the object's field sleeps (R93, R105). -/
def readSyncVal (s : State) (h c : Nat) : State :=
  let x := ctxSt s c
  let off := ctxReg c 0x1C
  if !(ownsPage s (.host h) c && x.created) then send s (.regData h off 0)
  else if !mayName s c x.syncSel false then send (setCtx s c { x with syncErr := true }) (.regData h off 0)
  else if !syncReady s x.syncSel then enableField s (syncField x.syncSel)
  else send s (.regData h off (syncVal s x.syncSel).toNat)

/-- MOD_CTX_SYNC_VAL (R105). -/
def execModCtxSyncVal (h c : Nat) (s : State) : Host.Outcome State Fault Refusal := within 10240 c (readSyncVal s h c)

/-- MOD_CTX_GRANT (R92): the creator writes a grant. -/
def execModCtxGrant (w : Writer) (c n v : Nat) (s : State) : Host.Outcome State Fault Refusal :=
  within 10240 c (
    let x := ctxSt s c
    let g : Grant := ⟨bits v 13 0, bit v 14, bit v 15⟩
    if !(ownsPage s w c && x.created && decide (n < 8)) then s
    else if w ≠ .host x.host then s
    else if g.valid && !(decide (g.grantee < 10240) && (ctxSt s g.grantee).created) then setCtx s c { x with syncErr := true }
    else setCtx s c { x with grants := Tab.set {} x.grants n g })

end Sys2Proof.Machine
end

