-- ==== Sys2Proof/Machine/Encrypted.lean ====
section
/-!
DEFINITION. The encrypted commands (R230 to R247): operands, noise, the checks of R239, and what their issue writes.
-/
namespace Sys2Proof.Machine

/-! ### Fields of Table 9.5 -/

def ctDst (b : List Byte) : Nat := field b 32 2
def ctA (b : List Byte) : Nat := field b 34 2
def ctB (b : List Byte) : Nat := field b 36 2
def ctCount (b : List Byte) : Nat := field b 38 2
def ctKeyset (b : List Byte) : Nat := field b 40 4
def ctKind (b : List Byte) : Option Nat := keyKind (cmdOpc b) (ctArg b)

/-- The command runs a program block. -/
def ctRuns (b : List Byte) : Bool := decide (0x13 ≤ cmdOpc b)
/-- COUNT has a meaning of its own (Table 9.6). -/
def ctCounts (o : Nat) : Bool := o = 0x12 || o = 0x1A || o = 0x1C || o = 0x1E

/-- Step 1 of R99: RES bits and reserved values of Table 9.5. -/
def ctForm (b : List Byte) : Bool :=
  rectOk b && (if ctRuns b then progAddr b % 64 = 0 else progAddr b = 0)
  && decide (ctDst b < 1024) && decide (ctA b < 1024) && decide (ctB b < 1024)
  && decide (1 ≤ ctCount b) && decide (ctCount b ≤ 1024) && (ctCounts (cmdOpc b) || ctCount b = 1)
  && (cmdOpc b ≠ 0x13 || nPods b = 1)

/-- A run of handles. -/
def runOf (h n : Nat) : List Nat := (List.range n).map (h + ·)

/-- Source handles of a command. -/
def ctSrcs (b : List Byte) : List Nat :=
  let arg := ctArg b
  match cmdOpc b with
  | 0x10 | 0x11 | 0x12 => []
  | 0x15 => if arg % 8 ≤ 1 then [ctA b, ctB b] else [ctA b]
  | 0x17 => [ctA b, ctB b]
  | 0x1B => if bit arg 24 then [ctA b] else [ctA b, ctB b]
  | 0x1C | 0x1E => runOf (ctA b) (ctCount b)
  | 0x1D => if arg % 16 = 6 then [ctA b] else [ctA b, ctB b]
  | _ => [ctA b]

/-- Destination handles of a command. -/
def ctDsts (b : List Byte) : List Nat :=
  match cmdOpc b with
  | 0x10 | 0x14 | 0x1F => []
  | 0x12 | 0x1A | 0x1C => runOf (ctDst b) (ctCount b)
  | _ => [ctDst b]

/-- The pod of the destination (R236). -/
def dstPod (b : List Byte) (pod : Nat) : Nat := if cmdOpc b = 0x13 then ctArg b else pod

/-- Type a command's sources must have, if one is named. -/
def srcType (o : Nat) : Option Nat :=
  if 0x15 ≤ o ∧ o ≤ 0x1A then some 2 else if o = 0x1B ∨ o = 0x1C ∨ o = 0x1E then some 1 else if o = 0x1D then some 0 else none

/-! ### Parameter entries -/

def entBlock (s : State) (pod i : Nat) : List Byte := (Tab.get {} (podSt s pod).psets i).block
/-- Fingerprint of an entry; that of a free one is the fingerprint of an empty block. [DESIGN CHOICE, log 29] -/
def entFp (s : State) (pod i : Nat) : Nat := (fingerprint (entBlock s pod i)).toNat
/-- Increment of a class at a level (R230). -/
def incOf (s : State) (pod i cls lvl : Nat) : Nat := field (Tab.get {} (podSt s pod).psets i).incr (128 * cls + 2 * lvl) 2

/-! ### Results -/

/-- Parameter entry of the result: a switch of scheme takes the destination's. -/
def resPset (s : State) (b : List Byte) (pod j : Nat) : Nat :=
  if cmdOpc b = 0x1A ∨ cmdOpc b = 0x1E then cPset (ctDesc s pod (ctDst b + j)) else cPset (ctDesc s pod (ctA b))

def resType (s : State) (b : List Byte) (pod : Nat) : Nat :=
  if cmdOpc b = 0x1A then 1 else if cmdOpc b = 0x1E then 2 else cType (ctDesc s pod (ctA b))

/-- FORM of the result (Table 9.6). -/
def resForm (s : State) (b : List Byte) (pod : Nat) : Nat :=
  match cmdOpc b with
  | 0x1A => 0
  | 0x1B => if bit (ctArg b) 24 then 0 else cForm (ctDesc s pod (ctA b))
  | 0x1C => 1
  | 0x1D => if ctArg b % 16 = 6 then cForm (ctDesc s pod (ctA b)) else 1
  | 0x1E => 1
  | _ => cForm (ctDesc s pod (ctA b))

/-- Result level (Table 9.6). -/
def resLevel (s : State) (b : List Byte) (pod : Nat) : Nat :=
  let la := cLevel (ctDesc s pod (ctA b))
  let lb := cLevel (ctDesc s pod (ctB b))
  match cmdOpc b with
  | 0x15 => if ctArg b % 8 ≤ 1 then min la lb else la
  | 0x16 => la - 1
  | 0x17 => min la lb - 1
  | 0x19 => ctArg b % 64
  | 0x1A | 0x1B | 0x1C | 0x1D => 0
  | 0x1E => 1
  | _ => la

/-! ### Noise (R237, R238) -/

/-- Integer square root by Newton steps from above. -/
def isqrtFrom (n : Nat) : Nat → Nat → Nat
  | 0, x => x
  | k + 1, x => let y := (x + n / x) / 2; if y < x then isqrtFrom n k y else x
def isqrt (n : Nat) : Nat := if n = 0 then 0 else isqrtFrom n 400 (n + 1)

/-- Fraction bits of the powers of 2^(1/256) below. -/
def powBits : Nat := 2 ^ 128
/-- 2^(1/2^k) in units of 2^-128. -/
def rootTwo : Nat → Nat
  | 0 => 2 * powBits
  | k + 1 => isqrt (rootTwo k * powBits)
/-- 2^(m/256) in units of 2^-128. -/
def powTwo (m : Nat) : Nat :=
  let frac := (List.range 8).foldl (fun p i => if bit m i then p * rootTwo (8 - i) / powBits else p) powBits
  2 ^ (m / 256) * frac

/-- D(d): the least k with 2^(k/256) ≥ 1 + 2^(-d/256) (R237). -/
def noiseD (d : Nat) : Nat :=
  if d ≥ 4096 then 0
  else if d = 0 then 256
  else ((List.range 257).find? fun k => decide (powTwo (k + d) ≥ powTwo d + powBits)).getD 256

def lim16 (n : Nat) : Nat := min n 0xFFFF
def comb (a b : Nat) : Nat := lim16 (max a b + noiseD (max a b - min a b))
/-- w(c) for a constant. -/
def noiseW (c : Int) : Nat := 256 * ceilLog2 c.natAbs

/-- Result NOISE for destination j (Table 9.6). [DEDUCED, log 29] -/
def resNoise (s : State) (b : List Byte) (pod j : Nat) : Nat :=
  let d (h : Nat) := cNoise (ctDesc s pod h)
  let a := d (ctA b)
  let e := resPset s b pod j
  let inc := incOf s pod e (cmdOpc b - 0x10) (if resType s b pod = 2 then resLevel s b pod else 0)
  let fresh := pNfresh (entBlock s pod e)
  let arg := ctArg b
  lim16 (match cmdOpc b with
  | 0x15 => if arg % 8 ≤ 1 then comb a (d (ctB b)) + inc else a + inc
  | 0x16 | 0x18 | 0x1A => a + inc
  | 0x17 => comb a (d (ctB b)) + inc
  | 0x1B =>
    let ca := sgn 8 (bits arg 7 0)
    let cb := sgn 8 (bits arg 15 8)
    let ta := lim16 (a + noiseW ca)
    let tb := lim16 (d (ctB b) + noiseW cb)
    if bit arg 24 then a + inc
    else if ca = 0 ∧ cb = 0 then fresh
    else if ca = 0 then tb + inc
    else if cb = 0 then ta + inc
    else comb ta tb + inc
  | 0x1C => fresh
  | 0x1D => if arg % 16 = 6 then a else fresh
  | 0x1E => ((ctSrcs b).map d).foldl max 0 + 256 * ceilLog2 (ctCount b) + inc
  | _ => a)

/-- The descriptor that a command's issue writes at destination j, not yet VALID (R234). [DEDUCED, log 29] -/
def resDesc (s : State) (c : Nat) (b : List Byte) (pod j : Nat) : BitVec 512 :=
  let place := ctDesc s (dstPod b pod) (ctDst b + j)
  let src := ctDesc s pod (ctA b)
  let e := resPset s b pod j
  let fp := if cmdOpc b = 0x1A ∨ cmdOpc b = 0x1E then entFp s pod e else cFp src
  BitVec.ofNat 512 (resType s b pod + 4 * e + 128 * resForm s b pod + 256 * resLevel s b pod + 2 ^ 16 * c
    + 2 ^ 32 * resNoise s b pod j + 2 ^ 64 * cKeyset src + 2 ^ 128 * fp
    + 2 ^ 192 * dbits place 3 26 0 + 2 ^ 256 * dbits place 4 45 0)

/-! ### Form of objects (R233) -/

/-- Bytes of one limb of an object in one pip. -/
def limbLen (e : List Byte) (d : BitVec 512) : Nat :=
  if cType d = 2 then 2 ^ pLogn e / 16 * 4 else lweWords e (cForm d) * 4

/-- An object keeps R232 and R233, but for the regions of its bytes. -/
def objFine (e : List Byte) (d : BitVec 512) : Bool :=
  cType d ≠ 3 && cBase d % 128 = 0 && cLstride d % 128 = 0 && cPstride d % 128 = 0
  && decide (limbLen e d ≤ cLstride d)
  && (if cType d = 2 then
        pClass e = 1 && cPip d = 0 && decide (cLevel d < pL e) && decide ((cLevel d + 1) * cLstride d ≤ cPstride d)
      else pClass e = 0 && cLevel d = 0 && cPstride d = 0 && (cType d ≠ 0 || pMbits e = 1))

/-- Every byte of an object lies in regions of a context. -/
def objMine (s : State) (c pod : Nat) (e : List Byte) (d : BitVec 512) : Bool :=
  (objRuns e d).all fun r => inRegion (pipOf s (nth (pipsOfPod pod) r.1 0)).sp c r.2.1 r.2.2

/-- Two objects of one pod share a byte. -/
def objMeet (e1 e2 : List Byte) (d1 d2 : BitVec 512) : Bool :=
  (objRuns e1 d1).any fun a => (objRuns e2 d2).any fun b =>
    a.1 = b.1 && decide (a.2.1 < b.2.1 + b.2.2) && decide (b.2.1 < a.2.1 + a.2.2)

/-- ARG holds a value in its range (Table 9.6, Table 9.8, R245). [DEDUCED, log 29] -/
def argOk (s : State) (b : List Byte) (pod : Nat) : Bool :=
  let a := ctArg b
  let n := 2 ^ pLogn (entBlock s pod (cPset (ctDesc s pod (ctA b))))
  match cmdOpc b with
  | 0x10 => decide (a < 16)
  | 0x11 => decide (a < 4)
  | 0x13 => decide (a < 640)
  | 0x15 => decide (a ≤ 4)
  | 0x18 => decide (a < 2 * n) && a % 2 = 1
  | 0x19 => decide (a < 64)
  | 0x1A => decide (a + ctCount b ≤ n)
  | 0x1B => decide (a < 2 ^ 25)
  | 0x1D => decide (a ≤ 8)
  | _ => true

/-- FORM rules of step 3. -/
def formOk (b : List Byte) (d : BitVec 512) : Bool :=
  match cmdOpc b with
  | 0x1C | 0x1D => cForm d = 0
  | 0x1B => !bit (ctArg b) 24 || cForm d = 1
  | 0x1E => cForm d = 1
  | 0x1A => cForm d = 1
  | _ => true

/-! ### The steps of R239 for commands that run a program -/

def step3 (s : State) (c : Nat) (b : List Byte) (pod : Nat) : Bool :=
  let blk (d : BitVec 512) := entBlock s pod (cPset d)
  let srcs := (ctSrcs b).map (ctDesc s pod)
  let js := List.range (ctDsts b).length
  let dsts := js.map (resDesc s c b pod)
  let dblk (d : BitVec 512) := entBlock s (dstPod b pod) (cPset d)
  (ctSrcs b ++ ctDsts b).all (fun h => decide (h < 1024))
  && argOk s b pod
  && srcs.all (fun d => cValid d && (srcType (cmdOpc b) = none || srcType (cmdOpc b) = some (cType d)) && formOk b d && objFine (blk d) d)
  && dsts.all (fun d => objFine (dblk d) d)
  && ((ctKind b).isNone ||
      (!(ctDsts b).any (ctSrcs b).contains && !dsts.any fun d => srcs.any fun e => objMeet (dblk d) (blk e) d e))

def step4 (s : State) (c : Nat) (b : List Byte) (pod : Nat) : Bool :=
  (ctSrcs b).all (fun h => let d := ctDesc s pod h; cOwner d = c && objMine s c pod (entBlock s pod (cPset d)) d)
  && (List.range (ctDsts b).length).all fun j =>
      let q := dstPod b pod
      let d := resDesc s c b pod j
      cOwner (ctDesc s q (ctDst b + j)) = c && objMine s c q (entBlock s q (cPset d)) d

/-- PRIME 0 and PRIME 1 of two sets agree. -/
def primesAgree (x y : List Byte) : Bool := pPrime x 0 = pPrime y 0 && pPrime x 1 = pPrime y 1

/-- Step 5. Of a destination of PK_EXTRACT and LI_REPACK, whose descriptor names the entry of the result, the FP that it held before is not
compared. [DESIGN CHOICE, log 29] -/
def step5 (s : State) (c : Nat) (b : List Byte) (pod : Nat) : Bool :=
  let srcs := (ctSrcs b).map (ctDesc s pod)
  let a := ctDesc s pod (ctA b)
  let js := List.range (ctDsts b).length
  let e0 := resPset s b pod 0
  srcs.all (fun d => cPset d = cPset a && cFp d = entFp s pod (cPset d))
  && js.all (fun j => resPset s b pod j = e0)
  && js.all (fun j => let d := resDesc s c b pod j; cFp d = entFp s (dstPod b pod) (cPset d))
  && (match cmdOpc b with
      | 0x1A => pLinkFp (entBlock s pod (cPset a)) = entFp s pod e0
          && primesAgree (entBlock s pod (cPset a)) (entBlock s pod e0) && decide (cLevel a ≤ 1)
      | 0x1E => pLinkFp (entBlock s pod e0) = entFp s pod (cPset a)
          && primesAgree (entBlock s pod (cPset a)) (entBlock s pod e0)
      | _ => true)

def step6 (s : State) (b : List Byte) (pod : Nat) : Bool :=
  let la := cLevel (ctDesc s pod (ctA b))
  let lb := cLevel (ctDesc s pod (ctB b))
  match cmdOpc b with
  | 0x16 | 0x1A => la ≠ 0
  | 0x17 => la ≠ 0 && lb ≠ 0
  | 0x19 => decide (ctArg b % 64 ≤ la)
  | _ => true

def step7 (s : State) (b : List Byte) (pod : Nat) : Bool :=
  (List.range (ctDsts b).length).all fun j =>
    decide (resNoise s b pod j ≤ pNlimit (entBlock s (dstPod b pod) (resPset s b pod j)))

/-- What R240 expects of the first header; other fields than R240's are not judged here. -/
def firstWant (s : State) (b : List Byte) (pod : Nat) : KeyWant :=
  { keyset := ctKeyset b, pfp := cFp (ctDesc s pod (ctA b)), kind := (ctKind b).getD 0,
    exp := wantExp (cmdOpc b) (ctArg b) (ctCount b) (2 ^ pLogn (entBlock s pod (resPset s b pod 0))) 0,
    index := 0, nblk := 0, gran := true }

def step8 (s : State) (b : List Byte) (pod : Nat) : Bool :=
  match ctKind b with
  | none => true
  | some k =>
    let f := keyFail (memRead s (ctKaddr b) 128) (firstWant s b pod)
    bits f 3 1 = 0 && !bit f 5 && (k ≠ 1 || !bit f 4)
    && (ctSrcs b).all fun h => cKeyset (ctDesc s pod h) = ctKeyset b

/-- Bytes of an object in export layout (R247). -/
def exportLen (s : State) (pod h : Nat) : Nat :=
  let d := ctDesc s pod h
  let e := entBlock s pod (cPset d)
  if cType d = 2 then (cLevel d + 1) * 2 * 2 ^ pLogn e * 4 else lweWords e (cForm d) * pL e * 4

/-- Addresses that step 2 of R99 checks: module address and length. Of a plaintext, a test polynomial and a mask its first 128 bytes are
checked. [DESIGN CHOICE, log 29] -/
def ctExtents (s : State) (b : List Byte) (pod : Nat) : List (Nat × Nat) :=
  let len := exportLen s pod (ctA b)
  let plain := (ctPaddr b, 128)
  (match cmdOpc b with
   | 0x10 => [(ctPaddr b, 512), (ctKaddr b, 2048)]
   | 0x11 => [(ctPaddr b, 64)]
   | 0x14 => [(ctPaddr b, len)]
   | 0x15 => if ctArg b % 8 ≥ 3 then [plain] else []
   | 0x16 | 0x1C => [plain]
   | 0x1F => [(ctKaddr b, len), plain]
   | _ => [])
  ++ (if (ctKind b).isSome then [(ctKaddr b, 128)] else [])

/-- Step 2 of R99: pods, key set (R359), addresses, program block. -/
def ctBounds (s : State) (c : Nat) (b : List Byte) : Bool :=
  let x := ctxSt s c
  (cmdPods b).all (podMine s c)
  && ((ctKind b).isNone || (decide (x.klo ≤ ctKeyset b) && decide (ctKeyset b ≤ x.khi)))
  && (rectPods b).all (fun d => (ctExtents s b d).all fun e => ctxMem s c e.1 e.2)
  && (!ctRuns b || blockMine s c (progAddr b))

/-- The code of steps 2 (own part) to 8 of R239. -/
def ctCode (s : State) (c : Nat) (b : List Byte) : Byte :=
  let pods := rectPods b
  if blockCode s c b ≠ eOk then blockCode s c b
  else if !pods.all (step3 s c b) then eDesc
  else if !pods.all (step4 s c b) then eBounds
  else if !pods.all (step5 s c b) then eParam
  else if !pods.all (step6 s b) then eLevel
  else if !pods.all (step7 s b) then eNoise
  else if !pods.all (step8 s b) then eKeyset
  else eOk

/-- Counters of a refusal (R248). -/
def countRefusal (b : List Byte) (s0 : State) (code : Byte) (s : State) : State :=
  if code = eParam ∨ code = eLevel ∨ code = eNoise ∨ code = eKeyset then
    forAll (rectPods b) (fun d s => modPod s d fun v =>
      { v with refuseCnt := bump v.refuseCnt 1,
               keysetCnt := if code = eKeyset && !step8 s0 b d then bump v.keysetCnt 1 else v.keysetCnt }) s
  else s

/-- Destination descriptors of a job that passes every check are written, not VALID (R234). -/
def writeDsts (s0 : State) (c : Nat) (b : List Byte) (s : State) : State :=
  forAll (rectPods b) (fun d s =>
    forAll (List.range (ctDsts b).length) (fun j s => setCtDesc s (dstPod b d) (ctDst b + j) (resDesc s0 c b d j)) s) s

/-- Issue of an encrypted command that runs a program. [DEDUCED, log 29] -/
def issueCt (s : State) (c opc : Nat) : State :=
  let dests (b : List Byte) := (rectPods b).flatMap fun d => (ctDsts b).map fun h => (dstPod b d, h)
  issueCmd s c opc ctForm (ctBounds s c) (fun _ => eOk) fun b =>
    let code := ctCode s c b
    if code ≠ eOk then atIssue (countRefusal b s code s) c b code
    else
      enqueue (writeDsts s c b s) c b (fun k => { k with dests := dests b }) fun j =>
        { j with dests := dests b, saved := (dests b).map fun d => (d.1, d.2, ctDesc s d.1 d.2), extra := if opc = 0x13 then some (ctArg b) else none }

/-- Work may start on the pods of a command (R132, R131). -/
def mayAct (s : State) (b : List Byte) : Bool :=
  !s.mod.applying && (cmdPods b).all fun d => !s.mod.heldOut.contains (fieldOfPod d)

/-- Issue of CT_PSET, CT_BIND and CT_FREE: they take effect when their pods are free (R236). -/
def issueTable (s : State) (c opc : Nat) (code : List Byte → Byte) (act : List Byte → State) : State :=
  issueCmd s c opc ctForm (ctBounds s c) (fun _ => eOk) fun b =>
    if !mayAct s b then s
    else if code b ≠ eOk then atIssue (countRefusal b s (code b) s) c b (code b)
    else act b

/-! ### CT_PSET, CT_BIND, CT_FREE -/

/-- A parameter block keeps R230 and R231. -/
def psetOk (p : List Byte) : Bool :=
  let n := pL p + pK p
  let ps := (List.range n).map (pPrime p)
  decide (pClass p ≤ 1) && decide (10 ≤ pLogn p) && decide (pLogn p ≤ 17)
  && (if pClass p = 0 then
        decide (256 ≤ pNlwe p) && decide (pNlwe p ≤ 1024) && decide (1 ≤ pL p) && decide (pL p ≤ 2) && pK p = 0
        && decide (1 ≤ pMbits p) && decide (pMbits p ≤ 8) && pLinkFp p = 0
      else
        pNlwe p = 0 && decide (1 ≤ pL p) && decide (pL p ≤ 64) && decide (pK p ≤ 8) && pMbits p = 0
        && pL p % max 1 (pDepth p) = 0)
  && decide (1 ≤ pDepth p) && decide (pDepth p ≤ 16) && decide (pNfresh p ≤ pNlimit p)
  && zeroBytes p 0xC 4 && zeroBytes p 0x18 40 && zeroBytes p (0x40 + 4 * n) (4 * (72 - n)) && zeroBytes p 0x160 160
  && ps.all (fun q => q % 2 = 1 && decide (2 ^ 19 < q) && decide (q < 2 ^ 31) && q % 2 ^ (pLogn p + 1) = 1)
  && decide ps.Nodup

/-- A VALID descriptor of the pod names the entry. -/
def entInUse (s : State) (pod i : Nat) : Bool := (podSt s pod).descs.any fun e => cValid e.2 && cPset e.2 = i

def psetCode (s : State) (c : Nat) (b : List Byte) : Byte :=
  let i := ctArg b % 16
  let ent (d : Nat) := Tab.get {} (podSt s d).psets i
  if !(argOk s b 0 && psetOk (memRead s (ctPaddr b) 512)) then eDesc
  else if (rectPods b).any (fun d => (ent d).used && (ent d).owner = c && entInUse s d i) then eDesc
  else if (rectPods b).any (fun d => (ent d).used && (ent d).owner ≠ c) then eBounds
  else eOk

/-- CT_PSET (R231). -/
def execCtPset (c : Nat) (s : State) : Host.Outcome State Fault Refusal :=
  within 10240 c (issueTable s c 0x10 (psetCode s c) fun b =>
    let e : PSet := ⟨memRead s (ctPaddr b) 512, memRead s (ctKaddr b) 2048, c, true⟩
    atIssue (forAll (rectPods b) (fun d s => modPod s d fun v => { v with psets := Tab.set {} v.psets (ctArg b % 16) e }) s)
      c b eOk)

/-- PLACE and FRESH of CT_BIND. -/
def bindPlace (b : List Byte) : Bool := bit (ctArg b) 1
def bindFresh (b : List Byte) : Bool := bit (ctArg b) 0
/-- The descriptor image of CT_BIND. -/
def bindImage (s : State) (b : List Byte) : BitVec 512 := BitVec.ofNat 512 (ofBytes (memRead s (ctPaddr b) 64))

/-- The descriptor that CT_BIND writes, not yet VALID (Table 9.6). -/
def bindDesc (s : State) (c : Nat) (b : List Byte) (pod : Nat) : BitVec 512 :=
  let im := bindImage s b
  if bindPlace b then
    let d := ctDesc s pod (ctDst b)
    cSetValid (dput (dput (dput d 3 63 0 (dbits im 3 63 0)) 4 63 0 (dbits im 4 63 0)) 0 29 16 c) false
  else
    let d := cSetValid (dput im 0 29 16 c) false
    if bindFresh b then dput d 0 47 32 (pNfresh (entBlock s pod (cPset im))) else d

/-- The own checks of CT_BIND (R236, R238, R239). With PLACE = 1 words 3 and 4 of the image get the checks of Table 9.4 and R233 on their own
fields: RES bits and alignment, neither sizes nor regions. [DESIGN CHOICE, log 29] -/
def bindCode (s : State) (c : Nat) (b : List Byte) : Byte :=
  let im := bindImage s b
  let pods := rectPods b
  let blk (d : Nat) := entBlock s d (cPset im)
  let x := ctxSt s c
  if bindPlace b then
    if !argOk s b 0 || !(dbits im 3 63 27 = 0 && dbits im 4 63 46 = 0 && cBase im % 128 = 0 && cLstride im % 128 = 0
        && cPstride im % 128 = 0) || pods.any (fun d => cValid (ctDesc s d (ctDst b))) then eDesc
    else eOk
  else if !(decide (x.klo ≤ cKeyset im) && decide (cKeyset im ≤ x.khi)) then eBounds
  else if !argOk s b 0 || !cResOk im || !pods.all (fun d => objFine (blk d) im) then eDesc
  else if !pods.all (fun d => cOwner (ctDesc s d (ctDst b)) = c && objMine s c d (blk d) im) then eBounds
  else if !pods.all (fun d => cFp im = entFp s d (cPset im)) then eParam
  else if !pods.all (fun d => decide (cNoise im ≤ pNlimit (blk d))) then eNoise
  else eOk

/-- CT_BIND (R234, R236). -/
def execCtBind (c : Nat) (s : State) : Host.Outcome State Fault Refusal :=
  within 10240 c (issueTable s c 0x11 (bindCode s c) fun b =>
    let s1 := forAll (rectPods b) (fun d t => setCtDesc t d (ctDst b) (bindDesc s c b d)) s
    accept s1 c b fun k =>
      { k with code := some eOk, dests := if bindPlace b then [] else (rectPods b).map fun d => (d, ctDst b) })

def freeCode (s : State) (c : Nat) (b : List Byte) : Byte :=
  if !(ctDsts b).all (fun h => decide (h < 1024)) then eDesc
  else if !(rectPods b).all (fun d => (ctDsts b).all fun h => cOwner (ctDesc s d h) = c) then eBounds
  else eOk

/-- CT_FREE (R236). -/
def execCtFree (c : Nat) (s : State) : Host.Outcome State Fault Refusal :=
  within 10240 c (issueTable s c 0x12 (freeCode s c) fun b =>
    atIssue (forAll (rectPods b) (fun d s => forAll (ctDsts b) (fun h s => setCtDesc s d h (cSetValid (ctDesc s d h) false)) s) s)
      c b eOk)

/-! ### Commands that run a program block (Table 9.6) -/

/-- CT_COPY (R236). -/
def execCtCopy (c : Nat) (s : State) : Host.Outcome State Fault Refusal := within 10240 c (issueCt s c 0x13)
/-- CT_EXPORT (R247). -/
def execCtExport (c : Nat) (s : State) : Host.Outcome State Fault Refusal := within 10240 c (issueCt s c 0x14)
/-- PK_ADD (R236). -/
def execPkAdd (c : Nat) (s : State) : Host.Outcome State Fault Refusal := within 10240 c (issueCt s c 0x15)
/-- PK_MULP (R236). -/
def execPkMulp (c : Nat) (s : State) : Host.Outcome State Fault Refusal := within 10240 c (issueCt s c 0x16)
/-- PK_MUL (R236). -/
def execPkMul (c : Nat) (s : State) : Host.Outcome State Fault Refusal := within 10240 c (issueCt s c 0x17)
/-- PK_ROT (R236). -/
def execPkRot (c : Nat) (s : State) : Host.Outcome State Fault Refusal := within 10240 c (issueCt s c 0x18)
/-- PK_LDROP (R236). -/
def execPkLdrop (c : Nat) (s : State) : Host.Outcome State Fault Refusal := within 10240 c (issueCt s c 0x19)
/-- PK_EXTRACT (R245). -/
def execPkExtract (c : Nat) (s : State) : Host.Outcome State Fault Refusal := within 10240 c (issueCt s c 0x1A)
/-- LI_LIN (R236). -/
def execLiLin (c : Nat) (s : State) : Host.Outcome State Fault Refusal := within 10240 c (issueCt s c 0x1B)
/-- LI_PBS (R243). -/
def execLiPbs (c : Nat) (s : State) : Host.Outcome State Fault Refusal := within 10240 c (issueCt s c 0x1C)
/-- LB_GATE (R244). -/
def execLbGate (c : Nat) (s : State) : Host.Outcome State Fault Refusal := within 10240 c (issueCt s c 0x1D)
/-- LI_REPACK (R246). -/
def execLiRepack (c : Nat) (s : State) : Host.Outcome State Fault Refusal := within 10240 c (issueCt s c 0x1E)
/-- CT_MASKOUT (R247). -/
def execCtMaskout (c : Nat) (s : State) : Host.Outcome State Fault Refusal := within 10240 c (issueCt s c 0x1F)

end Sys2Proof.Machine
end

