-- ==== Sys2Proof/Machine/Image.lean ====
section
/-!
DEFINITION. Admission of images (R125 to R128), partitions (R26, R134), transit routes (R119), pending repairs (R131, R132).
-/
namespace Sys2Proof.Machine

/-! ### Admission -/

/-- ADMIT (R125, R421, R451): ignored while an admission runs, before stage 5, and in test mode. -/
def execAdmitImage (w : Writer) (s : State) : Host.Outcome State Fault Refusal :=
  .next (if s.mod.imgState = 1 ∨ s.boot.stage ≠ 5 ∨ s.mgt.testEn then s
    else { s with mod := { s.mod with imgState := 1, imgAt := s.mod.imgAddr,
                                      imgBy := match w with | .acorn => 0 | .host h => h + 1 } })

/-- The writer of the admission that runs. -/
def imgWriter (s : State) : Writer := if s.mod.imgBy = 0 then .acorn else .host (s.mod.imgBy - 1)

/-- The state whose image address is the one latched at ADMIT. -/
def admitView (s : State) : State := { s with mod := { s.mod with imgAddr := s.mod.imgAt } }

/-- Every stack runs the boot schedule, or the schedules of the admitted plans (R284). -/
def setBoot (b : Bool) (s : State) : State := forAll (List.range 12) (fun k s => modStack s k fun v => { v with boot := b }) s

/-- A base plan takes effect; its link tables wait for the next epoch boundary (R127), and the stacks leave the boot schedule (R284). -/
def loadBase (im : Image) (s : State) : State :=
  if !im.hasBase then s
  else
    let fp := fingerprint (rsvOf im.base)
    let same := decide (fp = s.mod.reserveFp)
    { setBoot false s with
      mod := { s.mod with base := im.base, resv := parseRsv (rsvOf im.base), baseFp := fingerprint im.base, reserveFp := fp,
                          transit := if same then s.mod.transit else [], transitDue := s.mod.transitDue || !same }
      lnk := { s.lnk with pendTables := true } }

/-- A partition plan is loaded in place of the one its partition held (R126). -/
def loadPlan (im : Image) (i : Nat) (s : State) : State :=
  let d := (dirEntry im.bytes i).1
  match dirPart s d with
  | none => s
  | some n =>
    let s := modPart s n fun p => { p with plan := d.plan, hasPlan := true, plog2 := d.plog2, planFp := d.planFp }
    moduleRecord s 3 d.planFp

/-- ADMISSION_DONE (R126): all or nothing. [DEDUCED, log 25] -/
def execAdmissionDone (s : State) : Host.Outcome State Fault Refusal :=
  .next (
    if s.mod.imgState ≠ 1 then s
    else
      let code := if s.mgt.testEn then eBounds else admitCode (admitView s) (imgWriter s)
      if code ≠ eOk then { s with mod := { s.mod with imgState := 3, imgCode := code, nplan := 0, imgBase := false } }
      else
        let im := readImage s s.mod.imgAt.toNat
        let s := forAll (List.range im.npart) (loadPlan im) (loadBase im s)
        let s := if im.npart = 0 then moduleRecord s 3 0 else s
        { s with mod := { s.mod with imgState := 2, imgCode := eOk, nplan := im.npart, imgBase := im.hasBase, agDis := false } })

/-! ### Partitions and transit routes -/

/-- TRANSIT_REENABLE (R29, R134, R119, R399): at a frame boundary; fields that a route now crosses are enabled, and fields in F1 that only
a former route kept from F3 go there. -/
def execTransitReenable (s : State) : Host.Outcome State Fault Refusal :=
  .next (
    if !s.mod.transitDue ∨ s.cycle % 4096 ≠ 0 then s
    else
      let rs := allowedRoutes s
      let s := { s with mod := { s.mod with transit := rs, transitDue := false } }
      let s := forAll ((rs.flatMap (routeFields (resv s) s.mod.map)).eraseDups) (fun f s => enableField s f) s
      forAll ((List.range 64).filter fun f => mustF3 s f && (fieldSt s f).state = .f1) (fun f s => lowerField s f .f3) s)

/-- Contexts of a partition are unbound and their hosts told (R360). -/
def unbindAll (s : State) (n : Nat) : State :=
  forAll (ctxsOf s n) (fun c s => hostEvent (modCtx s c fun x => { x with part := 0 }) (ctxSt s c).host) s

/-- The partition loses its plan (R134). [DEDUCED, log 25] -/
def releasePlan (s : State) (n : Nat) : State :=
  modPart s n fun p => { p with hasPlan := false, plan := [], plog2 := 0, planFp := 0 }

/-- A partition plan is revoked (R132), with its trace record (R444). -/
def revokePlan (s : State) (n : Nat) : State :=
  releasePlan (if (partSt s n).hasPlan then moduleRecord s 4 (partSt s n).planFp else s) n

/-- Fields that lie in no partition go to F3 as far as their floor allows (R399). -/
def dropFields (s : State) (fs : List Nat) : State :=
  forAll (fs.filter fun f => partOfField s f = none) (fun f s => lowerField s f .f3) s

/-- The rectangle that a MOD_PARTn value names. -/
def partRect (p : PartSt) (v : Nat) : PartSt :=
  { p with fx0 := bits v 2 0, fx1 := bits v 5 3, fy0 := bits v 8 6, fy1 := bits v 11 9, valid := bit v 12 }

/-- A MOD_PARTn value is not ignored (R134). -/
def partAllowed (s : State) (n : Nat) (q : PartSt) : Bool :=
  decide (q.fx0 ≤ q.fx1) && decide (q.fy0 ≤ q.fy1)
  && (List.range 64).all (fun f => !inRect q f || (!oos s.mod.map f && !s.boot.excl.contains f))
  && (!q.valid || (List.range 16).all fun m => m = n || (List.range 64).all fun f => !(inRect q f && inPart s m f))

/-- MOD_PART (R134, R360, R398, R399). -/
def execModPart (w : Writer) (n v : Nat) (s : State) : Host.Outcome State Fault Refusal :=
  within 16 n (
    let p := partSt s n
    let q := partRect p v
    if !mgmtOnly s w ∨ s.boot.stage ≠ 5 ∨ p.fenced ∨ p.recovery ≠ .open_ ∨ s.flt.mfenced ∨ s.jobs.any (·.part = n)
        ∨ !partAllowed s n q then s
    else
      let old := fieldsOfPart s n
      let s := releasePlan (unbindAll s n) n
      let s := setPart s n { partSt s n with fx0 := q.fx0, fx1 := q.fx1, fy0 := q.fy0, fy1 := q.fy1, valid := q.valid }
      let s := { s with mod := { s.mod with transitDue := true } }
      dropFields (forAll (fieldsOfPart s n) (fun f s => enableField s f) s) old)

/-! ### Repairs -/

/-- PENDING_REPAIR (R131): the acorn finds a failed site in service; one that the pending map already adds is no further failure. -/
def execPendingRepair (f row col : Nat) (s : State) : Host.Outcome State Fault Refusal :=
  within 64 f (
    if row ≥ 8 ∨ col > 20 ∨ oos s.mod.map f ∨ failCol (pendingBase s) f row = col then s
    else recordRepair s f row col)

/-- APPLY (R132). -/
def execApplyRepair (_w : Writer) (s : State) : Host.Outcome State Fault Refusal :=
  .next (if s.mod.pending then { s with mod := { s.mod with applying := true } } else s)

/-- A queued job that runs a program is refused (R132, R14): its destination descriptors are as they were. -/
def refuseJob (j : Job) (s : State) : State :=
  let s := { s with jobs := s.jobs.filter (·.id ≠ j.id) }
  let s := forAll j.saved (fun d s => setCtDesc s d.1 d.2.1 d.2.2) s
  let s := forAll ((heldPods j).map fieldOfPod).eraseDups (fun f s => modField s f fun v => { v with idleFrom := s.cycle }) s
  decideCmd s j.cmd eImage 0

/-- A map is written to the NVM copy that is not in use, which is then the copy in use (R424). -/
def writeMap (s : State) (m : List Byte) : State :=
  let n := s.nvm
  let s := { s with boot := { s.boot with repairCopy := !s.boot.repairCopy } }
  if s.boot.repairCopy then { s with nvm := { n with mapB := m, seqB := n.seqA + 1, okB := true } }
  else { s with nvm := { n with mapA := m, seqA := n.seqB + 1, okA := true } }

/-- REPAIR_REVOKE (R132). -/
def execRepairRevoke (s : State) : Host.Outcome State Fault Refusal :=
  .next (
    if !s.mod.applying ∨ s.jobs.any (fun j => j.phase ≠ .queued) then s
    else
      let m := s.mod.pendMap
      let s := writeMap s m
      let had := s.mod.base ≠ []
      let s := { s with
        mod := { s.mod with map := m, base := [], resv := {}, baseFp := 0, reserveFp := 0, transit := [] }
        lnk := { s.lnk with pendTables := true } }
      let s := forAll (List.range 16) (fun n s => revokePlan s n) s
      let s := if had then setBoot true (moduleRecord s 4 0) else s
      let hit := (List.range 16).filter fun n => (List.range 64).any fun f => inPart s n f && oos m f
      let lost := hit.flatMap (fieldsOfPart s)
      let s := forAll hit (fun n s => modPart (unbindAll s n) n fun p => { p with valid := false }) s
      let s := forAll s.jobs refuseJob s
      let s := { s with mod := { s.mod with pending := false, nPend := 0, pendMap := [], applying := false, heldOut := [],
                                            transitDue := true } }
      dropFields (forAll ((List.range 64).filter (oos m)) (fun f s => lowerField s f .f3) s) lost)

end Sys2Proof.Machine
end

