-- ==== Sys2Proof/Machine/Links.lean ====
section
/-!
DEFINITION. The Jeand links as events and commands: training and identity (R305 to R307), common time (R308 to R312),
flits, runs and messages (R315 to R320), silence, hold and down (R321 to R327), joining and leaving (R328, R329).
-/
namespace Sys2Proof.Machine

/-! ### Training -/

/-- Torus size and coordinates of dimension `d` in LNK_NODE (R7, R330). -/
def nodeSize (node d : Nat) : Nat := bits node (15 + 4 * d) (12 + 4 * d) + 1
def nodeCoord (node d : Nat) : Nat := bits node (4 * d + 3) (4 * d)
/-- The neighbour of a node in direction `d`: X+, X−, Y+, Y−, Z+, Z− (R295, R306). -/
def torusNext (node d : Nat) : Nat :=
  let n := nodeSize node (d / 2)
  let c := nodeCoord node (d / 2)
  let c' := (if d % 2 = 0 then c + 1 else c + n - 1) % n
  node % 4096 - c * 2 ^ (4 * (d / 2)) + c' * 2 ^ (4 * (d / 2))

/-- The link may train: configured, in a dimension of more than one module, its cable supply on, the module in M0. -/
def linkLive (s : State) (l : Nat) : Bool :=
  s.boot.working && bit s.boot.linkEn l && decide (nodeSize s.lnk.node (l / 6 / 2) > 1) && !s.pwr.cblOff.contains l && s.pwr.mstate = .m0

/-- Training begins at step 1 (R305). -/
def startTraining (v : LinkSt) : LinkSt :=
  { v with state := 1, step := 1, locked := false, exch := 0, dsum := 0, osum := 0, partner := {}, bursts := [], ctrl := [], measSent := 0,
           echo := none, timeEcho := none }

/-- SIGNAL_DETECT (R305). -/
def execSignalDetect (l : Nat) (s : State) : Host.Outcome State Fault Refusal :=
  within 36 l (
    let v := linkSt s l
    if !linkLive s l ∨ !(v.state = 0 || v.state = 5 || v.state = 1) ∨ (v.state = 1 && v.step > 1) then s
    else setLink s l { startTraining v with signal := true, step := 2, since := s.cycle })

/-- FLIT_LOCK (R298, R305): clock recovery, lane mapping and deskew are complete, in the mode of the lanes that came up
(Table 12.4), and a training link has its capability message to send; a link in hold regains lock in the mode it has. -/
def execFlitLock (l mode : Nat) (s : State) : Host.Outcome State Fault Refusal :=
  within 36 l (modLink s l fun v =>
    if v.state = 0 || v.state = 5 || !v.signal || decide (2 < mode) then v
    else if v.state = 1 then
      { v with locked := true, mode := mode, step := max v.step 6, ctrl := if v.step < 6 then [.capability] else v.ctrl }
    else { v with locked := true })

/-- LOSS_OF_FLIT_LOCK (R321): the positions become silent; a hold has not kept its lock (R324). -/
def execLossOfFlitLock (l : Nat) (s : State) : Host.Outcome State Fault Refusal :=
  within 36 l (modLink s l fun v => { v with locked := false, good := 0 })

/-- The identity check (R306). -/
def identityOk (s : State) (l : Nat) (m : CapMsg) : Bool :=
  let node := s.lnk.node
  m.node = torusNext node (l / 6) && m.dir = (if l / 6 % 2 = 0 then l / 6 + 1 else l / 6 - 1) && m.k = l % 6
  && m.size = bits node 23 12 && m.mode = (linkSt s l).mode && m.fec = 1

/-- CAPABILITY (R305, R306): a training link makes the identity check. -/
def execCapability (l : Nat) (m : CapMsg) (s : State) : Host.Outcome State Fault Refusal :=
  within 36 l (
    let v := linkSt s l
    if v.state = 0 ∨ v.state = 5 ∨ !v.locked then s
    else
      let partner : Partner := ⟨true, m.node, m.k, m.lplan, m.mode, m.epoch, m.evalid, m.anchor, m.hops, m.joined, m.pps⟩
      let v := { v with partner := partner }
      if v.state ≠ 1 then setLink s l v
      else if identityOk s l m then setLink s l { v with step := max v.step 8 }
      else setLink s l { v with wiring := true, step := 7 })

/-- MEASURE exchanges of a measurement (R307). -/
def measureCount : Nat := 256

/-- A finished measurement: delay and offset in 1/64 ns, length in cm; a delay above 540 ns is a mismatch. -/
def measured (s : State) (l : Nat) (v : LinkSt) : LinkSt :=
  let d := (v.dsum / 512).toNat
  let len := (d - Tab.get 0 s.nvm.cal.dfix l) * 100 / 320
  { v with meas := d, offset := v.osum / 512, lenCm := len, exch := 0, dsum := 0, osum := 0,
           delayMis := v.delayMis || decide (d > 34560), step := if v.state = 1 then max v.step 9 else v.step }

/-- MEASURE_MESSAGE (R307): the times of one exchange, in 1/64 ns; the module's next MEASURE echoes the partner's. -/
def execMeasureMessage (l : Nat) (t1 t2 t3 t4 : Int) (s : State) : Host.Outcome State Fault Refusal :=
  within 36 l (
    let v := linkSt s l
    if v.state = 0 ∨ v.state = 5 ∨ (v.state = 1 ∧ v.step < 8) then s
    else
      let v := { v with exch := v.exch + 1, echo := some (t3, t4), dsum := v.dsum + (t2 - t1) + (t4 - t3), osum := v.osum + (t2 - t1) - (t4 - t3) }
      setLink s l (if v.exch ≥ measureCount then measured s l v else v))

/-- TRAINING_RESTART (R305): a step not completed within 1 ms from signal detect. -/
def execTrainingRestart (l : Nat) (s : State) : Host.Outcome State Fault Refusal :=
  within 36 l (modLink s l fun v =>
    if v.state = 1 && v.step ≠ 1 && v.step ≠ 7 && decide (v.since + cyclesOf s 1000000 ≤ s.cycle) then
      { startTraining v with retrain := bump v.retrain 1 } else v)

/-- WIRING_RETRY (R306): 100 ms after the signal detect of a training whose identity check failed. -/
def execWiringRetry (l : Nat) (s : State) : Host.Outcome State Fault Refusal :=
  within 36 l (modLink s l fun v =>
    if v.state = 1 && v.step = 7 && decide (v.since + cyclesOf s 100000000 ≤ s.cycle) then startTraining v else v)

/-! ### Common time -/

/-- 1.5 ns, 1.0 ns and 0.125 ns in 1/64 ns. -/
def skewLimit : Nat := 96
def joinLimit : Nat := 64
def stepLimit : Int := 8

/-- The offset that a TIME flit shows (R307, R310): partner time minus local time, by the measured delay. [DEDUCED, log 36] -/
def thetaOf (v : LinkSt) (m : TimeMsg) : Int := m.sent + v.meas - m.recv

/-- TIME (R305, R310): the last step of training, then the link's offset and what the partner announces. -/
def execTime (l : Nat) (m : TimeMsg) (s : State) : Host.Outcome State Fault Refusal :=
  within 36 l (
    let v := linkSt s l
    if v.state = 0 ∨ v.state = 5 ∨ (v.state = 1 ∧ v.step < 9) then s
    else
      let v := { v with
        offset := thetaOf v m, state := if v.state = 1 then 2 else v.state, lastFlit := if v.state = 1 then s.cycle else v.lastFlit
        timeEcho := some (m.sent, m.recv)
        partner := { v.partner with epoch := m.epoch, evalid := true, anchor := m.anchor, hops := m.hops, joined := m.joined, pps := m.pps } }
      let skew := s.lnk.sync = 2 && decide (v.state ≥ 2) && decide (v.offset.natAbs > skewLimit)
      setLink { s with lnk := { s.lnk with skew := s.lnk.skew || skew } } l { v with skew := v.skew || skew })

/-- Links whose offsets steer the module: trained links, of joined partners once the module has joined (R310, R312). -/
def timeLinks (s : State) : List Nat :=
  (List.range 36).filter fun l =>
    let v := linkSt s l
    (v.state = 2 || v.state = 3 || v.state = 4) && v.partner.known && (s.lnk.sync ≠ 2 || v.partner.joined)

/-- The correction of one link period: half the mean offset, limited (R310). -/
def timeStep (s : State) : Int :=
  match timeLinks s with
  | [] => 0
  | ls => max (-stepLimit) (min stepLimit ((ls.map fun l => (linkSt s l).offset).foldl (· + ·) 0 / (2 * (ls.length : Int))))

/-- Links to joined partners by which a module that is not joined, and runs no job, sets the phase of its frames (R308). -/
def phaseLinks (s : State) : List Nat :=
  if s.lnk.sync = 2 || s.jobs.any (·.phase ≠ .queued) then []
  else (List.range 36).filter fun l =>
    let v := linkSt s l
    (v.state = 2 || v.state = 3 || v.state = 4) && v.partner.known && v.partner.joined

/-- The phase is set by their mean offset (R308). [DESIGN CHOICE, log 36] -/
def phaseStep (s : State) : Int :=
  ((phaseLinks s).map fun l => (linkSt s l).offset).foldl (· + ·) 0 / (max 1 (phaseLinks s).length : Nat)

/-- A link in hold that kept its lock through the period counts it; a channel with a whole chunk and no credit counts one
wait (R324, R340). -/
def periodLink (l : Nat) (s : State) : State :=
  modLink s l fun v => if v.state = 4 && v.locked then { v with good := v.good + 1 } else v
def periodChan (ch : Nat) (s : State) : State :=
  modChan s ch fun c =>
    if c.credits = 0 && (match c.outq.head? with | some o => o.paid | none => false) then
      { c with creditWait := bump c.creditWait 1 } else c

/-- The frequency correction of an anchor over one link period of 10.24 µs, in 1/64 ns, with its fraction carried (R311). [DEDUCED, log 36] -/
def steerAnchor (s : State) : State :=
  let acc := s.lnk.steerAcc + s.lnk.steer * 1024
  { s with timeOff := s.timeOff + acc / 100000000, lnk := { s.lnk with steerAcc := acc % 100000000 }
           pwr := { s.pwr with steer := BitVec.ofInt 16 (s.lnk.steer / 640) } }

/-- Steering stays within ±200 ppm: 12,800,000 in 1/64 ns per second (R304). -/
def clampSteer (v : Int) : Int := max (-12800000) (min 12800000 v)

/-- The phase is set by `d`: the periods and positions of the new time count from now, and a boundary that is due stays due (R308). -/
def setPhase (s : State) (d : Int) : State :=
  let t := { s with timeOff := s.timeOff + d }
  { t with lnk := { s.lnk with
      period := periodNow t, lastPos := posNow t, epochs := if s.lnk.epochs < epochNow s then epochNow t - 1 else epochNow t } }

/-- The work of a link period (R308, R310, R312, R324, R340). -/
def periodWork (s : State) : State :=
    let s := if s.lnk.anchor then steerAnchor s
      else if phaseLinks s ≠ [] then setPhase s (phaseStep s)
      else { s with timeOff := s.timeOff + timeStep s, pwr := { s.pwr with steer := BitVec.ofInt 16 (timeStep s * 100000000 / 655360) } }
    let standby := (List.range 36).filter fun l => (linkSt s l).state = 2
    let near := standby.all fun l => decide ((linkSt s l).offset.natAbs ≤ joinLimit)
    let lnk := { s.lnk with
      converged := if near then s.lnk.converged + 1 else 0
      sync := if s.lnk.sync = 2 then 2 else if standby = [] then 0 else 1 }
    let s := forAll (List.range 36) periodLink { s with lnk := lnk }
    forAll (List.range 16) periodChan s

/-- LINK_PERIOD (R303, R310): a link period of the installation time begins that has not been taken yet. -/
def execLinkPeriod (s : State) : Host.Outcome State Fault Refusal :=
  .next (if periodNow s ≤ s.lnk.period then s else periodWork { s with lnk := { s.lnk with period := periodNow s } })

/-- A CTRL message goes out on every trained link (R303). -/
def tellAll (k : CtrlKind) (s : State) : State :=
  forAll (List.range 36) (fun l s => modLink s l fun v =>
    if decide (2 ≤ v.state) && decide (v.state ≤ 4) then { v with ctrl := v.ctrl ++ [k] } else v) s

/-- A candidate anchor: locked to TIME_PPS before not, then the lower node, then the nearer (R309). -/
structure AnchorOf where
  pps  : Bool := false
  node : Nat := 0
  hops : Nat := 0
  deriving DecidableEq, Repr

def betterAnchor (a b : AnchorOf) : Bool :=
  if a.pps ≠ b.pps then a.pps
  else if a.node ≠ b.node then decide (a.node < b.node) else decide (a.hops < b.hops)

/-- The anchor to follow: the module itself, or the best that a joined partner announces (R309). [DEDUCED, log 36] -/
def chooseAnchor (s : State) : AnchorOf :=
  let own : AnchorOf := ⟨s.lnk.ppsEn && s.lnk.ppsLock, s.lnk.node % 4096, 0⟩
  let heard := (List.range 36).filterMap fun l =>
    let v := linkSt s l
    if decide (2 ≤ v.state) && decide (v.state ≤ 4) && v.partner.known && v.partner.joined then
      some (⟨v.partner.pps, v.partner.anchor, v.partner.hops + 1⟩ : AnchorOf) else none
  heard.foldl (fun b a => if a.node ≠ own.node && betterAnchor a b then a else b) own

/-- A joined module adopts the best anchor. -/
def adoptAnchor (s : State) : State :=
  if s.lnk.sync ≠ 2 then s
  else
    let a := chooseAnchor s
    { s with lnk := { s.lnk with anchor := decide (a.node = s.lnk.node % 4096), anchorId := a.node, hops := a.hops, anchorPps := a.pps } }

/-- The epochs of a module without joined partners: the first join starts epoch 0, from which its time counts on (R308, R309). -/
def ownEpochs (s : State) : State :=
  if s.lnk.begun then { s with lnk := { s.lnk with epoch := BitVec.ofInt 32 (epochNow s) } }
  else setPhase { s with lnk := { s.lnk with epoch := 0 } } (-instTime s)

/-- The module joins at a boundary (R312, R319): it takes its joined partners' epoch number, or its own, and says so on its links.
[DEDUCED, log 36] -/
def joinNow (s : State) : State :=
  if s.lnk.sync = 2 ∨ !s.lnk.joinEn ∨ s.boot.stage ≠ 5 ∨ s.lnk.converged < 64 then s
  else
    let es := (List.range 36).filterMap fun l =>
      let v := linkSt s l
      if v.state = 2 && v.partner.joined && v.partner.evalid then some v.partner.epoch else none
    let s := match es with | [] => ownEpochs s | e :: _ => { s with lnk := { s.lnk with epoch := BitVec.ofNat 32 (e + 1) } }
    tellAll .join { s with lnk := { s.lnk with sync := 2, begun := true } }

/-- The epoch number advances; a scheduled link whose partner holds another leaves the schedule (R312, R325). [DEDUCED, log 36] -/
def countEpoch (s : State) : State :=
  if s.lnk.sync ≠ 2 then s
  else
    let e := s.lnk.epoch.toNat
    let wrong := (List.range 36).filter fun l =>
      let v := linkSt s l
      v.state = 3 && v.partner.evalid && v.partner.epoch % 2 ^ 32 ≠ e
    forAll wrong (fun l s => linkDown s l) { s with lnk := { s.lnk with epoch := s.lnk.epoch + 1 } }

/-- New link tables take effect (R127, R313); a trained link whose record is another says so to its partner (R328). -/
def installTables (s : State) : State :=
  if !s.lnk.pendTables then s
  else
    let s := { s with lnk := { s.lnk with pendTables := false } }
    forAll (List.range 36) (fun l s => modLink s l fun v =>
      let r := (linkRecOf s.mod.base l).getD []
      if r = v.record then v
      else { v with record := r, ctrl := if decide (2 ≤ v.state) && decide (v.state ≤ 4) then v.ctrl ++ [.capability] else v.ctrl }) s

/-- The delay fits the plan within 1.0 ns (R328). -/
def delayFits (v : LinkSt) : Bool :=
  decide (v.meas ≤ lrDplan v.record + joinLimit) && decide (lrDplan v.record ≤ v.meas + joinLimit)
/-- Both records carry one identity and one mode (R328). -/
def planFits (v : LinkSt) : Bool :=
  lrId v.record ≠ 0 && v.partner.lplan = lrId v.record && v.partner.mode = lrMode v.record && v.mode = lrMode v.record

/-- A link enters, stays in or leaves the schedule (R324, R328). -/
def scheduleLink (l : Nat) (s : State) : State :=
  let v := linkSt s l
  match v.state with
  | 2 =>
    if v.record = [] ∨ s.lnk.sync ≠ 2 then s
    else if !planFits v then setLink s l { v with planMis := true, delayMis := v.delayMis || !delayFits v }
    else if !delayFits v ∨ v.meas > 34560 then setLink s l { v with delayMis := true }
    else setLink s l { v with state := 3, lastFlit := s.cycle, bursts := [], hitParts := [] }
  | 3 =>
    if v.record = [] then setLink s l { v with state := 2, bursts := [] }
    else if !delayFits v then linkDown s l else s
  | 4 =>
    if v.good ≥ 64 ∧ v.locked ∧ v.record ≠ [] then
      setLink s l { v with state := 3, lastFlit := s.cycle, bursts := [], hitParts := [] }
    else setLink s l { startTraining v with retrain := bump v.retrain 1 }
  | _ => s

/-- DEPART goes out on every link; the module stops transmitting data and forwarding (R329). -/
def departNow (s : State) : State :=
  let up := (List.range 36).filter fun l => decide (2 ≤ (linkSt s l).state) && decide ((linkSt s l).state ≤ 4)
  let s := forAll up (fun l s => modLink s l fun v => { v with state := 2, bursts := [] }) (tellAll .depart s)
  { s with lnk := { s.lnk with departReq := false, joinEn := false, sync := 0, anchor := false, converged := 0 } }

/-- EPOCH_BOUNDARY (R308, R309, R312, R324, R127, R328, R329): an epoch of the installation time begins that has not been taken yet. -/
def execEpochBoundary (s : State) : Host.Outcome State Fault Refusal :=
  .next (
    let due := decide (s.lnk.epochs < epochNow s)
    let s := { s with lnk := { s.lnk with epochs := max s.lnk.epochs (epochNow s) } }
    if !due then s
    else if s.lnk.departReq then installTables (departNow s)
    else forAll (List.range 36) scheduleLink (installTables (adoptAnchor (joinNow (countEpoch s)))))

/-- 1 s ± 100 µs between two edges (Table 19.6). -/
def edgeGood (a b : Int) : Bool := decide (64 * 999900000 ≤ b - a) && decide (b - a ≤ 64 * 1000100000)

/-- TIME_PPS (R311): a rising edge. -/
def execTimePps (s : State) : Host.Outcome State Fault Refusal :=
  .next (
    if !s.lnk.ppsEn then s
    else
      let t := instTime s
      let good := match s.lnk.ppsLast with | some a => edgeGood a t | none => false
      let n := if good then s.lnk.ppsGood + 1 else 0
      let steer := match s.lnk.ppsLast with | some a => if good && s.lnk.anchor then clampSteer (s.lnk.steer + (64000000000 - (t - a))) else s.lnk.steer | none => s.lnk.steer
      { s with lnk := { s.lnk with
          ppsTime := BitVec.ofInt 64 t, ppsLast := some t, ppsGood := n, ppsLock := decide (n ≥ 3), steer := steer } })

/-! ### Flits (R315, R316, R320, R322) -/

/-- What the receive entry does with an accepted flit. -/
def placeFlit (s : State) (l : Nat) (f : RxFlit) : State :=
  let rec' := (linkSt s l).record
  let r := rxPosition rec' f.slot
  let x := lrRx rec' r
  match rxAct x with
  | 1 =>
    let route := rxRoute x
    if f.type = 5 then failBurst s l route (f.data.headD eSlotMiss)
    else if f.type = 1 ∨ f.type = 2 then burstFlit s l route f
    else match burstOf (linkSt s l) route with
      | some b => if b.dead then modLink s l fun v => dropBurst v route else failBurst s l route eSlotMiss
      | none => s
  | 2 =>
    let out := rxOut x
    let s := if f.type = 5 && linkSends s out then modLink s out fun v => { v with void := bump v.void 1 } else s
    sendFlit s out ((r + 33) % 8960) f
  | _ => s

/-- What the receive entry does in place of a flit it does not accept (R322, R323). -/
def missFlit (s : State) (l slot : Nat) (code : Byte) : State :=
  let rec' := (linkSt s l).record
  let r := rxPosition rec' slot
  let x := lrRx rec' r
  match rxAct x with
  | 1 => failBurst s l (rxRoute x) code
  | 2 => sendVoid s l (rxOut x) ((r + 33) % 8960) code
  | _ => s

/-- Every open burst of a silent link has its decision held (R324). -/
def holdBursts (v : LinkSt) : LinkSt := { v with bursts := v.bursts.map fun b => if b.dead then b else { b with held := true } }

/-- A link in hold discards every flit (R324). -/
def flitInHold (s : State) (l : Nat) (f : RxFlit) : State :=
  let s := modLink s l fun v => { v with stale := bump v.stale 1, lastFlit := s.cycle, good := if offWindow v.record f then 0 else v.good }
  missFlit s l f.slot eLinkHold

/-- A flit of a scheduled link (R302, R315, R322, R326). -/
def flitScheduled (s : State) (l : Nat) (f : RxFlit) : State :=
  let forwards := rxAct (lrRx (linkSt s l).record (rxPosition (linkSt s l).record f.slot)) = 2
  if decide (f.err0 > 4) || decide (f.err1 > 4) then
    let s := modLink s l fun v => { v with ue := bump v.ue 1, lastFlit := s.cycle, miss := if forwards then bump v.miss 1 else v.miss }
    missFlit (settleHeld s l) l f.slot eSlotMiss
  else
    let s := if f.err0 + f.err1 = 0 then s else modLink s l fun v => { v with ce := bump v.ce 1 }
    if offWindow (linkSt s l).record f ∨ f.pos ≠ f.slot then
      let s := modLink s l fun v => { v with miss := bump v.miss 1, lastFlit := s.cycle }
      missFlit (settleHeld s l) l f.slot eSlotMiss
    else if f.etag ≠ (flitEpoch s f).toNat % 256 then
      let s := modLink s l fun v => holdBursts { v with stale := bump v.stale 1 }
      if forwards then missFlit s l f.slot eSlotMiss else s
    else
      let s := modLink s l fun v => { v with flit := bump v.flit 1, lastFlit := s.cycle }
      let s := settleHeld s l
      if f.slot % 64 = 0 then s else placeFlit s l f

/-- LINK_FLIT_RECEIVE (R315): in the schedule and in hold; other flits of a trained link are counted only. -/
def execLinkFlitReceive (l : Nat) (f : RxFlit) (s : State) : Host.Outcome State Fault Refusal :=
  within 36 l (
    match (linkSt s l).state with
    | 3 => flitScheduled s l f
    | 4 => flitInHold s l f
    | 2 => modLink s l fun v => { v with flit := bump v.flit 1, lastFlit := s.cycle }
    | _ => s)

/-- SILENT_RECEIVE_POSITION (R322 to R325). -/
def execSilentReceivePosition (l r : Nat) (s : State) : Host.Outcome State Fault Refusal :=
  within 36 l (
    let v := linkSt s l
    if v.record = [] ∨ r ≥ 8960 then s
    else
      let x := lrRx v.record r
      let code := silentCode v
      match rxAct x with
      | 1 => if v.state = 3 then setLink s l (holdBursts v) else failBurst s l (rxRoute x) code
      | 2 =>
        let s := if v.state = 3 then setLink s l (holdBursts v) else s
        sendVoid s l (rxOut x) ((r + 33) % 8960) code
      | _ => s)

/-- LINK_HOLD (R324): 256 ns without a flit and a burst open. -/
def execLinkHold (l : Nat) (s : State) : Host.Outcome State Fault Refusal :=
  within 36 l (
    let v := linkSt s l
    let open_ := v.bursts.filter fun b => !b.dead && b.held
    if v.state ≠ 3 ∨ open_ = [] ∨ s.cycle < v.lastFlit + cyclesOf s 256 then s
    else
      let s := setLink s l { v with state := 4, hold := bump v.hold 1, good := 0, hitParts := [] }
      forAll open_ (fun b s => failBurst s l b.route eLinkHold) s)

/-- LINK_DOWN (R325): 10 µs of silence. -/
def execLinkDown (l : Nat) (s : State) : Host.Outcome State Fault Refusal :=
  within 36 l (
    let v := linkSt s l
    if v.state < 2 ∨ v.state > 4 ∨ s.cycle < v.lastFlit + cyclesOf s 10000 then s else linkDown s l)

/-- PARTNER_DEPART (R325). -/
def execPartnerDepart (l : Nat) (s : State) : Host.Outcome State Fault Refusal :=
  within 36 l (
    let v := linkSt s l
    if v.state < 2 ∨ v.state > 4 then s else linkDown s l)

/-! ### Sending and messages (R318, R320) -/

/-- LINK_RUN_TRANSMIT (R318): at the first position of a run, when the time is in that position, the oldest message of its route leaves
whole, or the run passes and is counted. -/
def execLinkRunTransmit (l r : Nat) (s : State) : Host.Outcome State Fault Refusal :=
  within 36 l (
    let v := linkSt s l
    let route := bits (lrTx v.record r) 13 2
    if v.state ≠ 3 ∨ v.record = [] ∨ posNow s % 8960 ≠ r ∨ posNow s ≤ v.runAt ∨ !runStarts v.record route r then s
    else
      let v := { v with runAt := posNow s }
      let (mine, _) := v.tx.partition (·.route = route)
      match mine with
      | m :: _ =>
        if linkFlits m.bytes ≤ runLen v.record route r then
          send (setLink s l { v with tx := v.tx.erase m }) (.linkRun l r m.coll m.bytes)
        else setLink s l { v with defer_ := bump v.defer_ 1 }
      | [] => setLink s l { v with defer_ := bump v.defer_ 1 })

def dKind (b : List Byte) : Nat := field b 0 1
def dSen (b : List Byte) : Bool := bit (field b 1 1) 0
def dCtx (b : List Byte) : Nat := bits (field b 2 2) 13 0
def dPip (b : List Byte) : Nat := pipAt (bits (field b 4 2) 7 0) (bits (field b 4 2) 13 8)
def dAddr (b : List Byte) : Nat := field b 8 8
def dLen (b : List Byte) : Nat := field b 16 2
def dSadd (b : List Byte) : Nat := field b 18 2
def dSobj (b : List Byte) : Nat := bits (field b 20 2) 13 0

/-- The fields of a DATA message are in their ranges, and its destination is the exit of its route (R320). -/
def dataForm (s : State) (route : Nat) (b : List Byte) : Bool :=
  decide (dKind b ≤ 2) && decide (field b 1 1 < 2) && decide (field b 2 2 < 2 ^ 14) && decide (field b 4 2 < 2 ^ 14)
  && field b 6 2 = 0 && dAddr b % 8 = 0 && dLen b % (if dKind b = 2 then 128 else 8) = 0
  && decide (24 + dLen b ≤ b.length) && (!dSen b || dSadd b ≠ 0) && decide (field b 20 2 < 2 ^ 14) && field b 22 2 = 0
  && (match dKind b with
      | 0 => routePip (resv s) route = some (dPip b)
      | 1 => isStg (dAddr b) && routeStack (resv s) route = some (stackOf (dAddr b))
      | _ => isReq (dAddr b) && routeStack (resv s) route = some (stackOf (dAddr b)))

/-- The bytes and the sync object are the destination context's, and it is bound to the route's partition (R320). -/
def dataOwned (s : State) (route : Nat) (b : List Byte) : Bool :=
  let c := dCtx b
  (ctxSt s c).created
  && (match routePart s route with | some n => (ctxSt s c).part = n + 1 | none => true)
  && (match dKind b with
      | 0 => inRegion (pipOf s (dPip b)).sp c (dAddr b) (dLen b)
      | 1 => ctxMem s c (dAddr b) (dLen b)
      | _ => true)
  && (!dSen b || ownsSync s c (dSobj b))

/-- A message that fails its checks (R320, R430). -/
def rejectData (s : State) (l route : Nat) (code : Byte) : State :=
  let s := modLink s l fun v => { v with msgRej := bump v.msgRej 1 }
  match routePart s route with
  | none => s
  | some n => endJobs s code fun j => j.part = n && j.phase ≠ .queued

/-- Bytes as lines at a staging address: what each line holds of them. -/
def lineParts : Nat → Nat → List Byte → List (Nat × List Byte)
  | 0, _, _ => []
  | n + 1, a, bs =>
    if bs = [] then [] else (a, bs.take (128 - a % 128)) :: lineParts n (a + (128 - a % 128)) (bs.drop (128 - a % 128))

/-- The accesses of a staging buffer that a message makes: plain writes of its lines, or requests (R289, R290). -/
def dataReqs (s : State) (l : Nat) (b : List Byte) : List Req :=
  let data := slice b 24 (dLen b)
  let req (a : Nat) (g : List Byte) : Req := { src := .link l, write := true, addr := a, ctx := dCtx b, data := ofLineBytes g, bytes := g, ready := s.cycle }
  if dKind b = 1 then (lineParts (data.length + 1) (dAddr b) data).map fun e => req e.1 e.2
  else (groups 128 data.length data).map fun g => req (dAddr b) g

/-- Lines of a scratchpad write whose bank is in use in this cycle (R18). -/
def padTaken (q : PipSt) (a n : Nat) : Bool := (List.range ((a % 128 + n + 127) / 128)).any fun i => bankTaken q (a + 128 * i)

/-- A scratchpad write as a DMA write of this cycle (R18, R48). [DESIGN CHOICE, log 36: all lines of a message in one cycle] -/
def padData (s : State) (b : List Byte) : State :=
  let data := slice b 24 (dLen b)
  modPip s (dPip b) fun q =>
    holdWrite ((List.range ((dAddr b % 128 + data.length + 127) / 128)).foldl (fun q (i : Nat) => takeBank q ((dAddr b + 128 * i : Nat) : Int)) q)
      s.cycle 0 (padWords 0 (dAddr b) data)

/-- The bytes of a message go to their memory (R18, R289, R290, R320). -/
def writeData (s : State) (l : Nat) (b : List Byte) : State :=
  if dKind b = 0 then padData s b
  else modStack s (stackOf (dAddr b)) fun v => { v with stq := (dataReqs s l b).foldl (fun q r => joinStq r q) v.stq }

/-- Accesses of a message of the link that its staging buffer has still to serve. -/
def dataWaits (s : State) (l : Nat) (b : List Byte) : Bool :=
  dKind b ≠ 0 && (stackSt s (stackOf (dAddr b))).stq.any fun r => r.src = .link l

/-- The message at the head of a link's list is done, once every byte has landed where it signals; the increment waits while its sync
object's field sleeps (R93, R320). -/
def finishData (s : State) (l : Nat) (b : List Byte) : State :=
  let pop := modLink s l fun v => { v with msgs := v.msgs.drop 1 }
  if !dSen b then pop
  else if dataWaits s l b then s
  else if !syncReady s (dSobj b) then enableField s (syncField (dSobj b))
  else syncAdd pop (dSobj b) (dSadd b)

/-- DATA (R93, R143, R320): the oldest whole DATA message of the link is checked and goes to its memory; it waits for a scratchpad that
sleeps or whose banks are in use, and stays until it has signalled. -/
def execData (l : Nat) (s : State) : Host.Outcome State Fault Refusal :=
  within 36 l (
    let v := linkSt s l
    match v.msgs with
    | [] => s
    | m :: rest =>
      let b := m.bytes
      let pop := setLink s l { v with msgs := rest }
      if m.placed then finishData s l b
      else if !dataForm s m.route b then rejectData pop l m.route eDesc
      else if !dataOwned s m.route b then rejectData pop l m.route eBounds
      else if dKind b = 0 && !padAwake s (dPip b) then enableField s (fieldOfPip (dPip b))
      else if dKind b = 0 && padTaken (pipOf s (dPip b)) (dAddr b) (dLen b) then s
      else finishData (writeData (setLink s l { v with msgs := { m with placed := true } :: rest }) l b) l b)

/-! ### Reserved positions (R303) -/

/-- The anchor that the module announces is locked to TIME_PPS. -/
def ownPps (s : State) : Bool := if s.lnk.anchor then s.lnk.ppsEn && s.lnk.ppsLock else s.lnk.anchorPps

/-- The capability message of a link (Table 12.4). -/
def ownCapability (s : State) (l : Nat) : CapMsg :=
  let v := linkSt s l
  { node := s.lnk.node % 4096, k := l % 6, dir := l / 6, size := bits s.lnk.node 23 12, lplan := lrId v.record, mode := v.mode
    epoch := s.lnk.epoch.toNat, evalid := s.lnk.begun, anchor := s.lnk.anchorId, hops := s.lnk.hops, joined := s.lnk.sync = 2
    pps := ownPps s }

/-- What a TIME flit says (R309, R310). -/
def ownTime (s : State) (v : LinkSt) : LinkCtrl :=
  .time (instTime s) s.lnk.epoch.toNat s.lnk.anchorId s.lnk.hops (s.lnk.sync = 2) (ownPps s) v.timeEcho

def ctrlMsg (s : State) (l : Nat) : CtrlKind → LinkCtrl
  | .capability => .capability (ownCapability s l)
  | .join => .join
  | .depart => .depart

/-- A link that has flit lock sends a TIME flit in position 0 once it exchanges time, and in every other reserved position a CTRL message
if one waits, or a MEASURE message until it has sent those of its training (R303, R305, R307, R310); else the position stays IDLE. -/
def reservedAct (j l : Nat) (s : State) : State :=
  let v := linkSt s l
  if !v.locked ∨ v.state = 0 ∨ v.state = 5 ∨ j % 64 ≠ 0 then s
  else if j = 0 then (if v.state = 1 ∧ v.step < 9 then s else send s (.linkCtrl l 0 (ownTime s v)))
  else
    match v.ctrl with
    | k :: rest => send (setLink s l { v with ctrl := rest }) (.linkCtrl l j (ctrlMsg s l k))
    | [] =>
      if (v.state = 1 ∧ 8 ≤ v.step ∨ v.state = 2) ∧ v.measSent < measureCount then
        send (setLink s l { v with measSent := v.measSent + 1 }) (.linkCtrl l j (.measure (instTime s) v.echo))
      else s

/-! ### LNK_CTRL (R330) -/

/-- JOIN_EN (R312). -/
def execJoinEn (w : Writer) (v : Bool) (s : State) : Host.Outcome State Fault Refusal :=
  .next (if priv s w then { s with lnk := { s.lnk with joinEn := v } } else s)

/-- PPS_EN (R311). -/
def execPpsEn (w : Writer) (v : Bool) (s : State) : Host.Outcome State Fault Refusal :=
  .next (if priv s w then
      { s with lnk := { s.lnk with ppsEn := v, ppsLock := v && s.lnk.ppsLock, ppsGood := if v then s.lnk.ppsGood else 0,
                                   ppsLast := if v then s.lnk.ppsLast else none } }
    else s)

/-- DEPART (R329). -/
def execDepart (w : Writer) (s : State) : Host.Outcome State Fault Refusal :=
  .next (if priv s w then { s with lnk := { s.lnk with departReq := true } } else s)

/-- WAKE_PATTERN (R299): on every link that is off or down. -/
def execWakePattern (w : Writer) (s : State) : Host.Outcome State Fault Refusal :=
  .next (if priv s w then
      forAll ((List.range 36).filter fun l => (linkSt s l).state = 0 || (linkSt s l).state = 5) (fun l s => send s (.wakePattern l)) s
    else s)

/-- CBLPWR_OVERLOAD (R457): the link loses its signal. -/
def execCblpwrOverload (l : Nat) (s : State) : Host.Outcome State Fault Refusal :=
  within 36 l (
    let s := { s with pwr := { s.pwr with cblOff := if s.pwr.cblOff.contains l then s.pwr.cblOff else l :: s.pwr.cblOff } }
    modLink s l fun v => { v with signal := false, locked := false, good := 0 })

end Sys2Proof.Machine
end

