-- ==== Sys2Proof/Machine/Spdm.lean ====
section
/-!
DEFINITION. The SPDM responder of each host (R365, R388, R391) and the keys of IDE (R364). The order of requests follows the
SPDM standard (log 33).
-/
namespace Sys2Proof.Machine

/-! ### Measurements (R391) -/

/-- The digest, or zeros for nothing admitted. -/
def planDigest (b : List Byte) : BitVec 256 := if b = [] then 0 else sha256Num b
/-- A digest that start-up has set, or the one the module came up with. -/
def orShipped (d : BitVec 256) (i : Nat) : BitVec 256 := if d = 0 then Config.shippedDigest i else d

/-- An entry of the measurement set (Table 15.9). -/
def measured391 (s : State) (i : Nat) : BitVec 256 :=
  match i with
  | 1 => Config.romDigest
  | 2 => orShipped s.hull.fwDigest 2
  | 3 => s.hull.cfgDigest
  | 4 => orShipped s.hull.calDigest 4
  | 5 => if s.hull.idOk then s.hull.owner else 0
  | 6 => sha256Num s.mod.map
  | 7 => planDigest s.mod.base
  | 8 => BitVec.ofNat 256 (b2n s.hull.debug)
  | i => if 0x10 ≤ i ∧ i < 0x20 then planDigest (partSt s (i - 0x10)).plan else 0

/-- Indices of the set. -/
def measIndices : List Nat := span 1 8 ++ span 0x10 0x1F
/-- Kind of an entry as a measurement value type: ROM, firmware, hardware configuration, configuration, debug. -/
def measKind (i : Nat) : Nat := match i with | 1 => 0 | 2 => 1 | 6 => 2 | 8 => 5 | _ => 3
/-- A measurement block: index, specification, size, kind, size of the value, value. -/
def measBlock (s : State) (i : Nat) : List Byte :=
  toBytes 1 i ++ [1] ++ toBytes 2 35 ++ toBytes 1 (measKind i) ++ toBytes 2 32 ++ toBytes 32 (measured391 s i).toNat
/-- One snapshot of the whole set. -/
def measBlocks (s : State) : List Byte := measIndices.flatMap (measBlock s)

/-! ### Responses -/

/-- SPDM error codes: invalid request, unexpected request, unspecified. -/
def errInvalid : Nat := 1
def errUnexpected : Nat := 4
def errUnspecified : Nat := 5

def spdmError (s : State) (h code err : Nat) : State := send s (.spdm h code true (toBytes 1 err))
/-- A response that ends in bytes the manual does not give. -/
def spdmReply (s : State) (h code : Nat) (bs : List Byte) : State :=
  send { s with free := s.free + 1 } (.spdm h code false (bs ++ Config.response code s.free))

def setSpdm (s : State) (h : Nat) (f : SpdmSt → SpdmSt) : State := modHost s h fun v => { v with spdm := f v.spdm }

/-- A request of an attached host in a stage that allows it, else the error of one out of order. [PRESUMED, log 33] -/
def spdmAt (h code : Nat) (ok : Nat → Bool) (f : State → State) (s : State) : Host.Outcome State Fault Refusal :=
  within 16 h (
    if !attached s h then s else if ok (hostSt s h).spdm.stage then f s else spdmError s h code errUnexpected)

/-- EXEC of a signature with the key of a slot (Table 15.5). -/
def signExec (slot : Nat) : Nat := match slot with | 0 => 3687664 | 1 => 180288 | _ => 304192

/-- Jobs of channel 1 that end with E_OK: how many, and the EXEC of the last (R369, R393). -/
def acornJobs (s : State) (n exec : Nat) : State :=
  let job : Word64 := BitVec.ofNat 64 (Config.freeBits s.free).toNat
  let s := { s with free := s.free + 1, hull := { s.hull with jobCnt := bump s.hull.jobCnt n } }
  modHchan s 1 fun v => { v with job := job, exec := exec, code := eOk, doneCnt := bump v.doneCnt n }

/-- A response that the hull signs (R365, R388): nonce, signature. [PRESUMED, log 33] -/
def signedReply (h code slot jobs : Nat) (bs : List Byte) (f : State → State) (s : State) : State :=
  if 2 < slot then spdmError s h code errInvalid
  else if !s.hull.idOk ∨ !s.hull.drbgOk then spdmError s h code errUnspecified
  else f (spdmReply (acornJobs (drbgRequest false s) jobs (signExec slot)) h code bs)

/-! ### Requests -/

/-- GET_VERSION (R365): starts over. [PRESUMED, log 33] -/
def execGetVersion (h : Nat) (s : State) : Host.Outcome State Fault Refusal :=
  spdmAt h 0x84 (fun _ => true) (fun s => spdmReply (setSpdm s h fun _ => { stage := 1 }) h 0x84 []) s
/-- GET_CAPABILITIES (R365). -/
def execGetCapabilities (h : Nat) (s : State) : Host.Outcome State Fault Refusal :=
  spdmAt h 0xE1 (· = 1) (fun s => spdmReply (setSpdm s h fun v => { v with stage := 2 }) h 0xE1 []) s
/-- NEGOTIATE_ALGORITHMS (R365): the slot names the base asymmetric algorithm (R387). -/
def execNegotiateAlgorithms (h slot : Nat) (s : State) : Host.Outcome State Fault Refusal :=
  spdmAt h 0xE3 (· = 2) (fun s =>
    if 2 < slot then spdmError s h 0xE3 errInvalid
    else spdmReply (setSpdm s h fun v => { v with stage := 3, slot := slot }) h 0xE3 []) s
/-- GET_DIGESTS (R365). -/
def execGetDigests (h : Nat) (s : State) : Host.Outcome State Fault Refusal :=
  spdmAt h 0x81 (3 ≤ ·) (fun s => spdmReply s h 0x81 []) s
/-- GET_CERTIFICATE (R365, R387). -/
def execGetCertificate (h slot : Nat) (s : State) : Host.Outcome State Fault Refusal :=
  spdmAt h 0x82 (3 ≤ ·) (fun s => if 2 < slot then spdmError s h 0x82 errInvalid else spdmReply s h 0x82 []) s
/-- CHALLENGE (R365). -/
def execChallenge (h slot : Nat) (s : State) : Host.Outcome State Fault Refusal :=
  spdmAt h 0x83 (3 ≤ ·) (signedReply h 0x83 slot 1 [] id) s
/-- GET_MEASUREMENTS (R365, R391). -/
def execGetMeasurements (h : Nat) (signed : Bool) (s : State) : Host.Outcome State Fault Refusal :=
  spdmAt h 0xE0 (3 ≤ ·) (fun s =>
    if signed then signedReply h 0xE0 (hostSt s h).spdm.slot 1 (measBlocks s) id s else spdmReply s h 0xE0 (measBlocks s)) s
/-- KEY_EXCHANGE (R365, R377, R388): an ephemeral key, one ECDH and one signature. -/
def execKeyExchange (h slot : Nat) (s : State) : Host.Outcome State Fault Refusal :=
  spdmAt h 0xE4 (3 ≤ ·) (signedReply h 0xE4 slot 2 [] fun s => setSpdm s h fun v => { v with stage := 4, slot := slot }) s
/-- FINISH (R365): the session is open. -/
def execFinish (h : Nat) (s : State) : Host.Outcome State Fault Refusal :=
  spdmAt h 0xE5 (· = 4) (fun s => spdmReply (setSpdm s h fun v => { v with stage := 5, keyGen := 0, heartbeats := 0 }) h 0xE5 []) s
/-- KEY_UPDATE (R365): the next generation of session keys. -/
def execKeyUpdate (h : Nat) (s : State) : Host.Outcome State Fault Refusal :=
  spdmAt h 0xE9 (· = 5) (fun s => spdmReply (setSpdm s h fun v => { v with keyGen := v.keyGen + 1 }) h 0xE9 []) s
/-- HEARTBEAT (R365). -/
def execHeartbeat (h : Nat) (s : State) : Host.Outcome State Fault Refusal :=
  spdmAt h 0xE8 (· = 5) (fun s => spdmReply (setSpdm s h fun v => { v with heartbeats := v.heartbeats + 1 }) h 0xE8 []) s
/-- END_SESSION (R365). -/
def execEndSession (h : Nat) (s : State) : Host.Outcome State Fault Refusal :=
  spdmAt h 0xEC (· = 5) (fun s => spdmReply (setSpdm s h fun v => { v with stage := 3, keyGen := 0, heartbeats := 0 }) h 0xEC []) s

/-- IDE_KM (R364): in a session of the host that keys its head's streams. [PRESUMED, log 33] -/
def execIdeKm (h key : Nat) (s : State) : Host.Outcome State Fault Refusal :=
  within 16 h (
    let hd := headOfHost s h
    if attached s h ∧ (hostSt s h).spdm.stage = 5 ∧ (headSt s hd).up ∧ (h = 0 ∨ !s.cxl.mld) then
      modHead s hd fun v => { v with ide := true, ideKeys := key }
    else s)

end Sys2Proof.Machine
end

