-- ==== Sys2Proof/Machine/Regs.lean ====
section
/-!
DEFINITION. The registers of BAR0 as they read (R8, R9, R11, R355): every block of the module by its offset. A register is
listed as its offset in the block, its width in bytes and its value.
-/
namespace Sys2Proof.Machine

abbrev Reg := Nat × Nat × Nat

/-- A 32-bit and a 64-bit register. -/
def r32 (o v : Nat) : Reg := (o, 4, v % 2 ^ 32)
def r64 (o v : Nat) : Reg := (o, 8, v % 2 ^ 64)

/-- A bit at a place. -/
def at1 (i : Nat) (b : Bool) : Nat := b2n b * 2 ^ i
/-- A value at a place. -/
def atN (i v : Nat) : Nat := v * 2 ^ i

/-- Who reads: a host, or a host with no rights (R445). -/
abbrev Reader := Option Nat

def readerMgmt (s : State) (r : Reader) : Bool := match r with | some h => isMgmt s h | none => false
def readerIs (r : Reader) (h : Nat) : Bool := r = some h
/-- The reader created the context (R358). -/
def readerMade (s : State) (r : Reader) (c : Nat) : Bool := (ctxSt s c).created && readerIs r (ctxSt s c).host

/-! ### Chapters 2 and 5 to 10: pips and pods -/

/-- PIP_STATUS STATE (Table 2.8). -/
def pipState (s : State) (p : Nat) (q : PipSt) : Nat :=
  if oos s.mod.map (fieldOfPip p) then 3 else if q.job = 0 then 0 else if q.acc.held || q.exe.held then 2 else 1

/-- A TMM, or a drain that has still to read it, uses a buffer (R53, R187). -/
def accBusy (q : PipSt) (a : Bool) : Bool := q.ops.tmms.any (fun t => t.acc = a) || drainReads q a

/-- Pip control block (Table 2.7). -/
def pipBlock (s : State) (p : Nat) : List Reg :=
  let q := pipOf s p
  [ r32 0x00 (pipState s p q + at1 2 q.acc.held + at1 3 q.exe.held + at1 4 q.ten.tmode + at1 5 (accBusy q false) + at1 6 (accBusy q true)
      + atN 8 q.st.lastCode.toNat + atN 16 q.st.context),
    r32 0x04 (q.st.cause + atN 4 q.st.index + at1 6 q.st.stream),
    r32 0x08 (siteX s.mod.map p + atN 8 (pipY p) + at1 16 (pipShift s.mod.map p)),
    r64 0x10 q.cnt.astall.toNat, r64 0x18 q.cnt.xstall.toNat, r64 0x20 q.cnt.tbusy.toNat, r64 0x28 q.cnt.rbusy.toNat,
    r64 0x30 q.cnt.defer_.toNat ]

/-- A region entry as PIP_REGIONn shows it (Table 5.8). -/
def regionVal (r : Region) : Nat := r.base + atN 12 r.len + atN 24 r.ctx + at1 38 r.valid + at1 39 r.scrub

/-- Scratchpad block (Table 5.7). -/
def spBlock (s : State) (p : Nat) : List Reg :=
  let q := pipOf s p
  ((List.range 16).map fun n => r64 (8 * n) (regionVal (Tab.get {} q.sp.regions n))) ++
  [ r32 0x80 (at1 0 q.st.regErr + at1 1 (q.sp.regions.any fun e => e.2.scrub) + at1 2 q.st.ue), r32 0x84 q.st.errAddr,
    r64 0x88 q.cnt.ce.toNat, r64 0x90 q.cnt.ue.toNat ]

/-- Numerics block (Table 6.6): the watch counters only for the creator of the context shown (R184). -/
def numBlock (s : State) (r : Reader) (p : Nat) : List Reg :=
  let q := pipOf s p
  let w := if readerMade s r q.st.context then Tab.get {} q.watch q.st.watchSel else {}
  [ r32 0x00 q.st.watchSel, r32 0x04 w.zero, r32 0x08 w.sat, r32 0x0C w.nonfin, r32 0x10 0,
    r32 0x14 (at1 0 q.st.ovf + atN 8 q.st.ovfHandle), r64 0x18 q.cnt.ovf.toNat ]

/-- Chain block (Table 7.9). -/
def chainBlock (s : State) (p : Nat) : List Reg :=
  let q := pipOf s p
  [ r32 0x00 (at1 0 q.chn.open_ + at1 1 q.chn.complete + at1 2 q.ops.drain.isSome + atN 3 q.st.chain + atN 7 q.st.check
      + at1 10 q.st.refused),
    r64 0x08 q.cnt.drain.toNat, r64 0x10 q.cnt.drainStall.toNat ]

/-- Ring block (Table 8.8). -/
def ringBlock (s : State) (p : Nat) : List Reg :=
  let q := pipOf s p
  [ r32 0x00 (at1 0 q.ops.ring.isSome + atN 1 q.st.rfn + atN 5 q.st.rslot + atN 9 q.st.waitq + at1 11 q.st.rsf + at1 12 q.st.descErr
      + atN 16 q.st.prime),
    r64 0x08 q.cnt.limb.toNat, r64 0x10 q.cnt.rwait.toNat, r64 0x18 q.cnt.sf.toNat ]

/-- Stream block (Table 10.6). -/
def strmBlock (s : State) (p : Nat) : List Reg :=
  let q := pipOf s p
  let busy := (List.range 4).foldl (fun n e => n + at1 e (Tab.get {} q.eng e).running) 0
  [ r32 0x00 (busy + at1 4 q.st.kopen + atN 8 q.st.errEng + atN 11 q.st.errCheck + at1 15 q.st.err + atN 16 q.st.errCode.toNat),
    r64 0x08 q.cnt.line.toNat, r64 0x10 q.cnt.fence.toNat, r64 0x18 q.cnt.mark.toNat, r64 0x20 q.cnt.put.toNat ]

/-- Residue block of a pod (Table 8.8). -/
def rcBlock (s : State) (d : Nat) : List Reg :=
  let v := podSt s d
  [ r32 0x00 (min 64 v.fwd.length + atN 7 (min 64 v.inv.length) + at1 14 v.mismatch + at1 15 v.unmatched + atN 16 v.failPrime
      + at1 23 v.failDir),
    r64 0x08 v.checkCnt.toNat, r64 0x10 v.failCnt.toNat ]

/-- Encrypted-object block of a pod (Table 9.11): the descriptor only for the creator of its owner (R248). -/
def ctBlock (s : State) (r : Reader) (d : Nat) : List Reg :=
  let v := podSt s d
  let use := (List.range 16).foldl (fun n i => n + at1 i (Tab.get {} v.psets i).used) 0
  let w := Tab.get 0 v.descs v.sel
  [ r32 0x00 (v.lastCode.toNat + atN 8 v.lastOpc.toNat + atN 16 use), r32 0x04 v.sel,
    r64 0x08 (if readerMade s r (cOwner w) then w.toNat else 0),
    r64 0x10 v.opsCnt.toNat, r64 0x18 v.pbsCnt.toNat, r64 0x20 v.refuseCnt.toNat, r64 0x28 v.keysetCnt.toNat ]

/-- Key block of a pod (Table 10.6). -/
def keyBlock (s : State) (d : Nat) : List Reg :=
  let v := podSt s d
  [ r32 0x00 (v.kstate + at1 2 v.klead + atN 8 (v.knext % 2 ^ 24)), r32 0x04 (v.kfail.toNat + atN 8 (v.kfailIndex % 2 ^ 24)),
    r64 0x08 v.kblkCnt.toNat, r64 0x10 v.kentCnt.toNat, r64 0x18 v.kdrainCnt.toNat ]

/-! ### Chapter 3: contexts -/

/-- MOD_CTX_STATUS STATE (Table 3.13). -/
def ctxState (s : State) (c : Nat) : Nat :=
  let x := ctxSt s c
  if !x.created then 0 else if x.part = 0 then 4 else if x.halted then 3
  else if s.cmds.any (fun k => k.ctx = c && k.waiting) then 2
  else if x.head ≠ x.tail || x.ahead ≠ [] || s.cmds.any (fun k => k.ctx = c) then 1 else 0

def grantVal (g : Grant) : Nat := g.grantee + at1 14 g.sig + at1 15 g.valid

/-- Context block (Table 3.12); a read of MOD_CTX_SYNC_VAL has more effects, which `readSyncVal` gives (R93, R105). -/
def ctxBlock (s : State) (c : Nat) : List Reg :=
  let x := ctxSt s c
  [ r32 0x00 0, r32 0x04 (x.head + atN 16 x.tail),
    r32 0x08 (ctxState s c + at1 3 x.dbErr + at1 4 x.syncErr + atN 8 x.lastCode.toNat + atN 16 x.haltTag), r32 0x0C 0,
    r64 0x10 x.qbase, r32 0x18 x.syncSel,
    r32 0x1C (if mayName s c x.syncSel false then (syncVal s x.syncSel).toNat else 0), r64 0x20 x.doneCnt.toNat ] ++
  (List.range 8).map fun n => r32 (0x30 + 4 * n) (grantVal (Tab.get {} x.grants n))

/-! ### Chapters 4, 10 and 17: the module -/

def partVal (p : PartSt) : Nat :=
  p.fx0 + atN 3 p.fx1 + atN 6 p.fy0 + atN 9 p.fy1 + at1 12 p.valid + at1 13 p.fenced + at1 14 p.hasPlan + atN 15 p.plog2

/-- Schedule and image block (Table 4.10). -/
def modBlock (s : State) : List Reg :=
  let m := s.mod
  let shown := if m.pending then m.pendMap else m.map
  [ r64 0x00 s.nvm.serial.toNat, r64 0x08 (repairFp s).toNat, r64 0x10 m.baseFp.toNat, r64 0x18 m.reserveFp.toNat,
    r64 0x20 (s.cycle / 4096), r64 0x28 m.imgAddr.toNat, r32 0x30 0,
    r32 0x34 (m.imgState + atN 8 m.imgCode.toNat + atN 16 m.nplan + at1 21 m.imgBase), r32 0x38 0,
    r32 0x3C (at1 0 m.pending + atN 1 m.pField + atN 7 m.pRow + atN 10 m.pCol + at1 15 m.pOos + atN 16 m.nPend),
    r64 0x40 m.shortDefer.toNat, r64 0x48 (if m.pending then (fingerprint m.pendMap).toNat else 0),
    r32 0x50 m.mapSel, r32 0x54 (field shown (4 * m.mapSel) 4) ] ++
  ((List.range 16).map fun n => r32 (0x100 + 4 * n) (partVal (partSt s n))) ++
  (List.range 16).map fun n => r64 (0x140 + 8 * n) (partSt s n).planFp.toNat

def bootBlock (s : State) : List Reg :=
  let b := s.boot
  let head (h : Nat) : Nat := atN (8 * h) ((headSt s h).width % 32) + atN (8 * h + 5) (headSt s h).rate
  [ r32 0x00 (b.stage + atN 3 b.cause + at1 7 b.fwSlot + at1 8 b.cfgDefault + at1 9 b.repairCopy),
    r64 0x08 ((List.range 64).foldl (fun n f => n + at1 f (b.excl.contains f)) 0), r64 0x10 b.time,
    r32 0x18 (head 0 + head 1 + head 2 + head 3) ]

/-- MOD_PART_FLTn (Table 17.12). -/
def partFlt (p : PartSt) : Nat :=
  (if p.fenced then 2 else if p.recovery = .open_ then 0 else 1) + atN 4 p.lastCode.toNat + atN 12 p.lastClass

def fltBlock (s : State) : List Reg :=
  [ r32 0x00 (at1 0 s.flt.mfenced + at1 1 s.flt.resetting + at1 2 s.flt.flt), r32 0x04 0, r64 0x08 s.flt.cnt.toNat,
    r64 0x10 s.flt.fenceCnt.toNat, r64 0x18 (fltLast s.flt), r64 0x20 s.flt.verifyFail.toNat ] ++
  ((List.range 16).map fun n => r64 (0x40 + 8 * n) (partSt s n).manifest.toNat) ++
  (List.range 16).map fun n => r32 (0xC0 + 4 * n) (partFlt (partSt s n))

/-! ### Chapters 11 to 13: stacks, links, channels -/

def hbmBlock (s : State) (k : Nat) : List Reg :=
  let v := stackSt s k
  [ r32 0x00 (v.state + at1 2 v.boot + at1 3 v.ue + at1 4 v.sfault + at1 5 v.hot + at1 6 v.granErr + atN 8 v.temp), r32 0x04 v.rint,
    r64 0x08 v.ce.toNat, r64 0x10 v.uec.toNat, r64 0x18 v.errAddr, r64 0x20 v.schedFault.toNat, r64 0x28 v.slipCnt.toNat,
    r64 0x30 v.idleCnt.toNat, r32 0x38 (at1 0 v.stErr + atN 8 v.stCode.toNat + atN 16 v.held.length), r32 0x3C v.ordSel,
    r32 0x40 (Tab.get 0 v.next v.ordSel).toNat, r64 0x48 v.opsCnt.toNat, r64 0x50 v.holdCnt.toNat ]

/-- A granule entry (Table 11.5). -/
def granVal (g : Granule) : Nat := g.prot + at1 2 g.share + atN 3 g.host + atN 7 g.ctx + at1 21 g.scrub

def lnkBlock (s : State) : List Reg :=
  let l := s.lnk
  [ r32 0x00 l.node, r32 0x04 (at1 0 l.joinEn + at1 1 l.ppsEn),
    r32 0x08 (l.sync + at1 2 l.anchor + at1 3 l.ppsLock + atN 4 (l.anchorId % 4096) + atN 16 (l.hops % 256) + at1 24 l.skew),
    r32 0x0C l.epoch.toNat, r64 0x10 (BitVec.ofInt 64 (instTime s)).toNat, r64 0x18 l.ppsTime.toNat ]

def linkBlock (s : State) (l : Nat) : List Reg :=
  let v := linkSt s l
  [ r32 0x00 (v.state + atN 3 v.mode + at1 5 v.wiring + at1 6 v.delayMis + at1 7 v.planMis + atN 8 v.lastCode.toNat
      + atN 16 (v.partner.node % 4096) + atN 28 (v.partner.k % 8) + at1 31 v.skew),
    r32 0x04 (v.meas % 65536 + atN 16 (if v.record = [] then 0 else lrDplan v.record)),
    r32 0x08 ((BitVec.ofInt 16 v.offset).toNat + atN 16 v.lenCm),
    r64 0x10 v.flit.toNat, r64 0x18 v.ce.toNat, r64 0x20 v.ue.toNat, r64 0x28 v.miss.toNat, r64 0x30 v.void.toNat,
    r64 0x38 v.hold.toNat, r64 0x40 v.down.toNat, r64 0x48 v.stale.toNat, r64 0x50 v.retrain.toNat, r64 0x58 v.msgRej.toNat,
    r64 0x60 v.defer_.toNat ]

def collBlock (s : State) (ch : Nat) : List Reg :=
  let c := chanSt s ch
  [ r32 0x00 (c.state + atN 2 c.fifo.length + atN 8 c.lastCode.toNat + atN 16 c.ctx + at1 30 c.aborted), r32 0x04 c.seq.toNat,
    r64 0x08 c.done.toNat, r64 0x10 c.txBytes.toNat, r64 0x18 c.rxBytes.toNat, r64 0x20 c.creditWait.toNat, r64 0x28 c.nonfin.toNat,
    r64 0x30 c.abortCnt.toNat ]

/-! ### Chapters 14 to 16 and 18 -/

def cxlBlock (s : State) : List Reg :=
  let c := s.cxl
  [ r32 0x00 (c.bifur + at1 2 c.mld + atN 3 c.nld), r32 0x04 (c.mgmtHost + at1 4 c.mgmtValid),
    r32 0x08 ((List.range 16).foldl (fun n h => n + at1 h (attached s h)) 0), r64 0x10 c.memRej.toNat, r64 0x18 c.memRejAddr,
    r64 0x20 c.ideFail.toNat, r64 0x28 c.depart.toNat ] ++
  (List.range 16).map fun n => r32 (0x40 + 4 * n) (partSt s n).hostMask

def pageVal (s : State) (p : Nat) : Nat := let e := Tab.get (0, false) s.cxl.pages p; e.1 + at1 4 e.2

def hostBlock (s : State) (h : Nat) : List Reg :=
  let v := hostSt s h
  [ r32 0x00 (v.state + at1 2 (isMgmt s h) + at1 3 (headSt s (headOfHost s h)).ide + at1 4 v.crErr + atN 8 v.crCode.toNat),
    r32 0x04 v.crCtx, r32 0x08 (v.crPart + atN 4 v.crJobq + atN 11 v.crVec), r32 0x0C 0, r64 0x10 v.crQbase.toNat,
    r32 0x18 (v.crSbase + atN 14 v.crScount), r64 0x20 (v.crKlo + atN 32 v.crKhi),
    r32 0x28 (s.ctxs.filter fun e => e.2.created && e.2.host = h).length ]

def hullBlock (s : State) (r : Reader) : List Reg :=
  let h := s.hull
  [ r32 0x00 (at1 0 h.pufOk + at1 1 h.idOk + at1 2 h.drbgOk + at1 3 (h.owner ≠ 0) + at1 4 (h.engA ≠ 0) + at1 5 (h.engB ≠ 0)),
    r64 0x08 (if readerMgmt s r then h.faultCnt.toNat else 0), r64 0x10 h.jobCnt.toNat, r64 0x18 h.reseedCnt.toNat ] ++
  (span 2 15).map fun c => r32 (0x40 + 4 * c) ((hchan s c).owner + at1 4 (hchan s c).ownerValid)

def hullStateNum : HullState → Nat
  | .idle => 0 | .load => 1 | .wait => 2 | .exec => 3 | .store => 4 | .wipe => 5

/-- The reader sees a channel's block (R392). -/
def seesChan (s : State) (r : Reader) (c : Nat) : Bool :=
  readerMgmt s r || (!isHusk c && (hchan s c).ownerValid && readerIs r (hchan s c).owner)

def hchanBlock (s : State) (c : Nat) : List Reg :=
  let v := hchan s c
  [ r32 0x00 (hullStateNum v.state + at1 3 v.curve.isSome + at1 4 v.startErr + atN 8 v.code.toNat), r32 0x04 0, r64 0x08 v.job.toNat,
    r32 0x10 v.exec, r64 0x18 v.doneCnt.toNat, r64 0x20 v.failCnt.toNat ]

def pwrBlock (s : State) : List Reg :=
  let p := s.pwr
  [ r32 0x00 ((match p.mstate with | .entering => 1 | _ => 0) + at1 2 p.pexc + at1 3 p.texc + at1 4 p.vinFault + at1 5 p.stbyErr), r32 0x04 0,
    r32 0x08 p.wakeEn.toNat, r32 0x0C p.wakeSrc.toNat, r32 0x10 p.timer.toNat, r32 0x14 (p.vin % 65536 + atN 16 p.pin),
    r64 0x18 p.nackCnt.toNat, r64 0x20 p.excCnt.toNat,
    r32 0x28 (at1 0 p.refOk + at1 1 p.synLock + at1 2 p.hbmLock + at1 3 p.holdover), r32 0x2C p.steer.toNat, r64 0x30 p.cdcCnt.toNat ]

def fldBlock (s : State) (f : Nat) : List Reg :=
  let v := fieldSt s f
  [ r32 0x00 (fstateNum v.state + at1 2 v.pending + at1 3 (v.trans ≠ .none) + at1 4 v.railOn + at1 5 v.vrFault + at1 6 v.hot
      + atN 8 v.temp + atN 16 v.vset),
    r32 0x04 (v.rest + atN 2 v.idle), r32 0x08 (v.vrun + atN 12 v.vmin + at1 24 v.marginLow),
    r64 0x10 v.wakeCnt.toNat, r64 0x18 v.nackCnt.toNat, r64 0x20 v.cdcCnt.toNat, r64 0x28 v.monCnt.toNat ]

def trcBlock (s : State) : List Reg :=
  let t := s.trc
  [ r32 0x00 (t.en.toNat + at1 5 t.portEn), r32 0x04 (at1 0 t.lost), r32 0x08 t.stallMin, r32 0x0C t.period, r64 0x10 t.recCnt.toNat,
    r64 0x18 t.dropCnt.toNat, r64 0x20 t.frameCnt.toNat ] ++
  (List.range 16).map fun i => let e := Tab.get (0, false) t.snaps i; r32 (0x40 + 4 * i) (e.1 + at1 31 e.2)

def mgtBlock (s : State) : List Reg :=
  let m := s.mgt
  [ r32 0x00 (at1 0 m.daValid + atN 1 m.da + at1 8 (m.events ≠ []) + at1 9 m.testEn + at1 10 m.updating), r64 0x08 m.updCnt.toNat,
    r64 0x10 m.cmdCnt.toNat ]

/-! ### The register at an offset -/

/-- The block an offset lies in: where it starts, and its registers as the reader sees them. -/
def blockAt (s : State) (r : Reader) (o : Nat) : Nat × List Reg :=
  let arr (base n step : Nat) : Option Nat := if base ≤ o ∧ o < base + n * step then some ((o - base) / step) else none
  let own (b : Bool) (l : List Reg) : List Reg := if b then l else []
  if 0x2000 ≤ o ∧ o < 0x21C0 then (0x2000, modBlock s)
  else if o / 4 = 0xC00 then (0x3000, [r32 0 (b2n s.mod.agDis)])
  else if 0x4000 ≤ o ∧ o < 0x4100 then (0x4000, bootBlock s)
  else if 0x4100 ≤ o ∧ o < 0x4200 then (0x4100, fltBlock s)
  else if let some h := arr 0x800000 16 0x100 then (0x800000 + h * 0x100, own (readerIs r h || readerMgmt s r) (hostBlock s h))
  else if 0x810000 ≤ o ∧ o < 0x810100 then (0x810000, cxlBlock s)
  else if let some p := arr 0x820000 640 4 then (0x820000 + 4 * p, [r32 0 (pageVal s p)])
  else if 0x900000 ≤ o ∧ o < 0x900100 then (0x900000, hullBlock s r)
  else if let some c := arr 0x901000 16 0x100 then (0x901000 + c * 0x100, own (seesChan s r c) (hchanBlock s c))
  else if 0xA00000 ≤ o ∧ o < 0xA00100 then (0xA00000, pwrBlock s)
  else if let some f := arr 0xA10000 64 0x100 then (0xA10000 + f * 0x100, fldBlock s f)
  else if 0xB00000 ≤ o ∧ o < 0xB00100 then (0xB00000, trcBlock s)
  else if 0xB10000 ≤ o ∧ o < 0xB10100 then (0xB10000, mgtBlock s)
  else if let some c := arr 0x1000000 10240 0x100 then
    (0x1000000 + c * 0x100, own (match r with | some h => ownsPage s (.host h) c | none => false) (ctxBlock s c))
  else if let some k := arr 0x1400000 12 0x100 then (0x1400000 + k * 0x100, hbmBlock s k)
  else if let some g := arr 0x1410000 768 4 then (0x1410000 + 4 * g, [r32 0 (granVal (granSt s false g))])
  else if let some g := arr 0x1411000 768 4 then (0x1411000 + 4 * g, [r32 0 (granVal (granSt s true g))])
  else if 0x1500000 ≤ o ∧ o < 0x1500100 then (0x1500000, lnkBlock s)
  else if let some l := arr 0x1501000 36 0x100 then (0x1501000 + l * 0x100, linkBlock s l)
  else if let some c := arr 0x1510000 16 0x100 then (0x1510000 + c * 0x100, collBlock s c)
  else if let some p := arr 0x2000000 10240 0x100 then (0x2000000 + p * 0x100, pipBlock s p)
  else if let some p := arr 0x2800000 10240 0x100 then (0x2800000 + p * 0x100, ringBlock s p)
  else if let some d := arr 0x2C00000 640 0x40 then (0x2C00000 + d * 0x40, rcBlock s d)
  else if let some d := arr 0x2D00000 640 0x40 then (0x2D00000 + d * 0x40, ctBlock s r d)
  else if let some d := arr 0x2E00000 640 0x40 then (0x2E00000 + d * 0x40, keyBlock s d)
  else if let some p := arr 0x3000000 10240 0x100 then (0x3000000 + p * 0x100, spBlock s p)
  else if let some p := arr 0x3400000 10240 0x100 then (0x3400000 + p * 0x100, numBlock s r p)
  else if let some p := arr 0x3800000 10240 0x100 then (0x3800000 + p * 0x100, chainBlock s p)
  else if let some p := arr 0x3C00000 10240 0x100 then (0x3C00000 + p * 0x100, strmBlock s p)
  else (o, [])

/-- The register that holds the aligned offset: its own offset, width and value. -/
def regAt (s : State) (r : Reader) (o : Nat) : Option Reg :=
  let b := blockAt s r o
  match b.2.find? (fun e => decide (b.1 + e.1 ≤ o) && decide (o < b.1 + e.1 + e.2.1)) with
  | some e => some (b.1 + e.1, e.2.1, e.2.2)
  | none => none

/-- A read of 32 bits: a RES offset, or a block the reader does not see, reads 0 (R8, R11, R355). [DEDUCED, log 44] -/
def read32 (s : State) (r : Reader) (o : Nat) : Nat :=
  if o % 4 ≠ 0 then 0
  else match regAt s r o with
    | some e => if o = e.1 then e.2.2 % 2 ^ 32 else e.2.2 / 2 ^ 32
    | none => 0

/-- The offset is the low half of a 64-bit register; the high half. -/
def isLow (s : State) (r : Reader) (o : Nat) : Bool := match regAt s r o with | some e => e.2.1 = 8 && e.1 = o | none => false
def isHigh (s : State) (r : Reader) (o : Nat) : Bool := match regAt s r o with | some e => e.2.1 = 8 && e.1 + 4 = o | none => false

/-- The value of a 64-bit read: a 64-bit register whole, or two registers of 32 bits (R8, R9). -/
def read64 (s : State) (r : Reader) (o : Nat) : Nat := read32 s r o + 2 ^ 32 * read32 s r (o + 4)

/-- The value of the register at an offset, whole where the offset is the low half of a 64-bit register. -/
def readReg (s : State) (r : Reader) (o : Nat) : Nat := if isLow s r o then read64 s r o else read32 s r o

/-- An aligned 32-bit read at `off`: the low half of a 64-bit register latches the high half for that host, and a read of a high half that
it has latched returns the latch (R9). The latch holds the value plus 1, so that a latched 0 is held too. -/
def readHalf (s : State) (h off : Nat) : State :=
  let key := h * 2 ^ 26 + off
  let v := read32 s (some h) off
  if isLow s (some h) off then
    let hi := read32 s (some h) (off + 4)
    send { s with latch := Tab.set 0 s.latch (key + 4) (BitVec.ofNat 33 (hi + 1)) } (.regData h off v)
  else if isHigh s (some h) off then
    let held := (Tab.get 0 s.latch key).toNat
    send s (.regData h off (if held = 0 then v else held - 1))
  else send s (.regData h off v)

/-- The context whose MOD_CTX_SYNC_VAL lies at the offset. -/
def syncValAt (off : Nat) : Option Nat :=
  if 0x1000000 ≤ off && decide (off < 0x1000000 + 10240 * 0x100) && off % 0x100 = 0x1C then some ((off - 0x1000000) / 0x100) else none

/-- COUNTER_LOW_READ (R8, R9, R105): a read by the host. Other than an aligned one of 32 or 64 bits returns 0. -/
def execCounterLowRead (h : Nat) (r : ReadAt) (s : State) : Host.Outcome State Fault Refusal :=
  within 16 h (
    if !attached s h ∨ 2 ^ 26 ≤ r.off then s
    else if r.width = 8 ∧ r.off % 8 = 0 then send s (.regData h r.off (read64 s (some h) r.off))
    else if r.width = 4 ∧ r.off % 4 = 0 then
      match syncValAt r.off with
      | some c => readSyncVal s h c
      | none => readHalf s h r.off
    else send s (.regData h r.off 0))

end Sys2Proof.Machine
end

