-- ==== Sys2Proof/Machine/Trace.lean ====
section
/-!
DEFINITION. Writes of registers (R8, R11, R355) and the trace path: mesh flits, sink, frames, snapshots (R445 to R447).
-/
namespace Sys2Proof.Machine

/-! ### Register writes -/

/-- The state after a command that is one register write. -/
def after (s : State) (o : Host.Outcome State Fault Refusal) : State := match o with | .next t => t | _ => s

/-- A host that is the management host, or whose bit is in the mask of an open partition, writes a manifest (R433). -/
def manifestWriter (s : State) (w : Writer) (n : Nat) : Bool :=
  match w with
  | .acorn => false
  | .host h => isMgmt s h ||
      (bit (partSt s n).hostMask h && (partSt s n).recovery = .open_ && !(partSt s n).fenced)

/-- The writer is host `h`. -/
def writerIs (w : Writer) (h : Nat) : Bool := match w with | .host k => k = h | .acorn => false

/-- Writes of a module register of 32 bits below 0x5000 (Tables 4.11, 10.9, 17.12). -/
def writeMod (w : Writer) (o v : Nat) (s : State) : State :=
  match o with
  | 0x2030 => if bit v 0 then after s (execAdmitImage w s) else s
  | 0x2038 => if bit v 0 then after s (execApplyRepair w s) else s
  | 0x2050 => { s with mod := { s.mod with mapSel := bits v 6 0 } }
  | 0x3000 => if priv s w then { s with mod := { s.mod with agDis := bit v 0 } } else s
  | 0x4100 => if bit v 2 then { s with flt := { s.flt with flt := false } } else s
  | 0x4104 =>
    let s := if bit v 0 then after s (execPartReset w (bits v 4 1) s) else s
    if bit v 5 then after s (execModReset w s) else s
  | _ => if 0x2100 ≤ o ∧ o < 0x2140 then after s (execModPart w ((o - 0x2100) / 4) v s) else s

/-- Writes of a host block (Table 14.7). -/
def writeHost (w : Writer) (h o v : Nat) (s : State) : State :=
  if !writerIs w h then s
  else
    match o with
    | 0x00 => if bit v 4 then modHost s h fun x => { x with crErr := false } else s
    | 0x04 => modHost s h fun x => { x with crCtx := bits v 13 0 }
    | 0x08 => modHost s h fun x => { x with crPart := bits v 3 0, crJobq := bits v 10 4, crVec := bits v 16 11 }
    | 0x0C =>
      match bits v 2 0 with
      | 0 => s
      | 1 => after s (execCreate h s)
      | 2 => after s (execDestroy h s)
      | 4 => after s (execRebind h s)
      | _ => crResult s h eDesc
    | 0x18 => modHost s h fun x => { x with crSbase := bits v 13 0, crScount := bits v 28 14 }
    | _ => s

/-- Writes of a hull channel block (Table 15.11). -/
def writeHull (w : Writer) (c o v : Nat) (s : State) : State :=
  match o with
  | 0x00 => if bit v 4 ∧ hullWriter s w c then modHchan s c fun x => { x with startErr := false } else s
  | 0x04 =>
    let s := if bit v 1 then after s (execClrcurve w c s) else s
    if bit v 0 then after s (startHull hullOps w c s) else s
  | _ => s

/-- Writes of the module power block (Table 16.12). -/
def writePwr (w : Writer) (o v : Nat) (s : State) : State :=
  let p := s.pwr
  match o with
  | 0x00 => { s with pwr := { p with pexc := p.pexc && !bit v 2, texc := p.texc && !bit v 3, vinFault := p.vinFault && !bit v 4,
                                     stbyErr := p.stbyErr && !bit v 5 } }
  | 0x04 => if bit v 0 then after s (execStandby w s) else s
  | 0x08 => if priv s w then { s with pwr := { p with wakeEn := BitVec.ofNat 5 v } } else s
  | 0x0C => { s with pwr := { p with wakeSrc := p.wakeSrc &&& ~~~(BitVec.ofNat 5 v) } }
  | 0x10 => if priv s w then { s with pwr := { p with timer := BitVec.ofNat 32 v } } else s
  | 0x28 => { s with pwr := { p with holdover := p.holdover && !bit v 3 } }
  | _ => s

/-- Writes of the trace block (Table 18.9). The OFFSET of a TRC_SNAP_ADDRi is kept as the multiple of 4 at or below what is written.
[DESIGN CHOICE, log 43: the spec gives only that OFFSET is a multiple of 4] -/
def writeTrc (w : Writer) (o v : Nat) (s : State) : State :=
  let t := s.trc
  if !priv s w then s
  else
    match o with
    | 0x00 => wakeFloor { s with trc := { t with en := BitVec.ofNat 5 v, portEn := bit v 5 } }
    | 0x04 => { s with trc := { t with lost := t.lost && !bit v 0 } }
    | 0x08 => if bits v 19 0 = 0 then s else { s with trc := { t with stallMin := bits v 19 0 } }
    | 0x0C => { s with trc := { t with period := bits v 15 0 } }
    | _ =>
      if 0x40 ≤ o ∧ o < 0x80 then
        { s with trc := { t with snaps := Tab.set (0, false) t.snaps ((o - 0x40) / 4) (bits v 25 0 / 4 * 4, bit v 31) } }
      else s

/-- Writes of a context block (Table 3.13). -/
def writeCtx (w : Writer) (c o v : Nat) (s : State) : State :=
  if !ownsPage s w c then s
  else
    match o with
    | 0x00 => after s (execDoorbell w c (bits v 15 0) s)
    | 0x08 => modCtx s c fun x => { x with dbErr := x.dbErr && !bit v 3, syncErr := x.syncErr && !bit v 4 }
    | 0x0C => if bit v 1 then after s (execFlush w c s) else if bit v 0 then after s (execResume w c s) else s
    | 0x18 => modCtx s c fun x => { x with syncSel := bits v 13 0 }
    | _ => if 0x30 ≤ o ∧ o < 0x50 then after s (execModCtxGrant w c ((o - 0x30) / 4) v s) else s

/-- Writes of the link blocks (Tables 12.11, 12.13). -/
def writeLnk (w : Writer) (o v : Nat) (s : State) : State :=
  match o with
  | 0x00 => if priv s w ∧ s.lnk.sync ≠ 2 then { s with lnk := { s.lnk with node := bits v 23 0 } } else s
  | 0x04 =>
    let s := after s (execPpsEn w (bit v 1) (after s (execJoinEn w (bit v 0) s)))
    let s := if bit v 2 then after s (execDepart w s) else s
    if bit v 3 then after s (execWakePattern w s) else s
  | 0x08 => { s with lnk := { s.lnk with skew := s.lnk.skew && !bit v 24 } }
  | _ => s

/-- Writes of a stack block (Table 11.8). -/
def writeHbm (k o v : Nat) (s : State) : State :=
  match o with
  | 0x00 => modStack s k fun x => { x with ue := x.ue && !bit v 3, sfault := x.sfault && !bit v 4, granErr := x.granErr && !bit v 6 }
  | 0x38 => modStack s k fun x => { x with stErr := x.stErr && !bit v 0 }
  | 0x3C => modStack s k fun x => { x with ordSel := bits v 7 0 }
  | _ => s

/-- Status bits of pips that a written 1 clears, and the watch selector; `b` is the block: 0x20 control to 0x3C streams. -/
def writePip (w : Writer) (b p o v : Nat) (s : State) : State :=
  let st (f : PipStat → PipStat) : State := modPip s p fun q => { q with st := f q.st }
  match b, o with
  | 0x28, 0x00 => st fun t => { t with descErr := t.descErr && !bit v 12 }
  | 0x30, 0x80 => st fun t => { t with regErr := t.regErr && !bit v 0, ue := t.ue && !bit v 2 }
  | 0x34, 0x00 => st fun t => { t with watchSel := bits v 7 0 }
  | 0x34, 0x10 => if bit v 0 then after s (execClr w p s) else s
  | 0x34, 0x14 => st fun t => { t with ovf := t.ovf && !bit v 0 }
  | 0x38, 0x00 => st fun t => { t with refused := t.refused && !bit v 10 }
  | 0x3C, 0x00 => st fun t => { t with err := t.err && !bit v 15 }
  | _, _ => s

/-- A write of 32 bits to a register that is not half of a 64-bit RW register. [DEDUCED, log 44] -/
def write32 (w : Writer) (o v : Nat) (s : State) : State :=
  let arr (base n step : Nat) : Option Nat := if base ≤ o ∧ o < base + n * step then some ((o - base) / step) else none
  if o < 0x5000 then writeMod w o v s
  else if let some h := arr 0x800000 16 0x100 then writeHost w h (o % 0x100) v s
  else if o = 0x810004 then after s (execCxlMgmt w v s)
  else if 0x810040 ≤ o ∧ o < 0x810080 then
    if mgmtOnly s w then modPart s ((o - 0x810040) / 4) fun p => { p with hostMask := bits v 15 0 } else s
  else if let some p := arr 0x820000 640 4 then after s (execCxlCtxpage w p v s)
  else if 0x900048 ≤ o ∧ o < 0x900080 then after s (execHullChanOwner w ((o - 0x900040) / 4) v s)
  else if let some c := arr 0x901000 16 0x100 then writeHull w c (o % 0x100) v s
  else if 0xA00000 ≤ o ∧ o < 0xA00100 then writePwr w (o % 0x100) v s
  else if let some f := arr 0xA10000 64 0x100 then
    match o % 0x100 with
    | 0x00 => if bit v 5 then modField s f fun x => { x with vrFault := false } else s
    | 0x04 => after s (execFldPwrCtrl w f v s)
    | _ => s
  else if 0xB00000 ≤ o ∧ o < 0xB00100 then writeTrc w (o % 0x100) v s
  else if let some c := arr 0x1000000 10240 0x100 then writeCtx w c (o % 0x100) v s
  else if let some k := arr 0x1400000 12 0x100 then writeHbm k (o % 0x100) v s
  else if let some g := arr 0x1410000 768 4 then after s (execHbmGran w g v s)
  else if let some g := arr 0x1411000 768 4 then after s (execHbmSgran w g v s)
  else if 0x1500000 ≤ o ∧ o < 0x1500100 then writeLnk w (o % 0x100) v s
  else if let some l := arr 0x1501000 36 0x100 then
    if o % 0x100 = 0 then
      modLink s l fun x => { x with wiring := x.wiring && !bit v 5, delayMis := x.delayMis && !bit v 6, planMis := x.planMis && !bit v 7
                                    skew := x.skew && !bit v 31 }
    else s
  else if let some c := arr 0x1510000 16 0x100 then
    if o % 0x100 = 0 ∧ bit v 30 then modChan s c fun x => { x with aborted := false } else s
  else if let some d := arr 0x2C00000 640 0x40 then
    if o % 0x40 = 0 then modPod s d fun x => { x with mismatch := x.mismatch && !bit v 14, unmatched := x.unmatched && !bit v 15 } else s
  else if let some d := arr 0x2D00000 640 0x40 then
    if o % 0x40 = 4 then modPod s d fun x => { x with sel := bits v 9 0 } else s
  else if let some d := arr 0x2E00000 640 0x40 then
    if o % 0x40 = 4 then modPod s d fun x => { x with kfail := x.kfail &&& ~~~(BitVec.ofNat 8 v) } else s
  else if 0x2000000 ≤ o ∧ o < 0x4000000 ∧ o % 0x400000 < 10240 * 0x100 then
    writePip w (o / 0x100000 / 4 * 4) (o % 0x400000 / 0x100) (o % 0x100) v s
  else s

/-- Start of the 64-bit register that host software writes at an offset (MOD_IMG_ADDR, MOD_PART_MANIFESTn, CXL_CR_QBASE,
CXL_CR_KEYSET, HULL_CH_JOB, PIP_REGIONn), with its value. [DEDUCED, log 44] -/
def wide (s : State) (o : Nat) : Option (Nat × Nat) :=
  let b := o / 8 * 8
  let arr (base n step : Nat) : Option Nat := if base ≤ o ∧ o < base + n * step then some ((o - base) / step) else none
  if b = 0x2028 then some (b, s.mod.imgAddr.toNat)
  else if 0x4140 ≤ b ∧ b < 0x41C0 then some (b, (partSt s ((b - 0x4140) / 8)).manifest.toNat)
  else if let some h := arr 0x800000 16 0x100 then
    match b % 0x100 with
    | 0x10 => some (b, (hostSt s h).crQbase.toNat)
    | 0x20 => some (b, (hostSt s h).crKlo + atN 32 (hostSt s h).crKhi)
    | _ => none
  else if let some c := arr 0x901000 16 0x100 then if b % 0x100 = 8 then some (b, (hchan s c).job.toNat) else none
  else if let some p := arr 0x3000000 10240 0x100 then
    if b % 0x100 < 0x80 then some (b, regionVal (Tab.get {} (pipOf s p).sp.regions (b % 0x100 / 8))) else none
  else none

/-- A write of a whole 64-bit register. [DEDUCED, log 44] -/
def write64 (w : Writer) (b v : Nat) (s : State) : State :=
  let arr (base n step : Nat) : Option Nat := if base ≤ b ∧ b < base + n * step then some ((b - base) / step) else none
  if b = 0x2028 then { s with mod := { s.mod with imgAddr := BitVec.ofNat 64 v } }
  else if 0x4140 ≤ b ∧ b < 0x41C0 then
    if manifestWriter s w ((b - 0x4140) / 8) then modPart s ((b - 0x4140) / 8) fun p => { p with manifest := BitVec.ofNat 64 v } else s
  else if let some h := arr 0x800000 16 0x100 then
    if !writerIs w h then s
    else if b % 0x100 = 0x10 then modHost s h fun x => { x with crQbase := BitVec.ofNat 64 v }
    else modHost s h fun x => { x with crKlo := bits v 31 0, crKhi := bits v 63 32 }
  else if let some c := arr 0x901000 16 0x100 then
    if hullWriter s w c then modHchan s c fun x => { x with job := BitVec.ofNat 64 v } else s
  else after s (execPipRegion w ((b - 0x3000000) / 0x100) (b % 0x100 / 8) v s)

/-- The writer reaches BAR0: the acorn, or an attached host. -/
def reaches (s : State) (w : Writer) : Bool := match w with | .acorn => true | .host h => attached s h

/-- An aligned write of 32 bits; a half of a 64-bit register leaves the other half. -/
def writeHalf (w : Writer) (o v : Nat) (s : State) : State :=
  match wide s o with
  | some (b, old) =>
    write64 w b (if o = b then old / 2 ^ 32 * 2 ^ 32 + v % 2 ^ 32 else old % 2 ^ 32 + v % 2 ^ 32 * 2 ^ 32) s
  | none => write32 w o v s

/-- REGISTER_WRITE (R8, R11): an aligned write of 32 or 64 bits; any other access is ignored. -/
def execRegisterWrite (w : Writer) (off len v : Nat) (s : State) : Host.Outcome State Fault Refusal :=
  .next (
    if !reaches s w ∨ 2 ^ 26 ≤ off ∨ off % len ≠ 0 then s
    else if len = 4 then writeHalf w off v s
    else if len = 8 then
      if (wide s off).isSome then write64 w off (v % 2 ^ 64) s
      else write32 w (off + 4) (v / 2 ^ 32 % 2 ^ 32) (write32 w off (v % 2 ^ 32) s)
    else s)

/-! ### The trace path (R446) -/

/-- Output of the first hop, and the column where a flit turns north. [DEDUCED, log 43] -/
def traceCol (p : Nat) : Nat := 96 + pipX p % 32
def traceOut (p : Nat) : Nat := if pipX p < traceCol p then 1 else if pipX p > traceCol p then 3 else 0

/-- Fields along the row to the column; along the column to row 0. [DEDUCED, log 43] -/
def traceRow (p : Nat) : List Nat :=
  (span (min (pipX p) (traceCol p) / 20) (max (pipX p) (traceCol p) / 20)).map (pipY p / 8 * 8 + ·)
def traceUp (p : Nat) : List Nat := (span 0 (pipY p / 8)).map (· * 8 + pipX p / 20)

/-- Records of a flit are dropped in cycle `now`. -/
def dropRecs (now : Nat) (t : TraceSt) (rs : List TraceRec) : TraceSt := rs.foldl (fun t r => dropRecord now t (r.kind, r.index)) t

/-- Records the sink's buffer of 1 MiB holds. -/
def sinkSize : Nat := 43690

/-- A record reaches the sink in cycle `now` (R446, R447). [DEDUCED, log 43] -/
def toSink (now : Nat) (t : TraceSt) (r : TraceRec) : TraceSt :=
  if !t.portEn ∨ sinkSize ≤ t.sink.length then dropRecord now t (r.kind, r.index)
  else { t with sink := t.sink ++ [r], recCnt := bump t.recCnt 1 }

/-- Number of the sink among the places a trace flit travels to. -/
def sinkPlace : Nat := 10240

/-- A flit sets out for a place that it reaches in cycle `due`. -/
def traceTo (s : State) (place due : Nat) (f : TraceFlit) : State :=
  { s with trc := { s.trc with way := s.trc.way ++ [(place, { f with due := due })] } }

/-- A flit goes north from a router: towards the sink behind pip (c, 0), or dropped at a field held in F3 (R446). -/
def goNorth (s : State) (p : Nat) (f : TraceFlit) : State :=
  if (traceUp p).any fun g => (fieldSt s g).state = .f3 then { s with trc := dropRecs s.cycle s.trc f.recs }
  else traceTo s sinkPlace (s.cycle + legCycles s.mod.map 0 (pipY p) p + 1) f

/-- A flit goes along its row to the relay of the pip at its column, or is dropped at a field held in F3 (R446). -/
def goAlong (s : State) (p : Nat) (f : TraceFlit) : State :=
  let hops := max (pipX p) (traceCol p) - min (pipX p) (traceCol p)
  if (traceRow p).any fun g => (fieldSt s g).state = .f3 then { s with trc := dropRecs s.cycle s.trc f.recs }
  else traceTo s (pipAt (traceCol p) (pipY p)) (s.cycle + legCycles s.mod.map (traceOut p) hops p) f

/-- A flit arrives at a relay of 4 flits or at the sink. -/
def traceLand (s : State) (e : Nat × TraceFlit) : State :=
  let q := Tab.get [] s.trc.relay e.1
  if e.1 = sinkPlace then { s with trc := e.2.recs.foldl (toSink s.cycle) s.trc }
  else if 4 ≤ q.length then { s with trc := dropRecs s.cycle s.trc e.2.recs }
  else { s with trc := { s.trc with relay := Tab.set [] s.trc.relay e.1 (q ++ [e.2]) } }

/-- What has come to its place arrives. -/
def landTraces (s : State) : State :=
  let came (e : Nat × TraceFlit) : Bool := decide (e.2.due ≤ s.cycle)
  forAll (s.trc.way.filter came) (fun e s => traceLand s e) { s with trc := { s.trc with way := s.trc.way.filter fun e => !came e } }

/-- TRACE_FLIT_SEND (R446): at a trace position of the flit's first output. -/
def execTraceFlitSend (p : Nat) (s : State) : Host.Outcome State Fault Refusal :=
  within 10240 p (
    match Tab.get [] s.trc.egress p with
    | [] => s
    | f :: rest =>
      if !tracePos s.mod.map p (traceOut p) (s.cycle % 4096) then s
      else
        let s := { s with trc := { s.trc with egress := Tab.set [] s.trc.egress p rest } }
        if traceOut p = 0 then goNorth s p f else goAlong s p f)

/-- TRACE_RELAY (R446): at the next trace position of the router's N output, after the flit has come. -/
def execTraceRelay (p : Nat) (s : State) : Host.Outcome State Fault Refusal :=
  within 10240 p (
    let s := landTraces s
    match Tab.get [] s.trc.relay p with
    | [] => s
    | f :: rest =>
      if s.cycle ≤ f.due ∨ !tracePos s.mod.map p 0 (s.cycle % 4096) then s
      else goNorth { s with trc := { s.trc with relay := Tab.set [] s.trc.relay p rest } } p f)

/-- A record as bytes (Table 18.2). -/
def recBytes (r : TraceRec) : List Byte :=
  toBytes 8 r.time ++ toBytes 1 (r.type % 16 + at1 7 r.lost) ++ [r.code] ++ toBytes 2 (r.kind % 4 + atN 2 r.index) ++ toBytes 4 r.arg0
    ++ toBytes 8 r.arg1

/-- A frame (Table 18.4). -/
def frameBytes (seq node : Nat) (rs : List TraceRec) : List Byte :=
  let body := toBytes 4 0x54525153 ++ toBytes 4 seq ++ toBytes 1 rs.length ++ [0] ++ toBytes 2 (node % 4096) ++ List.replicate 4 0
    ++ rs.flatMap recBytes ++ List.replicate (480 - 24 * rs.length) 0
  body ++ toBytes 4 (crc32c body).toNat ++ List.replicate 12 0

/-- TRACE_FRAME (R447): the sink takes what its queue holds, and the port sends up to 20 records. [DEDUCED, log 43] -/
def execTraceFrame (s : State) : Host.Outcome State Fault Refusal :=
  .next (
    let t := s.trc.queue.foldl (toSink s.cycle) { s.trc with queue := [] }
    let rs := t.sink.take 20
    let t' := { t with sink := t.sink.drop 20, seq := (t.seq + 1) % 2 ^ 32, frameCnt := bump t.frameCnt 1 }
    send { s with trc := t' } (.traceFrame (frameBytes t.seq s.lnk.node rs)))

/-- A SNAPSHOT record of one listed register (R444, R445). [DEDUCED, log 43: a register of 64 bits whole] -/
def snapRecord (i : Nat) (s : State) : State :=
  let e := Tab.get (0, false) s.trc.snaps i
  if e.2 then fabricRecord s { type := 4, kind := 3, arg0 := e.1, arg1 := readReg s none e.1 } else s

/-- SNAPSHOT (R444): SNAP_PERIOD frames after the last. -/
def execSnapshot (s : State) : Host.Outcome State Fault Refusal :=
  .next (
    let frame := s.cycle / 4096
    if s.trc.period = 0 ∨ frame < s.trc.lastSnap + s.trc.period then s
    else forAll (List.range 16) snapRecord { s with trc := { s.trc with lastSnap := frame } })

end Sys2Proof.Machine
end

