-- ==== Sys2Proof/Machine/Mgmt.lean ====
section
/-!
DEFINITION. Management over I3C (R448, R449), firmware update (R450), the test port (R451).
-/
namespace Sys2Proof.Machine

/-- The husk has power: the acorn and the TAP answer (R448, R451). -/
def huskOn (s : State) : Bool := s.pwr.mstate ≠ .m2

/-- PLDM completion codes: success, invalid data, not ready. [PRESUMED, log 42] -/
def pldmOk : Nat := 0
/-- [PRESUMED, log 42] -/
def pldmInvalid : Nat := 2
/-- [PRESUMED, log 42] -/
def pldmNotReady : Nat := 4

/-- A PLDM command is answered and counted. -/
def pldmReply (s : State) (type cmd code : Nat) (bs : List Byte) : State :=
  send { s with mgt := { s.mgt with cmdCnt := bump s.mgt.cmdCnt 1 } } (.pldm type cmd code bs)

/-- DYNAMIC_ADDRESS (R448). -/
def execDynamicAddress (da : Nat) (s : State) : Host.Outcome State Fault Refusal :=
  .next (if huskOn s then { s with mgt := { s.mgt with daValid := true, da := da % 128 } } else s)

/-- PLDM_BASE (R448): its data are those of the PLDM standard. -/
def execPldmBase (cmd : Nat) (s : State) : Host.Outcome State Fault Refusal :=
  .next (
    if huskOn s then pldmReply { s with free := s.free + 1 } 0 cmd pldmOk (Config.response (256 + cmd % 256) s.free) else s)

/-- Reading of a sensor (Table 18.5). -/
def sensorValue (s : State) (id : Nat) : Option Nat :=
  match id with
  | 1 => some s.pwr.vin
  | 2 => some s.pwr.pin
  | 3 => some (hottestField s)
  | 4 => some (hottestStack s)
  | 5 => some (s.boot.stage + 8 * s.boot.cause)
  | 6 => some (b2n s.hull.pufOk + 2 * b2n s.hull.idOk + 4 * b2n s.hull.drbgOk + 8 * b2n (s.hull.owner ≠ 0))
  | 7 => some (256 * b2n s.flt.mfenced + ((List.range 16).filter fun n => (partSt s n).fenced).length)
  | _ => none

/-- PLDM_SENSOR_READ (R448). [PRESUMED, log 42] -/
def execPldmSensorRead (id : Nat) (s : State) : Host.Outcome State Fault Refusal :=
  .next (
    if !huskOn s then s
    else match sensorValue s id with
      | some v => pldmReply s 2 0x11 pldmOk (toBytes 4 v)
      | none => pldmReply s 2 0x11 pldmInvalid [])

/-! ### OEM commands (Table 18.6) -/

/-- An OEM command: its effect where its condition holds, else ERROR_NOT_READY and no change (R449). -/
def oem (code : Nat) (ok : Bool) (f : State → State) (s : State) : Host.Outcome State Fault Refusal :=
  .next (if !huskOn s then s else if ok then pldmReply (f s) 0x3F code pldmOk [] else pldmReply s 0x3F code pldmNotReady [])

/-- SET_MGMT (R356, R449). -/
def execSetMgmt (v : Nat) (s : State) : Host.Outcome State Fault Refusal :=
  oem 1 (s.pwr.mstate = .m0 && s.boot.stage = 5) (fun s => setMgmt s v) s
/-- OEM_PART_RESET (R440, R449). -/
def execOemPartReset (n : Nat) (s : State) : Host.Outcome State Fault Refusal :=
  within 16 n (after s (oem 2 ((partSt s n).fenced && !s.flt.mfenced) (fun s => partReset s n) s))
/-- OEM_MOD_RESET (R439, R449): the answer is counted after the reset. -/
def execOemModReset (s : State) : Host.Outcome State Fault Refusal := oem 3 (s.pwr.mstate = .m0 && s.boot.stage = 5) moduleReset s
/-- OEM_STANDBY (R408, R449). -/
def execOemStandby (s : State) : Host.Outcome State Fault Refusal := oem 4 (s.pwr.mstate = .m0 && !anyContext s) standby s
/-- WAKE (R409, R449): wake source 3. -/
def execOemWake (s : State) : Host.Outcome State Fault Refusal := oem 5 (s.pwr.mstate = .m1) (fun s => wakeSource s 3) s

/-- ENROL_OWNER (R390, R449): the digest of N ∥ E. -/
def execEnrolOwner (nE : List Byte) (s : State) : Host.Outcome State Fault Refusal :=
  oem 6 (s.hull.owner = 0) (fun s => securitySensor { s with hull := { s.hull with owner := sha256Num nE } }) s

/-- A fault-log entry of 32 B (R423, R429): time, class, code, partition, outcome, location, CRC-32C (log 34). -/
def logBytes (e : LogEntry) : List Byte :=
  let out := match e.outcome with | .logged => 0 | .counted => 1 | .fenced => 2 | .moduleFenced => 3
  let b := toBytes 8 e.time ++ toBytes 1 e.cls ++ [e.code] ++ toBytes 1 e.part ++ toBytes 1 out ++ toBytes 2 e.loc ++ List.replicate 14 0
  b ++ toBytes 4 (crc32c b).toNat

/-- READ_FAULT_LOG (R449): up to 32 entries from an index. [PRESUMED, log 34] -/
def execReadFaultLog (i : Nat) (s : State) : Host.Outcome State Fault Refusal :=
  .next (
    if huskOn s then pldmReply s 0x3F 7 pldmOk (((s.flt.log.drop i).take 32).flatMap logBytes) else s)

/-- Test mode is entered (R451). -/
def enterTest (s : State) : State :=
  let s := departAll s
  let s := forAll (List.range 64) (fun f s => startDown s f .f3) s
  let s := forAll [0, 1] (fun c s => modHchan s c fun v => { v with opmem := [] }) s
  let s := { s with hull := { s.hull with keys := false, idOk := false, debug := true }, mgt := { s.mgt with testEn := true } }
  securitySensor s

/-- TEST_ENABLE (R449, R451). -/
def execTestEnable (s : State) : Host.Outcome State Fault Refusal := oem 8 (!anyContext s && !s.mgt.updating) enterTest s

/-- PLATFORM_EVENT_ACK (R448): the oldest event is acknowledged; ALERT_N is released when none is left. -/
def execPlatformEventAck (s : State) : Host.Outcome State Fault Refusal :=
  .next { s with mgt := { s.mgt with events := s.mgt.events.drop 1 } }

/-! ### Firmware update (R450) -/

/-- Envelope types of a component (Table 18.7). -/
def componentTypes (id : Nat) : List Nat := match id with | 1 => [1] | 2 => [2] | 3 => [3] | 4 => [4, 5] | _ => []

/-- An accepted image is placed. -/
def placeImage (s : State) (id : Nat) (b : List Byte) : State :=
  let n := s.nvm
  match id with
  | 1 => { s with nvm := if n.slotB then { n with fwA := b, slotB := false } else { n with fwB := b, slotB := true } }
  | 2 => { s with nvm := { n with config := b } }
  | 3 => { s with nvm := { n with calib := b } }
  | _ =>
    if sealOpen s then
      securitySensor { s with hull := { s.hull with owner := if siType b = 4 then sha256Num (siPayload b) else 0 } }
    else s

/-- FIRMWARE_UPDATE_COMPONENT (R450, R461): written to the update area, copied to husk memory, verified, placed; `wp` says
that FLASH_WP_N is low. -/
def execFirmwareUpdateComponent (id : Nat) (wp : Bool) (image : List Byte) (s : State) : Host.Outcome State Fault Refusal :=
  .next (
    if !huskOn s then s
    else if componentTypes id = [] ∨ (s.boot.stage = 7 ∧ id ≠ 1 ∧ id ≠ 3) ∨ 16 * 2 ^ 20 < image.length then
      pldmReply s 5 0x18 pldmInvalid []
    else
      let ok := imageOk s (componentTypes id) image && !wp
      let floors := s.hull.floors
      let s := tryImage (toHusk { s with nvm := { s.nvm with update := image } } image) (componentTypes id) image
      -- The identity record, which holds the floors, is locked too.
      let s := if wp then { s with hull := { s.hull with floors := floors } } else s
      if ok then
        let s := placeImage s id image
        pldmReply { s with mgt := { s.mgt with updCnt := bump s.mgt.updCnt 1 } } 5 0x18 pldmOk []
      else pldmReply s 5 0x18 pldmInvalid [])

/-! ### Test port (R451) -/

/-- The TAP takes an instruction and shifts a register out. -/
def tapShift (s : State) (instr bits v : Nat) : State :=
  send { s with mgt := { s.mgt with tapInstr := instr, extest := false } } (.tap bits v)

/-- BYPASS: one bit. -/
def execBypass (s : State) : Host.Outcome State Fault Refusal := .next (if huskOn s then tapShift s 0 1 0 else s)
/-- IDCODE. -/
def execIdcode (s : State) : Host.Outcome State Fault Refusal := .next (if huskOn s then tapShift s 1 32 0x164120A5 else s)
/-- SAMPLE/PRELOAD of the seven digital contacts of the management connector (Table 19.4). -/
def execSamplePreload (pins v : Nat) (s : State) : Host.Outcome State Fault Refusal :=
  .next (
    if huskOn s then
      let s := tapShift s 2 7 (pins % 128)
      { s with mgt := { s.mgt with boundary := v % 128 } }
    else s)
/-- EXTEST: acts in test mode only. -/
def execExtest (s : State) : Host.Outcome State Fault Refusal :=
  .next (if huskOn s ∧ s.mgt.testEn then { s with mgt := { s.mgt with tapInstr := 3, extest := true } } else s)

end Sys2Proof.Machine
end

