-- ==== Sys2Proof/Machine/Staging.lean ====
section
/-!
DEFINITION. Accesses and requests of the staging buffers (R288 to R293).
-/
namespace Sys2Proof.Machine

/-! ### Request lines (Table 11.6) -/

def rqAop (b : List Byte) : Nat := bits (field b 0 8) 3 0
def rqW32 (b : List Byte) : Bool := bit (field b 0 8) 4
def rqNel (b : List Byte) : Nat := bits (field b 0 8) 9 5
def rqSlot (b : List Byte) : Nat := bits (field b 0 8) 17 10
def rqSeq (b : List Byte) : Word32 := BitVec.ofNat 32 (field b 4 4)
def rqTarget (b : List Byte) : Nat := bits (field b 8 8) 25 0
def rqRet (b : List Byte) : Nat := bits (field b 16 8) 25 0
/-- Bytes of an element. -/
def rqSize (b : List Byte) : Nat := if rqW32 b then 4 else 8
def rqBytes (b : List Byte) : Nat := rqNel b * rqSize b
/-- SWAP and CAS return old values. -/
def rqReturns (b : List Byte) : Bool := rqAop b = 5 || rqAop b = 6
/-- Operand word `i`. -/
def rqOpnd (b : List Byte) (i : Nat) : Nat := field b (24 + i * rqSize b) (rqSize b)

/-- Most elements, or pairs, that a request carries. -/
def rqMost (b : List Byte) : Nat :=
  if rqAop b = 6 then (if rqW32 b then 13 else 6) else (if rqW32 b then 26 else 13)

/-- A run of the request lies in one line, at a multiple of its element size. -/
def runOk (b : List Byte) (o : Nat) : Bool := o % rqSize b = 0 && decide (o % 128 + rqBytes b ≤ 128)

/-- The request has the form that R290 and R293 ask. -/
def rqForm (b : List Byte) : Bool :=
  (decide (rqAop b ≤ 6) || rqAop b = 8 || rqAop b = 9) && bits (field b 0 8) 31 18 = 0 && bits (field b 8 8) 63 26 = 0
  && bits (field b 16 8) 63 26 = 0 && decide (1 ≤ rqNel b) && decide (rqNel b ≤ rqMost b)
  && (rqAop b ≠ 8 || rqW32 b) && runOk b (rqTarget b) && (!rqReturns b || runOk b (rqRet b))

/-- Module address of a staging offset of stack `k`. -/
def stgAddr (k o : Nat) : Nat := stgBase + k * 0x4000000 + o

/-- The sender may touch the run. -/
def senderOwns (s : State) (r : Req) (a n : Nat) : Bool :=
  match r.src with | .host h _ => hostMem s h a n | .hull ch => hostMem s (hchan s ch).owner a n | _ => ctxMem s r.ctx a n

def rqBounds (s : State) (k : Nat) (r : Req) : Bool :=
  let b := r.bytes
  senderOwns s r (stgAddr k (rqTarget b)) (rqBytes b)
  && (!rqReturns b || senderOwns s r (stgAddr k (rqRet b)) (rqBytes b))

/-- SEQ minus NEXT of the slot, as a signed number. [DEDUCED, log 35] -/
def seqAhead (v : StackSt) (b : List Byte) : Int := (rqSeq b - Tab.get 0 v.next (rqSlot b)).toInt

/-- The code with which a request is refused (R293), or E_OK. [DEDUCED, log 35] -/
def rqCode (s : State) (k : Nat) (r : Req) : Byte :=
  if !rqForm r.bytes then eDesc
  else if rqAop r.bytes = 8 && decide (seqAhead (stackSt s k) r.bytes < 0) then eDesc
  else if !rqBounds s k r then eBounds
  else eOk

/-! ### Elements (R291) -/

/-- The new value of an element of `n` bits from its old value and the operand, or the compare and new operands. -/
def elemOp (aop n old x y : Nat) : Nat :=
  match aop with
  | 0 => (old + x) % 2 ^ n
  | 1 => if sgn n x < sgn n old then x else old
  | 2 => if sgn n old < sgn n x then x else old
  | 3 => min old x
  | 4 => max old x
  | 5 => x
  | _ => if old = x then y else old

/-- Elements at the run of a request. -/
def rqOld (s : State) (k : Nat) (b : List Byte) : List Nat :=
  (groups (rqSize b) (rqNel b) (memRead s (stgAddr k (rqTarget b)) (rqBytes b))).map ofBytes

/-- The elements a request leaves. -/
def rqNew (b : List Byte) (old : List Nat) : List Nat :=
  (List.range old.length).map fun i =>
    let x := if rqAop b = 6 then rqOpnd b (2 * i) else rqOpnd b i
    elemOp (rqAop b) (8 * rqSize b) (nth old i 0) x (rqOpnd b (2 * i + 1))

def elemBytes (b : List Byte) (l : List Nat) : List Byte := l.flatMap (toBytes (rqSize b))

/-- An integer request is applied: the run at TARGET, read with its errors noted (R288), and the old values at RET of a SWAP
or CAS. -/
def applyInt (s : State) (k : Nat) (b : List Byte) : State :=
  let old := rqOld s k b
  let s := noteMem s (stgAddr k (rqTarget b)) (rqBytes b)
  let s := memWrite s (stgAddr k (rqTarget b)) (elemBytes b (rqNew b old))
  let s := if rqReturns b then memWrite s (stgAddr k (rqRet b)) (elemBytes b old) else s
  modStack s k fun v => { v with opsCnt := bump v.opsCnt 1 }

/-- An ordered add is applied and NEXT of its slot moves on (R292). -/
def applyAdd (s : State) (k slot addr : Nat) (ws : List Word32) : State :=
  let old := words32 (memRead s addr (4 * ws.length))
  let s := noteMem s addr (4 * ws.length)
  let s := memWrite s addr (bytes32 ((List.zip old ws).map fun e => f32add e.1 e.2))
  modStack s k fun v => { v with opsCnt := bump v.opsCnt 1, next := Tab.set 0 v.next slot (Tab.get 0 v.next slot + 1) }

/-! ### Service -/

/-- A FADD that the full reorder store keeps at its attachment pip (R292). -/
def keptAtPip (s : State) (k : Nat) (r : Req) : Bool :=
  isReq r.addr && r.write && rqAop r.bytes = 8 && rqCode s k r = eOk && decide (0 < seqAhead (stackSt s k) r.bytes)
  && decide (32 ≤ (stackSt s k).held.length)

/-- The staging bank that an access uses (R288, R290). -/
def accessBank (r : Req) : Nat := (if isReq r.addr && r.write then rqTarget r.bytes else r.addr - stgBase) / 2 ^ 22 % 16

/-- The access that is served next, and what is left: the oldest whose bank has served none in this cycle (R288, R289). [DEDUCED, log 35] -/
def nextAccess (s : State) (k : Nat) : Option (Req × List Req) :=
  let q := (stackSt s k).stq
  ((List.range q.length).find? fun i =>
    match q[i]? with
    | some r => !keptAtPip s k r && !(stackSt s k).stUsed.contains (accessBank r)
    | none => false).bind fun i => (q[i]?).map fun r => (r, q.eraseIdx i)

/-- The access leaves the queue and has its bank for this cycle. -/
def serveIt (s : State) (k : Nat) (r : Req) (rest : List Req) : State :=
  modStack s k fun v => { v with stq := rest, stUsed := v.stUsed ++ [accessBank r] }

/-- A request is refused (R293): its code, and the end of the job that sent it. -/
def refuseReq (s : State) (k : Nat) (r : Req) (code : Byte) : State :=
  failReq (modStack s k fun v => { v with stErr := true, stCode := code }) r code

/-- A request that is served reads the run at TARGET: all but ORDSET and a FADD ahead of NEXT (R291, R292). -/
def readsRun (s : State) (k : Nat) (b : List Byte) : Bool := rqAop b ≠ 9 && (rqAop b ≠ 8 || seqAhead (stackSt s k) b = 0)

/-- A word with an uncorrected error under the run that a request reads ends its sender's job (R278, R288). -/
def runUe (s : State) (k : Nat) (b : List Byte) : Bool :=
  readsRun s k b && memUe s (stgAddr k (rqTarget b)) (rqBytes b)

/-- Serve the next access if it is a request of operation `aop`: refused, or it acts and its sender's write has landed. [DEDUCED, log 35] -/
def serveReq (s : State) (k aop : Nat) (act : State → Req → State) : State :=
  match nextAccess s k with
  | none => s
  | some (r, rest) =>
    if !(isReq r.addr && r.write && rqAop r.bytes = aop) then s
    else
      let code := rqCode s k r
      let ue := runUe s k r.bytes
      let s := serveIt s k r rest
      if code ≠ eOk then refuseReq s k r code
      else if ue then ueReq (writeAccepted (act s r) r) r
      else writeAccepted (act s r) r

/-- The line of a read goes back to its unit on the route it came by (R270). -/
def lineBack (s : State) (r : Req) (bs : List Byte) : State :=
  modStack s (stackOf r.addr) fun v =>
    { v with lines := Tab.set [] v.lines r.route (Tab.get [] v.lines r.route ++
        [{ r with data := ofLineBytes bs, ready := slotNow s, sent := 0 }]) }

/-- A read of staging is answered, or its line goes to the unit that asked. -/
def answerRead (s : State) (r : Req) : State :=
  let ue := memUe s r.addr r.len
  let bs := memRead s r.addr r.len
  let s := noteMem s r.addr r.len
  match r.src with
  | .host h tag => send s (.memData h tag bs)
  | .hull ch => hullGot s ch bs
  | .unit _ _ => if ue then ueReq (lineBack s r bs) r else lineBack s r bs
  | .acorn _ | .link _ => s

/-- A read of a request window returns free values: the manual gives none. -/
def answerFree (s : State) (r : Req) : State :=
  let bs := freeBytes s r.len
  let s := drew s r.len
  match r.src with
  | .host h tag => send s (.memData h tag bs)
  | .hull ch => hullGot s ch bs
  | .unit _ _ => lineBack s r bs
  | .acorn _ | .link _ => s

/-- A plain write: the words that it covers in part are read and merged (R288). -/
def writeStaging (s : State) (a : Nat) (bs : List Byte) : State :=
  let part := (wordsIn (a - stgBase) bs.length).filter fun w => decide (stgBase + 8 * w < a) || decide (a + bs.length < stgBase + 8 * w + 8)
  memWrite (forAll part noteStg s) a bs

/-- Serve a plain access whose sender owns its granules; a host's that does not is rejected (R351). -/
def servePlain (s : State) (r : Req) : State :=
  let n := if r.write then r.bytes.length else r.len
  if !senderOwns s r r.addr n then
    match r.src with
    | .host h tag => rejectAcc s ⟨h, r.write, r.addr, r.bytes, r.len, tag, 0⟩
    | .hull ch => hullGot s ch (List.replicate r.len 0)
    | _ => failReq s r eBounds
  else if r.write then writeAccepted (writeStaging s r.addr r.bytes) r
  else answerRead s r

/-- STAGING_ACCESS (R288, R289): the next access if it is plain; also a read of a request window, and a request whose AOP is
reserved. -/
def execStagingAccess (k : Nat) (s : State) : Host.Outcome State Fault Refusal :=
  within 12 k (
    match nextAccess s k with
    | none => s
    | some (r, rest) =>
      let pop := serveIt s k r rest
      if !isReq r.addr then servePlain pop r
      else if !r.write then answerFree pop r
      else if rqAop r.bytes = 7 ∨ rqAop r.bytes > 9 then refuseReq pop k r eDesc
      else s)

/-- ADD (R291). -/
def execStAdd (k : Nat) (s : State) : Host.Outcome State Fault Refusal := within 12 k (serveReq s k 0 fun s r => applyInt s k r.bytes)
/-- SMIN (R291). -/
def execStSmin (k : Nat) (s : State) : Host.Outcome State Fault Refusal := within 12 k (serveReq s k 1 fun s r => applyInt s k r.bytes)
/-- SMAX (R291). -/
def execStSmax (k : Nat) (s : State) : Host.Outcome State Fault Refusal := within 12 k (serveReq s k 2 fun s r => applyInt s k r.bytes)
/-- UMIN (R291). -/
def execStUmin (k : Nat) (s : State) : Host.Outcome State Fault Refusal := within 12 k (serveReq s k 3 fun s r => applyInt s k r.bytes)
/-- UMAX (R291). -/
def execStUmax (k : Nat) (s : State) : Host.Outcome State Fault Refusal := within 12 k (serveReq s k 4 fun s r => applyInt s k r.bytes)
/-- STAGING_SWAP (R291). -/
def execStSwap (k : Nat) (s : State) : Host.Outcome State Fault Refusal := within 12 k (serveReq s k 5 fun s r => applyInt s k r.bytes)
/-- CAS (R291). -/
def execStCas (k : Nat) (s : State) : Host.Outcome State Fault Refusal := within 12 k (serveReq s k 6 fun s r => applyInt s k r.bytes)

/-- FADD (R292): applied at NEXT, held ahead of it. -/
def execStFadd (k : Nat) (s : State) : Host.Outcome State Fault Refusal :=
  within 12 k (serveReq s k 8 fun s r =>
    let b := r.bytes
    let a := stgAddr k (rqTarget b)
    let ws := (List.range (rqNel b)).map fun i => BitVec.ofNat 32 (rqOpnd b i)
    if seqAhead (stackSt s k) b = 0 then applyAdd s k (rqSlot b) a ws
    else modStack s k fun v =>
      { v with held := v.held ++ [⟨rqSlot b, (rqSeq b).toNat, a, ws, r.ctx, r.src⟩], holdCnt := bump v.holdCnt 1 })

/-- The held add of a slot whose SEQ equals NEXT (R292). -/
def readyAdd (v : StackSt) (slot : Nat) : Option HeldAdd :=
  v.held.find? fun h => h.slot = slot && BitVec.ofNat 32 h.seq = Tab.get 0 v.next slot

/-- FADD_HELD_APPLY (R278, R292): the held add of the slot whose SEQ now equals NEXT, in a cycle in which its bank has served no access. -/
def execFaddHeldApply (k slot : Nat) (s : State) : Host.Outcome State Fault Refusal :=
  within 12 k (
    match readyAdd (stackSt s k) slot with
    | none => s
    | some h =>
      let bank := (h.addr - stgBase) / 2 ^ 22 % 16
      if (stackSt s k).stUsed.contains bank then s
      else
        let ue := memUe s h.addr (4 * h.words.length)
        let s := applyAdd (modStack s k fun v => { v with held := v.held.erase h, stUsed := v.stUsed ++ [bank] }) k slot h.addr h.words
        if ue then ueReq s { src := h.src, addr := h.addr, ctx := h.ctx } else s)

/-- ORDSET (R292): NEXT of the slot, whose held requests are discarded. -/
def execOrdset (k : Nat) (s : State) : Host.Outcome State Fault Refusal :=
  within 12 k (serveReq s k 9 fun s r =>
    modStack s k fun v =>
      { v with next := Tab.set 0 v.next (rqSlot r.bytes) (rqSeq r.bytes), held := v.held.filter (·.slot ≠ rqSlot r.bytes)
               opsCnt := bump v.opsCnt 1 })

end Sys2Proof.Machine
end

