-- ==== Sys2Proof/Machine/Dispatch.lean ====
section
/-!
DEFINITION. The meaning of each command: one arm per constructor.
-/
namespace Sys2Proof.Machine

/-- The effect of a command on everything but the queue. -/
def exec (i : Instr) (s : State) : Host.Outcome State Fault Refusal :=
  match i with
  | .registerWrite w off len v => Sys2Proof.Machine.execRegisterWrite w off len v s
  | .counterLowRead h r => Sys2Proof.Machine.execCounterLowRead h r s
  | .nop p exe d => Sys2Proof.Machine.execNop p exe d s
  | .ldq p d o => Sys2Proof.Machine.execLdq p d o s
  | .stq p d o => Sys2Proof.Machine.execStq p d o s
  | .msnd p d o => Sys2Proof.Machine.execMsnd p d o s
  | .mrcv p d o => Sys2Proof.Machine.execMrcv p d o s
  | .dma p d o => Sys2Proof.Machine.execDma p d o s
  | .dmaw p d ch => Sys2Proof.Machine.execDmaw p d ch s
  | .swap p d handle => Sys2Proof.Machine.execSwap p d handle s
  | .dld p d handle areg => Sys2Proof.Machine.execDld p d handle areg s
  | .aop p d o => Sys2Proof.Machine.execAop p d o s
  | .strmStart p d areg e => Sys2Proof.Machine.execStrmStart p d areg e s
  | .strmWait p d e => Sys2Proof.Machine.execStrmWait p d e s
  | .sigl p d obj add => Sys2Proof.Machine.execSigl p d obj add s
  | .siglApply p => Sys2Proof.Machine.execSiglApply p s
  | .loop p exe d level body => Sys2Proof.Machine.execLoop p exe d level body s
  | .brf p exe d o => Sys2Proof.Machine.execBrf p exe d o s
  | .lcset p exe d lc src reg imm => Sys2Proof.Machine.execLcset p exe d lc src reg imm s
  | .endStream p exe d => Sys2Proof.Machine.execEndStream p exe d s
  | .tlw p d count => Sys2Proof.Machine.execTlw p d count s
  | .tsw p d => Sys2Proof.Machine.execTsw p d s
  | .tmm p d acc clr fmtA fmtW => Sys2Proof.Machine.execTmm p d acc clr fmtA fmtW s
  | .tmmComplete p => Sys2Proof.Machine.execTmmComplete p s
  | .tdrn p d acc chain sq => Sys2Proof.Machine.execTdrn p d acc chain sq s
  | .drainEnd p => Sys2Proof.Machine.execDrainEnd p s
  | .tmode p d mode => Sys2Proof.Machine.execTmode p d mode s
  | .sop p d o => Sys2Proof.Machine.execSop p d o s
  | .sld p d o => Sys2Proof.Machine.execSld p d o s
  | .sst p d o => Sys2Proof.Machine.execSst p d o s
  | .spush p d sa => Sys2Proof.Machine.execSpush p d sa s
  | .ssum p d sd which => Sys2Proof.Machine.execSsum p d sd which s
  | .lrxset p d idx sa => Sys2Proof.Machine.execLrxset p d idx sa s
  | .nttl p d o => Sys2Proof.Machine.execNttl p d o s
  | .nttx p d o => Sys2Proof.Machine.execNttx p d o s
  | .intx p d o => Sys2Proof.Machine.execIntx p d o s
  | .intl p d o => Sys2Proof.Machine.execIntl p d o s
  | .eadd p d o => Sys2Proof.Machine.execEadd p d o s
  | .esub p d o => Sys2Proof.Machine.execEsub p d o s
  | .emul p d o => Sys2Proof.Machine.execEmul p d o s
  | .mulc p d o => Sys2Proof.Machine.execMulc p d o s
  | .kmac p d o => Sys2Proof.Machine.execKmac p d o s
  | .auto p d o => Sys2Proof.Machine.execAuto p d o s
  | .tomont p d o => Sys2Proof.Machine.execTomont p d o s
  | .frommont p d o => Sys2Proof.Machine.execFrommont p d o s
  | .kout p d o => Sys2Proof.Machine.execKout p d o s
  | .ringOpComplete p => Sys2Proof.Machine.execRingOpComplete p s
  | .residueCompare pod inverse => Sys2Proof.Machine.execResidueCompare pod inverse s
  | .dmaComplete p ch => Sys2Proof.Machine.execDmaComplete p ch s
  | .pipFinish p => Sys2Proof.Machine.execPipFinish p s
  | .jobWatchdog p exe => Sys2Proof.Machine.execJobWatchdog p exe s
  | .engineWatchdog p => Sys2Proof.Machine.execEngineWatchdog p s
  | .meshFlitSend p port pos => Sys2Proof.Machine.execMeshFlitSend p port pos s
  | .meshFlitArrive k => Sys2Proof.Machine.execMeshFlitArrive k s
  | .creditReturn k => Sys2Proof.Machine.execCreditReturn k s
  | .dmaWriterWrite p => Sys2Proof.Machine.execDmaWriterWrite p s
  | .shortFlitEnter p => Sys2Proof.Machine.execShortFlitEnter p s
  | .shortPathWrite p => Sys2Proof.Machine.execShortPathWrite p s
  | .commandRead c => Sys2Proof.Machine.execCommandRead c s
  | .commandReady c => Sys2Proof.Machine.execCommandReady c s
  | .jobStart j => Sys2Proof.Machine.execJobStart j s
  | .jobLoadEnd p => Sys2Proof.Machine.execJobLoadEnd p s
  | .streamStart j => Sys2Proof.Machine.execStreamStart j s
  | .commandComplete k => Sys2Proof.Machine.execCommandComplete k s
  | .commandNop c => Sys2Proof.Machine.execCommandNop c s
  | .launch c => Sys2Proof.Machine.execLaunch c s
  | .wait c => Sys2Proof.Machine.execWait c s
  | .waitRelease c => Sys2Proof.Machine.execWaitRelease c s
  | .signal c => Sys2Proof.Machine.execSignal c s
  | .syncset c => Sys2Proof.Machine.execSyncset c s
  | .copy c => Sys2Proof.Machine.execCopy c s
  | .release c => Sys2Proof.Machine.execRelease c s
  | .doorbell w c v => Sys2Proof.Machine.execDoorbell w c v s
  | .resume w c => Sys2Proof.Machine.execResume w c s
  | .flush w c => Sys2Proof.Machine.execFlush w c s
  | .modCtxSyncVal h c => Sys2Proof.Machine.execModCtxSyncVal h c s
  | .modCtxGrant w c n v => Sys2Proof.Machine.execModCtxGrant w c n v s
  | .admitImage w => Sys2Proof.Machine.execAdmitImage w s
  | .admissionDone => Sys2Proof.Machine.execAdmissionDone s
  | .transitReenable => Sys2Proof.Machine.execTransitReenable s
  | .modPart w n v => Sys2Proof.Machine.execModPart w n v s
  | .pendingRepair f row col => Sys2Proof.Machine.execPendingRepair f row col s
  | .applyRepair w => Sys2Proof.Machine.execApplyRepair w s
  | .repairRevoke => Sys2Proof.Machine.execRepairRevoke s
  | .pipRegion w p n v => Sys2Proof.Machine.execPipRegion w p n v s
  | .scrubDone p n => Sys2Proof.Machine.execScrubDone p n s
  | .clr w p => Sys2Proof.Machine.execClr w p s
  | .streamRunStart p e => Sys2Proof.Machine.execStreamRunStart p e s
  | .gset p e => Sys2Proof.Machine.execGset p e s
  | .gadd p e => Sys2Proof.Machine.execGadd p e s
  | .gmod p e => Sys2Proof.Machine.execGmod p e s
  | .gidx p e => Sys2Proof.Machine.execGidx p e s
  | .xfer p e => Sys2Proof.Machine.execXfer p e s
  | .kblk p => Sys2Proof.Machine.execKblk p s
  | .sput p e => Sys2Proof.Machine.execSput p e s
  | .waitso p e => Sys2Proof.Machine.execWaitso p e s
  | .dependenceMarkRelease p e => Sys2Proof.Machine.execDependenceMarkRelease p e s
  | .sigso p e => Sys2Proof.Machine.execSigso p e s
  | .agLoop p e => Sys2Proof.Machine.execAgLoop p e s
  | .agNop p e => Sys2Proof.Machine.execAgNop p e s
  | .agEnd p e => Sys2Proof.Machine.execAgEnd p e s
  | .streamRunComplete p e => Sys2Proof.Machine.execStreamRunComplete p e s
  | .keyHeaderCheck pod => Sys2Proof.Machine.execKeyHeaderCheck pod s
  | .keyDrainEnd j => Sys2Proof.Machine.execKeyDrainEnd j s
  | .ctPset c => Sys2Proof.Machine.execCtPset c s
  | .ctBind c => Sys2Proof.Machine.execCtBind c s
  | .ctFree c => Sys2Proof.Machine.execCtFree c s
  | .ctCopy c => Sys2Proof.Machine.execCtCopy c s
  | .ctExport c => Sys2Proof.Machine.execCtExport c s
  | .pkAdd c => Sys2Proof.Machine.execPkAdd c s
  | .pkMulp c => Sys2Proof.Machine.execPkMulp c s
  | .pkMul c => Sys2Proof.Machine.execPkMul c s
  | .pkRot c => Sys2Proof.Machine.execPkRot c s
  | .pkLdrop c => Sys2Proof.Machine.execPkLdrop c s
  | .pkExtract c => Sys2Proof.Machine.execPkExtract c s
  | .liLin c => Sys2Proof.Machine.execLiLin c s
  | .liPbs c => Sys2Proof.Machine.execLiPbs c s
  | .lbGate c => Sys2Proof.Machine.execLbGate c s
  | .liRepack c => Sys2Proof.Machine.execLiRepack c s
  | .ctMaskout c => Sys2Proof.Machine.execCtMaskout c s
  | .hbmRead k g route => Sys2Proof.Machine.execHbmRead k g route s
  | .hbmWrite k g route => Sys2Proof.Machine.execHbmWrite k g route s
  | .hbmIdle k g => Sys2Proof.Machine.execHbmIdle k g s
  | .ref k g => Sys2Proof.Machine.execRef k g s
  | .refreshInsert k g => Sys2Proof.Machine.execRefreshInsert k g s
  | .host k g => Sys2Proof.Machine.execHost k g s
  | .stageIn k route => Sys2Proof.Machine.execStageIn k route s
  | .stageOut k route => Sys2Proof.Machine.execStageOut k route s
  | .scrub g => Sys2Proof.Machine.execScrub g s
  | .requestWord p u k route => Sys2Proof.Machine.execRequestWord p u k route s
  | .readLineReady k route => Sys2Proof.Machine.execReadLineReady k route s
  | .hbmHot k temp => Sys2Proof.Machine.execHbmHot k temp s
  | .hbmGran w g v => Sys2Proof.Machine.execHbmGran w g v s
  | .hbmSgran w g v => Sys2Proof.Machine.execHbmSgran w g v s
  | .granuleZeroed staging g => Sys2Proof.Machine.execGranuleZeroed staging g s
  | .stagingAccess k => Sys2Proof.Machine.execStagingAccess k s
  | .stAdd k => Sys2Proof.Machine.execStAdd k s
  | .stSmin k => Sys2Proof.Machine.execStSmin k s
  | .stSmax k => Sys2Proof.Machine.execStSmax k s
  | .stUmin k => Sys2Proof.Machine.execStUmin k s
  | .stUmax k => Sys2Proof.Machine.execStUmax k s
  | .stSwap k => Sys2Proof.Machine.execStSwap k s
  | .stCas k => Sys2Proof.Machine.execStCas k s
  | .stFadd k => Sys2Proof.Machine.execStFadd k s
  | .faddHeldApply k slot => Sys2Proof.Machine.execFaddHeldApply k slot s
  | .ordset k => Sys2Proof.Machine.execOrdset k s
  | .signalDetect l => Sys2Proof.Machine.execSignalDetect l s
  | .capability l m => Sys2Proof.Machine.execCapability l m s
  | .measureMessage l t1 t2 t3 t4 => Sys2Proof.Machine.execMeasureMessage l t1 t2 t3 t4 s
  | .trainingRestart l => Sys2Proof.Machine.execTrainingRestart l s
  | .wiringRetry l => Sys2Proof.Machine.execWiringRetry l s
  | .time l m => Sys2Proof.Machine.execTime l m s
  | .linkPeriod => Sys2Proof.Machine.execLinkPeriod s
  | .epochBoundary => Sys2Proof.Machine.execEpochBoundary s
  | .linkFlitReceive l f => Sys2Proof.Machine.execLinkFlitReceive l f s
  | .linkRunTransmit l r => Sys2Proof.Machine.execLinkRunTransmit l r s
  | .data l => Sys2Proof.Machine.execData l s
  | .linkHold l => Sys2Proof.Machine.execLinkHold l s
  | .linkDown l => Sys2Proof.Machine.execLinkDown l s
  | .partnerDepart l => Sys2Proof.Machine.execPartnerDepart l s
  | .joinEn w v => Sys2Proof.Machine.execJoinEn w v s
  | .ppsEn w v => Sys2Proof.Machine.execPpsEn w v s
  | .depart w => Sys2Proof.Machine.execDepart w s
  | .wakePattern w => Sys2Proof.Machine.execWakePattern w s
  | .timePps => Sys2Proof.Machine.execTimePps s
  | .clOpen c => Sys2Proof.Machine.execClOpen c s
  | .clReduce c => Sys2Proof.Machine.execClReduce c s
  | .clClose c => Sys2Proof.Machine.execClClose c s
  | .clCloseForce c => Sys2Proof.Machine.execClCloseForce c s
  | .localStep ch => Sys2Proof.Machine.execLocalStep ch s
  | .chunkSend ch => Sys2Proof.Machine.execChunkSend ch s
  | .coll ch => Sys2Proof.Machine.execColl ch s
  | .credit ch => Sys2Proof.Machine.execCredit ch s
  | .abortMsg ch => Sys2Proof.Machine.execAbortMsg ch s
  | .clReduceComplete ch => Sys2Proof.Machine.execClReduceComplete ch s
  | .cxlMemRead h addr len tag => Sys2Proof.Machine.execCxlMemRead h addr len tag s
  | .cxlMemWrite h addr bs => Sys2Proof.Machine.execCxlMemWrite h addr bs s
  | .scratchpadWindowAccess p => Sys2Proof.Machine.execScratchpadWindowAccess p s
  | .windowEscalation p => Sys2Proof.Machine.execWindowEscalation p s
  | .hdmDecoderCommit h n base size ways => Sys2Proof.Machine.execHdmDecoderCommit h n base size ways s
  | .fmApiQuery cmd => Sys2Proof.Machine.execFmApiQuery cmd s
  | .fmApiAllocationChange cmd => Sys2Proof.Machine.execFmApiAllocationChange cmd s
  | .cxlMgmt w v => Sys2Proof.Machine.execCxlMgmt w v s
  | .cxlCtxpage w p v => Sys2Proof.Machine.execCxlCtxpage w p v s
  | .create h => Sys2Proof.Machine.execCreate h s
  | .destroy h => Sys2Proof.Machine.execDestroy h s
  | .rebind h => Sys2Proof.Machine.execRebind h s
  | .headLinkDown hd => Sys2Proof.Machine.execHeadLinkDown hd s
  | .perstN hd => Sys2Proof.Machine.execPerstN hd s
  | .ideFail hd => Sys2Proof.Machine.execIdeFail hd s
  | .fmUnbind h => Sys2Proof.Machine.execFmUnbind h s
  | .functionLevelReset h => Sys2Proof.Machine.execFunctionLevelReset h s
  | .flrReattach h => Sys2Proof.Machine.execFlrReattach h s
  | .ideKm h key => Sys2Proof.Machine.execIdeKm h key s
  | .getVersion h => Sys2Proof.Machine.execGetVersion h s
  | .getCapabilities h => Sys2Proof.Machine.execGetCapabilities h s
  | .negotiateAlgorithms h slot => Sys2Proof.Machine.execNegotiateAlgorithms h slot s
  | .getDigests h => Sys2Proof.Machine.execGetDigests h s
  | .getCertificate h slot => Sys2Proof.Machine.execGetCertificate h slot s
  | .challenge h slot => Sys2Proof.Machine.execChallenge h slot s
  | .getMeasurements h signed => Sys2Proof.Machine.execGetMeasurements h signed s
  | .keyExchange h slot => Sys2Proof.Machine.execKeyExchange h slot s
  | .finish h => Sys2Proof.Machine.execFinish h s
  | .keyUpdate h => Sys2Proof.Machine.execKeyUpdate h s
  | .heartbeat h => Sys2Proof.Machine.execHeartbeat h s
  | .endSession h => Sys2Proof.Machine.execEndSession h s
  | .modexp w ch => Sys2Proof.Machine.execModexp w ch s
  | .modmul w ch => Sys2Proof.Machine.execModmul w ch s
  | .rsaVerify w ch => Sys2Proof.Machine.execRsaVerify w ch s
  | .ecmul w ch => Sys2Proof.Machine.execEcmul w ch s
  | .ecdh w ch => Sys2Proof.Machine.execEcdh w ch s
  | .ecdsaSign w ch => Sys2Proof.Machine.execEcdsaSign w ch s
  | .ecdsaVerify w ch => Sys2Proof.Machine.execEcdsaVerify w ch s
  | .curveLoad w ch => Sys2Proof.Machine.execCurveLoad w ch s
  | .sha256 w ch => Sys2Proof.Machine.execSha256 w ch s
  | .kwrap w ch => Sys2Proof.Machine.execKwrap w ch s
  | .kunwrap w ch => Sys2Proof.Machine.execKunwrap w ch s
  | .random w ch => Sys2Proof.Machine.execRandom w ch s
  | .hullLoadEnd ch => Sys2Proof.Machine.execHullLoadEnd ch s
  | .engineTake b => Sys2Proof.Machine.execEngineTake b s
  | .execEnd e => Sys2Proof.Machine.execExecEnd e s
  | .storeEnd ch => Sys2Proof.Machine.execStoreEnd ch s
  | .wipeEnd ch => Sys2Proof.Machine.execWipeEnd ch s
  | .clrcurve w ch => Sys2Proof.Machine.execClrcurve w ch s
  | .hullChanOwner w ch v => Sys2Proof.Machine.execHullChanOwner w ch v s
  | .drbgHealthRetest pass => Sys2Proof.Machine.execDrbgHealthRetest pass s
  | .fieldGate f => Sys2Proof.Machine.execFieldGate f s
  | .idleExpiry f => Sys2Proof.Machine.execIdleExpiry f s
  | .shutdownComplete f => Sys2Proof.Machine.execShutdownComplete f s
  | .wakeComplete f => Sys2Proof.Machine.execWakeComplete f s
  | .vrAck f => Sys2Proof.Machine.execVrAck f s
  | .vrNack f => Sys2Proof.Machine.execVrNack f s
  | .powerStepIssue j k => Sys2Proof.Machine.execPowerStepIssue j k s
  | .fldPwrCtrl w f v => Sys2Proof.Machine.execFldPwrCtrl w f v s
  | .standby w => Sys2Proof.Machine.execStandby w s
  | .linksd l => Sys2Proof.Machine.execLinksd l s
  | .pattern l => Sys2Proof.Machine.execPattern l s
  | .cwakeN => Sys2Proof.Machine.execCwakeN s
  | .wakeN => Sys2Proof.Machine.execWakeN s
  | .pwrTimer => Sys2Proof.Machine.execPwrTimer s
  | .temperatureReading f t => Sys2Proof.Machine.execTemperatureReading f t s
  | .inputMeasure vin pin avg10ms avg1s => Sys2Proof.Machine.execInputMeasure vin pin avg10ms avg1s s
  | .vinFault => Sys2Proof.Machine.execVinFault s
  | .holdover => Sys2Proof.Machine.execHoldover s
  | .cdcTimeout k => Sys2Proof.Machine.execCdcTimeout k s
  | .monitorRead f slack => Sys2Proof.Machine.execMonitorRead f slack s
  | .marginApply f => Sys2Proof.Machine.execMarginApply f s
  | .huskPowerUp pufOk drbgOk => Sys2Proof.Machine.execHuskPowerUp pufOk drbgOk s
  | .pwrEnFall => Sys2Proof.Machine.execPwrEnFall s
  | .barsLoss => Sys2Proof.Machine.execBarsLoss s
  | .firmware => Sys2Proof.Machine.execFirmware s
  | .config => Sys2Proof.Machine.execConfig s
  | .measure m => Sys2Proof.Machine.execMeasure m s
  | .train => Sys2Proof.Machine.execTrain s
  | .ready => Sys2Proof.Machine.execReady s
  | .recoveryIdle n => Sys2Proof.Machine.execRecoveryIdle n s
  | .weightVerify n => Sys2Proof.Machine.execWeightVerify n s
  | .reopen n => Sys2Proof.Machine.execReopen n s
  | .recoveryWindowEnd n => Sys2Proof.Machine.execRecoveryWindowEnd n s
  | .partReset w n => Sys2Proof.Machine.execPartReset w n s
  | .modReset w => Sys2Proof.Machine.execModReset w s
  | .traceFlitSend p => Sys2Proof.Machine.execTraceFlitSend p s
  | .traceRelay p => Sys2Proof.Machine.execTraceRelay p s
  | .traceFrame => Sys2Proof.Machine.execTraceFrame s
  | .snapshot => Sys2Proof.Machine.execSnapshot s
  | .dynamicAddress da => Sys2Proof.Machine.execDynamicAddress da s
  | .pldmBase cmd => Sys2Proof.Machine.execPldmBase cmd s
  | .pldmSensorRead id => Sys2Proof.Machine.execPldmSensorRead id s
  | .setMgmt v => Sys2Proof.Machine.execSetMgmt v s
  | .oemPartReset n => Sys2Proof.Machine.execOemPartReset n s
  | .oemModReset => Sys2Proof.Machine.execOemModReset s
  | .oemStandby => Sys2Proof.Machine.execOemStandby s
  | .oemWake => Sys2Proof.Machine.execOemWake s
  | .enrolOwner nE => Sys2Proof.Machine.execEnrolOwner nE s
  | .readFaultLog k => Sys2Proof.Machine.execReadFaultLog k s
  | .testEnable => Sys2Proof.Machine.execTestEnable s
  | .firmwareUpdateComponent id wp image => Sys2Proof.Machine.execFirmwareUpdateComponent id wp image s
  | .bypass => Sys2Proof.Machine.execBypass s
  | .idcode => Sys2Proof.Machine.execIdcode s
  | .samplePreload pins v => Sys2Proof.Machine.execSamplePreload pins v s
  | .extest => Sys2Proof.Machine.execExtest s
  | .tmodeComplete p => Sys2Proof.Machine.execTmodeComplete p s
  | .flitLock l mode => Sys2Proof.Machine.execFlitLock l mode s
  | .lossOfFlitLock l => Sys2Proof.Machine.execLossOfFlitLock l s
  | .silentReceivePosition l r => Sys2Proof.Machine.execSilentReceivePosition l r s
  | .headLinkUp hd width rate => Sys2Proof.Machine.execHeadLinkUp hd width rate s
  | .fmBind h => Sys2Proof.Machine.execFmBind h s
  | .hbmTrainingEnd k ok => Sys2Proof.Machine.execHbmTrainingEnd k ok s
  | .m1Entry => Sys2Proof.Machine.execM1Entry s
  | .refclkReturn => Sys2Proof.Machine.execRefclkReturn s
  | .cblpwrOverload l => Sys2Proof.Machine.execCblpwrOverload l s
  | .perstNRise hd => Sys2Proof.Machine.execPerstNRise hd s
  | .platformEventAck => Sys2Proof.Machine.execPlatformEventAck s
  | .doeDiscovery h k => Sys2Proof.Machine.execDoeDiscovery h k s

end Sys2Proof.Machine
end

