-- ==== Sys2Proof/Machine/Cycle.lean ====
section
/-!
DEFINITION. What a pip cycle does of itself (log 1): the streams, units and engines of the pips, the users of the scratchpad banks (R141),
the mesh, the stacks and their staging buffers, and what completes. Each event that the spec fixes to a cycle happens by the meaning of its
own command.
-/
namespace Sys2Proof.Machine

/-- The state that a meaning leaves where it goes on. -/
def goOn (s : State) (o : Host.Outcome State Fault Refusal) : State := match o with | .next t => t | _ => s

/-- An event happens by the meaning of its command. -/
def auto (i : Instr) (s : State) : State := goOn s (exec i s)

/-- Events one after another. -/
def autos (l : List Instr) (s : State) : State := forAll l auto s

/-- Pips that hold any state, and those that run a job. -/
def listedPips (s : State) : List Nat := s.pips.map (·.1)
def busyPips (s : State) : List Nat := (s.pips.filter fun e => e.2.job ≠ 0).map (·.1)

/-! ### Pips (R38, R68, R141, R255) -/

/-- A stream tries to issue the instruction that is due (R68). -/
def tryIssue (p : Nat) (exe : Bool) (s : State) : State :=
  if streamDue s p exe then
    match readInstr s p exe with
    | some i => auto i s
    | none => s
  else s

/-- The streams of a pip, the access stream first, then the units of its execute stream. -/
def streamsAct (p : Nat) (s : State) : State :=
  let s := tryIssue p true (tryIssue p false s)
  onPip s p (executeMoves s.cycle (pipInPod p))

/-- The row of the instruction that an address generator executes (Table 10.2). -/
def agRow (p e : Nat) (g : Engine) : Instr :=
  match agOp (recInstr g.record g.pc) with
  | 0x01 => .gset p e
  | 0x02 => .gadd p e
  | 0x03 => .gmod p e
  | 0x04 => .gidx p e
  | 0x05 => .xfer p e
  | 0x06 => .kblk p
  | 0x07 => .sput p e
  | 0x08 => if g.marked then .dependenceMarkRelease p e else .waitso p e
  | 0x09 => .sigso p e
  | 0x0A => .agLoop p e
  | 0x3F => .agEnd p e
  | _ => .agNop p e

/-- One cycle of an engine: its start, an instruction, the end of its run. -/
def engineAct (p e : Nat) (s : State) : State :=
  let g := engOf (pipOf s p) e
  if !g.running then s
  else if !g.started then auto (.streamRunStart p e) s
  else auto (.streamRunComplete p e) (if recForm g.record = 1 && agFree g s.cycle then auto (agRow p e g) s else s)

/-- A pip has a region that is being scrubbed. -/
def scrubs (q : PipSt) : Bool := q.sp.regions.any fun e => e.2.valid && e.2.scrub

/-- The scrubbing of a pip, for which a field in F2 wakes (R143). -/
def scrubAct (p : Nat) (s : State) : State :=
  if !scrubs (pipOf s p) then s
  else autos ((List.range 16).map (.scrubDone p ·)) (if padAwake s p then modPip s p scrubLines else s)

/-- The users of a pip's banks below the streams, in the order of Table 5.2. -/
def banksAct (p : Nat) (s : State) : State :=
  let s := autos [.shortPathWrite p, .dmaWriterWrite p, .scratchpadWindowAccess p] s
  let s := forAll (List.range 5) (engineAct p) s
  scrubAct p (onPip s p (loadWrite s.cycle))

/-- What can complete on a pip, the watchdogs, and the end of its part of the job. -/
def completionsAct (p : Nat) (s : State) : State :=
  let s := goOn s (execTmodeComplete p s)
  autos [.tmmComplete p, .drainEnd p, .ringOpComplete p, .dmaComplete p false, .dmaComplete p true, .siglApply p, .jobLoadEnd p,
    .jobWatchdog p false, .jobWatchdog p true, .engineWatchdog p, .pipFinish p] s

/-- Flits leave a pip (R61, R115). -/
def sendsAct (p : Nat) (s : State) : State :=
  autos ((List.range 4).map (.meshFlitSend p · (s.cycle % 4096)) ++ [.shortFlitEnter p]) s

/-! ### Stacks (R279 to R292) -/

/-- The row of a schedule entry (Table 11.4); none for a SCRUB entry, which names no granule. -/
def entryRow (k g e : Nat) : Option Instr :=
  match bits e 2 0 with
  | 0 => some (.hbmIdle k g)
  | 1 => some (.hbmRead k g (bits e 19 8))
  | 2 => some (.hbmWrite k g (bits e 19 8))
  | 3 => some (.ref k g)
  | 4 => some (.host k g)
  | 5 => some (.stageIn k (bits e 19 8))
  | 6 => some (.stageOut k (bits e 19 8))
  | _ => none

/-- The entry finds nothing to do and its group has no slip: it leaves the stack as it was. -/
def entryIdle (s : State) (k g e : Nat) : Bool :=
  Tab.get 0 (stackSt s k).slip g = 0 && (bits e 2 0 = 0 || (bits e 2 0 = 4 && !s.hostq.any (hostHere k g)))

/-- The entry of a group in this slot has its turn. A SCRUB entry serves the first granule that has lines of the group to zero. -/
def entryAct (k g : Nat) (s : State) : State :=
  let e := schedNow s k g
  if entryIdle s k g e then s
  else match entryRow k g e with
    | some i => auto i s
    | none =>
      match (List.range 64).find? fun i => wantsScrub s (64 * k + i) g with
      | some i => auto (.scrub (64 * k + i)) s
      | none => idleScrub s k g

/-- The slot of a trained stack: each group's refresh that is due, and its entry. -/
def groupsAct (k : Nat) (s : State) : State :=
  if (stackSt s k).state ≠ 2 then s
  else forAll (List.range 16) (fun g s => entryAct k g (if sinceRef s k g < (stackSt s k).rint then s else auto (.refreshInsert k g) s)) s

/-- The row of a request of a staging buffer (R291, R292); a plain access, and what is no request, is served as an access. -/
def accessRow (k : Nat) (r : Req) : Instr :=
  if !(isReq r.addr && r.write) then .stagingAccess k
  else match rqAop r.bytes with
    | 0 => .stAdd k
    | 1 => .stSmin k
    | 2 => .stSmax k
    | 3 => .stUmin k
    | 4 => .stUmax k
    | 5 => .stSwap k
    | 6 => .stCas k
    | 8 => .stFadd k
    | 9 => .ordset k
    | _ => .stagingAccess k

/-- The accesses that the banks of a staging buffer serve in a cycle: at most `n`. -/
def accessesAct (k : Nat) : Nat → State → State
  | 0, s => s
  | n + 1, s => match nextAccess s k with | some (r, _) => accessesAct k n (auto (accessRow k r) s) | none => s

/-- One cycle of a stack: held adds, one a cycle, the accesses that have come, and lines that leave. -/
def stackAct (k : Nat) (s : State) : State :=
  let v := stackSt s k
  let s := match v.held.find? fun h => (readyAdd v h.slot).isSome with | some h => auto (.faddHeldApply k h.slot) s | none => s
  let s := accessesAct k v.stq.length s
  forAll (v.lines.map (·.1)) (fun r s => auto (.readLineReady k r) s) s

/-- The staging granules that are being zeroed, and the granules that have been (R275, R288). -/
def zeroingAct (s : State) : State :=
  let g (t : Tab Granule) : List Nat := (t.filter fun e => e.2.scrub).map (·.1)
  let s := forAll (g s.sgranules) zeroStaging s
  autos ((g s.granules).map (.granuleZeroed false ·) ++ (g s.sgranules).map (.granuleZeroed true ·)) s

/-- One cycle of an open collective channel (R336 to R342). -/
def chanAct (ch : Nat) (s : State) : State :=
  autos [.localStep ch, .abortMsg ch, .credit ch, .coll ch, .chunkSend ch, .clReduceComplete ch] s

/-- What the installation time brings (R303, R305, R306, R318, R324, R325): periods and epochs, what a link waited for, and the transmit
position that begins. -/
def linksAct (s : State) : State :=
  let ls := s.links.map (·.1)
  let s := forAll ls (fun l s => autos [.trainingRestart l, .wiringRetry l, .linkHold l, .linkDown l] s) (autos [.linkPeriod, .epochBoundary] s)
  if posNow s ≤ s.lnk.lastPos then s
  else
    let j := (posNow s % 8960).toNat
    forAll ls (fun l s => auto (.linkRunTransmit l j) (reservedAct j l s)) { s with lnk := { s.lnk with lastPos := posNow s } }

/-- One cycle of the hull's engines and channels (R369, R373, R377). -/
def hullAct (s : State) : State :=
  let busy := (s.hchans.filter fun e => e.2.state ≠ .idle).map (·.1)
  autos (if busy = [] then [] else [.engineTake false, .engineTake true] ++ busy.flatMap fun ch => [.hullLoadEnd ch, .execEnd ⟨ch, false⟩, .storeEnd ch, .wipeEnd ch]) s

/-- Recovery is over when its window ends (R432). -/
def recoveryAct (n : Nat) (s : State) : State :=
  let s := if (partSt s n).windows.any fun d => decide (s.cycle = d + windowLen s)
    then [execRecoveryIdle n, execWeightVerify n, execReopen n].foldl (fun s f => goOn s (f s)) s
    else s
  goOn s (execRecoveryWindowEnd n s)

/-- What power management and recovery do of themselves (R395, R398, R399, R404, R406, R408, R432). -/
def powerAct (s : State) : State :=
  let s := autos [.vinFault, .m1Entry, .pwrTimer] s
  let s := forAll (s.fields.map (·.1)) (fun f s => autos [.fieldGate f, .idleExpiry f, .vrNack f] s) s
  let steps (j : Job) : List Instr := (List.range (powerSteps (partSt s j.part)).length).map (.powerStepIssue j.id ·)
  let s := autos ((s.jobs.filter (·.phase ≠ .queued)).flatMap steps) s
  forAll ((s.parts.filter fun e => e.2.windows ≠ []).map (·.1)) recoveryAct s

/-- One cycle of the trace path (R444, R446). -/
def traceAct (s : State) : State :=
  let s := forAll (s.trc.egress.map (·.1)) (fun p s => goOn s (execTraceFlitSend p s)) s
  let s := forAll (s.trc.relay.map (·.1)) (fun p s => goOn s (execTraceRelay p s)) s
  if s.trc.period = 0 then s else goOn s (execSnapshot s)

/-! ### The cycle -/

/-- What is left of a cycle: the streams and units, the banks, completions, the mesh, the stacks, COPY lines and held updates. A slot's
entries have their turn in its last cycle. -/
def cycleWork (s : State) : State :=
  let s := forAll (busyPips s) streamsAct s
  let s := forAll (listedPips s) banksAct s
  let s := forAll (busyPips s) completionsAct s
  let s := forAll (listedPips s) sendsAct s
  let s := if slotAt s (s.cycle + 1) = slotNow s then s else forAll (List.range 12) groupsAct s
  let s := zeroingAct (forAll (s.hstacks.map (·.1)) stackAct s)
  let s := forAll s.cmds copyLine s
  let s := linksAct (autos ((s.links.filter fun e => e.2.msgs ≠ []).map fun e => .data e.1) s)
  let s := forAll ((s.chans.filter fun e => e.2.state ≠ 0).map (·.1)) chanAct s
  let s := traceAct (powerAct (hullAct s))
  let s := autos ((s.jobs.filter (·.phase = .draining)).map fun j => .keyDrainEnd j.id) s
  let s := autos (s.pods.flatMap fun e => [.residueCompare e.1 false, .residueCompare e.1 true]) s
  applyLate s

/-- The end of a cycle: stalls are counted (R45), waits and dependence marks are tested (R90). -/
def endCycle (s : State) : State :=
  let s := forAll (listedPips s) (fun p s => modPip s p account) s
  let s := forAll (busyPips s) (fun p s => forAll (List.range 5) (fun e s => testMark s p e) s) (testWaits s)
  let s := forAll (s.hstacks.map (·.1)) (fun k s => modStack s k fun v => { v with stUsed := [] }) s
  { s with adds := [], cycle := s.cycle + 1 }

/-- What has reached its end arrives, what was listed first first. -/
def arrivals (s : State) : State :=
  forAll (s.flight.filter fun f => decide (arrivesAt s.mod.map f ≤ s.cycle)) (fun f s =>
    let k := s.flight.findIdx (· = f)
    match f with
    | .credit _ _ _ _ => auto (.creditReturn k) s
    | _ => auto (.meshFlitArrive k) s) s

/-- What reads and loads under way bring in this cycle (R48, R76). -/
def landAll (c : Nat) (q : PipSt) : PipSt := applyDlds c (landFills c (commitWrites c q))

/-- The users above the access stream have their bank (R116, R141, R353). -/
def firstUsers (p : Nat) (s : State) : State :=
  let s := auto (.windowEscalation p) s
  if 8 ≤ (pipOf s p).net.shortBuf.length then auto (.shortPathWrite p) s else s

/-- The beginning of a cycle: queues are sampled (R43), what arrives is taken in, waits are released, jobs and streams start, and the
access stream's transfers make their accesses. -/
def beginCycle (s : State) : State :=
  let s := landTraces (arrivals (forAll (listedPips s) (fun p s => modPip s p sample) s))
  let s := forAll (listedPips s) (fun p s => modPip s p (landAll s.cycle)) s
  let s := autos (s.pods.map fun e => .keyHeaderCheck e.1) s
  let s := autos ((s.cmds.filter (·.met)).map fun k => .waitRelease k.ctx) s
  let s := autos (s.jobs.flatMap fun j => [.jobStart j.id, .streamStart j.id]) s
  let s := forAll (listedPips s) firstUsers s
  forAll (busyPips s) (fun p s => onPip s p (accessMoves s.cycle)) s

/-- A pip cycle passes (R443). [DESIGN CHOICE, log 1] -/
def tick (s : State) : State := beginCycle (endCycle (cycleWork s))

end Sys2Proof.Machine
end

