-- ==== Sys2Proof/Machine/Step.lean ====
section
/-!
DEFINITION. A step of the module: the command at the front of the queue, or one pip cycle where none waits (log 1).
-/
namespace Sys2Proof.Machine

/-- The first waiting command acts on the state whose queue is the rest; on an empty queue a cycle passes. [DESIGN CHOICE, log 1] -/
def step (s : State) : Host.Outcome State Fault Refusal :=
  match s.pending with
  | [] => .next (tick s)
  | c :: rest => exec c { s with pending := rest }

/-- The command that a word spells, put at the front of the queue; no word spells one. [DESIGN CHOICE, log 46] -/
def State.withFetchWord (s : State) (nbits w : Nat) : State :=
  match Sys2Proof.decodeTableWord nbits w with
  | some c => { s with pending := c :: s.pending }
  | none => s

end Sys2Proof.Machine
end

