-- ==== Sys2Proof/Safety.lean ====
section
/-!
DEFINITION. What claims are stated in: a command that answers a next state, the canonical form of memory, when an instruction of
a pip can issue and what it leaves, and what the end of work leaves alone.
-/
namespace Sys2Proof.Machine

/-- HBM and staging buffers keep their canonical form: addresses rise and no zero byte is listed (log 6). -/
def Memory.wf (s : State) : Bool := Tab.wf 0 s.hbm && Tab.wf 0 s.staging

/-- The queue is run for `n` steps that all answer next states. -/
def runs : Nat → State → Option State
  | 0, s => some s
  | n + 1, s => match step s with | .next t => runs n t | _ => none

/-- The command answers a next state, and `P` holds of it. -/
def Answers (c : Instr) (s : State) (P : State → Prop) : Prop := ∃ t, exec c s = .next t ∧ P t

/-- Instruction `i` is the one that stream `x` of pip `p` tries to issue in this cycle, and the programs of its job are loaded (R67, R68,
R102, R468). -/
def Ready (s : State) (p : Nat) (x : Bool) (i : Instr) : Prop := p < 10240 ∧ isNext s p x i = true ∧ canIssue s p = true

/-- Every other pip and the rest of the module are as before; the trace may have a record of the stall that an issue ends (R444). -/
def OnlyPip (s t : State) (p : Nat) : Prop :=
  t = { s with pips := t.pips, trc := t.trc } ∧ ∀ k, k ≠ p → pipOf t k = pipOf s k

/-- An instruction of stream `x` has passed issue with the effect `q` on its pip: control is at the next instruction, its DELTA counted from
this cycle (R44, R68, R69), and nothing else changes. -/
def Effect (s t : State) (p : Nat) (x : Bool) (q : PipSt) : Prop := pipOf t p = issued q x s.cycle ∧ OnlyPip s t p

/-- A control instruction of stream `x` has passed issue with the effect `q` on its pip: the stream is `u`, and nothing else changes. -/
def Jumps (s t : State) (p : Nat) (x : Bool) (u : StreamSt) (q : PipSt) : Prop :=
  pipOf t p = tried (setStream q x u) x ∧ OnlyPip s t p

/-- The instruction of stream `x` is held in this cycle by the causes `ws`: its stream goes no further (R17, R44, R45). -/
def Held (s t : State) (p : Nat) (x : Bool) (ws : List Stall) : Prop := ws ≠ [] ∧ t = setPip s p (heldPip (pipOf s p) x ws)

/-- The S registers `rs` of a pip can be read in this cycle (R50, R71). -/
def CanRead (s : State) (p : Nat) (rs : List Nat) : Prop := ∀ i ∈ rs, Tab.get 0 (pipOf s p).regs.sAt i ≤ s.cycle

/-- What the end of work leaves alone: all but pips, pods, stacks, what travels, jobs, commands, fields, partitions, channels, module
and fault registers, trace, messages sent, management events, draws of free values, and memory. -/
def State.lasting (s : State) : State :=
  { s with pips := [], pods := [], hstacks := [], flight := [], jobs := [], cmds := [], fields := [], parts := [], chans := [],
           mod := {}, flt := {}, trc := {}, out := [], mgt := {}, free := 0, hbm := [], hbmFlips := [], staging := [], stgFlips := [] }

/-- What a pip keeps when its job ends: all but its queues and operations, its engines, its attachments, its status, the job's
identity, statistics of a discarded drain, what it did in the present cycle, and bytes of its scratchpad. -/
def PipSt.last (p : PipSt) : PipSt :=
  { p with q := {}, ops := {}, eng := [], chn := {}, net := {}, st := {}, progId := 0, resident := false, job := 0,
           finished := false, cyc := {}, sp := { p.sp with mem := [], flips := [] }, ten := { p.ten with switchTo := 0 },
           acc := { p.acc with held := false }, exe := { p.exe with held := false } }

/-- What a pod keeps when work of its pips ends: all but the values and counts of its residue checker, its descriptors and the
state of its key gate. -/
def PodSt.last (v : PodSt) : PodSt :=
  { v with fwd := [], inv := [], pNttx := [], pIntx := [], pIntl := [], primes := [], odd := [], dueAt := [], nNttx := 0, nIntx := 0,
           nIntl := 0, unmatched := false, descs := [], kstate := 0, klead := false, khdr := [], kallow := [], kbad := false }

/-- The other pips keep what outlives a job, and so does the rest of the module: contexts, links, hosts, hull, power, start-up
registers, sync objects, granules. -/
def OthersLast (s t : State) (p : Nat) : Prop :=
  t.lasting = s.lasting ∧ ∀ k, k ≠ p → (pipOf t k).last = (pipOf s k).last

/-- A command `b` of context `c` has issued: it has left the commands read, the next must become ready anew, and it stands as
issued with status `code`, waiting or not (R97, R101). -/
def Issued (s t : State) (c : Nat) (b : List Byte) (code : Option Byte) (waiting : Bool) : Prop :=
  t.cmds = s.cmds ++ [{ id := s.nextId, ctx := c, bytes := b, code := code, waiting := waiting }] ∧ t.nextId = s.nextId + 1 ∧
  ctxSt t c = { ctxSt s c with ahead := (ctxSt s c).ahead.drop 1, readyAt := 0 } ∧ ∀ k, k ≠ c → ctxSt t k = ctxSt s k

/-- The command `b` at the head of context `c` issues: it has become ready, its partition is open and its fields awake, no job runs on a
pod that it names unless it queues one itself, and every check of R99 passes. -/
def MayIssue (s : State) (c opc : Nat) (b : List Byte) (form bounds : Bool) (own : Byte) : Prop :=
  c < 10240 ∧ readyHead s c opc = some b ∧ stillReady s c b = true ∧ (cmdRuns b = true ∨ (cmdPods b).any (podBusy s) = false) ∧
  checkCmd s c b form bounds own = eOk

/-- The byte of HBM or of the staging buffers at a module address. -/
def byteAt (s : State) (a : Nat) : Byte := (memRead s a 1).headD 0

/-- The bytes `bs` stand from address `a` on, and every other byte of HBM and of the staging buffers is as before. -/
def Writes (s t : State) (a : Nat) (bs : List Byte) : Prop :=
  ∀ x, byteAt t x = if a ≤ x ∧ x < a + bs.length then bs.getD (x - a) 0 else byteAt s x

/-- [a, a + n) lies in HBM, or in the staging buffers. -/
def OneMemory (a n : Nat) : Prop :=
  (isHbm a = true ∧ isHbm (a + n - 1) = true) ∨ (isStg a = true ∧ isStg (a + n - 1) = true)

/-- Jobs, commands, the registers of every pip and of every context, and the sync objects are as before. -/
def WorkAsBefore (s t : State) : Prop :=
  t.jobs = s.jobs ∧ t.cmds = s.cmds ∧ t.ctxs = s.ctxs ∧ t.syncs = s.syncs ∧ ∀ k, (pipOf t k).regs = (pipOf s k).regs

end Sys2Proof.Machine
end

