-- ==== Sys2Proof/Certificates/Slice0/Obligations.lean ====
section
/-!
DEFINITION. The statements about the module, for the provers. Each docstring gives what the statement says and the rules of the
specification it rests on; a clause that rests on a choice of the model names its log entry.
-/
open Sys2Proof Sys2Proof.Machine

/-- NOP, SWAP, AOP, LCSET, SOP, SSUM, LRXSET and SPUSH, each the next instruction of its stream with its sources readable, answer
a next state: the destination register, or the end of the SCQ, takes the value of Table 3.2 or 3.3, the product of a multiply
being readable three cycles later, every other register of the pip and everything else is unchanged, and the stream goes on to
its next instruction. (R41, R50, R59, R68, R71, R76, R80, R84, R181, R197, R257) -/
def Obligations.RegisterInstructions : Prop :=
  ∀ (s : State) (p d : Nat),
    (∀ x, Ready s p x (.nop p x d) → Answers (.nop p x d) s fun t => Effect s t p x (pipOf s p)) ∧
    (∀ h, h < 256 → (pipOf s p).descIn = true → Ready s p false (.swap p d h) →
      Answers (.swap p d h) s fun t => Effect s t p false (setDesc (pipOf s p) h (swapSel (descOf (pipOf s p) h)))) ∧
    (∀ o, aOk o = true → (o.fn = 3 → canPop (pipOf s p) qScq = true) → Ready s p false (.aop p d o) →
      Answers (.aop p d o) s fun t =>
        Effect s t p false (setA (if o.fn = 3 then popScq (pipOf s p) else pipOf s p) o.ad (aopValue (pipOf s p) o))) ∧
    (∀ x lc src reg imm, lcsetOk x lc src reg imm = true → (src = 2 → canPop (pipOf s p) qScq = true) →
      (x = true → src = 1 → CanRead s p [reg]) → Ready s p x (.lcset p x d lc src reg imm) →
      Answers (.lcset p x d lc src reg imm) s fun t =>
        Effect s t p x (setLc (if src = 2 then popScq (pipOf s p) else pipOf s p) x lc (lcsetValue (pipOf s p) x src reg imm))) ∧
    (∀ o, sOk o = true → CanRead s p (sopReads o) → Ready s p true (.sop p d o) →
      Answers (.sop p d o) s fun t =>
        Effect s t p true
          (let v := sopResult o (sReg (pipOf s p) o.sa) (sopB (pipOf s p) o) (sReg (pipOf s p) o.sd)
           if o.fn = 2 then setSAt (pipOf s p) o.sd v (s.cycle + 3) else setS (pipOf s p) o.sd v)) ∧
    (∀ sd which, sd < 32 → which < 4 → (pipOf s p).chn.readyAt ≤ s.cycle → Ready s p true (.ssum p d sd which) →
      Answers (.ssum p d sd which) s fun t => Effect s t p true (setS (pipOf s p) sd (summaryOf (pipOf s p).chn which))) ∧
    (∀ idx sa, idx < 64 → sa < 32 → CanRead s p [sa] → Ready s p true (.lrxset p d idx sa) →
      Answers (.lrxset p d idx sa) s fun t =>
        Effect s t p true
          { pipOf s p with regs := { (pipOf s p).regs with
              lrx := Tab.set 0 (pipOf s p).regs.lrx idx (BitVec.ofNat 8 (sReg (pipOf s p) sa).toNat) } }) ∧
    (∀ sa, sa < 32 → CanRead s p [sa] → canPut (pipOf s p) qScq 1 = true → Ready s p true (.spush p d sa) →
      Answers (.spush p d sa) s fun t =>
        Effect s t p true
          (let q := notePut (pipOf s p) qScq 1
           { q with q := { q.q with scq := q.q.scq ++ [sReg (pipOf s p) sa] } }))

/-- LOOP enters its body with the count of its loop register or passes the body by at count 0, BRF reads its condition, pops the
SCQ where it names it and enters the selected arm with the join at the later of its issue cycle plus PAD and the arm, END ends
its stream and the second END of a pip notes its cycle; nothing else changes. (R82, R83, R84, R85, R88, R68) -/
def Obligations.ControlInstructions : Prop :=
  ∀ (s : State) (p d : Nat) (x : Bool),
    (∀ level body, loopOk level body = true → Ready s p x (.loop p x d level body) →
      Answers (.loop p x d level body) s fun t =>
        Jumps s t p x (enterLoop (issueAt (streamOf (pipOf s p) x) s.cycle) level body (lcOf (pipOf s p) x level).toNat) (pipOf s p)) ∧
    (∀ o, bOk x o = true → (brfPops x o = true → canPop (pipOf s p) qScq = true) → (x = true → CanRead s p [o.cond]) →
      Ready s p x (.brf p x d o) →
      Answers (.brf p x d o) s fun t =>
        Jumps s t p x
          (enterArm (issueAt (streamOf (pipOf s p) x) s.cycle) (brfTest o.test (brfValue (pipOf s p) x o)) o.na o.nb o.pad)
          (if brfPops x o then popScq (pipOf s p) else pipOf s p)) ∧
    (Ready s p x (.endStream p x d) → Answers (.endStream p x d) s fun t =>
      Jumps s t p x { issueAt (streamOf (pipOf s p) x) s.cycle with ended := true }
        (if (streamOf (pipOf s p) (!x)).ended then { pipOf s p with endAt := s.cycle } else pipOf s p))

/-- The eighteen functions of SOP: arithmetic modulo 2^64, logic, shifts by the low six bits, signed and unsigned minimum and
maximum, compares that write 1 or 0, the second operand, and IMM into bits 63 to 40. A loop whose count is 0 is skipped:
control is where it would be after the last body instruction; else the first body instruction is next and the level runs count
times. A branch with an arm that is not empty goes to the arm's first instruction, with an empty one to the join, which issues
PAD cycles after the branch at the earliest. (R80, R82, R85, Table 3.3) -/
def Obligations.ScalarResults : Prop :=
  (∀ (o : SOp) (v w z : Word64),
    (o.fn = 0 → (sopResult o v w z).toNat = (v.toNat + w.toNat) % 2 ^ 64) ∧
    (o.fn = 1 → (sopResult o v w z).toNat = (v.toNat + 2 ^ 64 - w.toNat) % 2 ^ 64) ∧
    (o.fn = 2 → (sopResult o v w z).toNat = v.toNat * w.toNat % 2 ^ 64) ∧
    (o.fn = 3 → ∀ i, (sopResult o v w z).getLsbD i = (v.getLsbD i && w.getLsbD i)) ∧
    (o.fn = 4 → ∀ i, (sopResult o v w z).getLsbD i = (v.getLsbD i || w.getLsbD i)) ∧
    (o.fn = 5 → ∀ i, (sopResult o v w z).getLsbD i = (v.getLsbD i ^^ w.getLsbD i)) ∧
    (o.fn = 6 → (sopResult o v w z).toNat = v.toNat * 2 ^ (w.toNat % 64) % 2 ^ 64) ∧
    (o.fn = 7 → (sopResult o v w z).toNat = v.toNat / 2 ^ (w.toNat % 64)) ∧
    (o.fn = 8 → (sopResult o v w z).toInt = v.toInt / 2 ^ (w.toNat % 64)) ∧
    (o.fn = 9 → (sopResult o v w z).toInt = min v.toInt w.toInt) ∧
    (o.fn = 10 → (sopResult o v w z).toInt = max v.toInt w.toInt) ∧
    (o.fn = 11 → (sopResult o v w z).toNat = min v.toNat w.toNat) ∧
    (o.fn = 12 → (sopResult o v w z).toNat = max v.toNat w.toNat) ∧
    (o.fn = 13 → sopResult o v w z = if v = w then 1 else 0) ∧
    (o.fn = 14 → sopResult o v w z = if v.toInt < w.toInt then 1 else 0) ∧
    (o.fn = 15 → sopResult o v w z = if v.toNat < w.toNat then 1 else 0) ∧
    (o.fn = 16 → sopResult o v w z = w) ∧
    (o.fn = 17 → (sopResult o v w z).toNat = o.imm % 2 ^ 24 * 2 ^ 40 + z.toNat % 2 ^ 40)) ∧
  ∀ (u : StreamSt), u.loops = [] →
    (∀ level body count,
      (count = 0 → (enterLoop u level body count).pc = u.pc + body + 1 ∧ (enterLoop u level body count).loops = []) ∧
      (count ≠ 0 → (enterLoop u level body count).pc = u.pc + 1 ∧
        (enterLoop u level body count).loops = [⟨level, u.pc + 1, u.pc + body, count⟩])) ∧
    (∀ taken na nb pad,
      ((if taken then na else nb) = 0 →
        (enterArm u taken na nb pad).pc = u.pc + 1 + na + nb ∧ (enterArm u taken na nb pad).base = u.base + pad) ∧
      ((if taken then na else nb) ≠ 0 →
        (enterArm u taken na nb pad).pc = (if taken then u.pc + 1 else u.pc + 1 + na) ∧ (enterArm u taken na nb pad).base = u.base))

/-- For every well-formed instruction of either stream, its word, written from Tables 3.1 to 3.3, 3.5 and 8.4, has 64 bits and
decodes in the stream of the instruction to that instruction with every operand, so that no bit of a field is dropped or read
for another. (R67, R70, R76, R80, Table 3.1, Table 3.5, Table 8.4) -/
def Obligations.InstructionWords : Prop :=
  ∀ (i : Instr) (x : Bool) (w : Nat), i.wellFormed = true → encodeInstr i = some (x, w) →
    w < 2 ^ 64 ∧ ∃ p, p < 10240 ∧ decodeWord p x w = some i

/-- A transfer that is the next instruction, whose fields are in range and which keeps the rules of its descriptor, which no unit
or earlier transfer holds and whose first access is made in this cycle without ending the job, passes issue: it stands among
the transfers with what it latched, its descriptor and the value of AREG; with POST = 1 AREG advances by the positions its
accesses cover, 128 bytes each where RAW = 1, and no other register changes; the scratchpad, every other pip and the rest of
the module are as before, but for a credit that an MRCV sends back and the record of a stall. (R38, R73, R74, R75, R76, R77,
R78, R79) -/
def Obligations.TransferInstructions : Prop :=
  ∀ (s : State) (p d : Nat) (k : XKind) (o : QOp) (r : XRes),
    (match k with | .ldq => ldqOk o | .stq => stqOk o | .msnd => msndOk o | .mrcv => mrcvOk o) = true →
    issueRules (xferOf (pipOf s p) s.cycle k o) = true → xferBusy (pipOf s p) (xferOf (pipOf s p) s.cycle k o) = [] →
    xferStep (pipOf s p) s.cycle (xferOf (pipOf s p) s.cycle k o) = .moved r → r.fail = none → Ready s p false (match k with | .ldq => .ldq p d o | .stq => .stq p d o | .msnd => .msnd p d o | .mrcv => .mrcv p d o) →
    Answers (match k with | .ldq => .ldq p d o | .stq => .stq p d o | .msnd => .msnd p d o | .mrcv => .mrcv p d o) s fun t =>
      (pipOf t p).regs =
        (if o.post then
          setA (pipOf s p) o.areg (aReg (pipOf s p) o.areg + BitVec.ofNat 64
            ((if o.raw then 128 else 1) * match k with | .ldq | .stq => o.count | .msnd | .mrcv => (o.count + 1) / 2))
         else pipOf s p).regs ∧
      (pipOf t p).acc = nextInstr (issueAt (pipOf s p).acc s.cycle) ∧ (pipOf t p).exe = (pipOf s p).exe ∧
      (pipOf t p).sp = (pipOf s p).sp ∧ (pipOf t p).ten = (pipOf s p).ten ∧ (pipOf t p).rng = (pipOf s p).rng ∧
      (pipOf t p).chn = (pipOf s p).chn ∧ (pipOf t p).job = (pipOf s p).job ∧
      (∃ x, (pipOf t p).ops.xfers = (pipOf s p).ops.xfers ++ [x] ∧ x.id = (pipOf s p).ops.seq ∧ x.kind = k ∧
        x.base = (aReg (pipOf s p) o.areg).toNat ∧ x.desc = descOf (pipOf s p) o.handle ∧ x.count = o.count) ∧
      t = { s with pips := t.pips, trc := t.trc, flight := t.flight } ∧ ∀ n, n ≠ p → pipOf t n = pipOf s n

/-- DMA on an idle channel with aligned addresses holds the channel with what it latched; DMAW passes an idle channel; DLD reads a
line and its descriptor is in force three cycles later, valid only under R145, with zero watch counters; SIGL joins the held
increments; STRM gives an idle engine its record and makes it run, opens the key queue of engine 4, starts the key reader with
G0 the key address of the command on the pip where it runs, every key gate of the job opening with an empty header queue, or
passes once the engine is idle. (R76, R39, R94, R145, R183, R250, R256, R261, R263, R47) -/
def Obligations.DmaAndDescriptorInstructions : Prop :=
  ∀ (s : State) (p d : Nat),
    (∀ o : DOp, dOk o = true → dmaBusy (pipOf s p) o.ch = false → (o.raw = true ∨ (pipOf s p).descIn = true) →
      (aReg (pipOf s p) o.ahbm).toNat % 128 = 0 →
      (if o.raw then (aReg (pipOf s p) o.asp).toNat % 128 = 0
        else dValid (descOf (pipOf s p) o.handle) = true →
          dWord (descOf (pipOf s p) o.handle) = false ∧ dEbc (descOf (pipOf s p) o.handle) = false) →
      Ready s p false (.dma p d o) →
      Answers (.dma p d o) s fun t =>
        Effect s t p false
          (let q := setDma (pipOf s p) o.ch (some ⟨(pipOf s p).ops.seq, o.dir, (aReg (pipOf s p) o.ahbm).toNat,
            (aReg (pipOf s p) o.asp).toNat, o.raw, descOf (pipOf s p) o.handle, o.len, 0, 0⟩)
           { q with ops := { q.ops with seq := q.ops.seq + 1 } }) ∧
        dmaOf (pipOf t p) (!o.ch) = dmaOf (pipOf s p) (!o.ch)) ∧
    (∀ ch, dmaBusy (pipOf s p) ch = false → Ready s p false (.dmaw p d ch) →
      Answers (.dmaw p d ch) s fun t => Effect s t p false (pipOf s p)) ∧
    (∀ h areg, h < 256 → areg < 16 → (pipOf s p).descIn = true → lineWait (pipOf s p) (aReg (pipOf s p) areg).toNat = [] →
      (let a := (aReg (pipOf s p) areg).toNat
       let r := spRead (takeBank (pipOf s p) a) a 128
       a % 128 = 0 → inRegion (pipOf s p).sp (pipOf s p).st.context a 128 = true → r.2.fail = none →
       Ready s p false (.dld p d h areg) →
       Answers (.dld p d h areg) s fun t =>
         Effect s t p false
           { r.2.p with ops := { r.2.p.ops with
               dlds := (pipOf s p).ops.dlds ++ [⟨s.cycle + 3, h, keepDesc (BitVec.ofNat 512 (ofBytes (r.1.take 64)))⟩] } } ∧
         (pipOf t p).regs = (pipOf s p).regs)) ∧
    (∀ (q : PipSt) (x : DldOp) (c : Nat), q.ops.dlds = [x] →
      (c < x.due → applyDlds c q = q) ∧
      (x.due ≤ c → (applyDlds c q).regs.desc = Tab.set 0 q.regs.desc x.handle x.desc ∧
        Tab.get {} (applyDlds c q).watch x.handle = {} ∧ (applyDlds c q).ops.dlds = [])) ∧
    (∀ obj add, siglOk obj add = true → jobOwnsSync s p obj = true → Ready s p false (.sigl p d obj add) →
      Answers (.sigl p d obj add) s fun t =>
        Effect s t p false
          { pipOf s p with ops := { (pipOf s p).ops with
              sigls := (pipOf s p).ops.sigls ++ [⟨(pipOf s p).ops.seq, obj, add⟩] } }) ∧
    (∀ areg e, areg < 16 → e ≤ 3 → startWait (pipOf s p) (aReg (pipOf s p) areg).toNat e = [] →
      (let a := (aReg (pipOf s p) areg).toNat
       let r := spRead (takeBank (pipOf s p) a) a 128
       a % 128 = 0 → inRegion (pipOf s p).sp (pipOf s p).st.context a 128 = true → r.2.fail = none →
       Ready s p false (.strmStart p d areg e) →
       Answers (.strmStart p d areg e) s fun t =>
         Effect s t p false (setEng r.2.p e (startedEngine (pipOf s p) a s.cycle (engOf (pipOf s p) e).g r.1)) ∧
         (pipOf t p).regs = (pipOf s p).regs ∧ (engOf (pipOf t p) e).running = true ∧ (engOf (pipOf t p) e).started = false ∧
         (engOf (pipOf t p) e).g = (engOf (pipOf s p) e).g)) ∧
    (∀ areg j, areg < 16 → jobOfPip s p = some j → (jobKind j).isSome = true → p ≠ readerPip j →
      Ready s p false (.strmStart p d areg 4) →
      Answers (.strmStart p d areg 4) s fun t =>
        Effect s t p false (openKeys (pipOf s p)) ∧ (pipOf t p).st.kopen = true) ∧
    (∀ areg j, areg < 16 → jobOfPip s p = some j → (jobKind j).isSome = true → p = readerPip j →
      startWait (pipOf s p) (aReg (pipOf s p) areg).toNat 4 = [] →
      (let a := (aReg (pipOf s p) areg).toNat
       a % 128 = 0 → inRegion (pipOf s p).sp (pipOf s p).st.context a 128 = true →
       (spRead (takeBank (pipOf s p) a) a 128).2.fail = none → Ready s p false (.strmStart p d areg 4) →
       Answers (.strmStart p d areg 4) s fun t =>
         (engOf (pipOf t p) 4).running = true ∧ gReg (engOf (pipOf t p) 4) 0 = BitVec.ofNat 64 (ctKaddr j.payload) ∧
         (pipOf t p).st.kopen = true ∧ (∀ k, (pipOf t k).regs = (pipOf s k).regs) ∧ (∀ k ∈ jobPips j, (pipOf t k).q.kq = []) ∧
         ∀ k ∈ jobPods j, (podSt t k).kstate = 1 ∧ (podSt t k).khdr = [] ∧ (podSt t k).knext = 0 ∧
           (podSt t k).klead = decide (k = leadPod j))) ∧
    (∀ e, e ≤ 3 → (engOf (pipOf s p) e).running = false → Ready s p false (.strmWait p d e) →
      Answers (.strmWait p d e) s fun t => Effect s t p false (pipOf s p)) ∧
    (∀ j, jobOfPip s p = some j → (jobKind j).isSome = true → keysComing s j = false → Ready s p false (.strmWait p d 4) →
      Answers (.strmWait p d 4) s fun t => Effect s t p false (pipOf s p))

/-- SLD writes SD with SIZE bytes of the word its address lies in, where the swizzle of its descriptor places it, zero-extended
and readable three cycles later; SST is held by its bank from two cycles later on and then changes exactly SIZE bytes, to the
low bytes of SD, and no other byte of any memory; a word with more than one bit in error is out of these clauses. (R49, R50,
R73, R75, R80, R136, R137, R150, R151) -/
def Obligations.NarrowAccesses : Prop :=
  ∀ (s : State) (p d : Nat) (o : NOp), nOk o = true → narrowCheck (pipOf s p) o = none →
    (let q := pipOf s p
     let a := narrowAddr q o
     let w := placeOf (narrowSwz q o) a.toNat
     let n := 2 ^ o.size
     (narrowWait q s.cycle o [o.sa] false = [] → (readCode q.sp w).ue = false → Ready s p true (.sld p d o) →
      Answers (.sld p d o) s fun t =>
        Effect s t p true
          (setSAt (noteRead (takeBank q a) w (readCode q.sp w)).p o.sd
            (BitVec.ofNat 64 ((readCode q.sp w).word.toNat / 2 ^ (8 * (a.toNat % 8)) % 2 ^ (8 * n))) (s.cycle + 3)) ∧
        (pipOf t p).sp = q.sp) ∧
     (narrowWait q s.cycle o [o.sa, o.sd] true = [] → popCount 72 (Tab.get 0 q.sp.flips w).toNat ≤ 1 → Ready s p true (.sst p d o) →
      Answers (.sst p d o) s fun t =>
        OnlyPip s t p ∧ (pipOf t p).regs = q.regs ∧ (pipOf t p).sp = q.sp ∧ (pipOf t p).acc = q.acc ∧
        (pipOf t p).exe = nextInstr (issueAt q.exe s.cycle) ∧
        ∃ ws, (pipOf t p).ops = { q.ops with writes := q.ops.writes ++ [⟨s.cycle + 2, 0, ws⟩] } ∧
          (∀ i, i < n → Tab.get 0 (storeWords q ws).sp.mem (8 * w + a.toNat % 8 + i) =
            BitVec.ofNat 8 ((sReg q o.sd).toNat / 2 ^ (8 * i))) ∧
          ∀ b, b < 8 * w + a.toNat % 8 ∨ 8 * w + a.toNat % 8 + n ≤ b →
            Tab.get 0 (storeWords q ws).sp.mem b = Tab.get 0 q.sp.mem b))

/-- While the programs of a job load, the next instruction of either stream is held as a busy unit; SPUSH is held while the SCQ is
full, SSUM while the summaries cannot be read, DMAW while its channel is busy. At the end of a cycle each stream that was held
counts once and the lowest cause is recorded. An instruction with operands out of range, of which the transfers stand here, a
transfer that breaks a rule of its descriptor and an access that fails end the job with the code that the rule names, E_DESC
for a descriptor not marked valid; where a check of a narrow access fails, SLD and SST end the job with the code of that
check, E_DESC for a misaligned address and else E_DESC or E_BOUNDS, and write nothing. (R17, R39, R45, R46, R59, R70, R71,
R73, R75, R86, R150, R468) -/
def Obligations.InstructionsHeldOrRefused : Prop :=
  (∀ (s : State) (p d : Nat),
    (∀ x i, p < 10240 → isNext s p x i = true → canIssue s p = false → Answers i s fun t => Held s t p x [⟨causeBusy, 0⟩]) ∧
    (∀ sa, sa < 32 → CanRead s p [sa] → canPut (pipOf s p) qScq 1 = false → Ready s p true (.spush p d sa) →
      Answers (.spush p d sa) s fun t => Held s t p true [⟨causeScq, 0⟩]) ∧
    (∀ sd which, sd < 32 → which < 4 → s.cycle < (pipOf s p).chn.readyAt → Ready s p true (.ssum p d sd which) →
      Answers (.ssum p d sd which) s fun t => Held s t p true [⟨causeReg, 0⟩]) ∧
    (∀ ch, dmaBusy (pipOf s p) ch = true → Ready s p false (.dmaw p d ch) →
      Answers (.dmaw p d ch) s fun t => Held s t p false [⟨causeBusy, 0⟩]) ∧
    (∀ k o, (match k with | XKind.ldq => ldqOk o | .stq => stqOk o | .msnd => msndOk o | .mrcv => mrcvOk o) = false →
      Ready s p false (match k with | .ldq => .ldq p d o | .stq => .stq p d o | .msnd => .msnd p d o | .mrcv => .mrcv p d o) →
      Answers (match k with | .ldq => .ldq p d o | .stq => .stq p d o | .msnd => .msnd p d o | .mrcv => .mrcv p d o) s fun t =>
        t = settle s p ⟨pipOf s p, some eDesc, stallFx (pipOf s p) false⟩) ∧
    (∀ k o, (match k with | .ldq => ldqOk o | .stq => stqOk o | .msnd => msndOk o | .mrcv => mrcvOk o) = true → xferBusy (pipOf s p) (xferOf (pipOf s p) s.cycle k o) = [] →
      issueRules (xferOf (pipOf s p) s.cycle k o) = false → Ready s p false (match k with | .ldq => .ldq p d o | .stq => .stq p d o | .msnd => .msnd p d o | .mrcv => .mrcv p d o) →
      Answers (match k with | .ldq => .ldq p d o | .stq => .stq p d o | .msnd => .msnd p d o | .mrcv => .mrcv p d o) s fun t =>
        t = settle s p ⟨pipOf s p, some eDesc, stallFx (pipOf s p) false⟩) ∧
    (∀ k o r c, (match k with | .ldq => ldqOk o | .stq => stqOk o | .msnd => msndOk o | .mrcv => mrcvOk o) = true → issueRules (xferOf (pipOf s p) s.cycle k o) = true →
      xferBusy (pipOf s p) (xferOf (pipOf s p) s.cycle k o) = [] →
      xferStep (pipOf s p) s.cycle (xferOf (pipOf s p) s.cycle k o) = .moved r → r.fail = some c → c ≠ eKeyset → r.fx.any isUe = false →
      Ready s p false (match k with | .ldq => .ldq p d o | .stq => .stq p d o | .msnd => .msnd p d o | .mrcv => .mrcv p d o) →
      (usesPad (xferOf (pipOf s p) s.cycle k o) = true → o.raw = false → dValid (descOf (pipOf s p) o.handle) = false → c = eDesc) ∧
      Answers (match k with | .ldq => .ldq p d o | .stq => .stq p d o | .msnd => .msnd p d o | .mrcv => .mrcv p d o) s fun t =>
        (pipOf t p).job = 0 ∧ (pipOf t p).st.lastCode = c ∧ (pipOf t p).ops = {} ∧ t.lasting = s.lasting) ∧
    (∀ o c, nOk o = true → narrowCheck (pipOf s p) o = some c →
      (c = eDesc ∨ c = eBounds) ∧
      (o.raw = true → narrowAddr (pipOf s p) o % (2 ^ o.size : Nat) ≠ 0 → c = eDesc) ∧
      (narrowWait (pipOf s p) s.cycle o [o.sa] false = [] → Ready s p true (.sld p d o) →
        Answers (.sld p d o) s fun t => t = settle s p ⟨pipOf s p, some c, stallFx (pipOf s p) true⟩) ∧
      (narrowWait (pipOf s p) s.cycle o [o.sa, o.sd] true = [] → Ready s p true (.sst p d o) →
        Answers (.sst p d o) s fun t => t = settle s p ⟨pipOf s p, some c, stallFx (pipOf s p) true⟩))) ∧
  ∀ (q : PipSt),
    (account q).cnt.astall = bump q.cnt.astall (if (q.cyc.holds.any fun h => !h.1) then 1 else 0) ∧
    (account q).cnt.xstall = bump q.cnt.xstall (if (q.cyc.holds.any fun h => h.1) then 1 else 0) ∧
    (account q).regs = q.regs ∧ (q.cyc.holds = [] → (account q).st = q.st) ∧
    (q.cyc.holds ≠ [] → ∃ h ∈ q.cyc.holds, (account q).st.cause = h.2.cause % 16 ∧ (account q).st.stream = h.1 ∧
      ∀ g ∈ q.cyc.holds, h.2.cause % 16 ≤ g.2.cause % 16)

/-- If no transfer of a pip writes the scratchpad, a cycle of its transfers and a cycle of the units of its execute stream leave
every byte of it, every error of its words and the writes on their way to the banks as before. An access of a raw STQ pops the
entry at the head of its store queue, which its bank holds two cycles later, unconverted, as the 128 bytes at AREG + 128 times
its index, and no other byte; it adds to no watch counter. A line written through one swizzle reads through another as the
words whose numbers are XORed with both. (R48, R73, R76, R122, R135, R147, R151, R152, R182, R186, R214) -/
def Obligations.StoresOfTransfers : Prop :=
  (∀ (q : PipSt) (c pip : Nat),
    ((∀ x ∈ q.ops.xfers, xferWrites x = false) →
      (accessMoves c q).p.sp = q.sp ∧ (accessMoves c q).p.ops.writes = q.ops.writes ∧
      ∀ x ∈ (accessMoves c q).p.ops.xfers, xferWrites x = false) ∧
    (executeMoves c pip q).p.sp = q.sp ∧ (executeMoves c pip q).p.ops.writes = q.ops.writes) ∧
  (∀ (q : PipSt) (c : Nat) (x : Xfer) (r : XRes) (e : Line) (l : List Line), x.kind = .stq → x.raw = true → x.idx = false →
    x.base % 128 = 0 → x.done < x.count → Tab.get [] q.q.sq (x.qsel - 8) = e :: l → xferStep q c x = .moved r → r.fail = none →
    r.p.sp = q.sp ∧ Tab.get [] r.p.q.sq (x.qsel - 8) = l ∧ r.p.watch = q.watch ∧ r.x.done = x.done + 1 ∧
    ∃ ws, r.p.ops.writes = q.ops.writes ++ [⟨c + 2, x.id + 1, ws⟩] ∧
      (∀ i, i < 128 → Tab.get 0 (storeWords q ws).sp.mem (x.base + 128 * x.done + i) = BitVec.ofNat 8 (e.toNat / 2 ^ (8 * i))) ∧
      ∀ b, b < x.base + 128 * x.done ∨ x.base + 128 * x.done + 128 ≤ b →
        Tab.get 0 (storeWords q ws).sp.mem b = Tab.get 0 q.sp.mem b) ∧
  ∀ (q : PipSt) (l g h : Nat) (bs : List Byte), bs.length = 128 →
    (readAt (storeWords q (padWords g (128 * l) bs)) h (128 * l) 128).1 =
      (List.range 16).flatMap fun w => slice bs (8 * (w ^^^ swzG g l ^^^ swzG h l)) 8

/-- TLW pops its first entry of LQ1 into the shadow weight set at the fill position in the cycle of issue and one more in each
cycle that finds an entry, a cycle without one being a stall; TSW exchanges the two sets and the next TLW fills from position
0, in modular matrix mode only if the new active set passes its check, else the job ends with E_DESC; TMODE selects the mode,
and the array accepts nothing for 8 cycles; TMODE_COMPLETE after them ends the switch. (R39, R52, R55, R66, R80, R223) -/
def Obligations.WeightAndModeInstructions : Prop :=
  ∀ (s : State) (p d : Nat),
    (∀ n, 1 ≤ n → n ≤ 16 → switches (pipOf s p) s.cycle = false → (pipOf s p).ops.tlw = none →
      ((pipOf s p).ten.tmode = true → n = 3) → canPop (pipOf s p) 1 = true → Ready s p true (.tlw p d n) →
      Answers (.tlw p d n) s fun t =>
        Effect s t p true (tlwPop (pipOf s p) s.cycle ⟨n, s.cycle, {}⟩) ∧ (pipOf t p).regs = (pipOf s p).regs) ∧
    (∀ (q : PipSt) (c : Nat) (op : TlwOp), q.ops.tlw = some op →
      Tab.get [] (tlwPop q c op).q.lq 1 = (Tab.get [] q.q.lq 1).drop 1 ∧
      Tab.get {} (tlwPop q c op).ten.shadow q.ten.fill = (Tab.get [] q.q.lq 1).headD {} ∧
      (tlwPop q c op).ten.fill = (if q.ten.fill = (if q.ten.tmode then 2 else 15) then 0 else q.ten.fill + 1) ∧
      (tlwPop q c op).ten.active = q.ten.active ∧ (tlwPop q c op).regs = q.regs ∧ (tlwPop q c op).sp = q.sp ∧
      (tlwPop q c op).ops.tlw = (if op.left ≤ 1 then none else some ⟨op.left - 1, c + 1, {}⟩) ∧
      (op.due ≤ c → canPop q 1 = true → (tlwMove c q).p = tlwPop q c op ∧ (tlwMove c q).fail = none) ∧
      (op.due ≤ c → canPop q 1 = false → (tlwMove c q).p.ten = q.ten ∧ (tlwMove c q).p.q = q.q ∧
        (tlwMove c q).p.cyc.holds = q.cyc.holds ++ [(true, ⟨causeLq, 1⟩)])) ∧
    (switches (pipOf s p) s.cycle = false → rowsToEnter (pipOf s p) = false → (pipOf s p).ops.tlw = none →
      Ready s p true (.tsw p d) →
      (((pipOf s p).ten.tmode = true → modSetOk (pipOf s p).ten.shadow = true) →
        Answers (.tsw p d) s fun t =>
          Effect s t p true { pipOf s p with ten := { (pipOf s p).ten with
            active := (pipOf s p).ten.shadow, shadow := (pipOf s p).ten.active, fill := 0 } }) ∧
      ((pipOf s p).ten.tmode = true → modSetOk (pipOf s p).ten.shadow = false →
        Answers (.tsw p d) s fun t =>
          (pipOf t p).job = 0 ∧ (pipOf t p).st.lastCode = eDesc ∧ (pipOf t p).regs = (pipOf s p).regs)) ∧
    (∀ m, switches (pipOf s p) s.cycle = false → (pipOf s p).ops.tmms.any (tmmLive s.cycle) = false →
      chainBusy (pipOf s p) = false → (pipOf s p).ops.tlw = none → Ready s p true (.tmode p d m) →
      Answers (.tmode p d m) s fun t =>
        pipOf t p = issued (switchMode m s.free s.cycle (pipOf s p)) true s.cycle ∧
        (pipOf t p).ten.tmode = m ∧ (pipOf t p).ten.switchTo = s.cycle + 8 ∧ (pipOf t p).ten.fill = 0 ∧
        (pipOf t p).q = (pipOf s p).q ∧ (pipOf t p).sp = (pipOf s p).sp ∧ (pipOf t p).regs = (pipOf s p).regs ∧
        t = { s with pips := t.pips, trc := t.trc, free := s.free + 96 } ∧ ∀ k, k ≠ p → pipOf t k = pipOf s k) ∧
    (∀ (q : PipSt) (c : Nat), switches q c = decide (c < q.ten.switchTo) ∧
      (switchMove c q).cnt.tbusy = (if c < q.ten.switchTo then bump q.cnt.tbusy 1 else q.cnt.tbusy)) ∧
    (p < 10240 → (pipOf s p).ten.switchTo ≤ s.cycle → Answers (.tmodeComplete p) s fun t =>
      t = setPip s p { pipOf s p with ten := { (pipOf s p).ten with switchTo := 0 } })

/-- A TMM whose formats suit the mode enters its first row in the cycle of issue and one row in each cycle that finds its entries;
in float-and-integer mode a row's sums are those of the canonical order over the active weight set, in modular matrix mode
those of the matrix mapping; at the end of the sixth cycle after it entered, a row is added to its row of the named buffer, in
FP32 or modulo the column primes, with CLR in place of what the buffer held; the other buffer is unchanged; TMM_COMPLETE takes
the oldest tile multiply whose last row has been added. (R51, R53, R58, R81, R178, R185, R224, R225, R226) -/
def Obligations.TileMultiplies : Prop :=
  ∀ (s : State) (p d : Nat),
    (∀ acc clr fa fw, tmmCodesOk fa fw = true → switches (pipOf s p) s.cycle = false → rowsToEnter (pipOf s p) = false →
      drainReads (pipOf s p) acc = false → tmmModeOk (pipOf s p) fa fw = true →
      tmmStall (pipOf s p) (ringTakesKey (pipOf s p) s.cycle) { acc := acc, clr := clr, fmtA := fa, fmtW := fw } = [] →
      Ready s p true (.tmm p d acc clr fa fw) →
      Answers (.tmm p d acc clr fa fw) s fun t =>
        Effect s t p true (startTmm (pipOf s p) s.cycle { acc := acc, clr := clr, fmtA := fa, fmtW := fw }) ∧
        (pipOf t p).regs = (pipOf s p).regs ∧ (pipOf t p).sp = (pipOf s p).sp ∧
        (if acc then (pipOf t p).ten.t1 else (pipOf t p).ten.t0) = (if (pipOf s p).ten.tmode then 1 else fmtT fw) ∧
        ((pipOf s p).ten.tmode = false →
          (pipOf t p).ops.upds = (pipOf s p).ops.upds ++
            [⟨s.cycle + 6, acc, 0, 0, clr, [], rowSums fa fw ((Tab.get [] (pipOf s p).q.lq 0).headD {}) 0 (pipOf s p).ten.active⟩] ∧
          Tab.get [] (pipOf t p).q.lq 0 = (Tab.get [] (pipOf s p).q.lq 0).drop 1)) ∧
    (∀ (q : PipSt) (c : Nat) (op : TmmOp), q.ops.tmms.find? (fun o => decide (o.row < 32)) = some op → op.due ≤ c →
      tmmStall q (decide (0 < Tab.get 0 q.cyc.pops qKey)) op = [] → q.ten.tmode = false →
      (tmmMove c q).fail = none ∧ (tmmMove c q).p.ten = q.ten ∧ (tmmMove c q).p.regs = q.regs ∧
      (tmmMove c q).p.ops.upds = q.ops.upds ++
        [⟨c + 6, op.acc, op.row, 0, op.clr, [],
          rowSums op.fmtA op.fmtW (if op.row % rowsPerEntry op.fmtA = 0 then (Tab.get [] q.q.lq 0).headD {} else op.entry) op.row
            q.ten.active⟩]) ∧
    (∀ (ten : Tensor) (u : AccUpd),
      (applyUpd ten u).active = ten.active ∧ (applyUpd ten u).shadow = ten.shadow ∧
      (if u.acc then (applyUpd ten u).acc0 = ten.acc0 else (applyUpd ten u).acc1 = ten.acc1) ∧
      (let old := if u.acc then ten.acc1 else ten.acc0
       let new := if u.acc then (applyUpd ten u).acc1 else (applyUpd ten u).acc0
       (u.clr = false → ∀ m, m ≠ u.row → Tab.get 0 new m = Tab.get 0 old m) ∧
       (∀ j, j < 128 → u.col ≤ j → j < u.col + u.ws.length → u.qs = [] →
         nth (rowWords (Tab.get 0 new u.row)) j 0 =
           (if u.clr then nth u.ws (j - u.col) 0 else f32add (nth (rowWords (Tab.get 0 old u.row)) j 0) (nth u.ws (j - u.col) 0))) ∧
       (∀ j, j < 128 → (j < u.col ∨ u.col + u.ws.length ≤ j) → u.clr = false →
         nth (rowWords (Tab.get 0 new u.row)) j 0 = nth (rowWords (Tab.get 0 old u.row)) j 0))) ∧
    (∀ (q : PipSt) (c : Nat), (∀ u ∈ q.ops.upds, c < u.due) → applyUpds c q = q) ∧
    (∀ o l, (pipOf s p).ops.tmms = o :: l → 32 ≤ o.row → o.last < s.cycle → p < 10240 →
      Answers (.tmmComplete p) s fun t => t = setPip s p { pipOf s p with ops := { (pipOf s p).ops with tmms := l } })

/-- A TDRN whose configuration passes every check starts a drain with the buffer, chain, store queue and configuration it names,
its first entry due in the cycle of issue; one that fails a check ends the job with E_DESC and shows the chain and the check.
A cycle of a drain that nothing stalls appends what it pushes to the store queues, data to the named one and masks and
statistics to the other; with the last data push its count, maximum and index of the maximum become the summaries, readable
two cycles later, and a statistics drain that finishes is complete; a cycle that something stalls leaves queues and statistics
and counts. After the last push the chain becomes free. (R53, R54, R56, R186, R187, R191, R196, R197, R198, R200, R468) -/
def Obligations.Drains : Prop :=
  ∀ (s : State) (p d : Nat),
    (∀ acc chain sq, chain < 16 → (pipOf s p).chainIn = true → chainBusy (pipOf s p) = false →
      accPending (pipOf s p) s.cycle acc (cfgOf (pipOf s p).chn chain) = false → Ready s p true (.tdrn p d acc chain sq) →
      (cfgFail (pipOf s p).chn (cfgOf (pipOf s p).chn chain) = 0 →
        Answers (.tdrn p d acc chain sq) s fun t =>
          Effect s t p true (drainStart (freeChain (pipOf s p)) s.cycle acc sq chain) ∧
          (pipOf t p).regs = (pipOf s p).regs ∧ (pipOf t p).q = (pipOf s p).q ∧ (pipOf t p).sp = (pipOf s p).sp ∧
          ∃ o, (pipOf t p).ops.drain = some o ∧ o.acc = acc ∧ o.chain = chain ∧ o.sq = sq ∧
            o.cfg = cfgOf (pipOf s p).chn chain ∧ o.t = 0 ∧ o.due = s.cycle) ∧
      (cfgFail (pipOf s p).chn (cfgOf (pipOf s p).chn chain) ≠ 0 →
        Answers (.tdrn p d acc chain sq) s fun t =>
          (pipOf t p).regs = (pipOf s p).regs ∧ (pipOf t p).job = 0 ∧ (pipOf t p).st.lastCode = eDesc ∧
          (pipOf t p).st.refused = true ∧ (pipOf t p).st.chain = chain ∧
          (pipOf t p).st.check = cfgFail (pipOf s p).chn (cfgOf (pipOf s p).chn chain))) ∧
    (∀ (q : PipSt) (c : Nat) (op : DrainOp), q.ops.drain = some op → op.due ≤ c → op.t ≤ drainLast op →
      (drainStall q op = [] →
        (drainMove c q).fail = none ∧ (drainMove c q).p.regs = q.regs ∧ (drainMove c q).p.sp = q.sp ∧
        (∀ x, Tab.get [] (drainMove c q).p.q.sq (b2n x) =
          Tab.get [] q.q.sq (b2n x) ++ ((drainPushes q.chn op).filter fun e => e.1 = x).map (·.2)) ∧
        (∃ o, (drainMove c q).p.ops.drain = some o ∧ o.t = op.t + 1) ∧
        (cStload op.cfg = false → op.t = dataEnd op →
          summaryOf (drainMove c q).p.chn 0 = BitVec.ofNat 64 op.cnt ∧
          summaryOf (drainMove c q).p.chn 1 = (if op.cnt ≠ 0 then 1 else 0) ∧
          summaryOf (drainMove c q).p.chn 2 = BitVec.ofNat 64 (op.best.getD (0, 0)).1.toNat ∧
          summaryOf (drainMove c q).p.chn 3 = BitVec.ofNat 64 (op.best.getD (0, 0)).2 ∧
          (drainMove c q).p.chn.readyAt = c + 2 ∧
          (cRstat op.cfg = 3 → (drainMove c q).p.chn.complete = true ∧ (drainMove c q).p.chn.open_ = false))) ∧
      (drainStall q op ≠ [] →
        (drainMove c q).p.q = q.q ∧ (drainMove c q).p.chn = q.chn ∧ (drainMove c q).p.ten = q.ten ∧
        (drainMove c q).p.cnt.drainStall = bump q.cnt.drainStall 1)) ∧
    (∀ o, (pipOf s p).ops.drain = some o → drainLast o < o.t → p < 10240 →
      Answers (.drainEnd p) s fun t =>
        t = setPip s p { pipOf s p with
          ops := { (pipOf s p).ops with drain := none },
          cnt := { (pipOf s p).cnt with drain := bump (pipOf s p).cnt.drain 1 } })

/-- Each RING function on an idle unit whose slot passes its check starts that function on the slot and moves the slot cursor by
its limbs modulo PCOUNT, KMAC leaving the cursor and KOUT moving it by one; nothing else changes. A slot that fails its check
ends the job with E_DESC. EADD, ESUB and EMUL give sum, difference and Montgomery product of the words of even and odd entries
modulo the limb's prime, MULC the product with the limb's constant, TOMONT and FROMMONT the two conversions; the last cycle of
a KOUT leaves both planes zero. After the last result the unit becomes free. (R210, R211, R212, R213, R214, R221, R222, R227,
Table 8.4) -/
def Obligations.RingInstructions : Prop :=
  ∀ (s : State) (p d : Nat),
    (∀ i rfn o, (i, rfn) ∈ [(Instr.nttl p d o, 0x0), (.nttx p d o, 0x1), (.intx p d o, 0x2), (.intl p d o, 0x3), (.eadd p d o, 0x4),
        (.esub p d o, 0x5), (.emul p d o, 0x6), (.mulc p d o, 0x7), (.kmac p d o, 0x8), (.auto p d o, 0x9), (.tomont p d o, 0xA),
        (.frommont p d o, 0xB), (.kout p d o, 0xC)] →
      gOk o = true → ringReady (pipOf s p) s.cycle = true → ringBusy (pipOf s p) = false → Ready s p true i →
      (slotOk (pipOf s p).rng.image o.rslot = true → (rfn = 0xC → o.count = 1) →
        (rfn = 0x9 → slotGexp (pipOf s p).rng.image o.rslot ≠ 0) →
        Answers i s fun t =>
          let cur := Tab.get 0 (pipOf s p).rng.cursors o.rslot
          let next := if rfn = 0x8 then cur else (cur + o.count) % max 1 (slotPcount (pipOf s p).rng.image o.rslot)
          let op : RingOp := { rfn := rfn, slot := o.rslot, count := o.count, sq := o.sq, cur := cur, due := s.cycle }
          Effect s t p true { pipOf s p with
            rng := { (pipOf s p).rng with cursors := Tab.set 0 (pipOf s p).rng.cursors o.rslot next },
            st := { (pipOf s p).st with rfn := rfn, rslot := o.rslot },
            ops := { (pipOf s p).ops with ring := some op } }) ∧
      (slotOk (pipOf s p).rng.image o.rslot = false →
        Answers i s fun t => (pipOf t p).job = 0 ∧ (pipOf t p).st.lastCode = eDesc ∧ (pipOf t p).st.descErr = true ∧
          (pipOf t p).regs = (pipOf s p).regs)) ∧
    (∀ (im : List Byte) (slot prime cidx pip u j : Nat) (inp : List Line), j < 32 → u < inp.length / 2 →
      (let q := primeQ im prime
       let a := lword (nth inp (2 * u) 0) j % max 1 q
       let b := lword (nth inp (2 * u + 1) 0) j % max 1 q
       lword (nth (ringOut im 0x4 slot prime cidx pip inp) u 0) j = (a + b) % max 1 q ∧
       lword (nth (ringOut im 0x5 slot prime cidx pip inp) u 0) j = (a + q - b) % max 1 q ∧
       lword (nth (ringOut im 0x6 slot prime cidx pip inp) u 0) j = montMul q a b % 2 ^ 32)) ∧
    (∀ (im : List Byte) (slot prime cidx pip u j : Nat) (inp : List Line), j < 32 → u < slotM im slot / 32 →
      inp.length = slotM im slot / 32 →
      (let q := primeQ im prime
       let a := lword (nth inp u 0) j % max 1 q
       lword (nth (ringOut im 0x7 slot prime cidx pip inp) u 0) j = montMul q a (field im (1408 + 4 * cidx) 4) % max 1 q ∧
       lword (nth (ringOut im 0xA slot prime cidx pip inp) u 0) j = toMont q a ∧
       lword (nth (ringOut im 0xB slot prime cidx pip inp) u 0) j = montMul q a 1 % 2 ^ 32)) ∧
    (∀ (q : PipSt) (c pip : Nat) (op : RingOp), q.ops.ring = some op → op.due ≤ c → op.k < op.count → ringStall q op = [] →
      op.rfn = 0xC → opT q op ≤ op.t + 1 →
      (ringMove c pip q).p.rng.ap0 = [] ∧ (ringMove c pip q).p.rng.ap1 = [] ∧
      (ringMove c pip q).p.cnt.limb = bump q.cnt.limb 1) ∧
    (ringBusy (pipOf s p) = false → p < 10240 →
      Answers (.ringOpComplete p) s fun t =>
        t = setPip s p { pipOf s p with ops := { (pipOf s p).ops with ring := none }, st := { (pipOf s p).st with waitq := 0 } })

/-- A comparison whose values have all arrived and whose cycle has come is counted; where they agree modulo the prime, or the
phase used a table that is not that of Table 8.5, nothing else changes but that the phase is done with, and where they differ
the checker shows the mismatch with its prime and direction and the job ends on its pips with E_ECC_DET. (R218, R219, R220,
R228) -/
def Obligations.ResidueComparisons : Prop :=
  ∀ (s : State) (pod : Nat) (inverse : Bool) (e : Nat × Nat) (got : Nat) (v : PodSt) (j : Job), pod < 640 →
    compareDue (podSt s pod) inverse s.cycle = true → compareOf (podSt s pod) inverse = some (e, got, v) → jobOfPod s pod = some j →
    (compareOdd (podSt s pod) inverse = true ∨
      e.1 % max 1 (primeQ (pipOf s (podLead pod)).rng.image e.2) = got % max 1 (primeQ (pipOf s (podLead pod)).rng.image e.2) →
      Answers (.residueCompare pod inverse) s fun t =>
        t = { s with pods := t.pods } ∧ podSt t pod = { v with checkCnt := bump v.checkCnt 1 } ∧
        ∀ k, k ≠ pod → podSt t k = podSt s k) ∧
    (compareOdd (podSt s pod) inverse = false →
      e.1 % max 1 (primeQ (pipOf s (podLead pod)).rng.image e.2) ≠ got % max 1 (primeQ (pipOf s (podLead pod)).rng.image e.2) →
      Answers (.residueCompare pod inverse) s fun t =>
        (podSt t pod).checkCnt = bump (podSt s pod).checkCnt 1 ∧ (podSt t pod).failCnt = bump (podSt s pod).failCnt 1 ∧
        (podSt t pod).mismatch = true ∧ (podSt t pod).failPrime = e.2 ∧ (podSt t pod).failDir = inverse ∧
        t.lasting = s.lasting ∧ ∀ k, (pipOf t k).last = (pipOf s k).last)

/-- When a running job ends with a code that is not E_KEYSET, every pip of its rectangle is idle, with no operation in progress
and its engines idle, and reports the code; with a code other than E_OK its queues are empty; the registers of every pip stay;
the job leaves its pods, and its command, if its status was open, has the code. (R46, R88, R103) -/
def Obligations.JobEnds : Prop :=
  ∀ (s : State) (j : Job) (code : Byte) (site : Nat), j.phase = .running → code ≠ eKeyset →
    let t := endJob s j code site
    (∀ k ∈ jobPips j, (pipOf t k).job = 0 ∧ (pipOf t k).st.lastCode = code ∧ (pipOf t k).ops = {} ∧ (pipOf t k).eng = [] ∧
      (code ≠ eOk → (pipOf t k).q = {})) ∧
    (∀ k, (pipOf t k).regs = (pipOf s k).regs) ∧ (∀ k ∈ t.jobs, k.id ≠ j.id) ∧
    (∀ m ∈ s.cmds, m.id = j.cmd → m.code = none → { m with code := some code, site := site } ∈ t.cmds) ∧
    (∀ m ∈ s.cmds, m.id ≠ j.cmd → m ∈ t.cmds) ∧ t.lasting = s.lasting ∧ t.hbm = s.hbm ∧ t.staging = s.staging

/-- A DMA channel whose lines have all landed is idle; a pip with both streams ended and nothing in progress has finished, and the
job completes with E_OK with its last pip, a run of a CT_COPY standing byte for byte at its place in the other pod; 2^20
cycles of one stall, or of an engine that runs after both ENDs, end the job with E_WATCHDOG; a SIGL whose earlier work is
complete enters the short path to the sync store of its object. (R19, R46, R76, R88, R94, R236, R250, R439) -/
def Obligations.PipCompletions : Prop :=
  ∀ (s : State) (p : Nat), p < 10240 →
    (∀ ch o, dmaOf (pipOf s p) ch = some o → o.len ≤ o.landed →
      Answers (.dmaComplete p ch) s fun t => t = setPip s p (setDma (pipOf s p) ch none)) ∧
    (∀ j, jobOfPip s p = some j → j.phase = .running → jobLoaded s j = true → (pipOf s p).acc.ended = true →
      (pipOf s p).exe.ended = true → opsDone s p = true → (pipOf s p).finished = false →
      Answers (.pipFinish p) s fun t =>
        t = (let u := setPip s p { pipOf s p with finished := true }
             if (jobPips j).all fun k => (pipOf u k).finished then finishJob u j else u)) ∧
    (∀ (u : State) (j : Job), j.extra = none → finishJob u j = endJob u j eOk 0) ∧
    (∀ (u : State) (a b i k x y n : Nat), a < 640 → b < 640 → a ≠ b → i < 16 → k < 16 →
      (pipOf u (nth (pipsOfPod a) i 0)).sp.flips = [] → (pipOf u (nth (pipsOfPod b) k 0)).sp.flips = [] →
      (let r := moveRun a b ((i, x, n), (k, y, n)) (u, none)
       r.2 = none ∧ ∀ z, Tab.get 0 (pipOf r.1 (nth (pipsOfPod b) k 0)).sp.mem z =
         if y ≤ z ∧ z < y + n then Tab.get 0 (pipOf u (nth (pipsOfPod a) i 0)).sp.mem (x + (z - y))
         else Tab.get 0 (pipOf u (nth (pipsOfPod b) k 0)).sp.mem z)) ∧
    (∀ x, (∃ h ∈ holdsOf (pipOf s p) x, 2 ^ 20 ≤ h.n) →
      Answers (.jobWatchdog p x) s fun t => t = failPip s p eWatchdog false) ∧
    (∀ e, e < 5 → (pipOf s p).acc.ended = true → (pipOf s p).exe.ended = true → (engOf (pipOf s p) e).running = true →
      (pipOf s p).endAt + 2 ^ 20 ≤ s.cycle →
      Answers (.engineWatchdog p) s fun t => t = failPip s p eWatchdog false) ∧
    (∀ g l, (pipOf s p).ops.sigls = g :: l → workDone s p g.upto = true → (pipOf s p).net.shortOut.length < 8 →
      Answers (.siglApply p) s fun t =>
        t = { s with pips := t.pips } ∧ (∀ k, k ≠ p → pipOf t k = pipOf s k) ∧ (pipOf t p).ops.sigls = l ∧
        (pipOf t p).regs = (pipOf s p).regs ∧ (pipOf t p).sp = (pipOf s p).sp ∧
        ∃ f, (pipOf t p).net.shortOut = (pipOf s p).net.shortOut ++ [f] ∧ f.sync = true ∧ f.addr = g.obj ∧ f.add = g.add ∧
          pipAt f.dx f.dy = syncPip g.obj ∧ f.ready = s.cycle)

/-- In the frame position of the cycle, the flit at the head of an egress queue leaves in a slot that takes the queue when the
slot's credit counter is not zero, and the counter falls by one; at zero the slot passes and is counted. A flit that arrives
joins the ingress queue of its port, a line the DMA writer, the job-start load or a write buffer, a key header its gate, a key
entry the key queue, each only with room; an entry of a draining key stream is discarded. A credit raises its counter when its
flit had no other destination to wait for, and leaves it while the flit still waits for one. (R18, R60, R61, R106, R110, R111,
R263, R264, R281, R296, R468) -/
def Obligations.MeshFlits : Prop :=
  ∀ (s : State) (p : Nat), p < 10240 →
    (∀ port cr ser data l, port < 4 → didWork (pipOf s p) (24 + port) = false → canPop (pipOf s p) (qEgress port) = true →
      sendSlot s p port (s.cycle % 4096) = some cr → Tab.get [] (pipOf s p).q.egr port = (ser, data) :: l →
      (creditOf (pipOf s p) cr = 0 →
        Answers (.meshFlitSend p port (s.cycle % 4096)) s fun t =>
          let q := notePop (pipOf s p) (24 + port)
          t = setPip s p { q with cnt := { q.cnt with defer_ := bump q.cnt.defer_ 1 } }) ∧
      (creditOf (pipOf s p) cr ≠ 0 →
        Answers (.meshFlitSend p port (s.cycle % 4096)) s fun t =>
          let ends := flitPath s pathFuel p port (s.cycle % 4096) 0
          t = { s with pips := t.pips, flight := t.flight } ∧ Tab.get [] (pipOf t p).q.egr port = l ∧
          creditOf (pipOf t p) cr = creditOf (pipOf s p) cr - 1 ∧
          owedOf (pipOf t p) cr = owedOf (pipOf s p) cr ++ [ends.map fun x => destNum x.1] ∧
          t.flight = s.flight ++ ends.map (flyTo s.cycle { cls := 0, ser := ser, from_ := p, cr := cr, data := data }) ∧
          (pipOf t p).regs = (pipOf s p).regs ∧ (pipOf t p).sp = (pipOf s p).sp ∧ (∀ k, k ≠ p → pipOf t k = pipOf s k))) ∧
    (∀ port pos, pos ≠ s.cycle % 4096 → Answers (.meshFlitSend p port pos) s (· = s)) ∧
    (∀ k i due f, arriving s k = some (.flit p i due f) → (Tab.get [] (pipOf s p).q.ing i).length < 8 →
      Answers (.meshFlitArrive k) s fun t =>
        t = { s with flight := s.flight.eraseIdx k, pips := t.pips } ∧ (∀ n, n ≠ p → pipOf t n = pipOf s n) ∧
        pipOf t p = { pipOf s p with
          q := { (pipOf s p).q with ing := Tab.set [] (pipOf s p).q.ing i (Tab.get [] (pipOf s p).q.ing i ++ [f]) } }) ∧
    (∀ k u due route r, arriving s k = some (.line p u due route r) → u ≠ 7 →
      Answers (.meshFlitArrive k) s fun t =>
        t = { s with flight := s.flight.eraseIdx k, pips := t.pips } ∧ (∀ n, n ≠ p → pipOf t n = pipOf s n) ∧
        pipOf t p = { pipOf s p with net := { (pipOf s p).net with
          writer := (pipOf s p).net.writer ++ [⟨u, r.sp, stackOf r.addr, route, r.hop, r.data⟩] } }) ∧
    (∀ k due route r op, arriving s k = some (.line p 7 due route r) → (pipOf s p).ops.load = some op →
      Answers (.meshFlitArrive k) s fun t =>
        t = { s with flight := t.flight, pips := t.pips } ∧ (∀ n, n ≠ p → pipOf t n = pipOf s n) ∧
        t.flight = s.flight.eraseIdx k ++ [.credit (10240 + stackOf r.addr) route 2 (s.cycle + r.hop + 1)] ∧
        pipOf t p = { pipOf s p with ops := { (pipOf s p).ops with load := some { op with got := op.got ++ [lineBytes r.data] } } }) ∧
    (∀ k n route due r, arriving s k = some (.wline n route due r) → isHbm r.addr = true →
      (Tab.get [] (stackSt s n).wbuf route).length < 8 →
      Answers (.meshFlitArrive k) s fun t =>
        t = { s with flight := s.flight.eraseIdx k, hstacks := t.hstacks } ∧ (∀ m, m ≠ n → stackSt t m = stackSt s m) ∧
        stackSt t n = { stackSt s n with wbuf := Tab.set [] (stackSt s n).wbuf route (Tab.get [] (stackSt s n).wbuf route ++ [r]) }) ∧
    (∀ k due gran e, arriving s k = some (.key p due true gran e) → draining s (podOfPip p) = false →
      Answers (.meshFlitArrive k) s fun t =>
        t = { s with flight := s.flight.eraseIdx k, pods := t.pods } ∧
        (podSt t (podOfPip p)).khdr = (podSt s (podOfPip p)).khdr ++ [(e, gran, s.cycle)]) ∧
    (∀ k due h gran e, arriving s k = some (.key p due h gran e) → draining s (podOfPip p) = true →
      Answers (.meshFlitArrive k) s fun t =>
        t = { s with flight := s.flight.eraseIdx k, pods := t.pods } ∧
        (podSt t (podOfPip p)).kdrainCnt = bump (podSt s (podOfPip p)).kdrainCnt 2) ∧
    (∀ k due gran e, arriving s k = some (.key p due false gran e) → draining s (podOfPip p) = false →
      (pipOf s p).st.kopen = true → (pipOf s p).q.kq.length < 64 →
      Answers (.meshFlitArrive k) s fun t =>
        t = { s with flight := s.flight.eraseIdx k, pods := t.pods, pips := t.pips } ∧
        (pipOf t p).q.kq = (pipOf s p).q.kq ++ [(e, decide (Tab.get 0 (podSt s (podOfPip p)).kallow (pipInPod p) ≠ 0))] ∧
        (podSt t (podOfPip p)).kentCnt = bump (podSt s (podOfPip p)).kentCnt 1 ∧ (pipOf t p).sp = (pipOf s p).sp) ∧
    (∀ k cr d due, arriving s k = some (.credit p cr (destNum d) due) → (pipOf s p).job ≠ 0 →
      Answers (.creditReturn k) s fun t =>
        t = { s with flight := s.flight.eraseIdx k, pips := t.pips } ∧ (∀ n, n ≠ p → pipOf t n = pipOf s n) ∧
        owedOf (pipOf t p) cr = (takenBy (destNum d) (owedOf (pipOf s p) cr)).1 ∧
        (∀ l, owedOf (pipOf s p) cr = [destNum d] :: l → creditOf (pipOf t p) cr = creditOf (pipOf s p) cr + 1) ∧
        (∀ f l, owedOf (pipOf s p) cr = f :: l → f.contains (destNum d) = true → f.erase (destNum d) ≠ [] →
          creditOf (pipOf t p) cr = creditOf (pipOf s p) cr) ∧ (pipOf t p).regs = (pipOf s p).regs)

/-- In a cycle in which its bank is free, the DMA writer takes the line at its head, which the bank holds two cycles later as the
line's 128 bytes, where they pass the region check, and no other byte; it waits while the bank is taken, and a field that
sleeps is woken. A short flit enters the path in a short position of its output, or is put off and counted once; at its
destination a sync update adds modulo 2^32 to its object and to no other, and a masked wide write of bytes of one line changes
those bytes and no other. (R18, R48, R75, R89, R93, R113, R114, R115, R116, R137, R143, R266) -/
def Obligations.WriterAndShortPath : Prop :=
  (∀ (s : State) (p : Nat), p < 10240 →
    (∀ w l d own, (pipOf s p).net.writer = w :: l → padAwake s p = true → bankTaken (pipOf s p) w.sp = false → w.unit ≤ 6 →
      inRegion (pipOf s p).sp (pipOf s p).st.context w.sp 128 = true → lineDesc (pipOf s p) w.unit = (d, own) →
      (∀ x, d = some x → dValid x = true) →
      Answers (.dmaWriterWrite p) s fun t =>
        t = { s with pips := t.pips, flight := s.flight ++ [.credit (10240 + w.stack) w.route 2 (s.cycle + w.hop + 1)] } ∧
        (∀ k, k ≠ p → pipOf t k = pipOf s k) ∧ (pipOf t p).net.writer = l ∧ (pipOf t p).regs = (pipOf s p).regs ∧
        (pipOf t p).sp = (pipOf s p).sp ∧ (pipOf t p).cyc.banks = (pipOf s p).cyc.banks ++ [bankOf w.sp] ∧
        (pipOf t p).ops.writes = (pipOf s p).ops.writes ++
          [⟨s.cycle + 2, own, padWords ((d.map dSwz).getD 0) w.sp (lineBytes w.data)⟩] ∧
        (∀ o, w.unit = 5 → dmaOf (pipOf s p) false = some o → dmaOf (pipOf t p) false = some { o with landed := o.landed + 1 })) ∧
    (∀ w l, (pipOf s p).net.writer = w :: l → padAwake s p = true → bankTaken (pipOf s p) w.sp = true →
      Answers (.dmaWriterWrite p) s (· = s)) ∧
    (∀ w l, (pipOf s p).net.writer = w :: l → padAwake s p = false →
      Answers (.dmaWriterWrite p) s fun t => t = enableField s (fieldOfPip p)) ∧
    (∀ f l n, (pipOf s p).net.shortOut = f :: l → legDir p f = some n → f.ready < s.cycle →
      shortPos s.mod.map p n (s.cycle % 4096) = true →
      (shortHeld s p n s.cycle = false →
        Answers (.shortFlitEnter p) s fun t =>
          t = { setPip s p (popShort s.cycle (pipOf s p)) with flight := s.flight ++ [.short p (legEnd p f) s.cycle f] } ∧
          (pipOf t p).net.shortOut.length = l.length) ∧
      (shortHeld s p n s.cycle = true →
        Answers (.shortFlitEnter p) s fun t =>
          t = setPip { s with mod := { s.mod with shortDefer := bump s.mod.shortDefer 1 } } p
            { pipOf s p with net := { (pipOf s p).net with shortOut := { f with ready := s.cycle } :: l } })) ∧
    (∀ f l, (pipOf s p).net.shortBuf = f :: l → didWork (pipOf s p) 28 = false → f.sync = true → syncReady s f.addr = true →
      Answers (.shortPathWrite p) s fun t =>
        t = { s with pips := t.pips, syncs := t.syncs, adds := t.adds } ∧ (pipOf t p).net.shortBuf = l ∧
        syncVal t f.addr = syncVal s f.addr + BitVec.ofNat 32 f.add ∧ ∀ i, i ≠ f.addr → syncVal t i = syncVal s i) ∧
    (∀ f l, (pipOf s p).net.shortBuf = f :: l → didWork (pipOf s p) 28 = false → f.sync = false → f.last = false →
      padAwake s p = true → f.data.length ≤ 128 - f.addr % 128 →
      inRegion (pipOf s p).sp f.ctx f.addr f.data.length = true → bankTaken (pipOf s p) f.addr = false →
      Answers (.shortPathWrite p) s fun t =>
        t = { s with pips := t.pips } ∧ (pipOf t p).net.shortBuf = l ∧ (pipOf t p).regs = (pipOf s p).regs ∧
        (∀ k, k ≠ p → pipOf t k = pipOf s k) ∧ (pipOf t p).sp = (pipOf s p).sp ∧
        (pipOf t p).ops.writes = (pipOf s p).ops.writes ++ [⟨s.cycle + 2, 0, padWords 0 f.addr f.data⟩])) ∧
  ∀ (q : PipSt) (a : Nat) (bs : List Byte), a % 8 = 0 → bs.length % 8 = 0 →
    (storeWords q (padWords 0 a bs)).regs = q.regs ∧ (storeWords q (padWords 0 a bs)).q = q.q ∧
    ∀ b, Tab.get 0 (storeWords q (padWords 0 a bs)).sp.mem b =
      if a ≤ b ∧ b < a + bs.length then bs.getD (b - a) 0 else Tab.get 0 q.sp.mem b

/-- The host that owns the page of a created context moves TAIL where the queue has room and else sets DB_ERR, clears HALTED,
discards the accepted commands that have not issued, writes a grant to a context that exists, and reads the value of the
selected object where the context may name it; every other writer changes nothing, and nothing but the context changes. (R92,
R93, R95, R104, R105, R355, R360) -/
def Obligations.ContextRegisters : Prop :=
  ∀ (s : State) (w : Writer) (c : Nat), c < 10240 →
    (∀ v, ownsPage s w c = true → (ctxSt s c).created = true →
      Answers (.doorbell w c v) s fun t =>
        t = setCtx s c (if (v % 65536 + 65536 - (ctxSt s c).tail) % 65536 ≤
              256 - ((ctxSt s c).tail + 65536 - (ctxSt s c).head) % 65536
            then { ctxSt s c with tail := v % 65536 } else { ctxSt s c with dbErr := true })) ∧
    (ownsPage s w c = true → (ctxSt s c).created = true →
      Answers (.resume w c) s fun t => t = setCtx s c { ctxSt s c with halted := false }) ∧
    (ownsPage s w c = true → (ctxSt s c).created = true →
      Answers (.flush w c) s fun t =>
        t = setCtx s c { ctxSt s c with halted := false, ahead := [], readyAt := 0, head := (ctxSt s c).tail }) ∧
    (∀ n v, ownsPage s w c = true → (ctxSt s c).created = true → n < 8 → w = .host (ctxSt s c).host →
      (bit v 15 = true → bits v 13 0 < 10240 ∧ (ctxSt s (bits v 13 0)).created = true) →
      Answers (.modCtxGrant w c n v) s fun t =>
        t = setCtx s c { ctxSt s c with grants := t |> fun u => (ctxSt u c).grants } ∧
        Tab.get {} (ctxSt t c).grants n = ⟨bits v 13 0, bit v 14, bit v 15⟩ ∧
        ∀ k, k ≠ n → Tab.get {} (ctxSt t c).grants k = Tab.get {} (ctxSt s c).grants k) ∧
    (∀ h, ownsPage s (.host h) c = true → (ctxSt s c).created = true →
      (mayName s c (ctxSt s c).syncSel false = true → syncReady s (ctxSt s c).syncSel = true →
        Answers (.modCtxSyncVal h c) s fun t =>
          t = { s with out := s.out ++ [.regData h (ctxReg c 0x1C) (syncVal s (ctxSt s c).syncSel).toNat] }) ∧
      (mayName s c (ctxSt s c).syncSel false = false →
        Answers (.modCtxSyncVal h c) s fun t =>
          (ctxSt t c).syncErr = true ∧ t.out = s.out ++ [.regData h (ctxReg c 0x1C) 0])) ∧
    (∀ v, ownsPage s w c = false →
      Answers (.doorbell w c v) s (· = s) ∧ Answers (.resume w c) s (· = s) ∧ Answers (.flush w c) s (· = s) ∧
      ∀ n, Answers (.modCtxGrant w c n v) s (· = s))

/-- A created and bound context with an unread entry, fewer than nine commands read and no incomplete WAIT reads its next 64
bytes; the head becomes ready in a cycle in which its fence is met, its fields are awake and its pods and queues have room,
and that cycle is kept; a reserved opcode is refused with E_DESC; a command whose field sleeps enables the field. (R14, R96,
R97, R99, R101, R360, R400) -/
def Obligations.CommandReader : Prop :=
  ∀ (s : State) (c : Nat), c < 10240 →
    ((ctxSt s c).created = true → (ctxSt s c).part ≠ 0 → (ctxSt s c).head ≠ (ctxSt s c).tail → (ctxSt s c).ahead.length < 9 →
      (∀ b ∈ (ctxSt s c).ahead, cmdOpc b ≠ 2) → (∀ k ∈ s.cmds, k.ctx = c → cmdOpc k.bytes ≠ 2) →
      Answers (.commandRead c) s fun t =>
        t = { s with ctxs := t.ctxs, hstacks := t.hstacks } ∧ (∀ k, k ≠ c → ctxSt t k = ctxSt s k) ∧
        ctxSt t c = { ctxSt s c with
          head := ((ctxSt s c).head + 1) % 65536,
          ahead := (ctxSt s c).ahead ++ [memRead s ((ctxSt s c).qbase + (ctxSt s c).head % 256 * 64) 64] }) ∧
    (∀ b, headCmd s c = some b → (ctxSt s c).readyAt = 0 → fenceMet s c b = true →
      (opcListed (cmdOpc b) = false → Answers (.commandReady c) s fun t => Issued s t c b (some eDesc) false ∧ t.jobs = s.jobs) ∧
      (opcListed (cmdOpc b) = true → sleepers s c b = [] → mayReady s c b = true →
        Answers (.commandReady c) s fun t => t = setCtx s c { ctxSt s c with readyAt := s.cycle + 1 }) ∧
      (∀ f, opcListed (cmdOpc b) = true → sleepers s c b = [f] →
        Answers (.commandReady c) s fun t => (fieldSt t f).wakeEntry = true ∧ t.jobs = s.jobs ∧ t.ctxs = s.ctxs))

/-- A command whose status is decided completes: with REC = 1, its place still the context's, its record is written to the 16
bytes at RECORD in the layout of Table 3.11 and no other byte of memory changes; on E_OK with SIG = 1 SIG_ADD is added to
SIG_OBJ and no other object changes; with IRQ = 1 the interrupt of the context goes to its host if that is attached, and no
other message is sent. The context counts the command, shows its code and halts on a code other than E_OK with the tag of the
first; the command leaves. (R103) -/
def Obligations.CommandCompletes : Prop :=
  ∀ (s : State) (k : Nat) (m : Cmd) (code : Byte), cmdOf s k = some m → m.code = some code →
    (code = eOk → cmdFlag m.bytes 0 = true → syncReady s (cmdSigObj m.bytes) = true) →
    (cmdFlag m.bytes 1 = true → ctxMem s m.ctx (cmdRec m.bytes) 16 = true) →
    Answers (.commandComplete k) s fun t =>
      (cmdFlag m.bytes 1 = true → Writes s t (cmdRec m.bytes)
        (toBytes 1 code.toNat ++ toBytes 1 (cmdOpc m.bytes) ++ toBytes 2 (cmdTag m.bytes) ++ toBytes 4 m.site ++
          toBytes 8 (huskTime s))) ∧
      (cmdFlag m.bytes 1 = false → t.hbm = s.hbm ∧ t.staging = s.staging) ∧
      (∀ i, syncVal t i = if code = eOk ∧ cmdFlag m.bytes 0 = true ∧ i = cmdSigObj m.bytes
        then syncVal s i + BitVec.ofNat 32 (cmdSigAdd m.bytes) else syncVal s i) ∧
      t.out = s.out ++ (if cmdFlag m.bytes 3 = true ∧ (hostSt s (ctxSt s m.ctx).host).state = 1
        then [.msix (ctxSt s m.ctx).host (ctxSt s m.ctx).vec] else []) ∧
      (ctxSt t m.ctx).doneCnt = bump (ctxSt s m.ctx).doneCnt 1 ∧ (ctxSt t m.ctx).lastCode = code ∧
      (ctxSt t m.ctx).halted = ((ctxSt s m.ctx).halted || decide (code ≠ eOk)) ∧
      (code ≠ eOk → (ctxSt s m.ctx).halted = false → (ctxSt t m.ctx).haltTag = cmdTag m.bytes) ∧
      (∀ n, n ≠ m.ctx → ctxSt t n = ctxSt s n) ∧
      (∀ x ∈ t.cmds, x.id ≠ m.id) ∧ t.jobs = s.jobs ∧ t.pips = s.pips

/-- SIGNAL, and the flit of a SIGL at the short path's end, add their word to their object modulo 2^32; SYNCSET stores its word,
to which the updates of its object in the same cycle are added; no other object changes, and the commands complete; WAIT
issues and waits, and at the end of a cycle in which its object, less the threshold, is not negative as a signed 32-bit number
it is met, and then released. (R89) -/
def Obligations.SyncCommands : Prop :=
  ∀ (s : State) (c : Nat) (b : List Byte),
    (MayIssue s c 3 b (objForm b) (mayName s c (objOf b) true) eOk → syncReady s (objOf b) = true →
      Answers (.signal c) s fun t =>
        Issued s t c b (some eOk) false ∧ (∀ i, syncVal t i =
          if i = objOf b then syncVal s i + BitVec.ofNat 32 (objWord b) else syncVal s i) ∧
        t = { s with syncs := t.syncs, adds := t.adds, cmds := t.cmds, nextId := t.nextId, ctxs := t.ctxs }) ∧
    (∀ p f l, p < 10240 → (pipOf s p).net.shortBuf = f :: l → didWork (pipOf s p) 28 = false → f.sync = true →
      syncReady s f.addr = true →
      Answers (.shortPathWrite p) s fun t =>
        t = { s with pips := t.pips, syncs := t.syncs, adds := t.adds } ∧
        ∀ i, syncVal t i = if i = f.addr then syncVal s i + BitVec.ofNat 32 f.add else syncVal s i) ∧
    (MayIssue s c 4 b (objForm b) (ownsSync s c (objOf b)) eOk → syncReady s (objOf b) = true →
      Answers (.syncset c) s fun t =>
        Issued s t c b (some eOk) false ∧
        (∀ i, syncVal t i =
          if i = objOf b then BitVec.ofNat 32 (objWord b) + Tab.get 0 s.adds (objOf b) else syncVal s i) ∧
        t = { s with syncs := t.syncs, cmds := t.cmds, nextId := t.nextId, ctxs := t.ctxs }) ∧
    (MayIssue s c 2 b (objForm b) (mayName s c (objOf b) false) eOk → syncReady s (objOf b) = true →
      Answers (.wait c) s fun t =>
        Issued s t c b none true ∧ t = { s with cmds := t.cmds, nextId := t.nextId, ctxs := t.ctxs }) ∧
    (∀ k ∈ s.cmds, k.waiting = true →
      { k with met := syncReady s (objOf k.bytes) &&
                 decide (0 ≤ (syncVal s (objOf k.bytes) - BitVec.ofNat 32 (objWord k.bytes)).toInt) } ∈ (testWaits s).cmds) ∧
    (∀ k, (s.cmds.find? fun k => k.ctx = c && k.waiting) = some k → c < 10240 →
      (k.met = true → Answers (.waitRelease c) s fun t =>
        t = { s with cmds := t.cmds } ∧ { k with waiting := false, met := false, code := some eOk } ∈ t.cmds) ∧
      (k.met = false → syncReady s (objOf k.bytes) = true → Answers (.waitRelease c) s (· = s)))

/-- COPY takes what the LEN bytes at SRC hold at its issue, and then moves a line a cycle: the bytes of that line at DST become
the bytes so taken, and no other byte of memory changes; it completes with the last line, and with E_BOUNDS at a line that the
context may not reach (log 23); RELEASE leaves no valid region entry of the context on the named pods; NOP only completes; a
command of these whose checks fail has only its code as effect. (R14, R97, R98, R99, R138, R273, R278) -/
def Obligations.CopyReleaseAndNop : Prop :=
  ∀ (s : State) (c : Nat) (b : List Byte),
    (MayIssue s c 5 b (field b 16 8 % 64 = 0 && field b 24 8 % 64 = 0 && field b 32 8 % 64 = 0 && zeroBytes b 40 24)
        (ctxHbm s c (field b 16 8) (field b 32 8) && ctxHbm s c (field b 24 8) (field b 32 8)) eOk →
      Answers (.copy c) s fun t =>
        (field b 32 8 = 0 → Issued s t c b (some eOk) false) ∧
        (field b 32 8 ≠ 0 → ∃ k, t.cmds = s.cmds ++ [k] ∧ k.id = s.nextId ∧ k.ctx = c ∧ k.code = none ∧ k.moved = 0 ∧
          k.new_ = memRead s (field b 16 8) (field b 32 8) ∧ k.bad = memUe s (field b 16 8) (field b 32 8)) ∧
        t = { s with cmds := t.cmds, nextId := t.nextId, ctxs := t.ctxs }) ∧
    (∀ k n, k.new_ ≠ [] → k.code = none → n = min 128 (k.new_.length - k.moved) →
      ctxHbm s k.ctx (copySrc k.bytes + k.moved) n = true → ctxHbm s k.ctx (copyDst k.bytes + k.moved) n = true →
      (let t := copyLine k s
       Writes s t (copyDst k.bytes + k.moved) (slice k.new_ k.moved n) ∧ t.pips = s.pips ∧ t.syncs = s.syncs ∧ t.ctxs = s.ctxs ∧
       t.cmds = s.cmds.map fun m => if m.id = k.id then
         (if k.moved + n < k.new_.length then { k with moved := k.moved + n }
          else { k with code := some (if k.bad then eEccDet else eOk), moved := k.moved + n, new_ := [], old := [] }) else m)) ∧
    (∀ k n, k.new_ ≠ [] → k.code = none → n = min 128 (k.new_.length - k.moved) →
      (ctxHbm s k.ctx (copySrc k.bytes + k.moved) n && ctxHbm s k.ctx (copyDst k.bytes + k.moved) n) = false →
      ∀ m ∈ (copyLine k s).cmds, m.id = k.id → m.code = some eBounds) ∧
    (MayIssue s c 6 b (rectOk b && zeroBytes b 16 8 && zeroBytes b 28 36) ((rectPods b).all (podMine s c)) eOk →
      Answers (.release c) s fun t =>
        Issued s t c b (some eOk) false ∧ t = { s with pips := t.pips, cmds := t.cmds, nextId := t.nextId, ctxs := t.ctxs } ∧
        ∀ d ∈ rectPods b, ∀ p ∈ pipsOfPod d, (pipOf t p).sp.mem = (pipOf s p).sp.mem ∧
          ∀ e ∈ (pipOf t p).sp.regions, e.2.ctx = c → e.2.valid = false) ∧
    (MayIssue s c 0 b (zeroBytes b 16 48) true eOk →
      Answers (.commandNop c) s fun t =>
        Issued s t c b (some eOk) false ∧ t = { s with cmds := t.cmds, nextId := t.nextId, ctxs := t.ctxs }) ∧
    (c < 10240 → readyHead s c 0 = some b →
      checkCmd s c b (zeroBytes b 16 48) true eOk ≠ eOk →
      Answers (.commandNop c) s fun t =>
        Issued s t c b (some (checkCmd s c b (zeroBytes b 16 48) true eOk)) false ∧
        t = { s with cmds := t.cmds, nextId := t.nextId, ctxs := t.ctxs })

/-- LAUNCH that passes its checks puts a job on the pods of its rectangle; the job starts in the first cycle of a period at least
1,024 cycles later, on pips whose streams start at their first instruction and whose S28 to S31 hold the arguments; the write
of the last line of its programs gives the streams of a pip the programs, or ends the job with E_DESC if one fails its check;
the load ends with its last line; the streams start when the load cycles have passed. (R41, R47, R72, R86, R99, R100, R101,
R102, R108, R128, R468) -/
def Obligations.JobsRun : Prop :=
  ∀ (s : State),
    (∀ c b, MayIssue s c 1 b (progAddr b % 64 = 0 && rectOk b)
        ((rectPods b).all (podMine s c) && blockMine s c (progAddr b)) (blockCode s c b) →
      Answers (.launch c) s fun t =>
        Issued s t c b none false ∧ t.hbm = s.hbm ∧ t.pips = s.pips ∧
        ∃ j, t.jobs = queueJob j s.jobs ∧ j.phase = .queued ∧ j.ctx = c ∧ j.cmd = s.nextId ∧ j.t0 = (ctxSt s c).readyAt - 1 ∧
          j.prog = progAddr b ∧ jobPods j = rectPods b) ∧
    (∀ n j, jobOf s n = some j → jobMayStart s j = true →
      Answers (.jobStart n) s fun t =>
        t.hbm = s.hbm ∧ t.lasting = s.lasting ∧
        (∀ k ∈ t.jobs, k.id = n → k.phase = .loading ∧ k.t0 = s.cycle) ∧
        ∀ p ∈ jobPips j, pipOf t p = startPip s j (partPips (partSt s j.part)) p ∧ (pipOf t p).job = j.id + 1 ∧
          (pipOf t p).st.context = j.ctx ∧ (pipOf t p).acc.pc = 0 ∧ (pipOf t p).exe.pc = 0 ∧ (pipOf t p).q.scq = [] ∧
          (pipOf t p).rng.ap0 = [] ∧ (pipOf t p).rng.ap1 = [] ∧ (pipOf t p).sp = (pipOf s p).sp ∧
          (j.opc = 1 → ∀ i, i < 4 → sReg (pipOf t p) (28 + i) = nth j.args i 0)) ∧
    (∀ p, p < 10240 → loadOver s.cycle (pipOf s p) = true →
      Answers (.jobLoadEnd p) s fun t =>
        t = setPip s p { pipOf s p with loaded := true, resident := true, ops := { (pipOf s p).ops with load := none } }) ∧
    (∀ p, p < 10240 → loadOver s.cycle (pipOf s p) = false → Answers (.jobLoadEnd p) s (· = s)) ∧
    (∀ n j, jobOf s n = some j → j.phase = .loading → s.cycle ≥ j.t0 + j.loadCycles →
      Answers (.streamStart n) s fun t =>
        t = { s with jobs := t.jobs, pips := t.pips, trc := t.trc } ∧
        (t.jobs = s.jobs.map fun k =>
          if k.id = j.id then { j with phase := .running, ts := j.t0 + j.loadCycles } else k) ∧
        (∀ p, p ∉ jobPips j → pipOf t p = pipOf s p) ∧
        ∀ p ∈ jobPips j, pipOf t p = startStreams (j.t0 + j.loadCycles) (pipOf s p)) ∧
    (∀ (q : PipSt) (c : Nat) (op : LoadOp), q.ops.load = some op → op.landed < op.got.length → q.cyc.banks.contains 7 = false →
      q.loadOk = false → linesUpTo op 1 ≤ op.landed + 1 →
      (programOk false (wordsOf (loadedPart op 0)) = true → programOk true (wordsOf (loadedPart op 1)) = true →
        (loadWrite c q).fail = none ∧ (loadWrite c q).p.loadOk = true ∧
        (loadWrite c q).p.acc.prog = wordsOf (loadedPart op 0) ∧ (loadWrite c q).p.exe.prog = wordsOf (loadedPart op 1)) ∧
      ((programOk false (wordsOf (loadedPart op 0)) && programOk true (wordsOf (loadedPart op 1))) = false →
        (loadWrite c q).fail = some eDesc ∧ (loadWrite c q).p.loadOk = false))

/-- ADMIT latches the image address and its writer where no admission runs, and else changes nothing. An admission whose checks
fail shows its code and changes nothing else; one that passes loads the plan of every directory entry into the partition whose
rectangle it names, leaves every other partition as it was, and puts its base plan, if it has one, in place with its
fingerprints, upon which every stack leaves the boot schedule. (R125, R126, R127, R134, R284, R421) -/
def Obligations.ImageAdmission : Prop :=
  ∀ (s : State),
    (∀ w, s.mod.imgState ≠ 1 → s.boot.stage = 5 → s.mgt.testEn = false →
      Answers (.admitImage w) s fun t => t = { s with mod := { s.mod with
        imgState := 1, imgAt := s.mod.imgAddr, imgBy := match w with | .acorn => 0 | .host h => h + 1 } }) ∧
    (∀ w, s.mod.imgState = 1 ∨ s.boot.stage ≠ 5 ∨ s.mgt.testEn = true → Answers (.admitImage w) s (· = s)) ∧
    (s.mod.imgState = 1 → s.mgt.testEn = false →
      (let code := admitCode (admitView s) (imgWriter s)
       let im := readImage s s.mod.imgAt.toNat
       let named (i : Nat) : PartSt := (dirEntry im.bytes i).1
       Answers .admissionDone s fun t =>
         (code ≠ eOk → t = { s with mod := { s.mod with imgState := 3, imgCode := code, nplan := 0, imgBase := false } }) ∧
         (code = eOk →
           t = { s with mod := t.mod, parts := t.parts, lnk := t.lnk, trc := t.trc, hstacks := t.hstacks } ∧
           t.mod.imgState = 2 ∧ t.mod.imgCode = eOk ∧ t.mod.nplan = im.npart ∧ t.mod.imgBase = im.hasBase ∧ t.mod.agDis = false ∧
           (im.hasBase = true → t.mod.base = im.base ∧ t.mod.resv = parseRsv (rsvOf im.base) ∧ t.mod.baseFp = fingerprint im.base ∧
             t.mod.reserveFp = fingerprint (rsvOf im.base) ∧ t.lnk = { s.lnk with pendTables := true } ∧
             ∀ k, stackSt t k = if k < 12 then { stackSt s k with boot := false } else stackSt s k) ∧
           (im.hasBase = false → t.mod.base = s.mod.base ∧ t.mod.transit = s.mod.transit ∧ t.lnk = s.lnk ∧ t.hstacks = s.hstacks) ∧
           (∀ n, (∀ i, i < im.npart → dirPart s (named i) ≠ some n) → partSt t n = partSt s n) ∧
           (∀ i n, i < im.npart → dirPart s (named i) = some n →
             (∀ k, i < k → k < im.npart → dirPart s (named k) ≠ some n) →
             partSt t n = { partSt s n with plan := (named i).plan, hasPlan := true, plog2 := (named i).plog2,
                                            planFp := (named i).planFp }))))

/-- A write of MOD_PARTn that R134 does not ignore gives the partition the rectangle written and takes its plan from it, unbinds
every context bound to it, makes the transit routes due again and changes no other partition; an ignored write changes
nothing. At a frame boundary the routes that R119 allows are enabled. (R26, R119, R134, R360) -/
def Obligations.PartitionsAndRoutes : Prop :=
  ∀ (s : State),
    (∀ w n v, n < 16 →
      (let ignored := mgmtOnly s w = false ∨ s.boot.stage ≠ 5 ∨ (partSt s n).fenced = true ∨ (partSt s n).recovery ≠ .open_ ∨
         s.flt.mfenced = true ∨ s.jobs.any (·.part = n) = true ∨ partAllowed s n (partRect (partSt s n) v) = false
       (ignored → Answers (.modPart w n v) s (· = s)) ∧
       (¬ignored → Answers (.modPart w n v) s fun t =>
         t = { s with parts := t.parts, ctxs := t.ctxs, mod := t.mod, fields := t.fields, trc := t.trc, out := t.out } ∧
         partSt t n = { partRect (partSt s n) v with hasPlan := false, plan := [], plog2 := 0, planFp := 0 } ∧
         (∀ k, k ≠ n → partSt t k = partSt s k) ∧ t.mod = { s.mod with transitDue := true } ∧
         (∀ c, (ctxSt s c).created = true → (ctxSt s c).part = n + 1 → (ctxSt t c).part = 0) ∧
         ∀ c, ctxSt t c = { ctxSt s c with part := (ctxSt t c).part }))) ∧
    (s.mod.transitDue = true → s.cycle % 4096 = 0 →
      Answers .transitReenable s fun t =>
        t = { s with mod := { s.mod with transit := allowedRoutes s, transitDue := false }, fields := t.fields, out := t.out })

/-- A failed site that the map does not already hold enters the pending map and its field is held out of work; APPLY with a repair
pending makes it apply; when no job runs the pending map takes effect and is written to the NVM copy not in use, every plan is
revoked, with a base plan the stacks go back to the boot schedule, partitions that hold a field out of service are no longer
valid, and every queued job is refused with E_IMAGE. (R14, R24, R131, R132, R134, R284, R424) -/
def Obligations.Repairs : Prop :=
  ∀ (s : State),
    (∀ f row col, f < 64 → row < 8 → col ≤ 20 → oos s.mod.map f = false → failCol (pendingBase s) f row ≠ col →
      Answers (.pendingRepair f row col) s fun t =>
        t = { s with mod := { s.mod with
          pendMap := addFailure (pendingBase s) f row col, pending := true, pField := f, pRow := row, pCol := col,
          pOos := oos (addFailure (pendingBase s) f row col) f, nPend := t.mod.nPend, heldOut := t.mod.heldOut } } ∧
        f ∈ t.mod.heldOut ∧ ∀ g ∈ s.mod.heldOut, g ∈ t.mod.heldOut) ∧
    (∀ w, (s.mod.pending = true → Answers (.applyRepair w) s fun t => t = { s with mod := { s.mod with applying := true } }) ∧
      (s.mod.pending = false → Answers (.applyRepair w) s (· = s))) ∧
    (s.mod.applying = true → (∀ j ∈ s.jobs, j.phase = .queued) →
      Answers .repairRevoke s fun t =>
        t = { s with nvm := t.nvm, boot := { s.boot with repairCopy := !s.boot.repairCopy }, mod := t.mod, parts := t.parts,
                     lnk := { s.lnk with pendTables := true }, hstacks := t.hstacks, ctxs := t.ctxs, jobs := [], pods := t.pods, fields := t.fields,
                     cmds := t.cmds, trc := t.trc, out := t.out } ∧
        t.mod = { s.mod with map := s.mod.pendMap, base := [], resv := {}, baseFp := 0, reserveFp := 0, transit := [], pending := false,
                             nPend := 0, pendMap := [], applying := false, heldOut := [], transitDue := true } ∧
        t.nvm = (if s.boot.repairCopy then { s.nvm with mapA := s.mod.pendMap, seqA := s.nvm.seqB + 1, okA := true }
                 else { s.nvm with mapB := s.mod.pendMap, seqB := s.nvm.seqA + 1, okB := true }) ∧
        (∀ n, n < 16 → (partSt t n).hasPlan = false) ∧ (s.mod.base ≠ [] → ∀ k, k < 12 → (stackSt t k).boot = true) ∧
        (∀ n f, n < 16 → f < 64 → inPart s n f = true → oos s.mod.pendMap f = true → (partSt t n).valid = false) ∧
        ∀ j ∈ s.jobs, ∀ k ∈ s.cmds, k.id = j.cmd → k.code = none → ∃ m ∈ t.cmds, m.id = k.id ∧ m.code = some eImage)

/-- A write of a region entry by the management host is ignored with REG_ERR where R138 says so; else the entry holds what was
written, to be scrubbed first where a granule it covers belonged to another context or was retired; scrubbing zeroes one line
of those granules in a cycle in which nothing else has its bank, and no other byte, and after the last line the entry is in
force. CLR clears the watch counters of the selected handle only. (R137, R138, R139, R143, R184) -/
def Obligations.Regions : Prop :=
  ∀ (s : State) (p n : Nat), p < 10240 →
    (∀ w v, mgmtOnly s w = true → n < 16 →
      (let q := pipOf s p
       let r := regionOf v
       (regionBad q.sp n r = true →
         Answers (.pipRegion w p n v) s fun t => t = setPip s p { q with st := { q.st with regErr := true } }) ∧
       (regionBad q.sp n r = false → (Tab.get {} q.sp.regions n).valid = true → r.valid = true →
         Answers (.pipRegion w p n v) s (· = s)) ∧
       (regionBad q.sp n r = false → ((Tab.get {} q.sp.regions n).valid && r.valid) = false →
         Answers (.pipRegion w p n v) s fun t =>
           t = setPip s p { q with sp := { q.sp with regions := (pipOf t p).sp.regions, owners := (pipOf t p).sp.owners } } ∧
           Tab.get {} (pipOf t p).sp.regions n =
             { r with scrub := r.valid && decide (∃ g ∈ granulesOf r, mustScrub q.sp r.ctx g = true) } ∧
           ∀ k, k ≠ n → Tab.get {} (pipOf t p).sp.regions k = Tab.get {} q.sp.regions k))) ∧
    (∀ w v, mgmtOnly s w = false → Answers (.pipRegion w p n v) s (· = s)) ∧
    ((Tab.get {} (pipOf s p).sp.regions n).valid = true → (Tab.get {} (pipOf s p).sp.regions n).scrub = true →
      syncReady s (256 * fieldOfPip p) = true →
      (let q := pipOf s p
       let r := Tab.get {} q.sp.regions n
       (32 * (toScrub q.sp r).length ≤ r.zeroed →
         Answers (.scrubDone p n) s fun t =>
           t = setPip s p { q with sp := (pipOf t p).sp } ∧
           Tab.get {} (pipOf t p).sp.regions n = { r with scrub := false, zeroed := 0 } ∧ (pipOf t p).sp.mem = q.sp.mem ∧
           ∀ g ∈ granulesOf r, Tab.get .none (pipOf t p).sp.owners g = .ctx r.ctx) ∧
       (r.zeroed < 32 * (toScrub q.sp r).length → Answers (.scrubDone p n) s (· = s)))) ∧
    (let q := pipOf s p
     let r := Tab.get {} q.sp.regions n
     let l := 32 * nth (toScrub q.sp r) (r.zeroed / 32) 0 + r.zeroed % 32
     r.valid = true → r.scrub = true → r.zeroed < 32 * (toScrub q.sp r).length → q.cyc.banks.contains (bankOf (128 * l)) = false →
       (∀ b, Tab.get 0 (scrubLine q n).sp.mem b = if b / 128 = l then 0 else Tab.get 0 q.sp.mem b) ∧
       Tab.get {} (scrubLine q n).sp.regions n = { r with zeroed := r.zeroed + 1 } ∧ (scrubLine q n).regs = q.regs ∧
       (scrubLine q n).cyc.banks = q.cyc.banks ++ [bankOf (128 * l)]) ∧
    (∀ w, Answers (.clr w p) s fun t =>
      t = setPip s p { pipOf s p with watch := (pipOf t p).watch } ∧
      ∀ h, Tab.get {} (pipOf t p).watch h = if h = (pipOf s p).st.watchSel then {} else Tab.get {} (pipOf s p).watch h)

/-- A run whose record fails a check is refused: the stream register names the engine and the check, and the job ends with the
code. A descriptor-form run starts with all its lines to request, a program run at its first instruction, and a copy moves its
lines whole and keeps its engine busy for its cycles (log 45). A run that has nothing left to do completes, upon which the
lead pod runs no key reader, and its completion signal adds SADD to its object. (R159, R160, R250, R252, R253, R255, R91, R93) -/
def Obligations.EngineRuns : Prop :=
  ∀ (s : State) (p e : Nat) (g : Engine) (j : Job), p < 10240 → e ≤ 4 → engOf (pipOf s p) e = g → g.running = true →
    jobOfPip s p = some j → j.phase = .running →
    (g.started = false → g.recLeft = 0 → g.firstAt ≤ s.cycle →
      (let check := recCheck (latchedView (pipOf s p) g) g.record e (jobKind j).isSome s.mod.agDis
       (∀ n code, check = some (n, code) →
         Answers (.streamRunStart p e) s fun t =>
           t = failPip (setPip s p { pipOf s p with
             st := { (pipOf s p).st with errEng := e, errCheck := n, err := true, errCode := code } }) p code false) ∧
       (check = none → recForm g.record = 0 →
         Answers (.streamRunStart p e) s fun t =>
           t = setPip s p (setEng (pipOf s p) e { g with
             started := true, ending := true, pc := 0, loops := [], pos := 0, ipos := 0, marked := false, actAt := s.cycle,
             todo := [{ left := recTotal g.record, desc := true : LineJob }] })) ∧
       (check = none → recForm g.record = 1 →
         Answers (.streamRunStart p e) s fun t =>
           t = setPip s p (setEng (pipOf s p) e { g with
             started := true, ending := false, pc := 0, loops := [], pos := 0, ipos := 0, marked := false, actAt := s.cycle,
             todo := [] })) ∧
       (∀ r, check = none → recForm g.record = 2 → (∀ x ∈ (pipOf s p).ops.xfers, transposes x = false) → copyRuns (pipOf s p) = false →
         (let src := Tab.get 0 g.descs (recHandle g.record)
          let dst := Tab.get 0 g.descs (recHandle2 g.record)
          let u : Engine := { g with started := true, ending := true, busyTo := s.cycle + copySteps src (copyKind src dst) }
          runCopy (setEng (pipOf s p) e u) src dst = r → r.fail = none → r.fx = [] →
          Answers (.streamRunStart p e) s fun t =>
            t = setPip s p { r.p with cnt := { r.p.cnt with line := bump r.p.cnt.line (dLines src) } } ∧
            engOf (pipOf t p) e = u ∧ (pipOf t p).regs = (pipOf s p).regs ∧ (pipOf t p).q = (pipOf s p).q)))) ∧
    (g.started = true → g.ending = true → g.busyTo ≤ s.cycle → g.keys = [] → movesDone (pipOf s p) e = true →
      (recSen g.record = true → ownsSync s j.ctx (recSobj g.record) = true ∧ syncReady s (recSobj g.record) = true) →
      Answers (.streamRunComplete p e) s fun t =>
        t = { s with pips := t.pips, pods := t.pods, syncs := t.syncs, adds := t.adds } ∧
        (∀ k, k ≠ p → pipOf t k = pipOf s k) ∧ pipOf t p = setEng (pipOf s p) e { g with running := false } ∧
        (∀ d, podSt t d = if e = 4 ∧ d = podOfPip p then { podSt s d with klead := false } else podSt s d) ∧
        ∀ i, syncVal t i = if recSen g.record = true ∧ i = recSobj g.record
          then syncVal s i + BitVec.ofNat 32 (recSadd g.record) else syncVal s i)

/-- GSET, GADD and GMOD write the G register they name and no other; AG_LOOP enters its body or passes it, AG_NOP passes, AG_END
ends the program; XFER puts its lines in the engine's requests and with POST moves its register; WAITSO holds the engine at
its mark, each held cycle is counted, and the mark is released after a cycle at whose end the object, less the threshold, is
not negative; SIGSO adds to its object once the earlier transfers are complete. Nothing but the engine, and the object of
SIGSO, changes. (R254, R255, R258, R267, R89, R90, R91, Table 10.2) -/
def Obligations.EngineInstructions : Prop :=
  ∀ (s : State) (p e : Nat) (g : Engine) (w : Nat), p < 10240 →
    (let becomes (u : Engine) (t : State) : Prop := t = setPip s p (setEng (pipOf s p) e u)
     let after : Engine := agNext g
     let gd := bits w 57 55
     let gs := bits w 54 52
     (agAt s p e 0x00 = some (g, w) → Answers (.agNop p e) s (becomes (actNext s.cycle after))) ∧
     (agAt s p e 0x3F = some (g, w) → Answers (.agEnd p e) s (becomes (actNext s.cycle { g with ending := true }))) ∧
     (agAt s p e 0x01 = some (g, w) →
       Answers (.gset p e) s (becomes (actNext s.cycle { after with g := Tab.set 0 g.g gd (BitVec.ofInt 64 (sgn 48 (bits w 47 0))) }))) ∧
     (agAt s p e 0x02 = some (g, w) →
       Answers (.gadd p e) s
         (becomes (actNext s.cycle { after with g := Tab.set 0 g.g gd (gReg g gs + BitVec.ofInt 64 (sgn 48 (bits w 47 0))) }))) ∧
     (agAt s p e 0x03 = some (g, w) →
       Answers (.gmod p e) s (becomes (actNext s.cycle { after with
         g := Tab.set 0 g.g gd (gReg g (bits w 51 49) +
           BitVec.ofInt 64 ((gReg g gs - gReg g (bits w 51 49)).toInt % ((128 * bits w 23 0 : Nat) : Int))) }))) ∧
     (agAt s p e 0x0A = some (g, w) →
       (let count := if bit w 43 then (gReg g gs).toNat % 2 ^ 16 else bits w 15 0
        let body := bits w 49 44
        Answers (.agLoop p e) s (becomes (actNext s.cycle (if count = 0
          then { g with pc := (afterLast (g.pc + body) g.loops).1, loops := (afterLast (g.pc + body) g.loops).2 }
          else { g with pc := g.pc + 1, loops := ⟨bits w 51 50, g.pc + 1, g.pc + body, count⟩ :: g.loops }))))) ∧
     (agAt s p e 0x05 = some (g, w) → (gReg g gs).toNat % 128 = 0 →
       Answers (.xfer p e) s (becomes { after with
         todo := [⟨(gReg g gs).toNat, g.pos, bits w 15 0, false⟩], pos := g.pos + bits w 15 0,
         g := if bit w 16 then Tab.set 0 g.g gs (gReg g gs + BitVec.ofNat 64 (128 * bits w 15 0)) else g.g })) ∧
     (agAt s p e 0x05 = some (g, w) → (gReg g gs).toNat % 128 ≠ 0 → Answers (.xfer p e) s fun t => t = failPip s p eDesc false) ∧
     (∀ j, agAt s p e 0x08 = some (g, w) → g.marked = false → jobOfPip s p = some j →
       (ownsSync s j.ctx (bits w 45 32) = true →
         Answers (.waitso p e) s (becomes (actNext s.cycle { g with marked := true, met := false }))) ∧
       (ownsSync s j.ctx (bits w 45 32) = false → Answers (.waitso p e) s fun t => t = failPip s p eBounds false)) ∧
     (agAt s p e 0x08 = some (g, w) → g.marked = true →
       (g.met = true → Answers (.dependenceMarkRelease p e) s (becomes { after with marked := false, met := false })) ∧
       (g.met = false → syncReady s (bits w 45 32) = true →
         Answers (.dependenceMarkRelease p e) s fun t =>
           t = setPip s p (setEng { pipOf s p with cnt := { (pipOf s p).cnt with mark := bump (pipOf s p).cnt.mark 1 } } e
             (actNext s.cycle g)))) ∧
     (g = engOf (pipOf s p) e → w = recInstr g.record g.pc → g.running = true → g.marked = true → g.met = false →
       (let met := syncReady s (bits w 45 32) && decide (0 ≤ (syncVal s (bits w 45 32) - BitVec.ofNat 32 (bits w 31 0)).toInt)
        engOf (pipOf (testMark s p e) p) e = { g with met := met })) ∧
     (∀ j, agAt s p e 0x09 = some (g, w) → movesDone (pipOf s p) e = true → jobOfPip s p = some j →
       ownsSync s j.ctx (bits w 45 32) = true → syncReady s (bits w 45 32) = true →
       Answers (.sigso p e) s fun t =>
         t = { s with pips := t.pips, syncs := t.syncs, adds := t.adds } ∧
         pipOf t p = setEng (pipOf s p) e (actNext s.cycle after) ∧ (∀ k, k ≠ p → pipOf t k = pipOf s k) ∧
         ∀ i, syncVal t i = if i = bits w 45 32 then syncVal s i + BitVec.ofNat 32 (bits w 15 0) else syncVal s i))

/-- GIDX adds the shifted index word of its handle to a G register, in a cycle in which the bank of its line is free or with the
line in hand; SPUT sends the bytes of the scratchpad at its source to the pip it names, and ends the job with E_DESC where an
address is not a multiple of 8 bytes or E_BOUNDS where the pip or the bytes are not the job's; KBLK adds the key block at its
register to the blocks to read, and with POST its register gets the byte after the block once its length is known. (R137,
R151, R254, R255, R262, R266, Table 10.2) -/
def Obligations.EngineMemoryInstructions : Prop :=
  ∀ (s : State) (p e : Nat) (g : Engine) (w : Nat), p < 10240 →
    (let gd := bits w 57 55
     let gs := bits w 54 52
     let d := Tab.get 0 g.descs (bits w 47 40)
     (∀ a l r, agAt s p e 0x04 = some (g, w) → dValid d = true → dWord d = false → seqWord d g.ipos = some a →
       (indexHeld g (bits w 47 40) (lineOf a)).isSome = true ∨ bankTaken (pipOf s p) a = false →
       indexLine (pipOf s p) g (bits w 47 40) d a = (l, r) → r.fail = none → r.fx = [] →
       Answers (.gidx p e) s fun t =>
         t = setPip s p (setEng r.p e (indexed g w (bits w 47 40) s.cycle a l)) ∧
         gReg (engOf (pipOf t p) e) gd = gReg g gs + BitVec.ofNat 64 (field l.data (a - l.addr).toNat 4 * 2 ^ bits w 37 32) ∧
         (engOf (pipOf t p) e).ipos = g.ipos + 1) ∧
     (∀ a, agAt s p e 0x04 = some (g, w) → dValid d = true → dWord d = false → seqWord d g.ipos = some a →
       indexHeld g (bits w 47 40) (lineOf a) = none → bankTaken (pipOf s p) a = true → Answers (.gidx p e) s (· = s)) ∧
     (agAt s p e 0x04 = some (g, w) → (dValid d = false ∨ dWord d = true) →
       Answers (.gidx p e) s fun t => t = failPip s p eDesc false) ∧
     (∀ j bs r, agAt s p e 0x07 = some (g, w) → jobOfPip s p = some j →
       (let dx := bits w 47 40
        let dy := bits w 39 34
        let n := 8 * (bits w 33 29 + 1)
        let src := (gReg g gs).toNat
        let dst := (gReg g gd).toNat % 2 ^ 23
        (src % 8 ≠ 0 ∨ dst % 8 ≠ 0 → Answers (.sput p e) s fun t => t = failPip s p eDesc false) ∧
        (src % 8 = 0 → dst % 8 = 0 →
          (¬(dx < 160 ∧ pipAt dx dy ∈ jobPips j) ∨ inRegion (pipOf s p).sp (pipOf s p).st.context src n = false →
            Answers (.sput p e) s fun t => t = failPip s p eBounds false) ∧
          (dx < 160 → pipAt dx dy ∈ jobPips j → inRegion (pipOf s p).sp (pipOf s p).st.context src n = true →
            (shortRoom (pipOf s p) ((n + 55) / 56) = false ∨ bankTaken (pipOf s p) src = true → Answers (.sput p e) s (· = s)) ∧
            (shortRoom (pipOf s p) ((n + 55) / 56) = true → bankTaken (pipOf s p) src = false →
              spRead (takeBank (pipOf s p) src) src n = (bs, r) → r.fail = none → r.fx = [] →
              Answers (.sput p e) s fun t =>
                let flits := putFlits p dx dy dst (pipOf s p).st.context e s.cycle bs
                t = setPip s p (setEng { r.p with net := { r.p.net with shortOut := r.p.net.shortOut ++ flits } } e
                  (actNext (s.cycle + (src % 128 + n - 1) / 128) (agNext { g with puts := g.puts + 1 })))))))) ∧
     (agAt s p 4 0x06 = some (g, w) → g.stopped = false →
       ((gReg g gs).toNat % 128 = 0 →
         Answers (.kblk p) s fun t =>
           let k : KeyRun := { ser := g.blocks, addr := (gReg g gs).toNat, post := if bit w 16 then some gs else none }
           t = setPip s p (setEng (pipOf s p) 4
             (actNext s.cycle (agNext { g with keys := g.keys ++ [k], blocks := g.blocks + 1 })))) ∧
       ((gReg g gs).toNat % 128 ≠ 0 → Answers (.kblk p) s fun t => t = failPip s p eDesc false)))

/-- The oldest header at a gate of a pod is compared two cycles after it came. If no check of Table 10.4 fails, two cycles later
the block is counted, the next index, block count and key count are expected, and entries of its keys pass on every pip; if
one fails, the gate keeps the failed checks and the index and counts, and two cycles later the job is over on its pips with
E_KEYSET while its key stream drains; a gate whose job drains already goes on to its next header. When the last key flit has
been discarded the command has E_KEYSET and its pods are free. (R46, R240, R263, R264) -/
def Obligations.KeyGates : Prop :=
  ∀ (s : State) (pod : Nat), pod < 640 →
    (∀ x gran c l j, (podSt s pod).khdr = (x, gran, c) :: l → podJob s pod = some j →
      (let h := lineBytes x
       let f := keyFail h (gateWant s j pod gran)
       let last := khIndex h + 1 = khNblk h
       (s.cycle < c + 2 → Answers (.keyHeaderCheck pod) s (· = s)) ∧
       (f = 0 → (podSt s pod).kbad = false → c + 4 ≤ s.cycle → j.phase = .running →
         Answers (.keyHeaderCheck pod) s fun t =>
           t = { s with pods := t.pods, pips := t.pips } ∧
           (podSt t pod).kblkCnt = bump (podSt s pod).kblkCnt 1 ∧ (podSt t pod).khdr = l ∧
           (podSt t pod).knext = (if last then 0 else khIndex h + 1) ∧ (podSt t pod).knblk = (if last then 0 else khNblk h) ∧
           (podSt t pod).kcount = (if last then (podSt s pod).kcount + 1 else (podSt s pod).kcount) ∧
           (∀ p ∈ pipsOfPod pod, (pipOf t p).q.kq = (passEntries (khPlen h / 2048) (pipOf s p).q.kq).1 ∧
             (pipOf t p).regs = (pipOf s p).regs ∧ (pipOf t p).sp = (pipOf s p).sp) ∧
           (∀ p, p ∉ pipsOfPod pod → pipOf t p = pipOf s p)) ∧
       (f ≠ 0 → (podSt s pod).kbad = false → c + 2 ≤ s.cycle → s.cycle < c + 4 →
         Answers (.keyHeaderCheck pod) s fun t => t = setPod s pod { podSt s pod with
           kfail := (podSt s pod).kfail ||| BitVec.ofNat 8 f, kfailIndex := khIndex h % 2 ^ 24,
           keysetCnt := bump (podSt s pod).keysetCnt 1, kbad := true }) ∧
       (f ≠ 0 ∨ (podSt s pod).kbad = true → c + 4 ≤ s.cycle → j.phase = .running →
         Answers (.keyHeaderCheck pod) s fun t =>
           ((podSt s pod).kbad = false → (podSt t pod).kfail = (podSt s pod).kfail ||| BitVec.ofNat 8 f ∧
             (podSt t pod).kfailIndex = khIndex h % 2 ^ 24) ∧
           (podSt t pod).kstate = 2 ∧ (podSt t pod).khdr = l ∧ (∀ k ∈ t.jobs, k.id = j.id → k.phase = .draining) ∧
           (∀ p ∈ jobPips j, (pipOf t p).job = 0 ∧ (pipOf t p).st.lastCode = eKeyset) ∧
           (∀ p, (pipOf t p).regs = (pipOf s p).regs) ∧ t.cmds = s.cmds ∧ t.lasting = s.lasting ∧ t.hbm = s.hbm) ∧
       (f ≠ 0 ∨ (podSt s pod).kbad = true → c + 4 ≤ s.cycle → j.phase = .draining →
         Answers (.keyHeaderCheck pod) s fun t =>
           t = { s with pods := t.pods } ∧ (podSt t pod).khdr = l ∧ (podSt t pod).kbad = false))) ∧
    (∀ n j, jobOf s n = some j → j.phase = .draining → keysMoving s j = false →
      Answers (.keyDrainEnd n) s fun t =>
        (∀ k ∈ t.jobs, k.id ≠ n) ∧ (∀ m ∈ s.cmds, m.id = j.cmd → m.code = none → { m with code := some eKeyset, site := 0 } ∈ t.cmds) ∧
        (∀ d ∈ heldPods j, (podSt t d).kstate = 0 ∧ (podSt t d).khdr = []) ∧
        (∀ k, pipOf t k = { pipOf s k with net := (pipOf t k).net }) ∧ t.hbm = s.hbm)

/-- Where its checks pass and work may start on its pods, CT_PSET writes its parameter entry on every named pod, with the issuing
context as owner; CT_BIND writes its descriptor on every named pod, VALID only once the command completes with E_OK; CT_FREE
clears VALID of its descriptors; every other entry and descriptor, memory and the scratchpads stay. A check that fails leaves
its code and no entry or descriptor changed. (R99, R103, R231, R232, R234, R236, Table 9.6) -/
def Obligations.EncryptedTables : Prop :=
  ∀ (s : State) (c : Nat) (b : List Byte), mayAct s b = true →
    (let onlyPods (t : State) : Prop := t = { s with pods := t.pods, cmds := t.cmds, nextId := t.nextId, ctxs := t.ctxs }
     let refused (code : Byte) (t : State) : Prop := Issued s t c b (some code) false ∧ onlyPods t ∧
       ∀ d, (podSt t d).descs = (podSt s d).descs ∧ (podSt t d).psets = (podSt s d).psets
     (MayIssue s c 0x10 b (ctForm b) (ctBounds s c b) eOk →
       (psetCode s c b = eOk →
         Answers (.ctPset c) s fun t => Issued s t c b (some eOk) false ∧ onlyPods t ∧
           (∀ d ∈ rectPods b, Tab.get {} (podSt t d).psets (ctArg b % 16) =
             ⟨memRead s (ctPaddr b) 512, memRead s (ctKaddr b) 2048, c, true⟩) ∧
           (∀ d i, (d ∉ rectPods b ∨ i ≠ ctArg b % 16) → Tab.get {} (podSt t d).psets i = Tab.get {} (podSt s d).psets i) ∧
           ∀ d, (podSt t d).descs = (podSt s d).descs) ∧
       (psetCode s c b ≠ eOk → Answers (.ctPset c) s (refused (psetCode s c b)))) ∧
     (MayIssue s c 0x11 b (ctForm b) (ctBounds s c b) eOk →
       (bindCode s c b = eOk →
         Answers (.ctBind c) s fun t => onlyPods t ∧
           (∃ k, t.cmds = s.cmds ++ [k] ∧ k.id = s.nextId ∧ k.ctx = c ∧ k.bytes = b ∧ k.code = some eOk ∧
             k.dests = if bindPlace b then [] else (rectPods b).map fun d => (d, ctDst b)) ∧
           (∀ d ∈ rectPods b, ctDesc t d (ctDst b) = bindDesc s c b d ∧ cValid (ctDesc t d (ctDst b)) = false) ∧
           (∀ d h, (d ∉ rectPods b ∨ h ≠ ctDst b) → ctDesc t d h = ctDesc s d h) ∧
           ∀ d, (podSt t d).psets = (podSt s d).psets) ∧
       (bindCode s c b ≠ eOk → Answers (.ctBind c) s (refused (bindCode s c b)))) ∧
     (MayIssue s c 0x12 b (ctForm b) (ctBounds s c b) eOk →
       (freeCode s c b = eOk →
         Answers (.ctFree c) s fun t => Issued s t c b (some eOk) false ∧ onlyPods t ∧
           (∀ d ∈ rectPods b, ∀ h ∈ ctDsts b, cValid (ctDesc t d h) = false) ∧
           (∀ d h, (d ∉ rectPods b ∨ h ∉ ctDsts b) → ctDesc t d h = ctDesc s d h) ∧
           ∀ d, (podSt t d).psets = (podSt s d).psets) ∧
       (freeCode s c b ≠ eOk → Answers (.ctFree c) s (refused (freeCode s c b)))))

/-- Each encrypted command that runs a program, where every check of R239 passes, puts its job on the pods of its rectangle and
writes its destination descriptors: not VALID, owned by the issuing context, with the level and the noise of Table 9.6; memory
and scratchpads stay. Where a check fails it has the code of the first that fails, and no descriptor and no job is changed.
(R14, R99, R234, R236, R239, R245, R246, R247, Table 9.6) -/
def Obligations.EncryptedCommands : Prop :=
  ∀ (s : State) (c : Nat) (b : List Byte),
    ∀ i opc, (i, opc) ∈ [(Instr.ctCopy c, 0x13), (.ctExport c, 0x14), (.pkAdd c, 0x15), (.pkMulp c, 0x16), (.pkMul c, 0x17),
        (.pkRot c, 0x18), (.pkLdrop c, 0x19), (.pkExtract c, 0x1A), (.liLin c, 0x1B), (.liPbs c, 0x1C), (.lbGate c, 0x1D),
        (.liRepack c, 0x1E), (.ctMaskout c, 0x1F)] →
      MayIssue s c opc b (ctForm b) (ctBounds s c b) eOk →
      (ctCode s c b = eOk →
        Answers i s fun t =>
          t = { s with pods := t.pods, cmds := t.cmds, nextId := t.nextId, ctxs := t.ctxs, jobs := t.jobs, fields := t.fields,
                       trc := t.trc } ∧
          (∃ j, t.jobs = queueJob j s.jobs ∧ j.phase = .queued ∧ j.ctx = c ∧ j.cmd = s.nextId ∧ j.t0 = (ctxSt s c).readyAt - 1 ∧ j.opc = opc ∧
            j.prog = progAddr b ∧ jobPods j = rectPods b ∧ j.payload = b) ∧
          (∃ k, t.cmds = s.cmds ++ [k] ∧ k.id = s.nextId ∧ k.ctx = c ∧ k.bytes = b ∧ k.code = none) ∧
          (∀ d ∈ rectPods b, ∀ n, n < (ctDsts b).length →
            (let r := ctDesc t (dstPod b d) (ctDst b + n)
             cValid r = false ∧ cOwner r = c ∧ cType r = resType s b d ∧ cForm r = resForm s b d ∧ cLevel r = resLevel s b d ∧
             cNoise r = resNoise s b d n ∧ cKeyset r = cKeyset (ctDesc s d (ctA b)) ∧
             cBase r = cBase (ctDesc s (dstPod b d) (ctDst b + n)))) ∧
          (∀ q h, (∀ d ∈ rectPods b, dstPod b d ≠ q) ∨ h ∉ ctDsts b → ctDesc t q h = ctDesc s q h)) ∧
      (ctCode s c b ≠ eOk →
        Answers i s fun t =>
          Issued s t c b (some (ctCode s c b)) false ∧
          t = { s with pods := t.pods, cmds := t.cmds, nextId := t.nextId, ctxs := t.ctxs } ∧
          ∀ d, (podSt t d).descs = (podSt s d).descs ∧ (podSt t d).psets = (podSt s d).psets)

/-- An entry of a group acts once in the slot in which the schedule of its stack holds it, and not otherwise. A read entry takes
the oldest read of its route, which lies in its group, with the 128 bytes at its address, ready at the attachment pip 80 slots
after the slot that serves it; a write entry stores the 128 bytes of the oldest line that waits in the write buffer, and no
other byte; a line that the job may no longer reach, or that is read uncorrected, ends the job. An entry without its request
passes idle, is counted, and takes one slot of slip. REF and an inserted refresh start a refresh; a HOST entry serves the
oldest host access of its group, or rejects it where the host does not own the bytes. (R273, R274, R276, R278, R279, R280,
R281, R282, R285, R286, R351, R352) -/
def Obligations.HbmEntries : Prop :=
  ∀ (s : State) (k g : Nat), k < 12 →
    (let onlyStacks (t : State) : Prop := t = { s with hstacks := t.hstacks }
     let others (t : State) : Prop := ∀ n, n ≠ k → stackSt t n = stackSt s n
     let idle (t : State) : Prop := t = setStack s k { stackSt s k with
       slip := Tab.set 0 (stackSt s k).slip g (Tab.get 0 (stackSt s k).slip g - 1)
       servedAt := Tab.set 0 (stackSt s k).servedAt g (slotNow s + 1), idleCnt := bump (stackSt s k).idleCnt 1 }
     (∀ route, (routeEntry s k g 1 route = none → Answers (.hbmRead k g route) s (· = s)) ∧
       (routeEntry s k g 2 route = none → Answers (.hbmWrite k g route) s (· = s))) ∧
     (∀ route e r, routeEntry s k g 1 route = some e → headReq s k route = some r → r.write = false → groupOf r.addr = g →
       r.addr % 128 = 0 → stackOf r.addr = k → reqOpen s r = true →
       (memUe s r.addr 128 = false → Answers (.hbmRead k g route) s fun t =>
         onlyStacks t ∧ others t ∧ Tab.get [] (stackSt t k).fifo route = (Tab.get [] (stackSt s k).fifo route).drop 1 ∧
         Tab.get [] (stackSt t k).lines route =
           Tab.get [] (stackSt s k).lines route ++ [{ r with
             data := ofLineBytes (memRead s r.addr 128), att := bits e 7 3, sent := 0,
             ready := serveAt (stackSt s k) (slotNow s) g (chipBank r.addr) + 80 }]) ∧
       (∀ j, memUe s r.addr 128 = true → reqJob s r = some j → j.phase = .running →
         Answers (.hbmRead k g route) s fun t => ∀ x ∈ t.jobs, x.id ≠ j.id)) ∧
     (∀ route e r j, routeEntry s k g 1 route = some e → headReq s k route = some r → r.write = false → groupOf r.addr = g →
       reqOpen s r = false → reqJob s r = some j → j.phase = .running →
       Answers (.hbmRead k g route) s fun t => (∀ x ∈ t.jobs, x.id ≠ j.id) ∧ t.hbm = s.hbm ∧ t.staging = s.staging) ∧
     (∀ route e, routeEntry s k g 1 route = some e →
       (headReq s k route = none ∨ ∃ r, headReq s k route = some r ∧ (r.write = true ∨ groupOf r.addr ≠ g)) →
       Answers (.hbmRead k g route) s idle) ∧
     (∀ route e r w l, routeEntry s k g 2 route = some e → headReq s k route = some r → r.write = true → groupOf r.addr = g →
       Tab.get [] (stackSt s k).wbuf route = w :: l → reqOpen s r = true → isHbm r.addr = true → isHbm (r.addr + 127) = true →
       Answers (.hbmWrite k g route) s fun t =>
         Writes s t r.addr (lineBytes w.data) ∧ WorkAsBefore s t ∧ Tab.get [] (stackSt t k).wbuf route = l ∧
         Tab.get [] (stackSt t k).fifo route = (Tab.get [] (stackSt s k).fifo route).drop 1) ∧
     (∀ route e, routeEntry s k g 2 route = some e → Tab.get [] (stackSt s k).wbuf route = [] →
       Answers (.hbmWrite k g route) s idle) ∧
     (entryNow s k g 0 = none → Answers (.hbmIdle k g) s (· = s)) ∧
     ((entryNow s k g 0).isSome = true → Answers (.hbmIdle k g) s fun t => onlyStacks t ∧ others t ∧
       Tab.get 0 (stackSt t k).slip g = Tab.get 0 (stackSt s k).slip g - 1 ∧
       ∀ n, n ≠ g → Tab.get 0 (stackSt t k).slip n = Tab.get 0 (stackSt s k).slip n) ∧
     ((entryNow s k g 3).isSome = true → Answers (.ref k g) s fun t => onlyStacks t ∧ others t ∧
       (refEnd (stackSt s k) g ≤ slotNow s + Tab.get 0 (stackSt s k).slip g →
         Tab.get 0 (stackSt t k).refAt g = slotNow s + Tab.get 0 (stackSt s k).slip g + 1 ∧
         (stackSt t k).slipCnt = bump (stackSt s k).slipCnt (Tab.get 0 (stackSt s k).slip g)) ∧
       (slotNow s + Tab.get 0 (stackSt s k).slip g < refEnd (stackSt s k) g → (stackSt t k).refAt = (stackSt s k).refAt)) ∧
     (g < 16 → (stackSt s k).state = 2 → (stackSt s k).rint ≤ sinceRef s k g → Answers (.refreshInsert k g) s fun t =>
       t = { s with hstacks := t.hstacks, trc := t.trc } ∧ others t ∧
       stackSt t k = { stackSt s k with
         refAt := Tab.set 0 (stackSt s k).refAt g (slotNow s + 1)
         schedFault := if (stackSt s k).boot then (stackSt s k).schedFault else bump (stackSt s k).schedFault 1
         sfault := (stackSt s k).sfault || !(stackSt s k).boot }) ∧
     (∀ a, (entryNow s k g 4).isSome = true → s.hostq.find? (hostHere k g) = some a → a.hull = 0 → isHbm a.addr = true →
       (let n := if a.write then a.data.length else a.len
        (hostMem s a.host a.addr n = true → a.write = true → a.data ≠ [] → Answers (.host k g) s fun t =>
          t = { s with hostq := s.hostq.erase a, hstacks := t.hstacks, hbm := t.hbm, hbmFlips := t.hbmFlips } ∧
          Writes s t a.addr a.data) ∧
        (hostMem s a.host a.addr n = true → a.write = false → Answers (.host k g) s fun t =>
          t = { s with hostq := s.hostq.erase a, hstacks := t.hstacks,
                       out := s.out ++ [.memData a.host a.tag (memRead s a.addr n)] }) ∧
        (hostMem s a.host a.addr n = false → Answers (.host k g) s fun t =>
          t = { s with hostq := s.hostq.erase a, hstacks := t.hstacks, trc := t.trc,
                       cxl := { s.cxl with memRej := bump s.cxl.memRej 1, memRejAddr := a.addr },
                       out := s.out ++ if a.write then [] else [.memData a.host a.tag (List.replicate a.len 0)] }))) ∧
     (∀ a ch, (entryNow s k g 4).isSome = true → s.hostq.find? (hostHere k g) = some a → a.hull = ch + 1 → isHbm a.addr = true →
       a.write = false → hostMem s a.host a.addr a.len = true → (hchan s ch).waits = true → (hchan s ch).state = .load →
       Answers (.host k g) s fun t =>
         t = { s with hostq := s.hostq.erase a, hstacks := t.hstacks, hchans := t.hchans } ∧
         hchan t ch = { hchan s ch with waits := false, opmem := (hchan s ch).opmem ++ memRead s a.addr a.len, lastAt := s.cycle } ∧
         ∀ n, n ≠ ch → hchan t n = hchan s n) ∧
     (∀ a, (entryNow s k g 4).isSome = true → s.hostq.find? (hostHere k g) = some a → a.hull = 0 → isHbm a.addr = false → isReq a.addr = false →
       Answers (.host k g) s fun t =>
         t = { s with hostq := s.hostq.erase a, hstacks := t.hstacks } ∧
         (stackSt t k).stq = joinStq
           { src := .host a.host a.tag, write := a.write, addr := a.addr, data := ofLineBytes a.data, bytes := a.data,
             len := if a.write then a.data.length else a.len, att := 20, ready := s.cycle } (stackSt s k).stq))

/-- The next line of a unit joins the FIFO of an enabled route that ends at its stack, to be served 64 slots after it has come; a
line to write, and an access of a staging buffer, is on its way; a line outside the job's granules or its tensor ends the job
with E_BOUNDS. The first flit of a line at the attachment pip leaves in a mesh position of the route that leads to its pips,
and with the second the line is on its way to its unit, a key header to the gate of every pod and a key entry to the pip of
its share in every pod. STAGE_IN moves the next residual line into the residual window of the channel, and STAGE_OUT stores
the next line of the new residual half from there; no other byte changes. (R111, R119, R253, R255, R262, R273, R281, R289,
R336, R340, R342, R468) -/
def Obligations.LineRequests : Prop :=
  ∀ (s : State),
    (∀ p u k route j tp a bs r x, p < 10240 → jobOfPip s p = some j → unitAsk s p u j = some a → stackEnd s route k = some tp →
      askOk s j.ctx u a = true → a.sp = some x → 0 ≤ x → stackOf a.hbm.toNat = k → routeRoom s k route a = true →
      (a.write = true → inRegion (pipOf s p).sp (pipOf s p).st.context x 128 = true ∧ bankTaken (pipOf s p) x = false) →
      (if a.write then askData (pipOf s p) u x.toNat else ([], done (pipOf s p))) = (bs, r) → r.fail = none → r.fx = [] →
      (let due := s.cycle + meshCycles s.mod.map p tp
       let req : Req := { src := .unit p u, write := a.write, addr := a.hbm.toNat, ctx := j.ctx, sp := x.toNat,
                          data := ofLineBytes bs, bytes := bs, att := attOf k tp, route := route }
       Answers (.requestWord p u k route) s fun t =>
         t = { s with pips := t.pips, hstacks := t.hstacks, flight := t.flight } ∧
         t.flight = s.flight ++ (if a.write || !isHbm a.hbm.toNat then [.wline k route due req] else []) ∧
         (∀ n, n ≠ k → stackSt t n = stackSt s n) ∧ (∀ n, n ≠ p → pipOf t n = pipOf s n) ∧
         pipOf t p = unitAsked u s.cycle r.p ∧
         Tab.get [] (stackSt t k).fifo route = Tab.get [] (stackSt s k).fifo route ++
           (if isHbm a.hbm.toNat then [{ req with ready := slotAt s due + 64 }] else []))) ∧
    (∀ p u k route j tp a, p < 10240 → jobOfPip s p = some j → unitAsk s p u j = some a → stackEnd s route k = some tp →
      (askOk s j.ctx u a = false ∨ a.sp = none ∨ ∃ x, a.sp = some x ∧ x < 0) →
      Answers (.requestWord p u k route) s fun t => t = failPip s p eBounds false) ∧
    (∀ k route r l to_, k < 12 → Tab.get [] (stackSt s k).lines route = r :: l → r.ready ≤ slotNow s →
      Tab.get 0 (stackSt s k).outAt route ≠ s.cycle + 1 → (stackEnd s route k).isSome = true →
      routeIn (resv s) s.mod.map route k r.att (s.cycle % 4096) = true →
      (linePips s k route r).bind (travelAll s k r.att) = some to_ →
      (let out (rest : List Req) : StackSt := { stackSt s k with
         lines := Tab.set [] (stackSt s k).lines route rest, outAt := Tab.set 0 (stackSt s k).outAt route (s.cycle + 1) }
       (r.sent = 0 → Answers (.readLineReady k route) s fun t => t = setStack s k (out ({ r with sent := 1 } :: l))) ∧
       (∀ p u, r.sent ≠ 0 → r.src = .unit p u → u ≠ 4 → Answers (.readLineReady k route) s fun t =>
         t = { setStack s k (out l) with
               flight := s.flight ++ to_.map fun d => .line d.1 u (s.cycle + d.2) route { r with hop := d.2 } }) ∧
       (∀ p y i, r.sent ≠ 0 → r.src = .unit p 4 → keyOf s p r = some (y, i) → Answers (.readLineReady k route) s fun t =>
         t = { setStack s k (out l) with pips := t.pips, flight := t.flight } ∧ (∀ n, n ≠ p → pipOf t n = pipOf s n) ∧
         (pipOf t p).regs = (pipOf s p).regs ∧ (pipOf t p).sp = (pipOf s p).sp ∧
         (i = 0 → t.flight = s.flight ++ to_.map fun d =>
           .key d.1 (s.cycle + d.2) true (keyCorrected s y.addr (khPlen (lineBytes r.data))) r.data) ∧
         (i ≠ 0 → t.flight = s.flight ++ to_.map fun d => .key d.1 (s.cycle + d.2) false false r.data)))) ∧
    (∀ k route g ch c b, k < 12 → stageGroup s k route 5 = some g → movesChan s k route wantsResid = some (ch, c, b) →
      (let a := residHalf b (clSeq b % 2) + 128 * (c.resIn % residLines b)
       groupOf a = g → ctxMem s c.ctx a 128 = true → memUe s a 128 = false → OneMemory (windowLine c c.resIn) 128 →
       Answers (.stageIn k route) s fun t =>
         Writes s t (windowLine c c.resIn) (memRead s a 128) ∧ WorkAsBefore s t ∧ t.pips = s.pips ∧
         chanSt t ch = { c with resIn := c.resIn + 1 } ∧ ∀ n, n ≠ ch → chanSt t n = chanSt s n)) ∧
    (∀ k route g ch c b y ys, k < 12 → stageGroup s k route 6 = some g →
      movesChan s k route (fun c => c.resOut ≠ []) = some (ch, c, b) → c.resOut = y :: ys →
      (let a := residHalf b ((clSeq b + 1) % 2) + 128 * c.resNext
       let w := windowLine c c.resNext
       groupOf a = g → ctxMem s c.ctx a 128 = true → OneMemory a 128 → OneMemory w 128 →
       Answers (.stageOut k route) s fun t =>
         (∀ x, byteAt t x = if a ≤ x ∧ x < a + 128 then (lineBytes y).getD (x - a) 0
           else if w ≤ x ∧ x < w + 128 then (lineBytes y).getD (x - w) 0 else byteAt s x) ∧
         WorkAsBefore s t ∧ t.pips = s.pips ∧ chanSt t ch = { c with resOut := ys, resNext := c.resNext + 1 } ∧
         ∀ n, n ≠ ch → chanSt t n = chanSt s n)) ∧
    (∀ k route, k < 12 →
      (stageGroup s k route 5 = none → Answers (.stageIn k route) s (· = s)) ∧
      (stageGroup s k route 6 = none → Answers (.stageOut k route) s (· = s)) ∧
      (∀ g, stageGroup s k route 5 = some g → movesChan s k route wantsResid = none →
        Answers (.stageIn k route) s fun t => (stackSt t k).idleCnt = bump (stackSt s k).idleCnt 1 ∧
          t = { s with hstacks := t.hstacks }))

/-- The acorn or the management host writes a granule entry, and no other; a write that R274 forbids only sets GRAN_ERR; a granule
given to another owner, or an HBM granule given another PROT, is scrubbed first. A SCRUB entry stores 128 zero bytes at the
granule's next line in its group, a staging granule is zeroed a line in a cycle in which its bank is free, and no other byte
changes; the last line frees the entry. Above 85 degrees the refresh interval is 2,437 slots, and else 4,875. (R272, R274,
R275, R280, R285, R287, R288) -/
def Obligations.GranulesAndStacks : Prop :=
  ∀ (s : State),
    (∀ (staging : Bool) w g v, g < 768 →
      (let i : Instr := if staging then .hbmSgran w g v else .hbmGran w g v
       let old := granSt s staging g
       let new : Granule := { old with prot := bits v 1 0, share := bit v 2, host := bits v 6 3, ctx := bits v 20 7 }
       let bad := granBad staging (decide ((stackSt s (g / 64)).state = 3)) old new.prot (decide (new = old))
       (priv s w = false → Answers i s (· = s)) ∧
       (priv s w = true → bad = true → Answers i s fun t => t = setStack s 0 { stackSt s 0 with granErr := true }) ∧
       (priv s w = true → bad = false → Answers i s fun t =>
         t = { s with granules := t.granules, sgranules := t.sgranules } ∧
         (∀ st n, (st ≠ staging ∨ n ≠ g) → granSt t st n = granSt s st n) ∧
         (granSt t staging g).prot = bits v 1 0 ∧ (granSt t staging g).share = bit v 2 ∧
         (granSt t staging g).host = bits v 6 3 ∧ (granSt t staging g).ctx = bits v 20 7 ∧
         (old.prot = 0 → new.prot ≠ 0 → (granSt t staging g).scrub = (old.scrub || mustZero staging old new) ∧
           (granSt t staging g).owner = namedOwner new)))) ∧
    (∀ g grp, g < 768 → scrubGroup s g = some grp →
      (let n := Tab.get 0 (granSt s false g).zeroed grp
       let a := g * 2 ^ 30 + 128 * (16 * n + grp)
       Answers (.scrub g) s fun t =>
         t = { s with hbm := t.hbm, hbmFlips := t.hbmFlips, hstacks := t.hstacks, granules := t.granules } ∧
         Writes s t a (List.replicate 128 0) ∧ (∀ k, k ≠ g / 64 → stackSt t k = stackSt s k) ∧
         (∀ m, m ≠ g → granSt t false m = granSt s false m) ∧
         granSt t false g = { granSt s false g with zeroed := Tab.set 0 (granSt s false g).zeroed grp (n + 1) })) ∧
    (∀ g, g < 768 → scrubGroup s g = none → Answers (.scrub g) s (· = s)) ∧
    (∀ staging g, g < 768 → (granSt s staging g).scrub = true → zeroedAll staging (granSt s staging g) = true →
      Answers (.granuleZeroed staging g) s fun t =>
        t = setGran s staging g { granSt s staging g with scrub := false, zeroed := [] }) ∧
    (∀ staging g, g < 768 → zeroedAll staging (granSt s staging g) = false → Answers (.granuleZeroed staging g) s (· = s)) ∧
    (∀ g, g < 768 → (granSt s true g).scrub = true →
      (let n := Tab.get 0 (granSt s true g).zeroed 0
       n < stgLines → g % 64 / 4 ∉ (stackSt s (g / 64)).stUsed →
       Writes s (zeroStaging g s) (stgBase + g * 2 ^ 20 + 128 * n) (List.replicate 128 0) ∧
       Tab.get 0 (granSt (zeroStaging g s) true g).zeroed 0 = n + 1 ∧ (zeroStaging g s).hbm = s.hbm ∧
       (stackSt (zeroStaging g s) (g / 64)).stUsed = (stackSt s (g / 64)).stUsed ++ [g % 64 / 4])) ∧
    (∀ k temp, k < 12 → Answers (.hbmHot k temp) s fun t =>
      t = { s with hstacks := t.hstacks, mgt := t.mgt, out := t.out } ∧ (∀ n, n ≠ k → stackSt t n = stackSt s n) ∧
      stackSt t k = { stackSt s k with temp := temp % 256, hot := decide (85 < temp % 256),
                                       rint := if 85 < temp % 256 then 2437 else 4875 }) ∧
    (∀ k ok, k < 12 → (stackSt s k).state = 1 → Answers (.hbmTrainingEnd k ok) s fun t =>
      t = setStack s k { stackSt s k with state := if ok then 2 else 3 })

/-- An integer request that is not refused leaves at TARGET the elements that its operation gives, each from the old element and
its operand, and for SWAP and CAS the old elements at RET; no other byte of HBM or of a staging buffer changes. One that meets
an uncorrected error in the run it reads ends the job that sent it. A refused request is written nowhere; the stack records
the code. (R289, R290, R291, R273, Table 11.6) -/
def Obligations.StagingRequests : Prop :=
  ∀ (s : State) (k : Nat) (r : Req) (rest : List Req), k < 12 → nextAccess s k = some (r, rest) → isReq r.addr = true →
    r.write = true →
    ∀ i aop, (i, aop) ∈ [(Instr.stAdd k, 0), (.stSmin k, 1), (.stSmax k, 2), (.stUmin k, 3), (.stUmax k, 4), (.stSwap k, 5),
        (.stCas k, 6)] → rqAop r.bytes = aop →
      (let b := r.bytes
       let old := rqOld s k b
       let width := 8 * rqSize b
       let new (n : Nat) : Nat :=
         let o := nth old n 0
         let x := rqOpnd b n
         match aop with
         | 0 => (o + x) % 2 ^ width
         | 1 => if sgn width x < sgn width o then x else o
         | 2 => if sgn width o < sgn width x then x else o
         | 3 => min o x
         | 4 => max o x
         | 5 => x
         | _ => if o = rqOpnd b (2 * n) then rqOpnd b (2 * n + 1) else o
       let results := elemBytes b ((List.range (rqNel b)).map new)
       let target := stgAddr k (rqTarget b)
       let ret := stgAddr k (rqRet b)
       (rqCode s k r = eOk → runUe s k b = false →
         Answers i s fun t =>
           (∀ x, byteAt t x =
             if (aop = 5 ∨ aop = 6) ∧ ret ≤ x ∧ x < ret + rqBytes b then (elemBytes b old).getD (x - ret) 0
             else if target ≤ x ∧ x < target + rqBytes b then results.getD (x - target) 0 else byteAt s x) ∧
           (stackSt t k).stq = rest ∧ (stackSt t k).opsCnt = bump (stackSt s k).opsCnt 1 ∧
           (∀ n, n ≠ k → stackSt t n = stackSt s n) ∧ WorkAsBefore s t) ∧
       (rqCode s k r = eOk → runUe s k b = true →
         Answers i s fun t => ∀ j, reqJob s r = some j → j.phase = .running → ∀ x ∈ t.jobs, x.id ≠ j.id) ∧
       (rqCode s k r ≠ eOk →
         Answers i s fun t => t.hbm = s.hbm ∧ t.staging = s.staging ∧ (stackSt t k).stErr = true ∧
           (stackSt t k).stCode = rqCode s k r ∧
           ∀ j, reqJob s r = some j → j.phase = .running → ∀ x ∈ t.jobs, x.id ≠ j.id))

/-- A FADD whose SEQ is NEXT, where no uncorrected error lies in the run, adds its FP32 words to those at TARGET under R178 and
moves NEXT on by one; one ahead of NEXT is held and writes nothing; a held FADD whose SEQ has become NEXT is applied, in a
cycle in which its bank is free, and leaves the store; ORDSET sets NEXT to SEQ and discards the held requests of its slot, and
no byte changes. (R178, R292, R293) -/
def Obligations.OrderedAdds : Prop :=
  ∀ (s : State) (k : Nat), k < 12 →
    (∀ r rest, nextAccess s k = some (r, rest) → isReq r.addr = true → r.write = true → rqCode s k r = eOk →
      (let b := r.bytes
       let target := stgAddr k (rqTarget b)
       let ws := (List.range (rqNel b)).map fun i => BitVec.ofNat 32 (rqOpnd b i)
       (rqAop b = 8 → seqAhead (stackSt s k) b = 0 → runUe s k b = false →
         Answers (.stFadd k) s fun t =>
           Writes s t target (bytes32 ((List.zip (words32 (memRead s target (4 * rqNel b))) ws).map fun e => f32add e.1 e.2)) ∧
           Tab.get 0 (stackSt t k).next (rqSlot b) = Tab.get 0 (stackSt s k).next (rqSlot b) + 1 ∧
           (∀ n, n ≠ rqSlot b → Tab.get 0 (stackSt t k).next n = Tab.get 0 (stackSt s k).next n) ∧
           (stackSt t k).held = (stackSt s k).held ∧ (stackSt t k).stq = rest ∧ WorkAsBefore s t) ∧
       (rqAop b = 8 → 0 < seqAhead (stackSt s k) b →
         Answers (.stFadd k) s fun t =>
           t.hbm = s.hbm ∧ t.staging = s.staging ∧ (stackSt t k).next = (stackSt s k).next ∧
           (stackSt t k).held = (stackSt s k).held ++ [⟨rqSlot b, (rqSeq b).toNat, target, ws, r.ctx, r.src⟩] ∧
           (stackSt t k).holdCnt = bump (stackSt s k).holdCnt 1 ∧ (stackSt t k).stq = rest ∧ WorkAsBefore s t) ∧
       (rqAop b = 9 →
         Answers (.ordset k) s fun t =>
           t.hbm = s.hbm ∧ t.staging = s.staging ∧ Tab.get 0 (stackSt t k).next (rqSlot b) = rqSeq b ∧
           (∀ n, n ≠ rqSlot b → Tab.get 0 (stackSt t k).next n = Tab.get 0 (stackSt s k).next n) ∧
           (∀ h, h ∈ (stackSt t k).held ↔ h ∈ (stackSt s k).held ∧ h.slot ≠ rqSlot b) ∧ (stackSt t k).stq = rest ∧
           WorkAsBefore s t))) ∧
    (∀ slot h, ((stackSt s k).held.find? fun h => h.slot = slot && BitVec.ofNat 32 h.seq = Tab.get 0 (stackSt s k).next slot) = some h →
      h.words ≠ [] → OneMemory h.addr (4 * h.words.length) → memUe s h.addr (4 * h.words.length) = false →
      (h.addr - stgBase) / 2 ^ 22 % 16 ∉ (stackSt s k).stUsed →
      Answers (.faddHeldApply k slot) s fun t =>
        Writes s t h.addr (bytes32 ((List.zip (words32 (memRead s h.addr (4 * h.words.length))) h.words).map fun e => f32add e.1 e.2)) ∧
        Tab.get 0 (stackSt t k).next slot = Tab.get 0 (stackSt s k).next slot + 1 ∧
        (stackSt t k).held = (stackSt s k).held.erase h ∧ WorkAsBefore s t ∧ t.pips = s.pips)

/-- A plain write that its sender may make stores its bytes and no other; a plain read of a host is answered with the bytes that
stand there, and the line of one of a unit is ready to leave on the route it came by; a host access outside its granules is
rejected and a unit's ends its job with E_BOUNDS; a read of a request window, whose value the specification does not give,
answers free bytes (the model's log 8) and changes no byte; a request with a reserved AOP is refused with E_DESC. (R273, R288,
R289, R293, R351) -/
def Obligations.StagingAccesses : Prop :=
  ∀ (s : State) (k : Nat) (r : Req) (rest : List Req), k < 12 → nextAccess s k = some (r, rest) →
    (isReq r.addr = false → r.write = true → senderOwns s r r.addr r.bytes.length = true → r.bytes ≠ [] →
      Answers (.stagingAccess k) s fun t => Writes s t r.addr r.bytes ∧ (stackSt t k).stq = rest ∧ WorkAsBefore s t) ∧
    (∀ h tag, isReq r.addr = false → r.write = false → senderOwns s r r.addr r.len = true → r.src = .host h tag →
      Answers (.stagingAccess k) s fun t =>
        t = { s with hstacks := t.hstacks, out := s.out ++ [.memData h tag (memRead s r.addr r.len)] } ∧
        (stackSt t k).stq = rest) ∧
    (∀ p u, isReq r.addr = false → r.write = false → senderOwns s r r.addr r.len = true → r.src = .unit p u →
      memUe s r.addr r.len = false →
      Answers (.stagingAccess k) s fun t =>
        t = { s with hstacks := t.hstacks } ∧ (stackSt t k).stq = rest ∧
        Tab.get [] (stackSt t (stackOf r.addr)).lines r.route = Tab.get [] (stackSt s (stackOf r.addr)).lines r.route ++
          [{ r with data := ofLineBytes (memRead s r.addr r.len), ready := slotNow s, sent := 0 }]) ∧
    (∀ h tag, isReq r.addr = false → senderOwns s r r.addr (if r.write then r.bytes.length else r.len) = false → r.src = .host h tag →
      Answers (.stagingAccess k) s fun t =>
        t = { s with hstacks := t.hstacks, trc := t.trc, cxl := { s.cxl with memRej := bump s.cxl.memRej 1, memRejAddr := r.addr },
                     out := s.out ++ if r.write then [] else [.memData h tag (List.replicate r.len 0)] }) ∧
    (∀ p u j, isReq r.addr = false → senderOwns s r r.addr (if r.write then r.bytes.length else r.len) = false →
      r.src = .unit p u → jobOfPip s p = some j → j.phase = .running →
      Answers (.stagingAccess k) s fun t =>
        t.hbm = s.hbm ∧ t.staging = s.staging ∧ (∀ x ∈ t.jobs, x.id ≠ j.id) ∧
        ∀ q ∈ jobPips j, (pipOf t q).job = 0 ∧ (pipOf t q).st.lastCode = eBounds) ∧
    (∀ h tag, isReq r.addr = true → r.write = false → r.src = .host h tag →
      Answers (.stagingAccess k) s fun t =>
        t = { s with hstacks := t.hstacks, free := t.free, out := s.out ++ [.memData h tag (freeBytes s r.len)] } ∧
        (stackSt t k).stq = rest) ∧
    (isReq r.addr = true → r.write = true → (rqAop r.bytes = 7 ∨ rqAop r.bytes > 9) →
      Answers (.stagingAccess k) s fun t =>
        t.hbm = s.hbm ∧ t.staging = s.staging ∧ (stackSt t k).stErr = true ∧ (stackSt t k).stCode = eDesc)

/-- Each event of a link's training, measurement and time moves that link's step, state, measurement or offset as the rule says
and no other link: signal and flit lock, the capability message with its identity check, 256 exchanges giving delay and
length, a restart after 1 ms and a retry after 100 ms, the last step into standby; the link period corrects the time by at
most 1/8 ns, or sets the phase of a module that is not joined (the model's log 36); at an epoch boundary a joined module's
epoch number goes up by one and a standby link that fits its plan is scheduled; hold, down and departures end what the link
carries; LNK_CTRL is written by the acorn or the management host only. (R299, R305, R306, R307, R308, R310, R311, R312, R324,
R325, R328, R329) -/
def Obligations.LinkTraining : Prop :=
  ∀ (s : State) (l : Nat), l < 36 →
    (let v := linkSt s l
     let fresh : LinkSt := { v with state := 1, step := 1, locked := false, exch := 0, dsum := 0, osum := 0, partner := {},
                                    bursts := [], ctrl := [], measSent := 0, echo := none, timeEcho := none }
     let becomes (u : LinkSt) (t : State) : Prop := t = setLink s l u
     (linkLive s l = true → (v.state = 0 ∨ v.state = 5 ∨ (v.state = 1 ∧ v.step ≤ 1)) →
       Answers (.signalDetect l) s (becomes { fresh with signal := true, step := 2, since := s.cycle })) ∧
     (∀ mode, mode ≤ 2 → v.state = 1 → v.signal = true →
       Answers (.flitLock l mode) s (becomes { v with
         locked := true, mode := mode, step := max v.step 6, ctrl := if v.step < 6 then [.capability] else v.ctrl })) ∧
     (∀ mode, mode ≤ 2 → 2 ≤ v.state → v.state ≤ 4 → v.signal = true → Answers (.flitLock l mode) s (becomes { v with locked := true })) ∧
     (Answers (.lossOfFlitLock l) s (becomes { v with locked := false, good := 0 })) ∧
     (∀ m : CapMsg, v.state = 1 → v.locked = true →
       (let p : Partner := ⟨true, m.node, m.k, m.lplan, m.mode, m.epoch, m.evalid, m.anchor, m.hops, m.joined, m.pps⟩
        Answers (.capability l m) s (becomes (if identityOk s l m = true then { v with partner := p, step := max v.step 8 }
          else { v with partner := p, wiring := true, step := 7 })))) ∧
     (∀ t1 t2 t3 t4 : Int, (v.state = 1 ∧ 8 ≤ v.step) ∨ (2 ≤ v.state ∧ v.state ≤ 4) →
       (let d := v.dsum + (t2 - t1) + (t4 - t3)
        let o := v.osum + (t2 - t1) - (t4 - t3)
        (v.exch + 1 < 256 → Answers (.measureMessage l t1 t2 t3 t4) s (becomes { v with
          exch := v.exch + 1, echo := some (t3, t4), dsum := d, osum := o })) ∧
        (256 ≤ v.exch + 1 → Answers (.measureMessage l t1 t2 t3 t4) s (becomes { v with
          exch := 0, dsum := 0, osum := 0, echo := some (t3, t4), meas := (d / 512).toNat, offset := o / 512,
          lenCm := ((d / 512).toNat - Tab.get 0 s.nvm.cal.dfix l) * 100 / 320,
          delayMis := v.delayMis || decide ((d / 512).toNat > 34560), step := if v.state = 1 then max v.step 9 else v.step })))) ∧
     (v.state = 1 → v.step ≠ 1 → v.step ≠ 7 → v.since + cyclesOf s 1000000 ≤ s.cycle →
       Answers (.trainingRestart l) s (becomes { fresh with retrain := bump v.retrain 1 })) ∧
     (v.state = 1 → v.step = 7 → v.since + cyclesOf s 100000000 ≤ s.cycle → Answers (.wiringRetry l) s (becomes fresh)) ∧
     (∀ m : TimeMsg, v.state = 1 → 9 ≤ v.step → Answers (.time l m) s fun t =>
       t = { s with links := t.links, lnk := { s.lnk with skew := t.lnk.skew } } ∧ (linkSt t l).state = 2 ∧
       (linkSt t l).offset = thetaOf v m ∧ (linkSt t l).lastFlit = s.cycle ∧ (linkSt t l).timeEcho = some (m.sent, m.recv) ∧ ∀ n, n ≠ l → linkSt t n = linkSt s n) ∧
     (v.state = 3 → (∃ b ∈ v.bursts, b.dead = false ∧ b.held = true) → v.lastFlit + cyclesOf s 256 ≤ s.cycle →
       Answers (.linkHold l) s fun t => (linkSt t l).state = 4 ∧ (linkSt t l).hold = bump v.hold 1 ∧
         (∀ n, n ≠ l → linkSt t n = linkSt s n) ∧ t.lasting = { s.lasting with links := t.links }) ∧
     (2 ≤ v.state → v.state ≤ 4 → v.lastFlit + cyclesOf s 10000 ≤ s.cycle →
       Answers (.linkDown l) s fun t => (linkSt t l).state = 5 ∧ (linkSt t l).down = bump v.down 1 ∧ (linkSt t l).bursts = [] ∧
         (∀ n, n ≠ l → linkSt t n = linkSt s n) ∧ t.lasting = { s.lasting with links := t.links }) ∧
     (2 ≤ v.state → v.state ≤ 4 →
       Answers (.partnerDepart l) s fun t => (linkSt t l).state = 5 ∧ (linkSt t l).down = bump v.down 1 ∧ (linkSt t l).bursts = [] ∧
         (∀ n, n ≠ l → linkSt t n = linkSt s n) ∧ t.lasting = { s.lasting with links := t.links }) ∧
     (Answers (.cblpwrOverload l) s fun t => t = { s with links := t.links, pwr := { s.pwr with cblOff := t.pwr.cblOff } } ∧
       l ∈ t.pwr.cblOff ∧ linkSt t l = { v with signal := false, locked := false, good := 0 } ∧
       ∀ n, n ≠ l → linkSt t n = linkSt s n)) ∧
    (periodNow s ≤ s.lnk.period → Answers .linkPeriod s (· = s)) ∧ (epochNow s ≤ s.lnk.epochs → Answers .epochBoundary s (· = s)) ∧
    (s.lnk.anchor = false → s.lnk.period < periodNow s → Answers .linkPeriod s fun t =>
      t = { s with timeOff := t.timeOff, pwr := { s.pwr with steer := t.pwr.steer }, lnk := t.lnk, links := t.links, chans := t.chans } ∧
      t.timeOff = s.timeOff + (if phaseLinks s = [] then timeStep s else phaseStep s) ∧ (s.lnk.sync = 2 → phaseLinks s = []) ∧ -8 ≤ timeStep s ∧ timeStep s ≤ 8 ∧
      ∀ n, n < 36 → linkSt t n = { linkSt s n with good :=
        if (linkSt s n).state = 4 ∧ (linkSt s n).locked = true then (linkSt s n).good + 1 else (linkSt s n).good }) ∧
    (s.lnk.departReq = false → s.lnk.sync = 2 → s.lnk.epochs < epochNow s → Answers .epochBoundary s fun t => t.lnk.epoch = s.lnk.epoch + 1 ∧ t.lnk.sync = 2 ∧
      ∀ n, n < 36 → (linkSt s n).state = 2 → (linkSt s n).record ≠ [] → s.lnk.pendTables = false → planFits (linkSt s n) = true →
        delayFits (linkSt s n) = true → (linkSt s n).meas ≤ 34560 → (linkSt t n).state = 3) ∧
    (s.lnk.departReq = true → s.lnk.epochs < epochNow s → Answers .epochBoundary s fun t => t.lnk.sync = 0 ∧ t.lnk.joinEn = false ∧ t.lnk.departReq = false ∧
      t.jobs = s.jobs ∧ ∀ n, n < 36 → 2 ≤ (linkSt s n).state → (linkSt s n).state ≤ 4 → (linkSt t n).state = 2) ∧
    (s.lnk.ppsEn = true → Answers .timePps s fun t => t = { s with lnk := t.lnk } ∧
      t.lnk.ppsTime = BitVec.ofInt 64 (instTime s) ∧ (s.lnk.ppsLast = none → t.lnk.ppsLock = false)) ∧
    (∀ w b, (priv s w = true →
        (Answers (.joinEn w b) s fun t => t = { s with lnk := { s.lnk with joinEn := b } }) ∧
        (Answers (.ppsEn w b) s fun t => t = { s with lnk := t.lnk } ∧ t.lnk.ppsEn = b ∧ (b = false → t.lnk.ppsLock = false)) ∧
        (Answers (.depart w) s fun t => t = { s with lnk := { s.lnk with departReq := true } }) ∧
        (Answers (.wakePattern w) s fun t => t = { s with out := s.out ++
          ((List.range 36).filter fun l => (linkSt s l).state = 0 || (linkSt s l).state = 5).map fun l => OutMsg.wakePattern l })) ∧
      (priv s w = false → ∀ i ∈ [Instr.joinEn w b, .ppsEn w b, .depart w, .wakePattern w], Answers i s (· = s)))

/-- A good flit of a scheduled link is counted, and is forwarded unchanged but for its tag and position on the link its receive
entry names, or delivered; a whole message in one flit joins the link's messages; a flit in the wrong epoch is stale and is
not counted as received. When the time is in the first position of a run, the oldest message of its route leaves whole where
it fits, and else the run passes and is counted. A DATA message that passes its checks hands its bytes to the banks of a
scratchpad that is awake and free, or its lines to the staging buffer, and signals once they have landed; one that fails is
counted and writes nothing. A silent entry of a scheduled link holds its bursts, and a forwarding one sends a VOID. (R301,
R315, R316, R318, R319, R320, R322, R323, R324, R326, R290) -/
def Obligations.LinkTraffic : Prop :=
  ∀ (s : State) (l : Nat), l < 36 →
    (let v := linkSt s l
     let entry (j : Nat) : Nat := lrRx v.record j
     (∀ f : RxFlit, v.state = 3 → f.err0 = 0 → f.err1 = 0 → offWindow v.record f = false → f.pos = f.slot → f.slot % 64 ≠ 0 →
       (∀ b ∈ v.bursts, b.held = false) →
       (let r := rxPosition v.record f.slot
        (f.etag = (flitEpoch s f).toNat % 256 → rxAct (entry r) = 2 → f.type ≠ 5 → rxOut (entry r) ≠ l →
          (linkSt s (rxOut (entry r))).state = 3 →
          Answers (.linkFlitReceive l f) s fun t =>
            t = setLink { s with out := s.out ++ [.linkFlit (rxOut (entry r)) { f with
              slot := (r + 33) % 8960, pos := (r + 33) % 8960, etag := s.lnk.epoch.toNat % 256, arr := 0 }] } l
              { v with flit := bump v.flit 1, lastFlit := s.cycle }) ∧
        (f.etag = (flitEpoch s f).toNat % 256 → rxAct (entry r) = 1 → f.type = 1 → f.bpos = 0 → burstOf v (rxRoute (entry r)) = none →
          rxFill v < 128 →
          Answers (.linkFlitReceive l f) s fun t =>
            t = setLink s l { v with
              flit := bump v.flit 1, lastFlit := s.cycle,
              msgs := v.msgs ++ [⟨rxRoute (entry r), f.src, 0, false, f.data ++ List.replicate (232 - f.data.length) 0, false⟩],
              bursts := (linkSt t l).bursts }) ∧
        (f.etag ≠ (flitEpoch s f).toNat % 256 → rxAct (entry r) ≠ 2 →
          Answers (.linkFlitReceive l f) s fun t =>
            t = setLink s l { v with stale := bump v.stale 1, bursts := (linkSt t l).bursts }))) ∧
     (∀ f : RxFlit, v.state = 2 → Answers (.linkFlitReceive l f) s fun t =>
       t = setLink s l { v with flit := bump v.flit 1, lastFlit := s.cycle }) ∧
     (∀ f : RxFlit, v.state = 4 → rxAct (entry (rxPosition v.record f.slot)) = 0 → Answers (.linkFlitReceive l f) s fun t =>
       t = setLink s l { v with stale := bump v.stale 1, lastFlit := s.cycle, good := if offWindow v.record f then 0 else v.good }) ∧
     (∀ r : Nat, v.state = 3 → v.record ≠ [] → posNow s % 8960 = r → v.runAt < posNow s → runStarts v.record (bits (lrTx v.record r) 13 2) r = true →
       (let route := bits (lrTx v.record r) 13 2
        (∀ m ms, v.tx.filter (fun x => decide (x.route = route)) = m :: ms → linkFlits m.bytes ≤ runLen v.record route r →
          Answers (.linkRunTransmit l r) s fun t =>
            t = setLink { s with out := s.out ++ [.linkRun l r m.coll m.bytes] } l { v with runAt := posNow s, tx := v.tx.erase m }) ∧
        (∀ m ms, v.tx.filter (fun x => decide (x.route = route)) = m :: ms → runLen v.record route r < linkFlits m.bytes →
          Answers (.linkRunTransmit l r) s fun t => t = setLink s l { v with runAt := posNow s, defer_ := bump v.defer_ 1 }) ∧
        ((∀ m ∈ v.tx, m.route ≠ route) →
          Answers (.linkRunTransmit l r) s fun t => t = setLink s l { v with runAt := posNow s, defer_ := bump v.defer_ 1 }))) ∧
     (∀ m rest, v.msgs = m :: rest →
       (let b := m.bytes
        let data := slice b 24 (dLen b)
        let kept : LinkSt := { v with msgs := { m with placed := true } :: rest }
        let signalled (t : State) : Prop := linkSt t l = { v with msgs := rest } ∧ (∀ n, n ≠ l → linkSt t n = linkSt s n) ∧
          ∀ i, syncVal t i = if dSen b = true ∧ i = dSobj b then syncVal s i + BitVec.ofNat 32 (dSadd b) else syncVal s i
        (m.placed = false → dataForm s m.route b = true → dataOwned s m.route b = true →
          (dKind b = 0 → padAwake s (dPip b) = true → padTaken (pipOf s (dPip b)) (dAddr b) (dLen b) = false →
            (dSen b = true → syncReady s (dSobj b) = true) →
            Answers (.data l) s fun t =>
              signalled t ∧ t = { s with links := t.links, pips := t.pips, syncs := t.syncs, adds := t.adds } ∧
              (∀ p, p ≠ dPip b → pipOf t p = pipOf s p) ∧ (pipOf t (dPip b)).sp = (pipOf s (dPip b)).sp ∧
              (pipOf t (dPip b)).ops.writes =
                (pipOf s (dPip b)).ops.writes ++ [⟨s.cycle + 2, 0, padWords 0 (dAddr b) data⟩]) ∧
          (dKind b ≠ 0 →
            (dataReqs s l b).flatMap (·.bytes) = data ∧ (∀ r ∈ dataReqs s l b, r.write = true ∧ r.ctx = dCtx b) ∧
            Answers (.data l) s fun t =>
              t = { s with links := t.links, hstacks := t.hstacks, syncs := t.syncs, adds := t.adds, fields := t.fields, out := t.out } ∧
              (dSen b = false → linkSt t l = { v with msgs := rest } ∧ t.syncs = s.syncs) ∧
              (dSen b = true → dataReqs s l b ≠ [] → linkSt t l = kept ∧ t.syncs = s.syncs) ∧
              (stackSt t (stackOf (dAddr b))).stq =
                (dataReqs s l b).foldl (fun q r => joinStq r q) (stackSt s (stackOf (dAddr b))).stq)) ∧
        (m.placed = true → dataWaits s l b = false → dSen b = true → syncReady s (dSobj b) = true →
          Answers (.data l) s fun t => signalled t ∧ t = { s with links := t.links, syncs := t.syncs, adds := t.adds }) ∧
        (m.placed = false → dataForm s m.route b = false ∨ dataOwned s m.route b = false →
          Answers (.data l) s fun t =>
            (linkSt t l) = { v with msgs := rest, msgRej := bump v.msgRej 1 } ∧ t.hbm = s.hbm ∧ t.staging = s.staging ∧
            t.syncs = s.syncs ∧ ∀ n j, routePart s m.route = some n → j ∈ t.jobs → j.part = n → j.phase = .queued ∨ j.phase = .draining))) ∧
     (∀ r, v.record ≠ [] → r < 8960 → v.state = 3 →
       (rxAct (entry r) = 1 → Answers (.silentReceivePosition l r) s fun t => t = setLink s l (holdBursts v)) ∧
       (rxAct (entry r) = 2 → Answers (.silentReceivePosition l r) s fun t =>
         t = { s with links := t.links, out := t.out, trc := t.trc } ∧ (linkSt t l).lastCode = eSlotMiss ∧
         ((linkSt s (rxOut (entry r))).state = 3 → rxOut (entry r) ≠ l → ∃ f, t.out = s.out ++ [.linkFlit (rxOut (entry r)) f] ∧
           f.type = 5 ∧ f.src = s.lnk.node % 4096 ∧ f.data.headD 0 = eSlotMiss))))

/-- CL_OPEN opens its channel with the group as copied, 16 credits and nothing queued; CL_REDUCE joins the FIFO of its channel and
does not complete; CL_CLOSE closes an idle channel at once and else waits at the end of the FIFO; with FORCE the channel is
closed and what it held ends with E_ABORTED; a reduction whose messages and residual lines are all acknowledged completes with
E_OK; no other channel changes. (R332, R333, R334, R335, R342, R343, R344) -/
def Obligations.CollectiveChannels : Prop :=
  ∀ (s : State) (c : Nat) (b : List Byte),
    (let ch := clChan b
     let others (t : State) : Prop := ∀ n, n ≠ ch → chanSt t n = chanSt s n
     (MayIssue s c 0x20 b (openForm b) (ctxHbm s c (field b 24 8) 16 && ctxHbm s c (field b 24 8) (groupLen s (field b 24 8)) &&
         ctxMem s c (field b 32 8) 0x40000) (openCode s c b) →
       Answers (.clOpen c) s fun t => Issued s t c b (some eOk) false ∧ others t ∧ t.hbm = s.hbm ∧ t.jobs = s.jobs ∧
         chanSt t ch = { chanSt s ch with
           state := 1, ctx := c, opened := b, group := memRead s (field b 24 8) (groupLen s (field b 24 8)), fifo := [],
           running := none, credits := 16, inbox := [], unacked := 0 }) ∧
     (MayIssue s c 0x21 b (reduceForm b) (ctxMem s c (clBucket b) (clNelem b * clElem b) && ctxMem s c (clOut b) (4 * clNelem b) &&
         (clDense b || ctxMem s c (clResid b) (8 * clNelem b)))
         (reduceCode s c b) →
       Answers (.clReduce c) s fun t => Issued s t c b none false ∧ others t ∧ t.hbm = s.hbm ∧ t.jobs = s.jobs ∧
         chanSt t ch = { chanSt s ch with fifo := (chanSt s ch).fifo ++ [⟨s.nextId, false, b⟩] }) ∧
     (bit (field b 17 1) 0 = false → MayIssue s c 0x22 b (closeForm b) true (if chanMine s c ch then eOk else eDesc) →
       Answers (.clClose c) s fun t => Issued s t c b (some eOk) false ∧ others t ∧ t.hbm = s.hbm ∧ t.jobs = s.jobs ∧
         ((chanSt s ch).running = none → (chanSt s ch).fifo = [] → (chanSt t ch).state = 0 ∧ (chanSt t ch).fifo = []) ∧
         ((chanSt s ch).running ≠ none →
           chanSt t ch = { chanSt s ch with fifo := (chanSt s ch).fifo ++ [⟨0, true, []⟩] })) ∧
     (bit (field b 17 1) 0 = true → MayIssue s c 0x22 b (closeForm b) true (if chanMine s c ch then eOk else eDesc) →
       Answers (.clCloseForce c) s fun t => others t ∧ t.jobs = s.jobs ∧
         (chanSt t ch).state = 0 ∧ (chanSt t ch).running = none ∧ (chanSt t ch).fifo = [] ∧ (chanSt t ch).inbox = [] ∧
         ∀ m ∈ s.cmds, m.code = none → ((∃ r, (chanSt s ch).running = some r ∧ r.cmd = m.id) ∨
             ∃ k ∈ (chanSt s ch).fifo, k.close = false ∧ k.cmd = m.id) →
           ∃ n ∈ t.cmds, n.id = m.id ∧ n.code = some eAborted)) ∧
    (∀ ch k, ch < 16 → (chanSt s ch).running = some k → (chanSt s ch).state = 3 → (chanSt s ch).resOut = [] → (chanSt s ch).unacked = 0 →
      (∀ m ∈ (chanSt s ch).outq, m.paid = false) →
      (collP (chanSt s ch) ≤ 1 ∨
        (chunksBut (clNelem k.bytes) (collP (chanSt s ch)) ((rankOf s (chanSt s ch) + collP (chanSt s ch) - 1) % collP (chanSt s ch))
            ≤ (chanSt s ch).recvR ∧
          chunksBut (clNelem k.bytes) (collP (chanSt s ch)) (rankOf s (chanSt s ch)) ≤ (chanSt s ch).recvG)) →
      Answers (.clReduceComplete ch) s fun t =>
        t = { s with chans := t.chans, cmds := t.cmds } ∧ (∀ n, n ≠ ch → chanSt t n = chanSt s n) ∧
        (chanSt t ch).running = none ∧ (chanSt t ch).lastCode = eOk ∧ (chanSt t ch).done = bump (chanSt s ch).done 1 ∧
        ((chanSt s ch).fifo = [] → (chanSt t ch).state = 1) ∧
        ∀ m ∈ s.cmds, m.id = k.cmd → m.code = none → { m with code := some eOk, site := 0 } ∈ t.cmds)

/-- The head command starts once its fill object meets the threshold; its local step leaves in OUT the effective gradients that
are selected and zero elsewhere, and no other byte changes; a message leaves for its link with its credit; a valid reduce
chunk is added into OUT under round32 and a valid gather chunk is stored there, and a CREDIT goes back; a chunk that is not
valid fails the command with E_DESC; a CREDIT of the command gives a credit back; an ABORT of the command ends it with the
code it carries. (R178, R336, R337, R338, R339, R340, R341, R343) -/
def Obligations.CollectiveSteps : Prop :=
  ∀ (s : State) (ch : Nat), ch < 16 →
    (let c := chanSt s ch
     (∀ k rest, c.running = none → c.fifo = k :: rest → c.state = 1 → k.close = false → c.abortSent = false →
       syncReady s (clFill k.bytes) = true → 0 ≤ (syncVal s (clFill k.bytes) - BitVec.ofNat 32 (clThresh k.bytes)).toInt →
       0 < clNelem k.bytes →
       Answers (.localStep ch) s fun t => t = setChan s ch { c with
         state := 2, running := some k, fifo := rest, seq := BitVec.ofNat 32 (clSeq k.bytes), resIn := 0,
         passAt := s.cycle + 3 * ((clNelem k.bytes + 31) / 32) }) ∧
     (∀ k, c.running = some k → c.state = 2 → 3 * residLines k.bytes ≤ c.resIn → c.passAt ≤ s.cycle →
       (let geff := effective s k.bytes
        let chosen := if clDense k.bytes then geff.map fun _ => true else selectTop (collK k.bytes) geff
        let out := bytes32 ((List.zip chosen geff).map fun e => if e.1 then (if collP c ≤ 1 then f32add 0 e.2 else e.2) else 0)
        OneMemory (clOut k.bytes) out.length →
        Answers (.localStep ch) s fun t =>
          Writes s t (clOut k.bytes) out ∧ WorkAsBefore s t ∧ (chanSt t ch).state = 3 ∧ (chanSt t ch).running = some k ∧
          (chanSt t ch).nonfin = bump c.nonfin (geff.filter fun v => !isFin32 v).length ∧
          ∀ n, n ≠ ch → chanSt t n = chanSt s n)) ∧
     (∀ m l, nextOut c = some m → routeLink (resv s) m.route = some l → l < 36 → txFill (linkSt s l) + linkFlits m.bytes ≤ 128 →
       linkFlits m.bytes ≤ min 64 (longestRun (linkSt s l).record m.route) → outAhead s ch m = false →
       Answers (.chunkSend ch) s fun t =>
         t = { s with links := t.links, chans := t.chans } ∧
         linkSt t l = { linkSt s l with tx := (linkSt s l).tx ++ [⟨m.route, s.lnk.node % 4096, 0, true, m.bytes, false⟩] } ∧
         chanSt t ch = { c with outq := c.outq.erase m, txBytes := bump c.txBytes m.bytes.length,
                                credits := if m.paid then c.credits - 1 else c.credits,
                                unacked := if m.paid then c.unacked + 1 else c.unacked }) ∧
     (∀ k m, c.running = some k → c.state = 3 → firstChunk c = some m → c.abortSent = false →
       (let valid := m.src = prevNode s c ∧ slice m.bytes 16 4 = slice c.group 4 4 ∧ msgSeq m = clSeq k.bytes ∧ msgKind m ≤ 5 ∧
          chunkForm (clNelem k.bytes) (collP c) m = true
        let ibase := field m.bytes 8 4
        let z := max 1 (shardZ (clNelem k.bytes) (collP c))
        let len := min 2048 (min (clNelem k.bytes) ((ibase / z + 1) * z) - ibase)
        let got := chunkValues (fromBuf s c m).2.bytes ibase len
        let kept := if msgKind m ≤ 1 then (List.zip got (outWords s k.bytes ibase len)).map (fun e => f32add (f32add 0 e.1) e.2) else got
        (valid → OneMemory (clOut k.bytes + 4 * ibase) (bytes32 kept).length →
          Answers (.coll ch) s fun t =>
            Writes s t (clOut k.bytes + 4 * ibase) (bytes32 kept) ∧ WorkAsBefore s t ∧ t.pips = s.pips ∧
            (chanSt t ch).inbox = c.inbox.erase m ∧
            (chanSt t ch).recvR = (if msgKind m ≤ 1 then c.recvR + 1 else c.recvR) ∧
            (chanSt t ch).recvG = (if msgKind m ≤ 1 then c.recvG else c.recvG + 1) ∧
            (∃ ms, (chanSt t ch).outq = c.outq ++ ms ++ [⟨chanRx c, false, creditBytes ch c m, s.cycle⟩]) ∧
            ∀ n, n ≠ ch → chanSt t n = chanSt s n) ∧
        (¬valid → Answers (.coll ch) s fun t =>
          (chanSt t ch).running = none ∧ t.jobs = s.jobs ∧ t.pips = s.pips ∧
          ∀ x ∈ s.cmds, x.id = k.cmd → x.code = none → ∃ y ∈ t.cmds, y.id = x.id ∧ y.code = some eDesc))) ∧
     (∀ k m, c.running = some k → firstKind c 4 = some m → msgSeq m = clSeq k.bytes → m.src = nextNode s c →
       slice m.bytes 16 4 = slice c.group 4 4 →
       Answers (.credit ch) s fun t => t = setChan s ch { c with
         inbox := c.inbox.erase m, credits := min 16 (c.credits + 1), unacked := c.unacked - 1 }) ∧
     (∀ k m, c.running = some k → firstKind c 5 = some m → msgSeq m = clSeq k.bytes → c.abortSent = false →
       Answers (.abortMsg ch) s fun t =>
         (chanSt t ch).running = none ∧ t.jobs = s.jobs ∧ t.pips = s.pips ∧ (∀ n, n ≠ ch → chanSt t n = chanSt s n) ∧
         ∀ x ∈ s.cmds, x.id = k.cmd → x.code = none →
           ∃ y ∈ t.cmds, y.id = x.id ∧ y.code = some (BitVec.ofNat 8 (field m.bytes 12 1))))

/-- An accepted access of an attached host joins the queue of its stack or of its pip; one that R351 rejects is counted with its
address and answers zeros; a window access wakes a field that sleeps and waits for its bank, a window write of words with at
most one bit in error hands its bytes, and no other, to the banks of the pips it names, which hold them two cycles later, and
a window read of one pip answers its bytes; a decoder commits only with its size and no interleave; the fabric manager is
answered in MLD mode and its changes are refused. (R346, R349, R350, R351, R352, R353, R143) -/
def Obligations.HostMemory : Prop :=
  ∀ (s : State),
    (∀ h (a : HostAcc) (i : Instr), h < 16 →
      (i = .cxlMemRead h a.addr a.len a.tag ∧ a = ⟨h, false, a.addr, [], a.len, a.tag, 0⟩) ∨
        (i = .cxlMemWrite h a.addr a.data ∧ a = ⟨h, true, a.addr, a.data, 0, 0, 0⟩) → attached s h = true →
      (let n := if a.write then a.data.length else a.len
       (memAccepted s h a.addr n a.write = false → Answers i s fun t =>
         t = { s with trc := t.trc, cxl := { s.cxl with memRej := bump s.cxl.memRej 1, memRejAddr := a.addr },
                      out := s.out ++ if a.write then [] else [.memData h a.tag (List.replicate a.len 0)] }) ∧
       (memAccepted s h a.addr n a.write = true → isWin a.addr = true → Answers i s fun t =>
         t = { s with pips := t.pips } ∧ (∀ p, p ≠ (a.addr - winBase) / 2 ^ 23 → pipOf t p = pipOf s p) ∧
         (pipOf t ((a.addr - winBase) / 2 ^ 23)).net.window = (pipOf s ((a.addr - winBase) / 2 ^ 23)).net.window ++
           [⟨a.write, a.addr - winBase, a.data, n, h, a.tag, s.cycle⟩]) ∧
       (memAccepted s h a.addr n a.write = true → isWin a.addr = false → stackQueue s (stackOf a.addr) < 64 →
         Answers i s fun t => t = { s with hostq := s.hostq ++ [a] }))) ∧
    (∀ p a rest i, p < 10240 → (pipOf s p).net.window = a :: rest →
      i = .scratchpadWindowAccess p ∨ (i = .windowEscalation p ∧ a.since + 8192 ≤ s.cycle) →
      (let runs := winRuns a.addr a.len
       let within (k x : Nat) : Prop := a.addr ≤ k * 2 ^ 23 + x ∧ k * 2 ^ 23 + x < a.addr + a.len
       runs.all (winRunOk s a.host) = true →
       ((∃ r ∈ runs, syncReady s (256 * fieldOfPip r.1) = false ∧ Answers i s fun t => t = enableField s (fieldOfPip r.1)) ∨
        (runs.all fun r => syncReady s (256 * fieldOfPip r.1)) = true) ∧
       (runs.all (fun r => syncReady s (256 * fieldOfPip r.1)) = true →
         (winBusy s runs = true → Answers i s (· = s)) ∧
         (winBusy s runs = false → a.write = true → a.data.length = a.len →
           (∀ r ∈ runs, ∀ w, popCount 72 (Tab.get 0 (pipOf s r.1).sp.flips w).toNat ≤ 1) → Answers i s fun t =>
             t = { s with pips := t.pips } ∧ (pipOf t p).net.window = rest ∧
             ∀ k, (pipOf t k).regs = (pipOf s k).regs ∧ (pipOf t k).sp = (pipOf s k).sp ∧
               ∃ ws, (pipOf t k).ops.writes = (pipOf s k).ops.writes ++ (if ws = [] then [] else [⟨s.cycle + 2, 0, ws⟩]) ∧
                 ∀ x, x < 2 ^ 23 →
                   (within k x → Tab.get 0 (storeWords (pipOf s k) ws).sp.mem x = a.data.getD (k * 2 ^ 23 + x - a.addr) 0) ∧
                   (¬within k x → Tab.get 0 (storeWords (pipOf s k) ws).sp.mem x = Tab.get 0 (pipOf s k).sp.mem x)) ∧
         (winBusy s runs = false → a.write = false → 0 < a.len → a.addr % 2 ^ 23 + a.len ≤ 2 ^ 23 → Answers i s fun t =>
           t = { s with pips := t.pips, mod := t.mod,
                        out := s.out ++ [.memData a.host a.tag (spRead (pipOf s (a.addr / 2 ^ 23)) (a.addr % 2 ^ 23) a.len).1] } ∧
           ∀ k, (pipOf t k).sp = (pipOf s k).sp ∧ (pipOf t k).regs = (pipOf s k).regs)))) ∧
    (∀ h n base size ways, h < 16 → attached s h = true → n ≤ 3 →
      (size = decoderSize n → ways = 1 → Answers (.hdmDecoderCommit h n base size ways) s fun t =>
        t = { s with hosts := t.hosts } ∧ (n, base, size) ∈ (hostSt t h).decoders ∧ ∀ k, k ≠ h → hostSt t k = hostSt s k) ∧
      (size ≠ decoderSize n ∨ ways ≠ 1 → Answers (.hdmDecoderCommit h n base size ways) s (· = s))) ∧
    (∀ cmd, s.cxl.mld = true →
      (Answers (.fmApiQuery cmd) s fun t => t = { s with out := s.out ++ [.fmApi cmd false (allocations s)] }) ∧
      (Answers (.fmApiAllocationChange cmd) s fun t => t = { s with out := s.out ++ [.fmApi cmd true []] })) ∧
    (∀ h i, h < 16 → attached s h = true → Answers (.doeDiscovery h i) s fun t =>
      ∃ v p n, t = { s with out := s.out ++ [.doe h v p n] } ∧ (i ≤ 2 → v = 1 ∧ p = i ∧ n = (i + 1) % 3))

/-- CREATE that passes its checks makes the context with the fields of the host's block and zeroes its sync objects, and one that
fails only leaves its code; DESTROY of a context the host created leaves no command, job or context; REBIND moves an idle
context to the partition; the management role and a context page are written only by who may write them. (R356, R357, R358,
R360, R361, R384, R93) -/
def Obligations.ContextsOfHosts : Prop :=
  ∀ (s : State),
    (∀ h, h < 16 → attached s h = true →
      (let v := hostSt s h
       (createForm s v = true → bindOk s h v.crCtx v.crPart v.crSbase v.crScount v.crQbase.toNat = true →
         Answers (.create h) s fun t =>
           t = { s with free := t.free, ctxs := t.ctxs, syncs := t.syncs, hosts := t.hosts, hull := t.hull } ∧
           (hostSt t h).crCode = eOk ∧ (∀ c, c ≠ v.crCtx → ctxSt t c = ctxSt s c) ∧
           ctxSt t v.crCtx = { created := true, host := h, part := v.crPart + 1, jobq := v.crJobq, vec := v.crVec, sbase := v.crSbase,
                               scount := v.crScount, klo := v.crKlo, khi := v.crKhi, qbase := v.crQbase.toNat,
                               nonce := (ctxSt t v.crCtx).nonce } ∧
           ∀ i, syncVal t i = if v.crSbase ≤ i ∧ i < v.crSbase + v.crScount then 0 else syncVal s i) ∧
       (createForm s v = false → Answers (.create h) s fun t =>
         t = setHost s h { v with crCode := eDesc, crErr := true }) ∧
       (createForm s v = true → bindOk s h v.crCtx v.crPart v.crSbase v.crScount v.crQbase.toNat = false →
         Answers (.create h) s fun t => t = setHost s h { v with crCode := eBounds, crErr := true }) ∧
       (crMine s h = true → Answers (.destroy h) s fun t =>
         (ctxSt t v.crCtx).created = false ∧ (∀ k ∈ t.cmds, k.ctx ≠ v.crCtx) ∧ (∀ j ∈ t.jobs, j.ctx ≠ v.crCtx) ∧
         (hostSt t h).crCode = eOk) ∧
       (crMine s h = false → ∀ i ∈ [Instr.destroy h, .rebind h], Answers i s fun t =>
         t = setHost s h { v with crCode := eBounds, crErr := true }) ∧
       (crMine s h = true → (∀ j ∈ s.jobs, j.ctx ≠ v.crCtx) →
         bindOk s h v.crCtx v.crPart (ctxSt s v.crCtx).sbase (ctxSt s v.crCtx).scount (ctxSt s v.crCtx).qbase = true →
         Answers (.rebind h) s fun t =>
           t = { s with ctxs := t.ctxs, hosts := t.hosts } ∧ (hostSt t h).crCode = eOk ∧
           ctxSt t v.crCtx = { ctxSt s v.crCtx with part := v.crPart + 1 } ∧ ∀ c, c ≠ v.crCtx → ctxSt t c = ctxSt s c))) ∧
    (∀ w v, (priv s w = true → Answers (.cxlMgmt w v) s fun t =>
        t = { s with cxl := { s.cxl with mgmtHost := bits v 3 0, mgmtValid := bit v 4 && attached s (bits v 3 0) }, out := t.out }) ∧
      (priv s w = false → Answers (.cxlMgmt w v) s (· = s))) ∧
    (∀ w p v, p < 640 →
      (mgmtOnly s w = true → (∀ i, i < 16 → (ctxSt s (16 * p + i)).created = false) →
        Answers (.cxlCtxpage w p v) s fun t =>
          t = { s with cxl := { s.cxl with pages := t.cxl.pages } } ∧
          ∀ n, Tab.get (0, false) t.cxl.pages n = if n = p then (bits v 3 0, bit v 4) else Tab.get (0, false) s.cxl.pages n) ∧
      (mgmtOnly s w = false ∨ (∃ i, i < 16 ∧ (ctxSt s (16 * p + i)).created = true) →
        Answers (.cxlCtxpage w p v) s (· = s)))

/-- A head that trains attaches its bound hosts; a head that goes down, is reset in M0 or fails IDE is down with its stream ended,
and each attached host of it departs; a host that departs leaves no context of its own; binding, unbinding and function level
reset act on their host; IDE_KM in an open session keys the stream of the host's head. (R348, R349, R362, R364, R459) -/
def Obligations.HeadsAndHosts : Prop :=
  ∀ (s : State),
    (∀ hd width rate, hd < 4 → hd < headCount s → (headSt s hd).up = false → (headSt s hd).perst = false → s.boot.working = true →
      s.pwr.mstate = .m0 →
      Answers (.headLinkUp hd width rate) s fun t =>
        t = { s with heads := t.heads, hosts := t.hosts } ∧
        headSt t hd = { headSt s hd with up := true, width := width, rate := rate } ∧
        (∀ h ∈ hostsOfHead s hd, (hostSt s h).bound = true → (hostSt t h).state = 1) ∧
        ∀ h, h ∉ hostsOfHead s hd → hostSt t h = hostSt s h) ∧
    (∀ hd i, hd < 4 → (i = .headLinkDown hd ∧ (headSt s hd).up = true) ∨ (i = .ideFail hd ∧ (headSt s hd).up = true) ∨
        (i = .perstN hd ∧ s.pwr.mstate = .m0 ∧ hd < headCount s) →
      Answers i s fun t =>
        (headSt t hd).up = false ∧ (headSt t hd).ide = false ∧ (headSt t hd).ideKeys = 0 ∧
        (∀ h ∈ hostsOfHead s hd, (hostSt s h).state = 1 → (hostSt t h).state = 0 ∧
          ∀ c, (ctxSt s c).created = true → (ctxSt s c).host = h → (ctxSt t c).created = false) ∧
        (i = .ideFail hd → t.cxl.ideFail = bump s.cxl.ideFail 1)) ∧
    (∀ hd, hd < 4 → Answers (.perstNRise hd) s fun t => t = setHead s hd { headSt s hd with perst := false }) ∧
    (∀ h, h < 16 →
      (s.cxl.mld = true → h < s.cxl.nld → Answers (.fmUnbind h) s fun t =>
        (hostSt t h).bound = false ∧ ((hostSt s h).state = 1 → (hostSt t h).state = 0 ∧
          ∀ c, (ctxSt s c).created = true → (ctxSt s c).host = h → (ctxSt t c).created = false)) ∧
      (s.cxl.mld = true → h < s.cxl.nld → (hostSt s h).bound = false → Answers (.fmBind h) s fun t =>
        t = { s with hosts := t.hosts } ∧ (hostSt t h).bound = true ∧ ((headSt s 0).up = true → (hostSt t h).state = 1) ∧
        ∀ k, k ≠ h → hostSt t k = hostSt s k) ∧
      ((hostSt s h).state = 1 → Answers (.functionLevelReset h) s fun t =>
        (hostSt t h).state = 2 ∧ ∀ c, (ctxSt s c).created = true → (ctxSt s c).host = h → (ctxSt t c).created = false) ∧
      ((hostSt s h).state = 2 → (headSt s (headOfHost s h)).up = true → Answers (.flrReattach h) s fun t =>
        t = setHost s h { hostSt s h with state := 1 }) ∧
      (∀ key, attached s h = true → (hostSt s h).spdm.stage = 5 → (headSt s (headOfHost s h)).up = true → (h = 0 ∨ s.cxl.mld = false) →
        Answers (.ideKm h key) s fun t =>
          t = setHead s (headOfHost s h) { headSt s (headOfHost s h) with ide := true, ideKeys := key }))

/-- Each SPDM request in a stage that allows it is answered with its response code and moves the host's session as the model's
order of requests (log 33) says; one out of order is answered with an error and changes nothing; a signed response is given
only while the identity record opens and the DRBG works; GET_MEASUREMENTS answers the measurement set; no other host changes.
(R365, R387, R388, R391) -/
def Obligations.SpdmRequests : Prop :=
  ∀ (s : State) (h slot : Nat), h < 16 → attached s h = true → slot ≤ 2 →
    (let v := (hostSt s h).spdm
     let unsigned : List (Instr × Nat × (Nat → Bool) × SpdmSt) :=
       [(.getVersion h, 0x84, fun _ => true, { stage := 1 }), (.getCapabilities h, 0xE1, (· = 1), { v with stage := 2 }),
        (.negotiateAlgorithms h slot, 0xE3, (· = 2), { v with stage := 3, slot := slot }), (.getDigests h, 0x81, (3 ≤ ·), v),
        (.getCertificate h slot, 0x82, (3 ≤ ·), v), (.getMeasurements h false, 0xE0, (3 ≤ ·), v),
        (.finish h, 0xE5, (· = 4), { v with stage := 5, keyGen := 0, heartbeats := 0 }),
        (.keyUpdate h, 0xE9, (· = 5), { v with keyGen := v.keyGen + 1 }),
        (.heartbeat h, 0xE8, (· = 5), { v with heartbeats := v.heartbeats + 1 }),
        (.endSession h, 0xEC, (· = 5), { v with stage := 3, keyGen := 0, heartbeats := 0 })]
     let signed : List (Instr × Nat × SpdmSt) :=
       [(.challenge h slot, 0x83, v), (.keyExchange h slot, 0xE4, { v with stage := 4, slot := slot }),
        (.getMeasurements h true, 0xE0, v)]
     let moved (t : State) (u : SpdmSt) : Prop := hostSt t h = { hostSt s h with spdm := u } ∧ ∀ k, k ≠ h → hostSt t k = hostSt s k
     (∀ e ∈ unsigned,
       (e.2.2.1 v.stage = true → Answers e.1 s fun t =>
         t = { s with free := t.free, hosts := t.hosts, out := t.out } ∧ moved t e.2.2.2 ∧
         (∃ bs, t.out = s.out ++ [.spdm h e.2.1 false bs] ∧
           (e.1 = .getMeasurements h false → bs.take (measBlocks s).length = measBlocks s))) ∧
       (e.2.2.1 v.stage = false → Answers e.1 s fun t => t = { s with out := s.out ++ [.spdm h e.2.1 true (toBytes 1 errUnexpected)] })) ∧
     (∀ e ∈ signed,
       (3 ≤ v.stage → v.slot ≤ 2 → s.hull.idOk = true → s.hull.drbgOk = true → Answers e.1 s fun t =>
         t = { s with free := t.free, hosts := t.hosts, hull := t.hull, hchans := t.hchans, out := t.out } ∧ moved t e.2.2 ∧
         ∃ bs, t.out = s.out ++ [.spdm h e.2.1 false bs]) ∧
       (3 ≤ v.stage → v.slot ≤ 2 → s.hull.idOk = false → Answers e.1 s fun t =>
         t = { s with out := s.out ++ [.spdm h e.2.1 true (toBytes 1 errUnspecified)] }) ∧
       (v.stage < 3 → Answers e.1 s fun t => t = { s with out := s.out ++ [.spdm h e.2.1 true (toBytes 1 errUnexpected)] })))

/-- A start by who may write the channel puts an idle channel into LOAD, sets START_ERR on one that is not idle, and from any
other writer changes nothing; LOAD reads the block of a host channel line by line through the HOST entries, and ends in WAIT
with the block in operand memory, or in WIPE with E_HULL; a free engine takes the next waiting channel, 0 before 1 and in
cyclic order from 2; EXEC ends when its fixed time has passed, with zeros, E_HULL and a count of the fault if its two
computations differ, and else with the result, MODEXP x^e mod n and MODMUL x times y mod n, or zeros and E_HULL; STORE writes
the result at DST, of a host channel line by line through the HOST entries, and no other byte; WIPE takes 256 hull cycles and
leaves the channel idle with its code and an empty operand memory above channel 1. A health test that passes lets the DRBG
work again. (R369, R371, R372, R373, R375, R376, R377, R378, R379, R385, R392) -/
def Obligations.HullJobs : Prop :=
  ∀ (s : State),
    (∀ ch, ch < 16 →
      (let v := hchan s ch
       (∀ w, ∀ e ∈ [(Instr.modexp w ch, 1), (.modmul w ch, 2), (.rsaVerify w ch, 3), (.ecmul w ch, 0x10), (.ecdh w ch, 0x11),
           (.ecdsaSign w ch, 0x12), (.ecdsaVerify w ch, 0x13), (.curveLoad w ch, 0x14), (.sha256 w ch, 0x20), (.kwrap w ch, 0x21),
           (.kunwrap w ch, 0x22), (.random w ch, 0x23)],
         (hullWriter s w ch = true → v.state = .idle → hbOp (hullRead s ch v.job.toNat 1) = e.2 →
           Answers e.1 s fun t => t = setHchan s ch { v with
             state := .load, dropped := false, verdict := 0, result := [], execAt := s.cycle, moved := 0, waits := false, msg := [],
             opmem := if ch < 2 then v.opmem else [] }) ∧
         (hullWriter s w ch = true → v.state ≠ .idle → Answers e.1 s fun t => t = setHchan s ch { v with startErr := true }) ∧
         (hullWriter s w ch = false → Answers e.1 s (· = s))) ∧
       (v.state = .load → v.waits = false →
         (let a := v.job.toNat
          let header := if ch < 2 then hullRead s ch a 0x40 else v.opmem.take 0x40
          let n := 0x40 + hbBody (hbOp header) (hbLen header)
          let lines := (n + 127) / 128
          let reach := a % 128 = 0 ∧ hullMay s ch a 0x40 = true
          let good := hbForm header v.curve = true ∧ hullMay s ch a n = true ∧
            (hbOp header = 0x20 → hullMay s ch (hbSrc header) (hbLen header) = true) ∧
            (hbResult header v.curve ≠ 0 → hullMay s ch (hbDst header) (hbResult header v.curve) = true)
          let asks (i : Nat) : Prop :=
            let x := a + 128 * i
            (stackSt s (stackOf x)).state = 2 → stackQueue s (stackOf x) < 64 → Answers (.hullLoadEnd ch) s fun t =>
              t = { setHchan s ch { v with moved := v.moved + 1, waits := true } with
                    hostq := s.hostq ++ [{ host := v.owner, addr := x, len := 128, hull := ch + 1 }] }
          let fails : Prop := Answers (.hullLoadEnd ch) s fun t => t = setHchan s ch { v with state := .wipe, verdict := eHull, execAt := s.cycle }
          (¬reach → fails) ∧ (reach → ch < 2 ∨ 0 < v.moved → ¬good → fails) ∧
          (reach → ch < 2 → good → v.execAt + hullCycles s lines ≤ s.cycle → Answers (.hullLoadEnd ch) s fun t =>
            t = setHchan s ch { v with state := .wait, opmem := hullRead s ch a n, moved := 0 }) ∧
          (reach → 2 ≤ ch → v.moved = 0 → asks 0) ∧ (reach → 2 ≤ ch → 0 < v.moved → good → v.moved < lines → asks v.moved) ∧
          (reach → 2 ≤ ch → 0 < v.moved → good → lines ≤ v.moved → Answers (.hullLoadEnd ch) s fun t =>
            t = setHchan s ch { v with state := .wait, opmem := v.opmem.take n, moved := 0 }))) ∧
       (v.state = .exec → v.waits = true ∨ (msgLeft ch v = false ∧ s.cycle < v.execAt + hullCycles s v.execN) →
         ∀ d, Answers (.execEnd ⟨ch, d⟩) s (· = s)) ∧
       (v.state = .exec → v.waits = false → msgLeft ch v = false → v.execAt + hullCycles s v.execN ≤ s.cycle →
         Answers (.execEnd ⟨ch, true⟩) s fun t =>
           (hchan t ch).state = .store ∧ (hchan t ch).verdict = eHull ∧ (hchan t ch).curve = v.curve ∧
           (∀ x ∈ (hchan t ch).result, x = 0) ∧ t.hull.faultCnt = bump s.hull.faultCnt 1 ∧ ∀ k, k ≠ ch → hchan t k = hchan s k) ∧
       (v.state = .exec → v.waits = false → msgLeft ch v = false → v.execAt + hullCycles s v.execN ≤ s.cycle →
         Answers (.execEnd ⟨ch, false⟩) s fun t =>
           t = { s with free := t.free, hull := t.hull, hchans := t.hchans } ∧ (∀ k, k ≠ ch → hchan t k = hchan s k) ∧
           (hchan t ch).state = .store ∧ (hbOp v.opmem ≠ 0x20 → (hchan t ch).exec = v.execN) ∧ (if ch < 2 then t.hull.engA = 0 else t.hull.engB = 0) ∧
           (let w := hbW v.opmem
            let n := hbNum v.opmem 0 w
            let x := hbNum v.opmem 1 w
            let y := hbNum v.opmem 2 w
            let e := hbNum v.opmem 2 (hbEw v.opmem)
            (hbOp v.opmem = 1 → modulusOk n w = true → 0 < x → x < n → e ≠ 0 →
              (hchan t ch).verdict = eOk ∧ (hchan t ch).result = toBytes (8 * w) (x ^ e % n)) ∧
            (hbOp v.opmem = 2 → modulusOk n w = true → 0 < x → x < n → 0 < y → y < n →
              (hchan t ch).verdict = eOk ∧ (hchan t ch).result = toBytes (8 * w) (x * y % n)) ∧
            (hbOp v.opmem = 1 ∨ hbOp v.opmem = 2 → modulusOk n w = false →
              (hchan t ch).verdict = eHull ∧ (hchan t ch).result = List.replicate (8 * w) 0) ∧
            (hbOp v.opmem = 0x20 → (hchan t ch).result =
              sha256 (if ch < 2 then hullRead s ch (hbSrc v.opmem) (hbLen v.opmem) else v.msg)) ∧
            (hbOp v.opmem = 0x23 → s.hull.drbgOk = false → (hchan t ch).verdict = eHull))) ∧
       (v.state = .store → 2 ≤ ch → v.waits = false → v.dropped = false → v.result ≠ [] →
         v.moved < lineCount (hbDst v.opmem) v.result.length →
         (let r := pieceAt (hbDst v.opmem) v.result.length v.moved
          (stackSt s (stackOf r.1)).state = 2 → stackQueue s (stackOf r.1) < 64 → Answers (.storeEnd ch) s fun t =>
            t = { setHchan s ch { v with moved := v.moved + 1, waits := true } with
                  hostq := s.hostq ++ [{ host := v.owner, write := true, addr := r.1, data := slice v.result (r.1 - hbDst v.opmem) r.2,
                                         hull := ch + 1 }] })) ∧
       (v.state = .store → 2 ≤ ch → v.waits = false → lineCount (hbDst v.opmem) v.result.length ≤ v.moved →
         Answers (.storeEnd ch) s fun t => t = setHchan s ch { v with state := .wipe, execAt := s.cycle }) ∧
       (v.state = .store → ch < 2 → v.waits = false → v.dropped = false → v.result ≠ [] →
         Answers (.storeEnd ch) s fun t =>
           t = { s with nvm := { s.nvm with husk := Tab.setMany 0 s.nvm.husk (hbDst v.opmem - 2 ^ 63) v.result }, hchans := t.hchans } ∧
           hchan t ch = { v with state := .wipe, execAt := s.cycle } ∧ ∀ k, k ≠ ch → hchan t k = hchan s k) ∧
       (v.state = .store → v.waits = false → v.dropped = true ∨ v.result = [] →
         Answers (.storeEnd ch) s fun t => t = setHchan s ch { v with state := .wipe, execAt := s.cycle }) ∧
       (v.state = .wipe → s.cycle < v.execAt + hullCycles s 256 → Answers (.wipeEnd ch) s (· = s)) ∧
       (v.state = .wipe → v.execAt + hullCycles s 256 ≤ s.cycle →
         (let code := if v.dropped then eAborted else v.verdict
          Answers (.wipeEnd ch) s fun t =>
            t = { s with hull := { s.hull with jobCnt := bump s.hull.jobCnt 1 }, hchans := t.hchans, trc := t.trc } ∧
            (∀ k, k ≠ ch → hchan t k = hchan s k) ∧
            hchan t ch = { v with
              state := .idle, code := code, opmem := if ch < 2 then v.opmem else [], msg := [], result := [], verdict := 0, dropped := false
              doneCnt := if code = eOk then bump v.doneCnt 1 else v.doneCnt
              failCnt := if code = eHull then bump v.failCnt 1 else v.failCnt })) ∧
       (v.state = .wait → ch < 2 → s.hull.engA = 0 → (ch = 1 → (hchan s 0).state ≠ .wait) →
         Answers (.engineTake false) s fun t =>
           t = { s with hull := { s.hull with engA := ch + 1 }, hchans := t.hchans } ∧ (∀ k, k ≠ ch → hchan t k = hchan s k) ∧
           hchan t ch = { v with state := .exec, execAt := s.cycle, execN := execLen v.opmem v.curve, moved := 0, msg := [] }) ∧
       (v.state = .wait → 2 ≤ ch → s.hull.engB = 0 → 2 ≤ s.hull.lastB → s.hull.lastB < 16 →
         (∀ k, 2 ≤ k → k < 16 → (hchan s k).state = .wait → (ch + 13 - s.hull.lastB) % 14 ≤ (k + 13 - s.hull.lastB) % 14) →
         Answers (.engineTake true) s fun t =>
           t = { s with hull := { s.hull with engB := ch + 1, lastB := ch }, hchans := t.hchans } ∧
           (∀ k, k ≠ ch → hchan t k = hchan s k) ∧
           hchan t ch = { v with state := .exec, execAt := s.cycle, execN := execLen v.opmem v.curve, moved := 0, msg := [] }))) ∧
    (s.hull.engA ≠ 0 → Answers (.engineTake false) s (· = s)) ∧ (s.hull.engB ≠ 0 → Answers (.engineTake true) s (· = s)) ∧
    (s.hull.drbgOk = false → Answers (.drbgHealthRetest true) s fun t =>
      t = { s with hull := { s.hull with drbgOk := true }, mgt := t.mgt, out := t.out } ∧
      ∃ n, t.out = s.out ++ [.platformEvent 6 n]) ∧
    (∀ pass, pass = false ∨ s.hull.drbgOk = true → Answers (.drbgHealthRetest pass) s (· = s))

/-- CLRCURVE on an idle channel by who may write it clears the channel's curve slot and changes nothing else; a write of the
management host that changes the owner assignment of an idle channel clears it; the departure of the owner host, by a reset of
its function, its unbinding, or a fall, reset or IDE failure of its head, clears it; a module reset clears every slot. (R383) -/
def Obligations.CurveSlots : Prop :=
  ∀ (s : State) (ch : Nat), ch < 16 →
    (∀ w, hullWriter s w ch = true → (hchan s ch).state = .idle → Answers (.clrcurve w ch) s fun t =>
      t = setHchan s ch { hchan s ch with curve := none }) ∧
    (∀ h v, isMgmt s h = true → 2 ≤ ch → (hchan s ch).state = .idle →
      ((hchan s ch).owner ≠ bits v 3 0 ∨ (hchan s ch).ownerValid ≠ bit v 4) → Answers (.hullChanOwner (.host h) ch v) s fun t =>
        t = setHchan s ch { hchan s ch with owner := bits v 3 0, ownerValid := bit v 4, curve := none }) ∧
    (∀ h i, h < 16 → (hostSt s h).state = 1 → (hchan s ch).ownerValid = true → (hchan s ch).owner = h →
      i = .functionLevelReset h ∨ (i = .fmUnbind h ∧ s.cxl.mld = true ∧ h < s.cxl.nld) ∨
        (∃ hd, hd < 4 ∧ h ∈ hostsOfHead s hd ∧ (headSt s hd).up = true ∧ (i = .headLinkDown hd ∨ i = .ideFail hd)) ∨
        (∃ hd, hd < 4 ∧ h ∈ hostsOfHead s hd ∧ hd < headCount s ∧ s.pwr.mstate = .m0 ∧ i = .perstN hd) →
      Answers i s fun t => (hchan t ch).curve = none ∧ (hchan t ch).owner = h ∧ (hchan t ch).ownerValid = true) ∧
    (∀ w, priv s w = true → s.pwr.mstate = .m0 → s.boot.stage ≠ 0 → s.boot.stage ≠ 1 → Answers (.modReset w) s fun t =>
      ∀ k, (hchan t k).curve = none)

/-- An idle field goes from F0 to F1 after 4,096 cycles, and from F1 towards its resting state once its idle time has passed; at
the end of a shutdown it is in the new state, F2 keeps scratchpads and sync objects, F3 zeroes its own sync objects and no
others, an enable that came meanwhile starts a wake, and a field that must be in F3 goes on there; a wake ends in F1 once its
rail is acknowledged, out of F3 with zeroed scratchpads; only the husk and the management host write REST and IDLE, 0 in a
part keeping it; an acknowledged request sets the rail, one that is not leaves the rail as it was, and is counted; a power
step asks for VRUN plus its offset, held between 650 and 850 mV; a waiting VRUN is applied when the field is idle. (R93, R142,
R397, R398, R399, R400, R401, R403, R404, R406, R407, R418) -/
def Obligations.FieldTransitions : Prop :=
  ∀ (s : State) (f : Nat), f < 64 →
    (let v := fieldSt s f
     let others (t : State) : Prop := ∀ k, k ≠ f → fieldSt t k = fieldSt s k
     let due := v.state = .f0 ∧ fieldIdle s f = true ∧ v.idleFrom + 4096 ≤ s.cycle
     let expired := v.state = .f1 ∧ v.trans = .none ∧ fieldIdle s f = true ∧ v.idleFrom + cyclesOf s (1000 * v.idle) ≤ s.cycle
     let tgt := floored s f (match v.rest with | 1 => .f1 | 2 => .f2 | _ => .f3)
     (due → Answers (.fieldGate f) s fun t =>
       t = { s with fields := t.fields, trc := t.trc } ∧ fieldSt t f = { v with state := .f1 } ∧ others t) ∧
     (¬due → Answers (.fieldGate f) s (· = s)) ∧
     (¬expired ∨ tgt = .f1 → Answers (.idleExpiry f) s (· = s)) ∧
     (expired → tgt ≠ .f1 → Answers (.idleExpiry f) s fun t =>
       t = { s with fields := t.fields, out := t.out } ∧ others t ∧ (fieldSt t f).state = .f1 ∧ (fieldSt t f).trans = .down tgt ∧
       (tgt = .f3 → v.req = .none → (fieldSt t f).req = .off ∧ t.out = s.out ++ [.avs (f / 8) (f % 8) 1 0])) ∧
     (∀ d, v.trans = .down d → d = .f2 ∨ (d = .f3 ∧ v.offDone = true) → v.pending = false → d = .f3 ∨ mustF3 s f = false →
       Answers (.shutdownComplete f) s fun t =>
         t = { s with fields := t.fields, pips := t.pips, pods := t.pods, syncs := t.syncs, trc := t.trc } ∧ others t ∧
         fieldSt t f = { v with state := d, trans := .none, pending := false } ∧
         (∀ i, syncVal t i = if d = .f3 ∧ syncField i = f then 0 else syncVal s i) ∧
         ∀ p, p < 10240 → (if fieldOfPip p = f
           then (pipOf t p).sp = (if d = .f2 then (pipOf s p).sp else {}) ∧ (pipOf t p).regs = {} ∧ (pipOf t p).cnt = (pipOf s p).cnt
           else pipOf t p = pipOf s p)) ∧
     (∀ d, v.trans = .down d → d = .f2 ∨ (d = .f3 ∧ v.offDone = true) → v.pending = true → mustF3 s f = false →
       Answers (.shutdownComplete f) s fun t => others t ∧ (fieldSt t f).state = d ∧ (fieldSt t f).trans = .wake) ∧
     (v.trans = .down .f2 → mustF3 s f = true → floored s f .f3 = .f3 → v.pending = false → Answers (.shutdownComplete f) s fun t =>
       others t ∧ (fieldSt t f).state = .f2 ∧ (fieldSt t f).trans = .down .f3) ∧
     (v.trans = .down .f3 → v.offDone = false → Answers (.shutdownComplete f) s (· = s)) ∧
     (v.trans = .wake → v.state ≠ .f3 ∨ v.railAck = true → s.pwr.mstate = .m0 → mustF3 s f = false → Answers (.wakeComplete f) s fun t =>
       t = { s with pips := t.pips, fields := t.fields, trc := t.trc, out := t.out } ∧ (v.state ≠ .f3 → t.pips = s.pips) ∧
       (∀ p, p < 10240 → pipOf t p = if v.state = .f3 ∧ fieldOfPip p = f then { pipOf s p with sp := {} } else pipOf s p) ∧
       fieldSt t f = { v with state := .f1, trans := .none, railAck := false, wakeEntry := false, wakeCnt := bump v.wakeCnt 1 } ∧
       (s.trc.en.getLsbD 1 = false → others t)) ∧
     (v.trans = .wake → v.state ≠ .f3 ∨ v.railAck = true → s.pwr.mstate = .m0 → mustF3 s f = true → floored s f .f3 = .f3 →
       s.trc.en.getLsbD 1 = false → Answers (.wakeComplete f) s fun t =>
         others t ∧ (fieldSt t f).state = .f1 ∧ (fieldSt t f).trans = .down .f3) ∧
     (v.trans ≠ .wake ∨ (v.state = .f3 ∧ v.railAck = false) → Answers (.wakeComplete f) s (· = s)) ∧
     (∀ w n, (priv s w = true → Answers (.fldPwrCtrl w f n) s fun t =>
         t = { s with fields := t.fields, out := t.out } ∧ others t ∧
         (fieldSt t f).rest = (if bits n 1 0 = 0 then v.rest else bits n 1 0) ∧
         (fieldSt t f).idle = (if bits n 17 2 = 0 then v.idle else bits n 17 2) ∧ (fieldSt t f).state = v.state) ∧
       (priv s w = false → Answers (.fldPwrCtrl w f n) s (· = s))) ∧
     (v.req = .none → Answers (.vrAck f) s (· = s) ∧ Answers (.vrNack f) s (· = s)) ∧
     (reqEnd s f < s.cycle → Answers (.vrAck f) s (· = s)) ∧ (s.cycle ≤ reqEnd s f → Answers (.vrNack f) s (· = s)) ∧
     (∀ mv, v.req = .on mv → s.cycle ≤ reqEnd s f → Answers (.vrAck f) s fun t =>
       t = { s with fields := t.fields } ∧ fieldSt t f = { v with req := .none, vset := mv, railOn := true, railAck := true } ∧
       others t) ∧
     (v.req = .off → s.cycle ≤ reqEnd s f → Answers (.vrAck f) s fun t => t = setField s f { v with req := .none, railOn := false, offDone := true }) ∧
     (∀ mv j, v.req = .raise mv j → v.trans = .none → v.stepJobs ≠ [] → s.cycle ≤ reqEnd s f → Answers (.vrAck f) s fun t =>
       t = { s with fields := t.fields, trc := t.trc } ∧ fieldSt t f = { v with req := .none, vset := mv } ∧ others t) ∧
     (∀ mv, v.req = .margin mv → v.trans = .none → s.cycle ≤ reqEnd s f → Answers (.vrAck f) s fun t =>
       t = { s with fields := t.fields } ∧ fieldSt t f = { v with req := .none, vset := mv, vrun := mv, newVrun := none } ∧ others t) ∧
     (v.req ≠ .none → reqEnd s f < s.cycle → Answers (.vrNack f) s fun t =>
       (fieldSt t f).vset = v.vset ∧ (fieldSt t f).railOn = v.railOn ∧ (fieldSt t f).vrFault = true ∧
       (fieldSt t f).nackCnt = bump v.nackCnt 1 ∧ t.pwr = { s.pwr with nackCnt := bump s.pwr.nackCnt 1 } ∧
       (∀ mv j, v.req = .raise mv j → ∀ k ∈ t.jobs, k.id = j → k.phase = .draining)) ∧
     (∀ n i j r, jobOf s n = some j → (powerSteps (partSt s j.part))[i]? = some r → r.fld = f →
       j.phase = .loading ∨ j.phase = .running → r.prog = j.progId.toNat → i ∉ j.steps → j.t0 + r.offset ≤ s.cycle + stepLead s →
       v.req = .none → v.trans = .none → v.railOn = true → Answers (.powerStepIssue n i) s fun t =>
         t = { s with jobs := t.jobs, fields := t.fields, out := t.out } ∧ others t ∧
         ∃ mv : Nat, (mv : Int) = max 650 (min 850 ((v.vrun : Int) + r.dv)) ∧ t.out = s.out ++ [.avs (f / 8) (f % 8) 0 mv] ∧
           (fieldSt t f).req = (if v.vset < mv then .raise mv j.id else .lower mv) ∧ j.id ∈ (fieldSt t f).stepJobs) ∧
     (∀ mv : Nat, v.newVrun = some mv → fieldIdle s f = true → v.req = .none → v.trans = .none → 650 ≤ mv → mv ≤ 850 →
       (v.railOn = true → v.state ≠ .f3 → Answers (.marginApply f) s fun t =>
         t = { s with fields := t.fields, out := s.out ++ [.avs (f / 8) (f % 8) 0 mv] } ∧ others t ∧
         fieldSt t f = { v with req := .margin mv, reqAt := s.cycle }) ∧
       (v.railOn = false ∨ v.state = .f3 → Answers (.marginApply f) s fun t =>
         t = setField s f { v with vrun := mv, newVrun := none })))

/-- A temperature reading is kept; up to 95 degrees it clears the thermal flag, above it is an excursion with a platform event, at
105 degrees the jobs of the field's partition end, but those that drain their keys under the lower E_KEYSET, and at 115
degrees every other job ends, every host departs and the module leaves M0; input voltage and power are kept, and a power
excursion is counted and ends every running job; an input or a reference clock that fails ends every job; a crossing that
times out is counted and ends its job, answers a read with 0 or, at the acorn when its retry times out too, ends all; a
monitor read that is due re-plans VMIN and VRUN from the worst slack. (R395, R411, R412, R413, R415, R416, R417) -/
def Obligations.LimitsAndMonitors : Prop :=
  ∀ (s : State),
    (∀ f n, f < 64 → n < 256 →
      (let v := fieldSt s f
       (v.temp ≤ 95 → n ≤ 95 → Answers (.temperatureReading f n) s fun t =>
         t = setField s f { v with temp := n, hot := false, wakeEntry := v.wakeEntry && !v.hot }) ∧
       (95 < v.temp → n ≤ 95 → Answers (.temperatureReading f n) s fun t =>
         fieldSt t f = { v with temp := n, hot := false, coolAt := s.cycle, wakeEntry := v.wakeEntry && !v.hot }) ∧
       (v.temp ≤ 95 → 95 < n → n < 105 → Answers (.temperatureReading f n) s fun t =>
         t = { s with fields := t.fields, pwr := { s.pwr with texc := true }, trc := t.trc, mgt := t.mgt, out := t.out } ∧
         fieldSt t f = { v with temp := n, monDue := true } ∧ (∀ k, k ≠ f → fieldSt t k = fieldSt s k) ∧
         ∃ e, t.out = s.out ++ [.platformEvent 3 e] ∧ n ≤ e) ∧
       (∀ p, 105 ≤ n → v.hot = false → partOfField s f = some p → Answers (.temperatureReading f n) s fun t =>
         (fieldSt t f).temp = n ∧ (fieldSt t f).hot = true ∧ (fieldSt t f).state ≠ .f0 ∧
         ∀ j ∈ t.jobs, j.part = p → j.phase = .queued ∨ j.phase = .draining) ∧
       (115 ≤ n → s.pwr.mstate = .m0 → Answers (.temperatureReading f n) s fun t =>
         (∀ j ∈ t.jobs, j.phase = .draining) ∧ t.pwr.mstate = .entering ∧ (∀ h, h < 16 → (hostSt t h).state ≠ 1) ∧
         ∀ k, k < 64 → (fieldSt t k).trans ≠ .none ∨ (fieldSt t k).state = .f3))) ∧
    (∀ vin pin a b,
      (let bad := if 4600 ≤ vin ∧ vin ≤ 5600 then none else some (s.pwr.vinBadAt.getD s.cycle)
       let told := s.pwr.vinTold && bad.isSome
       let excess := decide (3400 < a) || decide ((if s.nvm.gradeE then 2200 else 3000) < b)
       (excess = false ∨ s.pwr.excess = true → Answers (.inputMeasure vin pin a b) s fun t =>
         t = { s with pwr := { s.pwr with vin := vin, pin := pin, excess := excess, vinBadAt := bad, vinTold := told }, mgt := t.mgt, out := t.out }) ∧
       (excess = true → s.pwr.excess = false → Answers (.inputMeasure vin pin a b) s fun t =>
         t.pwr = { s.pwr with vin := vin, pin := pin, vinBadAt := bad, vinTold := told, excess := true, excCnt := bump s.pwr.excCnt 1, pexc := true } ∧
         ∀ j ∈ t.jobs, j.phase = .queued ∨ j.phase = .draining))) ∧
    (∀ n, s.pwr.vinBadAt = some n → s.pwr.vinTold = false → n + cyclesOf s 1000000 < s.cycle →
      Answers .vinFault s fun t => t.pwr = { s.pwr with vinFault := true, vinTold := true } ∧ t.jobs = []) ∧
    (s.pwr.vinBadAt = none → Answers .vinFault s (· = s)) ∧
    (Answers .holdover s fun t => t.pwr = { s.pwr with refOk := false, holdover := true } ∧ t.jobs = []) ∧
    (Answers .refclkReturn s fun t => t = { s with pwr := { s.pwr with refOk := true } }) ∧
    (∀ p j, p < 10240 → jobOfPip s p = some j → j.phase ≠ .draining → Answers (.cdcTimeout (.job p)) s fun t =>
      (fieldSt t (fieldOfPip p)).cdcCnt = bump (fieldSt s (fieldOfPip p)).cdcCnt 1 ∧ ∀ k ∈ t.jobs, k.id ≠ j.id) ∧
    (∀ f, f < 64 → Answers (.cdcTimeout (.field f)) s fun t =>
      t = setField s f { fieldSt s f with cdcCnt := bump (fieldSt s f).cdcCnt 1 }) ∧
    (Answers (.cdcTimeout .fabric) s fun t => t = { s with pwr := { s.pwr with cdcCnt := bump s.pwr.cdcCnt 1 } }) ∧
    (∀ h off, Answers (.cdcTimeout (.read none h off)) s fun t =>
      t = { s with pwr := { s.pwr with cdcCnt := bump s.pwr.cdcCnt 1 }, out := s.out ++ [.regData h off 0] }) ∧
    (Answers (.cdcTimeout (.acorn false)) s fun t => t = { s with pwr := { s.pwr with cdcCnt := bump s.pwr.cdcCnt 1 } }) ∧
    (Answers (.cdcTimeout (.acorn true)) s fun t => t.pwr = { s.pwr with cdcCnt := bump s.pwr.cdcCnt 1 } ∧ t.jobs = []) ∧
    (∀ f (slack : List Int), f < 64 →
      (let v := fieldSt s f
       (slack.length ≠ 16 ∨ monRead s f = false ∨ v.state = .f2 ∨ v.state = .f3 → Answers (.monitorRead f slack) s (· = s)) ∧
       (∀ sl, slack.length = 16 → monRead s f = true → v.state = .f0 ∨ v.state = .f1 → sl ∈ slack → (∀ x ∈ slack, sl ≤ x) →
         Answers (.monitorRead f slack) s fun t =>
           (let new := replan v.vset s.nvm.cal.vfloor ((Tab.get 0 s.nvm.cal.kv f : Nat) : Int) sl
            t = { s with fields := t.fields, mod := t.mod } ∧ (0 ≤ sl → t.mod = s.mod) ∧
            (∀ k, k ≠ f → fieldSt t k = fieldSt s k) ∧
            fieldSt t f = { v with
              monCnt := bump v.monCnt 1, monDue := false, monDay := monDayNow s, vmin := new.1, marginLow := v.marginLow || decide (850 < new.2)
              newVrun := if max 650 (min 850 new.2) = v.vrun then none else some (max 650 (min 850 new.2)), hours := huskTime s / 90000000000 }))))

/-- STANDBY by who may write it begins the entry into M1 where no context exists, and else sets STBY_ERR; M1 is entered once every
field is in F3; in M1 an enabled wake source is recorded and start-up runs from stage 3; a loss of power leaves what NVM
holds; a module reset leaves no context and no job and begins stage 2. Each stage of start-up ends in the next, or in stage 7
with its cause: firmware from the active slot, else from the other; configuration or its default; measurement, read again
every 10 ms while the input voltage is out of range, failing after 1 s of that or of a bad REFCLK, and excluding the fields
that fail it; training, with HBM and staging buffers zero; with every granule of a stack that trains free and being zeroed;
ready once every enabled stack has trained or failed and every head has trained or timed out. (R408, R409, R410, R420, R424,
R425, R427, R428, R439, R440, R465, R287) -/
def Obligations.PowerStatesAndStartUp : Prop :=
  ∀ (s : State),
    (∀ w, (priv s w = true → s.pwr.mstate = .m0 → anyContext s = false → Answers (.standby w) s fun t =>
        t.pwr.mstate = .entering ∧ (∀ h, h < 16 → (hostSt t h).state ≠ 1) ∧
        ∀ f, f < 64 → (fieldSt t f).trans ≠ .none ∨ (fieldSt t f).state = .f3) ∧
      (priv s w = true → s.pwr.mstate = .m0 → anyContext s = true → Answers (.standby w) s fun t =>
        t = { s with pwr := { s.pwr with stbyErr := true } }) ∧
      (priv s w = false ∨ s.pwr.mstate ≠ .m0 → Answers (.standby w) s (· = s)) ∧
      (priv s w = true → s.pwr.mstate = .m0 → s.boot.stage ≠ 0 → s.boot.stage ≠ 1 → Answers (.modReset w) s fun t =>
        t.boot.stage = 2 ∧ t.flt.resetting = true ∧ t.flt.log = s.flt.log ∧ t.nvm = s.nvm ∧ t.pending = s.pending ∧ t.jobs = [] ∧
        t.cmds = [] ∧ t.ctxs = [] ∧ t.pips = [] ∧ t.pods = [] ∧ t.hbm = [] ∧ t.staging = [] ∧ t.granules = [] ∧ t.parts = []) ∧
      (priv s w = false → Answers (.modReset w) s (· = s))) ∧
    ((s.pwr.mstate = .entering ∧ (∀ f, f < 64 → (fieldSt s f).state = .f3 ∧ (fieldSt s f).trans = .none)) →
      Answers .m1Entry s fun t =>
        t = { s with pwr := { s.pwr with mstate := .m1, m1At := s.cycle }, hbm := [], staging := [], hbmFlips := [], stgFlips := [], links := []
                     hstacks := t.hstacks, heads := t.heads, trc := t.trc } ∧
        (∀ k, k < 12 → (stackSt t k).state = 0) ∧ ∀ h, (headSt t h).up = false) ∧
    (s.pwr.mstate ≠ .entering ∨ (∃ f, f < 64 ∧ ((fieldSt s f).state ≠ .f3 ∨ (fieldSt s f).trans ≠ .none)) →
      Answers .m1Entry s (· = s)) ∧
    (∀ l, l < 36 → ∀ e ∈ [(Instr.linksd l, 0), (.pattern l, 1), (.cwakeN, 2), (.wakeN, 3), (.pwrTimer, 4)],
      (s.pwr.mstate = .m1 → s.pwr.wakeEn.getLsbD e.2 = true →
        (e.1 = .pwrTimer → s.pwr.timer ≠ 0 ∧ s.pwr.m1At + cyclesOf s (1000000 * s.pwr.timer.toNat) ≤ s.cycle) →
        Answers e.1 s fun t =>
          t = { s with pwr := { s.pwr with wakeSrc := s.pwr.wakeSrc ||| BitVec.ofNat 5 (2 ^ e.2) }, boot := { s.boot with stage := 3 } }) ∧
      (s.pwr.mstate ≠ .m1 ∨ s.pwr.wakeEn.getLsbD e.2 = false → Answers e.1 s (· = s))) ∧
    (∀ i ∈ [Instr.pwrEnFall, .barsLoss], Answers i s fun t =>
      t.nvm = { s.nvm with husk := [] } ∧ t.flt.log = s.flt.log ∧ t.pwr.mstate = .m2 ∧ t.boot.stage = 0 ∧ t.pending = s.pending ∧
      t.jobs = [] ∧ t.cmds = [] ∧ t.ctxs = [] ∧ t.pips = [] ∧ t.hbm = [] ∧ t.staging = [] ∧ t.parts = [] ∧ t.hchans = []) ∧
    (∀ p d, (s.pwr.mstate = .m2 → Answers (.huskPowerUp p d) s fun t =>
        t.boot.stage = 1 ∧ t.pwr.mstate = .m0 ∧ t.hull.pufOk = (p && s.nvm.helperOk) ∧ t.hull.drbgOk = d ∧
        t.nvm = { s.nvm with husk := [] } ∧ t.jobs = [] ∧ t.hbm = []) ∧
      (s.pwr.mstate ≠ .m2 → Answers (.huskPowerUp p d) s (· = s))) ∧
    (s.boot.stage = 1 → Answers .firmware s fun t =>
      (let act := s.nvm.slotB
       (imageOk s [1] (slotImage s act) = true → t.boot.stage = 2 ∧ t.boot.fwSlot = act) ∧
       (imageOk s [1] (slotImage s act) = false → imageOk s [1] (slotImage s (!act)) = true →
         t.boot.stage = 2 ∧ t.boot.fwSlot = !act) ∧
       (imageOk s [1] (slotImage s act) = false → imageOk s [1] (slotImage s (!act)) = false →
         t.boot.stage = 7 ∧ t.boot.cause = 1))) ∧
    (s.boot.stage = 2 → s.nvm.calib = [] → Answers .config s fun t =>
      t.boot.cfgDefault = !(imageOk s [2] s.nvm.config && configOk (siPayload s.nvm.config)) ∧
      (s.nvm.cal.ok = false → t.boot.stage = 7 ∧ t.boot.cause = 2) ∧
      (s.nvm.cal.ok = true → s.nvm.okA = false → s.nvm.okB = false → t.boot.stage = 7 ∧ t.boot.cause = 5) ∧
      (s.nvm.cal.ok = true → s.nvm.okA = true ∨ s.nvm.okB = true →
        t.boot.stage = 3 ∧ t.hull.idOk = sealOpen s ∧
        t.mod.map = (if s.nvm.okA = true ∧ (s.nvm.okB = false ∨ s.nvm.seqB ≤ s.nvm.seqA) then s.nvm.mapA else s.nvm.mapB))) ∧
    (∀ m : BootMeas, s.boot.stage = 3 → s.pwr.mstate = .m0 → readsVin s = false → Answers (.measure m) s (· = s)) ∧
    (∀ m : BootMeas, s.boot.stage = 3 → s.pwr.mstate = .m0 → readsVin s = true → Answers (.measure m) s fun t =>
      (∀ d, m.vin < 4600 ∨ 5600 < m.vin → s.boot.vinBad = some d → d + cyclesOf s 1000000000 ≤ s.cycle →
        t.boot.stage = 7 ∧ t.boot.cause = 3) ∧
      (∀ d, m.vin < 4600 ∨ 5600 < m.vin → s.boot.vinBad.getD s.cycle = d → s.cycle < d + cyclesOf s 1000000000 →
        t = { s with boot := { s.boot with vinBad := some d, vinRead := s.cycle }, pwr := { s.pwr with vin := m.vin, pin := m.pin } }) ∧
      (∀ d, 4600 ≤ m.vin → m.vin ≤ 5600 → m.refOk = false → s.boot.refBad = some d → d + cyclesOf s 1000000000 ≤ s.cycle →
        t.boot.stage = 7 ∧ t.boot.cause = 4) ∧
      (∀ d, 4600 ≤ m.vin → m.vin ≤ 5600 → m.refOk = false → s.boot.refBad.getD s.cycle = d → s.cycle < d + cyclesOf s 1000000000 →
        t.boot.stage = 3 ∧ t.boot.vinBad = none ∧ t.boot.refBad = some d ∧ t.pwr.refOk = false) ∧
      (4600 ≤ m.vin → m.vin ≤ 5600 → m.refOk = true →
        t.boot.stage = 4 ∧ t.pwr.refOk = true ∧ t.pwr.synLock = true ∧ t.pwr.hbmLock = true ∧ t.nvm.marginOk = true ∧
        (∀ f, f < 64 → bit m.buses (f / 8) = false ∨ bit m.rails f = false ∨ railExcess s m f = true → f ∈ t.boot.excl) ∧
        ∀ k, k < 12 → bit s.boot.stackEn k = true → bit m.hstacks k = false → (stackSt t k).state = 3)) ∧
    (s.boot.stage = 4 → Answers .train s fun t =>
      t = { s with hbm := [], staging := [], hbmFlips := [], stgFlips := [], granules := t.granules, sgranules := t.sgranules,
                   hstacks := t.hstacks } ∧
      (∀ g, (stackSt t (g / 64)).state = 1 → g < 768 → ∀ c, (granSt t c g).prot = 0 ∧ (granSt t c g).scrub = true) ∧
      ∀ k, k < 12 → (stackSt t k).state =
        if bit s.boot.stackEn k = true ∧ (stackSt s k).state = 0 then 1 else (stackSt s k).state) ∧
    (s.boot.stage = 4 → (∀ k, k < 12 → bit s.boot.stackEn k = true → (stackSt s k).state = 2 ∨ (stackSt s k).state = 3) →
      (∀ h, h < headCount s → headSettled s h = true) →
      Answers .ready s fun t =>
        t.boot.stage = 5 ∧ t.boot.time = huskTime s ∧ t.flt = { s.flt with resetting := false } ∧
        t.lnk = { s.lnk with joinEn := s.boot.joinCfg, ppsEn := s.boot.ppsCfg } ∧ t.hbm = s.hbm ∧ t.pips = s.pips) ∧
    (∀ e ∈ [(Instr.firmware, 1), (.config, 2), (.train, 4), (.ready, 4)], s.boot.stage ≠ e.2 → Answers e.1 s (· = s)) ∧
    (∀ m, s.boot.stage ≠ 3 → Answers (.measure m) s (· = s))

/-- A partition in recovery goes to verification once no job of it is left; verification marks manifest entries and no other byte
of memory, and with a manifest that cannot be read halts every context of the partition and is counted; then the partition
opens; recovery windows end after 5 ms; a reset of a fenced partition by who may write it lifts the fence unless the module is
fenced. (R432, R433, R434, R436, R440) -/
def Obligations.RecoveryAndFences : Prop :=
  ∀ (s : State) (n : Nat), n < 16 →
    (let p := partSt s n
     (p.recovery = .draining → (∀ j ∈ s.jobs, j.part ≠ n) → Answers (.recoveryIdle n) s fun t =>
       t = setPart s n { p with recovery := .verifying }) ∧
     (p.recovery ≠ .draining ∨ (∃ j ∈ s.jobs, j.part = n) → Answers (.recoveryIdle n) s (· = s)) ∧
     (p.recovery = .verifying → p.manifest = 0 → Answers (.weightVerify n) s fun t =>
       t = setPart s n { p with recovery := .verified }) ∧
     (p.recovery = .verifying → p.manifest ≠ 0 → manifestOk s p.manifest.toNat = false → Answers (.weightVerify n) s fun t =>
       (partSt t n).recovery = .verified ∧ t.hbm = s.hbm ∧ t.jobs = s.jobs ∧ t.flt.verifyFail = bump s.flt.verifyFail 1 ∧
       ∀ c, (ctxSt s c).created = true → (ctxSt s c).part = n + 1 → (ctxSt t c).halted = true) ∧
     (p.recovery = .verifying → p.manifest ≠ 0 → manifestOk s p.manifest.toNat = true → Answers (.weightVerify n) s fun t =>
       (partSt t n).recovery = .verified ∧ t.jobs = s.jobs ∧
       ∀ x, x < p.manifest.toNat ∨ p.manifest.toNat + 16 + 16 * field (memRead s p.manifest.toNat 4) 0 4 ≤ x →
         byteAt t x = byteAt s x) ∧
     (p.recovery ≠ .verifying → Answers (.weightVerify n) s (· = s)) ∧
     (p.recovery = .verified → Answers (.reopen n) s fun t =>
       t = { s with parts := t.parts, mod := t.mod } ∧ partSt t n = { p with recovery := .open_ } ∧
       (∀ k, k ≠ n → partSt t k = partSt s k)) ∧
     (p.recovery ≠ .verified → Answers (.reopen n) s (· = s)) ∧
     (Answers (.recoveryWindowEnd n) s fun t =>
       t = setPart s n { p with windows := p.windows.filter fun d => decide (s.cycle ≤ d + windowLen s) }) ∧
     (∀ w, (priv s w = true → p.fenced = true → s.flt.mfenced = false → Answers (.partReset w n) s fun t =>
         t = { s with parts := t.parts, mod := { s.mod with transitDue := true }, fields := t.fields, mgt := t.mgt, out := t.out } ∧
         partSt t n = { p with fenced := false, windows := [] } ∧ ∀ k, k ≠ n → partSt t k = partSt s k) ∧
       (priv s w = false ∨ p.fenced = false ∨ s.flt.mfenced = true → Answers (.partReset w n) s (· = s))))

/-- While the husk has power, each management command is answered and counted: a sensor read with its value, a fault-log read with
up to 32 entries, an OEM command whose condition holds with its effect, and one whose condition fails with a not-ready answer
and no other change; an update component that is accepted is placed and counted, the firmware in the slot that is not active,
and one that is not accepted leaves every slot, the configuration and the owner as they were; the test port shifts out its
bypass bit, its identity code or the pins. Without power none of them changes anything. An event is acknowledged oldest first.
(R356, R390, R409, R439, R440, R448, R449, R450, R451) -/
def Obligations.ManagementAndTestPort : Prop :=
  ∀ (s : State) (v n : Nat) (nE image : List Byte) (wp : Bool), n < 16 →
    (let reply (t u : State) (type cmd code : Nat) (bs : List Byte) : Prop :=
       t = { u with mgt := { u.mgt with cmdCnt := bump u.mgt.cmdCnt 1 }, out := u.out ++ [.pldm type cmd code bs] }
     let last (t : State) (cmd : Nat) : Prop := t.out.getLast? = some (.pldm 0x3F cmd 0 [])
     let oems : List (Instr × Nat × Bool) :=
       [(.setMgmt v, 1, s.pwr.mstate = .m0 && s.boot.stage = 5), (.oemPartReset n, 2, (partSt s n).fenced && !s.flt.mfenced),
        (.oemModReset, 3, s.pwr.mstate = .m0 && s.boot.stage = 5), (.oemStandby, 4, s.pwr.mstate = .m0 && !anyContext s),
        (.oemWake, 5, s.pwr.mstate = .m1), (.enrolOwner nE, 6, s.hull.owner = 0),
        (.testEnable, 8, !anyContext s && !s.mgt.updating)]
     (s.pwr.mstate ≠ .m2 →
       (Answers (.dynamicAddress v) s fun t => t = { s with mgt := { s.mgt with daValid := true, da := v % 128 } }) ∧
       (Answers (.pldmBase v) s fun t => ∃ bs, reply t { s with free := s.free + 1 } 0 v 0 bs) ∧
       (∀ e ∈ [(1, s.pwr.vin), (2, s.pwr.pin), (3, hottestField s), (4, hottestStack s), (5, s.boot.stage + 8 * s.boot.cause)],
         Answers (.pldmSensorRead e.1) s fun t => reply t s 2 0x11 0 (toBytes 4 e.2)) ∧
       (∀ id, id = 6 ∨ id = 7 → Answers (.pldmSensorRead id) s fun t => ∃ x, reply t s 2 0x11 0 (toBytes 4 x)) ∧
       (Answers (.readFaultLog v) s fun t => reply t s 0x3F 7 0 (((s.flt.log.drop v).take 32).flatMap logBytes)) ∧
       (∀ e ∈ oems, e.2.2 = false → Answers e.1 s fun t => reply t s 0x3F e.2.1 4 []) ∧
       (s.pwr.mstate = .m0 → s.boot.stage = 5 → Answers (.setMgmt v) s fun t =>
         last t 1 ∧ t = { s with cxl := t.cxl, mgt := t.mgt, out := t.out } ∧ t.cxl.mgmtHost = bits v 3 0 ∧
         t.cxl.mgmtValid = (bit v 4 && attached s (bits v 3 0))) ∧
       ((partSt s n).fenced = true → s.flt.mfenced = false → Answers (.oemPartReset n) s fun t =>
         last t 2 ∧ (partSt t n).fenced = false ∧ t.jobs = s.jobs ∧ ∀ k, k ≠ n → partSt t k = partSt s k) ∧
       (s.pwr.mstate = .m0 → s.boot.stage = 5 → Answers .oemModReset s fun t =>
         last t 3 ∧ t.boot.stage = 2 ∧ t.ctxs = [] ∧ t.jobs = [] ∧ t.hbm = []) ∧
       (s.pwr.mstate = .m0 → anyContext s = false → Answers .oemStandby s fun t => last t 4 ∧ t.pwr.mstate = .entering) ∧
       (s.pwr.mstate = .m1 → s.pwr.wakeEn.getLsbD 3 = true → Answers .oemWake s fun t =>
         last t 5 ∧ t.boot = { s.boot with stage := 3 } ∧ t.pwr = { s.pwr with wakeSrc := s.pwr.wakeSrc ||| 8#5 }) ∧
       (s.hull.owner = 0 → Answers (.enrolOwner nE) s fun t =>
         last t 6 ∧ t = { s with hull := { s.hull with owner := sha256Num nE }, mgt := t.mgt, out := t.out }) ∧
       (anyContext s = false → s.mgt.updating = false → Answers .testEnable s fun t =>
         last t 8 ∧ t.mgt.testEn = true ∧ t.hull.debug = true ∧ t.hull.keys = false ∧ t.hull.idOk = false ∧
         (hchan t 0).opmem = [] ∧ (hchan t 1).opmem = [] ∧ ∀ h, h < 16 → (hostSt t h).state ≠ 1) ∧
       (∀ id, 1 ≤ id → id ≤ 4 → s.boot.stage ≠ 7 → image.length ≤ 16 * 2 ^ 20 →
         Answers (.firmwareUpdateComponent id wp image) s fun t =>
           (let ok := imageOk s (componentTypes id) image && !wp
            t.nvm.update = image ∧ t.out.getLast? = some (.pldm 5 0x18 (if ok then 0 else 2) []) ∧
            t.mgt.updCnt = (if ok then bump s.mgt.updCnt 1 else s.mgt.updCnt) ∧
            t.nvm.config = (if ok = true ∧ id = 2 then image else s.nvm.config) ∧
            t.nvm.calib = (if ok = true ∧ id = 3 then image else s.nvm.calib) ∧
            (ok = true → id = 1 → t.nvm.slotB = !s.nvm.slotB ∧ slotImage t t.nvm.slotB = image) ∧
            (ok = false ∨ id ≠ 1 → t.nvm.slotB = s.nvm.slotB ∧ t.nvm.fwA = s.nvm.fwA ∧ t.nvm.fwB = s.nvm.fwB) ∧
            (ok = false ∨ id ≠ 4 → t.hull.owner = s.hull.owner) ∧ (wp = true → t.hull.floors = s.hull.floors))) ∧
       (Answers .bypass s fun t =>
         t = { s with mgt := { s.mgt with tapInstr := 0, extest := false }, out := s.out ++ [.tap 1 0] }) ∧
       (Answers .idcode s fun t =>
         t = { s with mgt := { s.mgt with tapInstr := 1, extest := false }, out := s.out ++ [.tap 32 0x164120A5] }) ∧
       (∀ pins, Answers (.samplePreload pins v) s fun t =>
         t = { s with mgt := { s.mgt with tapInstr := 2, extest := false, boundary := v % 128 }, out := s.out ++ [.tap 7 (pins % 128)] }) ∧
       (s.mgt.testEn = true → Answers .extest s fun t => t = { s with mgt := { s.mgt with tapInstr := 3, extest := true } }) ∧
       (s.mgt.testEn = false → Answers .extest s (· = s))) ∧
     (s.pwr.mstate = .m2 → ∀ i ∈ (oems.map fun e => e.1) ++ [.dynamicAddress v, .pldmBase v, .pldmSensorRead v, .readFaultLog v,
         .firmwareUpdateComponent v wp image, .bypass, .idcode, .samplePreload v v, .extest], Answers i s (· = s)) ∧
     (Answers .platformEventAck s fun t => t = { s with mgt := { s.mgt with events := s.mgt.events.drop 1 } }))

/-- A trace flit leaves its pip at a trace position of its output, and travels to the sink or to the relay of its column, unless a
field on its way is in F3; what comes to a full relay is dropped; a frame of 512 bytes with the next sequence number leaves
and the sink keeps what it could not hold; snapshots are formed a period after the last. A write that is not aligned, not of
32 or 64 bits, outside BAR0 or of a host that is not attached changes nothing; one of a register is kept there where the
writer may write it. A read of another width or alignment answers 0. A read of the low half of a 64-bit register latches the
high half for the host, which its next read of the high half answers. (R8, R9, R11, R355, R444, R445, R446, R447) -/
def Obligations.TraceAndRegisters : Prop :=
  ∀ (s : State),
    (∀ p f l, p < 10240 →
      (let on := tracePos s.mod.map p (traceOut p) (s.cycle % 4096)
       let r := pipAt (traceCol p) (pipY p)
       let relay := Tab.get [] s.trc.relay r
       (Tab.get [] s.trc.egress p = f :: l → on = false → Answers (.traceFlitSend p) s (· = s)) ∧
       (Tab.get [] s.trc.egress p = f :: l → on = true →
         (let place := if traceOut p = 0 then sinkPlace else r
          let hops := max (pipX p) (traceCol p) - min (pipX p) (traceCol p)
          let due := s.cycle + (if traceOut p = 0 then legCycles s.mod.map 0 (pipY p) p + 1 else legCycles s.mod.map (traceOut p) hops p)
          let way := if traceOut p = 0 then traceUp p else traceRow p
          Answers (.traceFlitSend p) s fun t =>
            t = { s with trc := t.trc } ∧ Tab.get [] t.trc.egress p = l ∧
            ((∀ g ∈ way, (fieldSt s g).state ≠ .f3) → t.trc.way = s.trc.way ++ [(place, { f with due := due })] ∧
              t.trc.dropCnt = s.trc.dropCnt) ∧
            ((∃ g ∈ way, (fieldSt s g).state = .f3) → t.trc.way = s.trc.way ∧ (f.recs ≠ [] → t.trc.lost = true)))) ∧
       (Tab.get [] s.trc.relay p = f :: l → tracePos s.mod.map p 0 (s.cycle % 4096) = true → f.due < s.cycle →
         (∀ e ∈ s.trc.way, s.cycle < e.2.due) → Answers (.traceRelay p) s fun t =>
           t = { s with trc := t.trc } ∧ Tab.get [] t.trc.relay p = l ∧
           ((∀ g ∈ traceUp p, (fieldSt s g).state ≠ .f3) → t.trc.way = s.trc.way ++
             [(sinkPlace, { f with due := s.cycle + legCycles s.mod.map 0 (pipY p) p + 1 })]) ∧
           ((∃ g ∈ traceUp p, (fieldSt s g).state = .f3) → t.trc.way = s.trc.way)) ∧
       (tracePos s.mod.map p 0 (s.cycle % 4096) = false → f.due ≤ s.cycle →
         (let q := Tab.get [] s.trc.relay p
          (s.trc.way = [(p, f)] → Answers (.traceRelay p) s fun t =>
            t = { s with trc := t.trc } ∧ t.trc.way = [] ∧ (q.length < 4 → Tab.get [] t.trc.relay p = q ++ [f]) ∧
            (4 ≤ q.length → t.trc.relay = s.trc.relay ∧ (f.recs ≠ [] → t.trc.lost = true))) ∧
          (s.trc.way = [(sinkPlace, f)] → Answers (.traceRelay p) s fun t =>
            t = { s with trc := t.trc } ∧ t.trc.way = [] ∧ t.trc.relay = s.trc.relay ∧
            (s.trc.portEn = true → s.trc.sink.length + f.recs.length ≤ sinkSize → t.trc.sink = s.trc.sink ++ f.recs)))))) ∧
    (Answers .traceFrame s fun t =>
      t = { s with trc := t.trc, out := t.out } ∧ t.trc.queue = [] ∧ t.trc.frameCnt = bump s.trc.frameCnt 1 ∧
      t.trc.seq = (s.trc.seq + 1) % 2 ^ 32 ∧
      (s.trc.portEn = true → s.trc.sink.length + s.trc.queue.length ≤ sinkSize →
        t.trc.sink = (s.trc.sink ++ s.trc.queue).drop 20) ∧
      ∃ bs, t.out = s.out ++ [.traceFrame bs] ∧ bs.length = 512 ∧ bs.take 8 = toBytes 4 0x54525153 ++ toBytes 4 s.trc.seq) ∧
    (s.trc.period = 0 ∨ s.cycle / 4096 < s.trc.lastSnap + s.trc.period → Answers .snapshot s (· = s)) ∧
    (s.trc.period ≠ 0 → s.trc.lastSnap + s.trc.period ≤ s.cycle / 4096 → Answers .snapshot s fun t =>
      t = { s with trc := t.trc } ∧ t.trc.lastSnap = s.cycle / 4096 ∧
      ((∀ i, i < 16 → (Tab.get (0, false) s.trc.snaps i).2 = false) → t = { s with trc := { s.trc with lastSnap := s.cycle / 4096 } })) ∧
    (∀ i o, Tab.get (0, false) s.trc.snaps i = (o, true) →
      snapRecord i s = fabricRecord s { type := 4, kind := 3, arg0 := o, arg1 := readReg s none o }) ∧
    (∀ w off len v, reaches s w = false ∨ 2 ^ 26 ≤ off ∨ off % len ≠ 0 ∨ (len ≠ 4 ∧ len ≠ 8) →
      Answers (.registerWrite w off len v) s (· = s)) ∧
    (∀ w, reaches s w = true → ∀ v, v < 2 ^ 64 →
      (Answers (.registerWrite w 0x2028 8 v) s fun t => t = { s with mod := { s.mod with imgAddr := BitVec.ofNat 64 v } }) ∧
      (Answers (.registerWrite w 0x2028 4 v) s fun t => t = { s with mod := { s.mod with
        imgAddr := BitVec.ofNat 64 (s.mod.imgAddr.toNat / 2 ^ 32 * 2 ^ 32 + v % 2 ^ 32) } }) ∧
      (Answers (.registerWrite w 0x3000 4 v) s fun t =>
        t = if priv s w then { s with mod := { s.mod with agDis := bit v 0 } } else s) ∧
      (Answers (.registerWrite w 0x4100 4 v) s fun t =>
        t = if bit v 2 then { s with flt := { s.flt with flt := false } } else s) ∧
      (Answers (.registerWrite w 0xA00010 4 v) s fun t =>
        t = if priv s w then { s with pwr := { s.pwr with timer := BitVec.ofNat 32 v } } else s) ∧
      (∀ c, c < 16 → Answers (.registerWrite w (0x901008 + 0x100 * c) 8 v) s fun t =>
        t = if hullWriter s w c then setHchan s c { hchan s c with job := BitVec.ofNat 64 v } else s) ∧
      (∀ c, c < 10240 → Answers (.registerWrite w (0x1000018 + 0x100 * c) 4 v) s fun t =>
        t = if ownsPage s w c then setCtx s c { ctxSt s c with syncSel := bits v 13 0 } else s) ∧
      (∀ h, h < 16 → Answers (.registerWrite w (0x800010 + 0x100 * h) 8 v) s fun t =>
        t = if w = .host h then setHost s h { hostSt s h with crQbase := BitVec.ofNat 64 v } else s) ∧
      (∀ p n, p < 10240 → n < 16 → Answers (.registerWrite w (0x3000000 + 0x100 * p + 8 * n) 8 v) s fun t =>
        exec (.pipRegion w p n v) s = .next t)) ∧
    (∀ h off, h < 16 → off < 2 ^ 26 →
      (∀ n, attached s h = false → Answers (.counterLowRead h ⟨off, n⟩) s (· = s)) ∧
      (∀ n, attached s h = true → (n ≠ 4 ∧ n ≠ 8) ∨ off % n ≠ 0 → Answers (.counterLowRead h ⟨off, n⟩) s fun t =>
        t = { s with out := s.out ++ [.regData h off 0] }) ∧
      (attached s h = true → off % 8 = 0 → Answers (.counterLowRead h ⟨off, 8⟩) s fun t =>
        t = { s with out := s.out ++ [.regData h off (read64 s (some h) off)] }) ∧
      (attached s h = true → off % 4 = 0 → syncValAt off = none → isLow s (some h) off = true → read32 s (some h) (off + 4) < 2 ^ 32 →
        Answers (.counterLowRead h ⟨off, 4⟩) s fun t =>
          t = { s with latch := t.latch, out := s.out ++ [.regData h off (read32 s (some h) off)] } ∧
          ∀ u : State, u.latch = t.latch → attached u h = true → isHigh u (some h) (off + 4) = true →
            isLow u (some h) (off + 4) = false → off + 4 < 2 ^ 26 → syncValAt (off + 4) = none →
            Answers (.counterLowRead h ⟨off + 4, 4⟩) u fun x =>
              x = { u with out := u.out ++ [.regData h (off + 4) (read32 s (some h) (off + 4))] }) ∧
      (attached s h = true → off % 4 = 0 → syncValAt off = none → isLow s (some h) off = false → isHigh s (some h) off = false →
        Answers (.counterLowRead h ⟨off, 4⟩) s fun t => t = { s with out := s.out ++ [.regData h off (read32 s (some h) off)] }))

/-- A step on a queue with c in front answers what exec answers for c on the state whose queue is the rest; on an empty queue one
pip cycle passes, the clock is one further and the queue stays empty, which is the choice of the model in log 1. (R106) -/
def Obligations.StepRunsTheFrontCommand : Prop :=
  ∀ (s : State) (c : Instr) (rest : List Instr),
    step { s with pending := c :: rest } = exec c { s with pending := rest } ∧
    ∃ t, step { s with pending := [] } = .next t ∧ t = tick { s with pending := [] } ∧ t.cycle = s.cycle + 1 ∧ t.pending = []

/-- No command is refused; the one fault is that of a command which names a part the module does not have; a well-formed command
answers a next state in every state; and no command touches the queue of waiting commands. Log 2 names the choice that a
command whose guard fails changes nothing. (R8, R14, R16, R86) -/
def Obligations.CommandsAnswerAndKeepTheQueue : Prop :=
  ∀ (c : Instr) (s : State),
    (∀ r, exec c s ≠ .refused r) ∧ (∀ f, exec c s = .fault f → (∃ n, f = .absent n) ∧ c.wellFormed = false) ∧
    (c.wellFormed = true → ∃ t, exec c s = .next t) ∧ (∀ t, exec c s = .next t → t.pending = s.pending)

/-- HBM and the staging buffers have their canonical form after reset (log 6), and every byte of them reads 0, as the zeroing of
start-up leaves it. (R269, R275, R288) -/
def Obligations.MemoryCanonicalAtReset : Prop :=
  Memory.wf State.reset = true ∧ ∀ a, byteAt State.reset a = 0

/-- From every state whose HBM and staging buffers have their canonical form, addresses rising and no zero byte listed, a step of
any command leads to a state whose memory has it, so that equal memories are equal data. (R269, R281, R288) -/
def Obligations.EveryStepKeepsMemoryCanonical : Prop :=
  ∀ (s t : State), Memory.wf s = true → step s = .next t → Memory.wf t = true
end

