-- ==== Sys2Proof/Laws/Tab.lean ====
section
/-!
SUPPORT. Laws of sparse tables: a read after a write, and the canonical form.
-/
namespace Sys2Proof.Machine

variable {α : Type}

theorem Tab.get_erase_same (d : α) (t : Tab α) (i : Nat) : Tab.get d (Tab.erase t i) i = d := by
  induction t with
  | nil => rfl
  | cons e t ih =>
    by_cases h : e.1 = i
    · simpa [Tab.erase, h] using ih
    · simp only [Tab.erase, List.filter_cons, h, ne_eq, not_false_eq_true, decide_true, if_true]
      simpa [Tab.get, Tab.erase, Ne.symm h] using ih

theorem Tab.get_erase_other (d : α) (t : Tab α) {i j : Nat} (h : j ≠ i) : Tab.get d (Tab.erase t i) j = Tab.get d t j := by
  induction t with
  | nil => rfl
  | cons e t ih =>
    by_cases hi : e.1 = i
    · simpa [Tab.erase, Tab.get, hi, h] using ih
    · simp only [Tab.erase, List.filter_cons, hi, ne_eq, not_false_eq_true, decide_true, if_true, Tab.get]
      split
      · rfl
      · simpa [Tab.erase] using ih

theorem Tab.get_insert_other (d : α) (t : Tab α) {i j : Nat} (v : α) (h : j ≠ i) :
    Tab.get d (Tab.insert t i v) j = Tab.get d t j := by
  induction t with
  | nil => simp [Tab.insert, Tab.get, h]
  | cons e t ih =>
    unfold Tab.insert
    split
    · simp [Tab.get, h]
    · simp [Tab.get, ih]

theorem Tab.get_insert_same (d : α) (t : Tab α) (i : Nat) (v : α) (h : ∀ e ∈ t, e.1 ≠ i) :
    Tab.get d (Tab.insert t i v) i = v := by
  induction t with
  | nil => simp [Tab.insert, Tab.get]
  | cons e t ih =>
    unfold Tab.insert
    split
    · simp [Tab.get]
    · have he : i ≠ e.1 := fun x => h e (by simp) x.symm
      simp [Tab.get, he, ih fun f hf => h f (by simp [hf])]

/-- A read of what was just written. -/
@[simp] theorem Tab.get_set_same [DecidableEq α] (d : α) (t : Tab α) (i : Nat) (v : α) :
    Tab.get d (Tab.set d t i v) i = v := by
  unfold Tab.set
  split
  · next h => rw [Tab.get_erase_same, h]
  · exact Tab.get_insert_same d _ i v (by simp [Tab.erase])

/-- A write leaves every other index alone. -/
theorem Tab.get_set_other [DecidableEq α] (d : α) (t : Tab α) {i j : Nat} (v : α) (h : j ≠ i) :
    Tab.get d (Tab.set d t i v) j = Tab.get d t j := by
  unfold Tab.set
  split
  · exact Tab.get_erase_other d t h
  · rw [Tab.get_insert_other d _ v h, Tab.get_erase_other d t h]

theorem Tab.get_set [DecidableEq α] (d : α) (t : Tab α) (i j : Nat) (v : α) :
    Tab.get d (Tab.set d t i v) j = if j = i then v else Tab.get d t j := by
  split
  · next h => rw [h, Tab.get_set_same]
  · next h => exact Tab.get_set_other d t v h

@[simp] theorem Tab.get_nil (d : α) (i : Nat) : Tab.get d [] i = d := rfl

/-- A write inside a run is read back; outside it nothing changes. -/
theorem Tab.get_setMany [DecidableEq α] (d : α) (t : Tab α) (i j : Nat) (l : List α) :
    Tab.get d (Tab.setMany d t i l) j = if i ≤ j ∧ j < i + l.length then l.getD (j - i) d else Tab.get d t j := by
  induction l generalizing t i with
  | nil => simp only [Tab.setMany, List.length_nil]; rw [if_neg (by omega)]
  | cons v l ih =>
    simp only [Tab.setMany, ih, Tab.get_set, List.length_cons]
    by_cases hj : j = i
    · subst hj; rw [if_neg (by omega), if_pos rfl, if_pos (by omega), Nat.sub_self]; rfl
    · by_cases h1 : i + 1 ≤ j ∧ j < i + 1 + l.length
      · have h2 : i ≤ j ∧ j < i + (l.length + 1) := by omega
        have h3 : j - i = (j - (i + 1)) + 1 := by omega
        rw [if_pos h1, if_pos h2, h3]; simp
      · have h2 : ¬(i ≤ j ∧ j < i + (l.length + 1)) := by omega
        rw [if_neg h1, if_neg h2, if_neg hj]

/-! ### The canonical form -/

theorem Tab.wfFrom_mono [DecidableEq α] (d : α) {lo hi : Nat} (h : lo ≤ hi) (t : Tab α)
    (w : Tab.wfFrom d hi t = true) : Tab.wfFrom d lo t = true := by
  cases t with
  | nil => rfl
  | cons e t =>
    simp only [Tab.wfFrom, Bool.and_eq_true, decide_eq_true_eq] at w ⊢
    exact ⟨⟨by omega, w.1.2⟩, w.2⟩

theorem Tab.wfFrom_filter [DecidableEq α] (d : α) (f : Nat × α → Bool) (lo : Nat) (t : Tab α)
    (w : Tab.wfFrom d lo t = true) : Tab.wfFrom d lo (t.filter f) = true := by
  induction t generalizing lo with
  | nil => rfl
  | cons e t ih =>
    simp only [Tab.wfFrom, Bool.and_eq_true, decide_eq_true_eq] at w
    rw [List.filter_cons]
    split
    · simp only [Tab.wfFrom, Bool.and_eq_true, decide_eq_true_eq]
      exact ⟨⟨w.1.1, w.1.2⟩, ih _ w.2⟩
    · exact Tab.wfFrom_mono d (by omega) _ (ih _ w.2)

theorem Tab.wfFrom_insert [DecidableEq α] (d : α) (lo i : Nat) (v : α) (t : Tab α) (hi : lo ≤ i) (hv : v ≠ d)
    (hn : ∀ e ∈ t, e.1 ≠ i) (w : Tab.wfFrom d lo t = true) : Tab.wfFrom d lo (Tab.insert t i v) = true := by
  induction t generalizing lo with
  | nil => simp [Tab.insert, Tab.wfFrom, hi, hv]
  | cons e t ih =>
    simp only [Tab.wfFrom, Bool.and_eq_true, decide_eq_true_eq, Bool.not_eq_true', decide_eq_false_iff_not] at w
    unfold Tab.insert
    split
    · next h =>
      simp only [Tab.wfFrom, Bool.and_eq_true, decide_eq_true_eq, Bool.not_eq_true', decide_eq_false_iff_not]
      exact ⟨⟨hi, hv⟩, ⟨by omega, w.1.2⟩, w.2⟩
    · next h =>
      have := hn e (by simp)
      simp only [Tab.wfFrom, Bool.and_eq_true, decide_eq_true_eq, Bool.not_eq_true', decide_eq_false_iff_not]
      exact ⟨w.1, ih (e.1 + 1) (by omega) (fun f hf => hn f (by simp [hf])) w.2⟩

/-- A write keeps the canonical form. -/
theorem Tab.wf_set [DecidableEq α] (d : α) (t : Tab α) (i : Nat) (v : α) (w : Tab.wf d t = true) :
    Tab.wf d (Tab.set d t i v) = true := by
  have we : Tab.wfFrom d 0 (Tab.erase t i) = true := Tab.wfFrom_filter d _ 0 t w
  unfold Tab.set
  split
  · exact we
  · next h => exact Tab.wfFrom_insert d 0 i v _ (Nat.zero_le i) h (by simp [Tab.erase]) we

/-- A run of writes keeps the canonical form. -/
theorem Tab.wf_setMany [DecidableEq α] (d : α) (t : Tab α) (i : Nat) (l : List α) (w : Tab.wf d t = true) :
    Tab.wf d (Tab.setMany d t i l) = true := by
  induction l generalizing t i with
  | nil => exact w
  | cons v l ih => exact ih _ _ (Tab.wf_set d t i v w)

/-- Removing entries keeps the canonical form. -/
theorem Tab.wf_filter [DecidableEq α] (d : α) (f : Nat × α → Bool) (t : Tab α) (w : Tab.wf d t = true) :
    Tab.wf d (t.filter f) = true := Tab.wfFrom_filter d f 0 t w

end Sys2Proof.Machine
end

