-- ==== Sys2Proof/Laws/State.lean ====
section
/-!
SUPPORT. What each named update of the state leaves of each field, and what the parts read after it. No later proof
unfolds a record update.
-/
namespace Sys2Proof.Machine

variable (s : State)


/-! ### setPip -/

@[simp] theorem setPip_pending (p : Nat) (v : PipSt) : (setPip s p v).pending = s.pending := rfl
@[simp] theorem setPip_free (p : Nat) (v : PipSt) : (setPip s p v).free = s.free := rfl
@[simp] theorem setPip_out (p : Nat) (v : PipSt) : (setPip s p v).out = s.out := rfl
@[simp] theorem setPip_cycle (p : Nat) (v : PipSt) : (setPip s p v).cycle = s.cycle := rfl
@[simp] theorem setPip_timeOff (p : Nat) (v : PipSt) : (setPip s p v).timeOff = s.timeOff := rfl
@[simp] theorem setPip_nvm (p : Nat) (v : PipSt) : (setPip s p v).nvm = s.nvm := rfl
@[simp] theorem setPip_boot (p : Nat) (v : PipSt) : (setPip s p v).boot = s.boot := rfl
@[simp] theorem setPip_mod (p : Nat) (v : PipSt) : (setPip s p v).mod = s.mod := rfl
@[simp] theorem setPip_flt (p : Nat) (v : PipSt) : (setPip s p v).flt = s.flt := rfl
@[simp] theorem setPip_parts (p : Nat) (v : PipSt) : (setPip s p v).parts = s.parts := rfl
@[simp] theorem setPip_ctxs (p : Nat) (v : PipSt) : (setPip s p v).ctxs = s.ctxs := rfl
@[simp] theorem setPip_cmds (p : Nat) (v : PipSt) : (setPip s p v).cmds = s.cmds := rfl
@[simp] theorem setPip_jobs (p : Nat) (v : PipSt) : (setPip s p v).jobs = s.jobs := rfl
@[simp] theorem setPip_nextId (p : Nat) (v : PipSt) : (setPip s p v).nextId = s.nextId := rfl
@[simp] theorem setPip_syncs (p : Nat) (v : PipSt) : (setPip s p v).syncs = s.syncs := rfl
@[simp] theorem setPip_adds (p : Nat) (v : PipSt) : (setPip s p v).adds = s.adds := rfl
@[simp] theorem setPip_lateAdds (p : Nat) (v : PipSt) : (setPip s p v).lateAdds = s.lateAdds := rfl
@[simp] theorem setPip_fields (p : Nat) (v : PipSt) : (setPip s p v).fields = s.fields := rfl
@[simp] theorem setPip_pods (p : Nat) (v : PipSt) : (setPip s p v).pods = s.pods := rfl
@[simp] theorem setPip_hbm (p : Nat) (v : PipSt) : (setPip s p v).hbm = s.hbm := rfl
@[simp] theorem setPip_hbmFlips (p : Nat) (v : PipSt) : (setPip s p v).hbmFlips = s.hbmFlips := rfl
@[simp] theorem setPip_granules (p : Nat) (v : PipSt) : (setPip s p v).granules = s.granules := rfl
@[simp] theorem setPip_sgranules (p : Nat) (v : PipSt) : (setPip s p v).sgranules = s.sgranules := rfl
@[simp] theorem setPip_staging (p : Nat) (v : PipSt) : (setPip s p v).staging = s.staging := rfl
@[simp] theorem setPip_stgFlips (p : Nat) (v : PipSt) : (setPip s p v).stgFlips = s.stgFlips := rfl
@[simp] theorem setPip_hstacks (p : Nat) (v : PipSt) : (setPip s p v).hstacks = s.hstacks := rfl
@[simp] theorem setPip_flight (p : Nat) (v : PipSt) : (setPip s p v).flight = s.flight := rfl
@[simp] theorem setPip_hostq (p : Nat) (v : PipSt) : (setPip s p v).hostq = s.hostq := rfl
@[simp] theorem setPip_lnk (p : Nat) (v : PipSt) : (setPip s p v).lnk = s.lnk := rfl
@[simp] theorem setPip_links (p : Nat) (v : PipSt) : (setPip s p v).links = s.links := rfl
@[simp] theorem setPip_chans (p : Nat) (v : PipSt) : (setPip s p v).chans = s.chans := rfl
@[simp] theorem setPip_cxl (p : Nat) (v : PipSt) : (setPip s p v).cxl = s.cxl := rfl
@[simp] theorem setPip_hosts (p : Nat) (v : PipSt) : (setPip s p v).hosts = s.hosts := rfl
@[simp] theorem setPip_heads (p : Nat) (v : PipSt) : (setPip s p v).heads = s.heads := rfl
@[simp] theorem setPip_hull (p : Nat) (v : PipSt) : (setPip s p v).hull = s.hull := rfl
@[simp] theorem setPip_hchans (p : Nat) (v : PipSt) : (setPip s p v).hchans = s.hchans := rfl
@[simp] theorem setPip_pwr (p : Nat) (v : PipSt) : (setPip s p v).pwr = s.pwr := rfl
@[simp] theorem setPip_trc (p : Nat) (v : PipSt) : (setPip s p v).trc = s.trc := rfl
@[simp] theorem setPip_mgt (p : Nat) (v : PipSt) : (setPip s p v).mgt = s.mgt := rfl
@[simp] theorem setPip_latch (p : Nat) (v : PipSt) : (setPip s p v).latch = s.latch := rfl
@[simp] theorem podSt_setPip (x : Nat) (p : Nat) (v : PipSt) : podSt (setPip s p v) x = podSt s x := rfl
@[simp] theorem fieldSt_setPip (x : Nat) (p : Nat) (v : PipSt) : fieldSt (setPip s p v) x = fieldSt s x := rfl
@[simp] theorem ctxSt_setPip (x : Nat) (p : Nat) (v : PipSt) : ctxSt (setPip s p v) x = ctxSt s x := rfl
@[simp] theorem partSt_setPip (x : Nat) (p : Nat) (v : PipSt) : partSt (setPip s p v) x = partSt s x := rfl
@[simp] theorem stackSt_setPip (x : Nat) (p : Nat) (v : PipSt) : stackSt (setPip s p v) x = stackSt s x := rfl
@[simp] theorem linkSt_setPip (x : Nat) (p : Nat) (v : PipSt) : linkSt (setPip s p v) x = linkSt s x := rfl
@[simp] theorem chanSt_setPip (x : Nat) (p : Nat) (v : PipSt) : chanSt (setPip s p v) x = chanSt s x := rfl
@[simp] theorem hostSt_setPip (x : Nat) (p : Nat) (v : PipSt) : hostSt (setPip s p v) x = hostSt s x := rfl
@[simp] theorem headSt_setPip (x : Nat) (p : Nat) (v : PipSt) : headSt (setPip s p v) x = headSt s x := rfl
@[simp] theorem hchan_setPip (x : Nat) (p : Nat) (v : PipSt) : hchan (setPip s p v) x = hchan s x := rfl
@[simp] theorem syncVal_setPip (x : Nat) (p : Nat) (v : PipSt) : syncVal (setPip s p v) x = syncVal s x := rfl

/-! ### setPod -/

@[simp] theorem setPod_pending (d : Nat) (v : PodSt) : (setPod s d v).pending = s.pending := rfl
@[simp] theorem setPod_free (d : Nat) (v : PodSt) : (setPod s d v).free = s.free := rfl
@[simp] theorem setPod_out (d : Nat) (v : PodSt) : (setPod s d v).out = s.out := rfl
@[simp] theorem setPod_cycle (d : Nat) (v : PodSt) : (setPod s d v).cycle = s.cycle := rfl
@[simp] theorem setPod_timeOff (d : Nat) (v : PodSt) : (setPod s d v).timeOff = s.timeOff := rfl
@[simp] theorem setPod_nvm (d : Nat) (v : PodSt) : (setPod s d v).nvm = s.nvm := rfl
@[simp] theorem setPod_boot (d : Nat) (v : PodSt) : (setPod s d v).boot = s.boot := rfl
@[simp] theorem setPod_mod (d : Nat) (v : PodSt) : (setPod s d v).mod = s.mod := rfl
@[simp] theorem setPod_flt (d : Nat) (v : PodSt) : (setPod s d v).flt = s.flt := rfl
@[simp] theorem setPod_parts (d : Nat) (v : PodSt) : (setPod s d v).parts = s.parts := rfl
@[simp] theorem setPod_ctxs (d : Nat) (v : PodSt) : (setPod s d v).ctxs = s.ctxs := rfl
@[simp] theorem setPod_cmds (d : Nat) (v : PodSt) : (setPod s d v).cmds = s.cmds := rfl
@[simp] theorem setPod_jobs (d : Nat) (v : PodSt) : (setPod s d v).jobs = s.jobs := rfl
@[simp] theorem setPod_nextId (d : Nat) (v : PodSt) : (setPod s d v).nextId = s.nextId := rfl
@[simp] theorem setPod_syncs (d : Nat) (v : PodSt) : (setPod s d v).syncs = s.syncs := rfl
@[simp] theorem setPod_adds (d : Nat) (v : PodSt) : (setPod s d v).adds = s.adds := rfl
@[simp] theorem setPod_lateAdds (d : Nat) (v : PodSt) : (setPod s d v).lateAdds = s.lateAdds := rfl
@[simp] theorem setPod_fields (d : Nat) (v : PodSt) : (setPod s d v).fields = s.fields := rfl
@[simp] theorem setPod_pips (d : Nat) (v : PodSt) : (setPod s d v).pips = s.pips := rfl
@[simp] theorem setPod_hbm (d : Nat) (v : PodSt) : (setPod s d v).hbm = s.hbm := rfl
@[simp] theorem setPod_hbmFlips (d : Nat) (v : PodSt) : (setPod s d v).hbmFlips = s.hbmFlips := rfl
@[simp] theorem setPod_granules (d : Nat) (v : PodSt) : (setPod s d v).granules = s.granules := rfl
@[simp] theorem setPod_sgranules (d : Nat) (v : PodSt) : (setPod s d v).sgranules = s.sgranules := rfl
@[simp] theorem setPod_staging (d : Nat) (v : PodSt) : (setPod s d v).staging = s.staging := rfl
@[simp] theorem setPod_stgFlips (d : Nat) (v : PodSt) : (setPod s d v).stgFlips = s.stgFlips := rfl
@[simp] theorem setPod_hstacks (d : Nat) (v : PodSt) : (setPod s d v).hstacks = s.hstacks := rfl
@[simp] theorem setPod_flight (d : Nat) (v : PodSt) : (setPod s d v).flight = s.flight := rfl
@[simp] theorem setPod_hostq (d : Nat) (v : PodSt) : (setPod s d v).hostq = s.hostq := rfl
@[simp] theorem setPod_lnk (d : Nat) (v : PodSt) : (setPod s d v).lnk = s.lnk := rfl
@[simp] theorem setPod_links (d : Nat) (v : PodSt) : (setPod s d v).links = s.links := rfl
@[simp] theorem setPod_chans (d : Nat) (v : PodSt) : (setPod s d v).chans = s.chans := rfl
@[simp] theorem setPod_cxl (d : Nat) (v : PodSt) : (setPod s d v).cxl = s.cxl := rfl
@[simp] theorem setPod_hosts (d : Nat) (v : PodSt) : (setPod s d v).hosts = s.hosts := rfl
@[simp] theorem setPod_heads (d : Nat) (v : PodSt) : (setPod s d v).heads = s.heads := rfl
@[simp] theorem setPod_hull (d : Nat) (v : PodSt) : (setPod s d v).hull = s.hull := rfl
@[simp] theorem setPod_hchans (d : Nat) (v : PodSt) : (setPod s d v).hchans = s.hchans := rfl
@[simp] theorem setPod_pwr (d : Nat) (v : PodSt) : (setPod s d v).pwr = s.pwr := rfl
@[simp] theorem setPod_trc (d : Nat) (v : PodSt) : (setPod s d v).trc = s.trc := rfl
@[simp] theorem setPod_mgt (d : Nat) (v : PodSt) : (setPod s d v).mgt = s.mgt := rfl
@[simp] theorem setPod_latch (d : Nat) (v : PodSt) : (setPod s d v).latch = s.latch := rfl
@[simp] theorem pipOf_setPod (x : Nat) (d : Nat) (v : PodSt) : pipOf (setPod s d v) x = pipOf s x := rfl
@[simp] theorem fieldSt_setPod (x : Nat) (d : Nat) (v : PodSt) : fieldSt (setPod s d v) x = fieldSt s x := rfl
@[simp] theorem ctxSt_setPod (x : Nat) (d : Nat) (v : PodSt) : ctxSt (setPod s d v) x = ctxSt s x := rfl
@[simp] theorem partSt_setPod (x : Nat) (d : Nat) (v : PodSt) : partSt (setPod s d v) x = partSt s x := rfl
@[simp] theorem stackSt_setPod (x : Nat) (d : Nat) (v : PodSt) : stackSt (setPod s d v) x = stackSt s x := rfl
@[simp] theorem linkSt_setPod (x : Nat) (d : Nat) (v : PodSt) : linkSt (setPod s d v) x = linkSt s x := rfl
@[simp] theorem chanSt_setPod (x : Nat) (d : Nat) (v : PodSt) : chanSt (setPod s d v) x = chanSt s x := rfl
@[simp] theorem hostSt_setPod (x : Nat) (d : Nat) (v : PodSt) : hostSt (setPod s d v) x = hostSt s x := rfl
@[simp] theorem headSt_setPod (x : Nat) (d : Nat) (v : PodSt) : headSt (setPod s d v) x = headSt s x := rfl
@[simp] theorem hchan_setPod (x : Nat) (d : Nat) (v : PodSt) : hchan (setPod s d v) x = hchan s x := rfl
@[simp] theorem syncVal_setPod (x : Nat) (d : Nat) (v : PodSt) : syncVal (setPod s d v) x = syncVal s x := rfl

/-! ### setField -/

@[simp] theorem setField_pending (i : Nat) (v : FieldSt) : (setField s i v).pending = s.pending := rfl
@[simp] theorem setField_free (i : Nat) (v : FieldSt) : (setField s i v).free = s.free := rfl
@[simp] theorem setField_out (i : Nat) (v : FieldSt) : (setField s i v).out = s.out := rfl
@[simp] theorem setField_cycle (i : Nat) (v : FieldSt) : (setField s i v).cycle = s.cycle := rfl
@[simp] theorem setField_timeOff (i : Nat) (v : FieldSt) : (setField s i v).timeOff = s.timeOff := rfl
@[simp] theorem setField_nvm (i : Nat) (v : FieldSt) : (setField s i v).nvm = s.nvm := rfl
@[simp] theorem setField_boot (i : Nat) (v : FieldSt) : (setField s i v).boot = s.boot := rfl
@[simp] theorem setField_mod (i : Nat) (v : FieldSt) : (setField s i v).mod = s.mod := rfl
@[simp] theorem setField_flt (i : Nat) (v : FieldSt) : (setField s i v).flt = s.flt := rfl
@[simp] theorem setField_parts (i : Nat) (v : FieldSt) : (setField s i v).parts = s.parts := rfl
@[simp] theorem setField_ctxs (i : Nat) (v : FieldSt) : (setField s i v).ctxs = s.ctxs := rfl
@[simp] theorem setField_cmds (i : Nat) (v : FieldSt) : (setField s i v).cmds = s.cmds := rfl
@[simp] theorem setField_jobs (i : Nat) (v : FieldSt) : (setField s i v).jobs = s.jobs := rfl
@[simp] theorem setField_nextId (i : Nat) (v : FieldSt) : (setField s i v).nextId = s.nextId := rfl
@[simp] theorem setField_syncs (i : Nat) (v : FieldSt) : (setField s i v).syncs = s.syncs := rfl
@[simp] theorem setField_adds (i : Nat) (v : FieldSt) : (setField s i v).adds = s.adds := rfl
@[simp] theorem setField_lateAdds (i : Nat) (v : FieldSt) : (setField s i v).lateAdds = s.lateAdds := rfl
@[simp] theorem setField_pods (i : Nat) (v : FieldSt) : (setField s i v).pods = s.pods := rfl
@[simp] theorem setField_pips (i : Nat) (v : FieldSt) : (setField s i v).pips = s.pips := rfl
@[simp] theorem setField_hbm (i : Nat) (v : FieldSt) : (setField s i v).hbm = s.hbm := rfl
@[simp] theorem setField_hbmFlips (i : Nat) (v : FieldSt) : (setField s i v).hbmFlips = s.hbmFlips := rfl
@[simp] theorem setField_granules (i : Nat) (v : FieldSt) : (setField s i v).granules = s.granules := rfl
@[simp] theorem setField_sgranules (i : Nat) (v : FieldSt) : (setField s i v).sgranules = s.sgranules := rfl
@[simp] theorem setField_staging (i : Nat) (v : FieldSt) : (setField s i v).staging = s.staging := rfl
@[simp] theorem setField_stgFlips (i : Nat) (v : FieldSt) : (setField s i v).stgFlips = s.stgFlips := rfl
@[simp] theorem setField_hstacks (i : Nat) (v : FieldSt) : (setField s i v).hstacks = s.hstacks := rfl
@[simp] theorem setField_flight (i : Nat) (v : FieldSt) : (setField s i v).flight = s.flight := rfl
@[simp] theorem setField_hostq (i : Nat) (v : FieldSt) : (setField s i v).hostq = s.hostq := rfl
@[simp] theorem setField_lnk (i : Nat) (v : FieldSt) : (setField s i v).lnk = s.lnk := rfl
@[simp] theorem setField_links (i : Nat) (v : FieldSt) : (setField s i v).links = s.links := rfl
@[simp] theorem setField_chans (i : Nat) (v : FieldSt) : (setField s i v).chans = s.chans := rfl
@[simp] theorem setField_cxl (i : Nat) (v : FieldSt) : (setField s i v).cxl = s.cxl := rfl
@[simp] theorem setField_hosts (i : Nat) (v : FieldSt) : (setField s i v).hosts = s.hosts := rfl
@[simp] theorem setField_heads (i : Nat) (v : FieldSt) : (setField s i v).heads = s.heads := rfl
@[simp] theorem setField_hull (i : Nat) (v : FieldSt) : (setField s i v).hull = s.hull := rfl
@[simp] theorem setField_hchans (i : Nat) (v : FieldSt) : (setField s i v).hchans = s.hchans := rfl
@[simp] theorem setField_pwr (i : Nat) (v : FieldSt) : (setField s i v).pwr = s.pwr := rfl
@[simp] theorem setField_trc (i : Nat) (v : FieldSt) : (setField s i v).trc = s.trc := rfl
@[simp] theorem setField_mgt (i : Nat) (v : FieldSt) : (setField s i v).mgt = s.mgt := rfl
@[simp] theorem setField_latch (i : Nat) (v : FieldSt) : (setField s i v).latch = s.latch := rfl
@[simp] theorem pipOf_setField (x : Nat) (i : Nat) (v : FieldSt) : pipOf (setField s i v) x = pipOf s x := rfl
@[simp] theorem podSt_setField (x : Nat) (i : Nat) (v : FieldSt) : podSt (setField s i v) x = podSt s x := rfl
@[simp] theorem ctxSt_setField (x : Nat) (i : Nat) (v : FieldSt) : ctxSt (setField s i v) x = ctxSt s x := rfl
@[simp] theorem partSt_setField (x : Nat) (i : Nat) (v : FieldSt) : partSt (setField s i v) x = partSt s x := rfl
@[simp] theorem stackSt_setField (x : Nat) (i : Nat) (v : FieldSt) : stackSt (setField s i v) x = stackSt s x := rfl
@[simp] theorem linkSt_setField (x : Nat) (i : Nat) (v : FieldSt) : linkSt (setField s i v) x = linkSt s x := rfl
@[simp] theorem chanSt_setField (x : Nat) (i : Nat) (v : FieldSt) : chanSt (setField s i v) x = chanSt s x := rfl
@[simp] theorem hostSt_setField (x : Nat) (i : Nat) (v : FieldSt) : hostSt (setField s i v) x = hostSt s x := rfl
@[simp] theorem headSt_setField (x : Nat) (i : Nat) (v : FieldSt) : headSt (setField s i v) x = headSt s x := rfl
@[simp] theorem hchan_setField (x : Nat) (i : Nat) (v : FieldSt) : hchan (setField s i v) x = hchan s x := rfl
@[simp] theorem syncVal_setField (x : Nat) (i : Nat) (v : FieldSt) : syncVal (setField s i v) x = syncVal s x := rfl

/-! ### setCtx -/

@[simp] theorem setCtx_pending (c : Nat) (v : CtxSt) : (setCtx s c v).pending = s.pending := rfl
@[simp] theorem setCtx_free (c : Nat) (v : CtxSt) : (setCtx s c v).free = s.free := rfl
@[simp] theorem setCtx_out (c : Nat) (v : CtxSt) : (setCtx s c v).out = s.out := rfl
@[simp] theorem setCtx_cycle (c : Nat) (v : CtxSt) : (setCtx s c v).cycle = s.cycle := rfl
@[simp] theorem setCtx_timeOff (c : Nat) (v : CtxSt) : (setCtx s c v).timeOff = s.timeOff := rfl
@[simp] theorem setCtx_nvm (c : Nat) (v : CtxSt) : (setCtx s c v).nvm = s.nvm := rfl
@[simp] theorem setCtx_boot (c : Nat) (v : CtxSt) : (setCtx s c v).boot = s.boot := rfl
@[simp] theorem setCtx_mod (c : Nat) (v : CtxSt) : (setCtx s c v).mod = s.mod := rfl
@[simp] theorem setCtx_flt (c : Nat) (v : CtxSt) : (setCtx s c v).flt = s.flt := rfl
@[simp] theorem setCtx_parts (c : Nat) (v : CtxSt) : (setCtx s c v).parts = s.parts := rfl
@[simp] theorem setCtx_cmds (c : Nat) (v : CtxSt) : (setCtx s c v).cmds = s.cmds := rfl
@[simp] theorem setCtx_jobs (c : Nat) (v : CtxSt) : (setCtx s c v).jobs = s.jobs := rfl
@[simp] theorem setCtx_nextId (c : Nat) (v : CtxSt) : (setCtx s c v).nextId = s.nextId := rfl
@[simp] theorem setCtx_syncs (c : Nat) (v : CtxSt) : (setCtx s c v).syncs = s.syncs := rfl
@[simp] theorem setCtx_adds (c : Nat) (v : CtxSt) : (setCtx s c v).adds = s.adds := rfl
@[simp] theorem setCtx_lateAdds (c : Nat) (v : CtxSt) : (setCtx s c v).lateAdds = s.lateAdds := rfl
@[simp] theorem setCtx_fields (c : Nat) (v : CtxSt) : (setCtx s c v).fields = s.fields := rfl
@[simp] theorem setCtx_pods (c : Nat) (v : CtxSt) : (setCtx s c v).pods = s.pods := rfl
@[simp] theorem setCtx_pips (c : Nat) (v : CtxSt) : (setCtx s c v).pips = s.pips := rfl
@[simp] theorem setCtx_hbm (c : Nat) (v : CtxSt) : (setCtx s c v).hbm = s.hbm := rfl
@[simp] theorem setCtx_hbmFlips (c : Nat) (v : CtxSt) : (setCtx s c v).hbmFlips = s.hbmFlips := rfl
@[simp] theorem setCtx_granules (c : Nat) (v : CtxSt) : (setCtx s c v).granules = s.granules := rfl
@[simp] theorem setCtx_sgranules (c : Nat) (v : CtxSt) : (setCtx s c v).sgranules = s.sgranules := rfl
@[simp] theorem setCtx_staging (c : Nat) (v : CtxSt) : (setCtx s c v).staging = s.staging := rfl
@[simp] theorem setCtx_stgFlips (c : Nat) (v : CtxSt) : (setCtx s c v).stgFlips = s.stgFlips := rfl
@[simp] theorem setCtx_hstacks (c : Nat) (v : CtxSt) : (setCtx s c v).hstacks = s.hstacks := rfl
@[simp] theorem setCtx_flight (c : Nat) (v : CtxSt) : (setCtx s c v).flight = s.flight := rfl
@[simp] theorem setCtx_hostq (c : Nat) (v : CtxSt) : (setCtx s c v).hostq = s.hostq := rfl
@[simp] theorem setCtx_lnk (c : Nat) (v : CtxSt) : (setCtx s c v).lnk = s.lnk := rfl
@[simp] theorem setCtx_links (c : Nat) (v : CtxSt) : (setCtx s c v).links = s.links := rfl
@[simp] theorem setCtx_chans (c : Nat) (v : CtxSt) : (setCtx s c v).chans = s.chans := rfl
@[simp] theorem setCtx_cxl (c : Nat) (v : CtxSt) : (setCtx s c v).cxl = s.cxl := rfl
@[simp] theorem setCtx_hosts (c : Nat) (v : CtxSt) : (setCtx s c v).hosts = s.hosts := rfl
@[simp] theorem setCtx_heads (c : Nat) (v : CtxSt) : (setCtx s c v).heads = s.heads := rfl
@[simp] theorem setCtx_hull (c : Nat) (v : CtxSt) : (setCtx s c v).hull = s.hull := rfl
@[simp] theorem setCtx_hchans (c : Nat) (v : CtxSt) : (setCtx s c v).hchans = s.hchans := rfl
@[simp] theorem setCtx_pwr (c : Nat) (v : CtxSt) : (setCtx s c v).pwr = s.pwr := rfl
@[simp] theorem setCtx_trc (c : Nat) (v : CtxSt) : (setCtx s c v).trc = s.trc := rfl
@[simp] theorem setCtx_mgt (c : Nat) (v : CtxSt) : (setCtx s c v).mgt = s.mgt := rfl
@[simp] theorem setCtx_latch (c : Nat) (v : CtxSt) : (setCtx s c v).latch = s.latch := rfl
@[simp] theorem pipOf_setCtx (x : Nat) (c : Nat) (v : CtxSt) : pipOf (setCtx s c v) x = pipOf s x := rfl
@[simp] theorem podSt_setCtx (x : Nat) (c : Nat) (v : CtxSt) : podSt (setCtx s c v) x = podSt s x := rfl
@[simp] theorem fieldSt_setCtx (x : Nat) (c : Nat) (v : CtxSt) : fieldSt (setCtx s c v) x = fieldSt s x := rfl
@[simp] theorem partSt_setCtx (x : Nat) (c : Nat) (v : CtxSt) : partSt (setCtx s c v) x = partSt s x := rfl
@[simp] theorem stackSt_setCtx (x : Nat) (c : Nat) (v : CtxSt) : stackSt (setCtx s c v) x = stackSt s x := rfl
@[simp] theorem linkSt_setCtx (x : Nat) (c : Nat) (v : CtxSt) : linkSt (setCtx s c v) x = linkSt s x := rfl
@[simp] theorem chanSt_setCtx (x : Nat) (c : Nat) (v : CtxSt) : chanSt (setCtx s c v) x = chanSt s x := rfl
@[simp] theorem hostSt_setCtx (x : Nat) (c : Nat) (v : CtxSt) : hostSt (setCtx s c v) x = hostSt s x := rfl
@[simp] theorem headSt_setCtx (x : Nat) (c : Nat) (v : CtxSt) : headSt (setCtx s c v) x = headSt s x := rfl
@[simp] theorem hchan_setCtx (x : Nat) (c : Nat) (v : CtxSt) : hchan (setCtx s c v) x = hchan s x := rfl
@[simp] theorem syncVal_setCtx (x : Nat) (c : Nat) (v : CtxSt) : syncVal (setCtx s c v) x = syncVal s x := rfl

/-! ### setPart -/

@[simp] theorem setPart_pending (n : Nat) (v : PartSt) : (setPart s n v).pending = s.pending := rfl
@[simp] theorem setPart_free (n : Nat) (v : PartSt) : (setPart s n v).free = s.free := rfl
@[simp] theorem setPart_out (n : Nat) (v : PartSt) : (setPart s n v).out = s.out := rfl
@[simp] theorem setPart_cycle (n : Nat) (v : PartSt) : (setPart s n v).cycle = s.cycle := rfl
@[simp] theorem setPart_timeOff (n : Nat) (v : PartSt) : (setPart s n v).timeOff = s.timeOff := rfl
@[simp] theorem setPart_nvm (n : Nat) (v : PartSt) : (setPart s n v).nvm = s.nvm := rfl
@[simp] theorem setPart_boot (n : Nat) (v : PartSt) : (setPart s n v).boot = s.boot := rfl
@[simp] theorem setPart_mod (n : Nat) (v : PartSt) : (setPart s n v).mod = s.mod := rfl
@[simp] theorem setPart_flt (n : Nat) (v : PartSt) : (setPart s n v).flt = s.flt := rfl
@[simp] theorem setPart_ctxs (n : Nat) (v : PartSt) : (setPart s n v).ctxs = s.ctxs := rfl
@[simp] theorem setPart_cmds (n : Nat) (v : PartSt) : (setPart s n v).cmds = s.cmds := rfl
@[simp] theorem setPart_jobs (n : Nat) (v : PartSt) : (setPart s n v).jobs = s.jobs := rfl
@[simp] theorem setPart_nextId (n : Nat) (v : PartSt) : (setPart s n v).nextId = s.nextId := rfl
@[simp] theorem setPart_syncs (n : Nat) (v : PartSt) : (setPart s n v).syncs = s.syncs := rfl
@[simp] theorem setPart_adds (n : Nat) (v : PartSt) : (setPart s n v).adds = s.adds := rfl
@[simp] theorem setPart_lateAdds (n : Nat) (v : PartSt) : (setPart s n v).lateAdds = s.lateAdds := rfl
@[simp] theorem setPart_fields (n : Nat) (v : PartSt) : (setPart s n v).fields = s.fields := rfl
@[simp] theorem setPart_pods (n : Nat) (v : PartSt) : (setPart s n v).pods = s.pods := rfl
@[simp] theorem setPart_pips (n : Nat) (v : PartSt) : (setPart s n v).pips = s.pips := rfl
@[simp] theorem setPart_hbm (n : Nat) (v : PartSt) : (setPart s n v).hbm = s.hbm := rfl
@[simp] theorem setPart_hbmFlips (n : Nat) (v : PartSt) : (setPart s n v).hbmFlips = s.hbmFlips := rfl
@[simp] theorem setPart_granules (n : Nat) (v : PartSt) : (setPart s n v).granules = s.granules := rfl
@[simp] theorem setPart_sgranules (n : Nat) (v : PartSt) : (setPart s n v).sgranules = s.sgranules := rfl
@[simp] theorem setPart_staging (n : Nat) (v : PartSt) : (setPart s n v).staging = s.staging := rfl
@[simp] theorem setPart_stgFlips (n : Nat) (v : PartSt) : (setPart s n v).stgFlips = s.stgFlips := rfl
@[simp] theorem setPart_hstacks (n : Nat) (v : PartSt) : (setPart s n v).hstacks = s.hstacks := rfl
@[simp] theorem setPart_flight (n : Nat) (v : PartSt) : (setPart s n v).flight = s.flight := rfl
@[simp] theorem setPart_hostq (n : Nat) (v : PartSt) : (setPart s n v).hostq = s.hostq := rfl
@[simp] theorem setPart_lnk (n : Nat) (v : PartSt) : (setPart s n v).lnk = s.lnk := rfl
@[simp] theorem setPart_links (n : Nat) (v : PartSt) : (setPart s n v).links = s.links := rfl
@[simp] theorem setPart_chans (n : Nat) (v : PartSt) : (setPart s n v).chans = s.chans := rfl
@[simp] theorem setPart_cxl (n : Nat) (v : PartSt) : (setPart s n v).cxl = s.cxl := rfl
@[simp] theorem setPart_hosts (n : Nat) (v : PartSt) : (setPart s n v).hosts = s.hosts := rfl
@[simp] theorem setPart_heads (n : Nat) (v : PartSt) : (setPart s n v).heads = s.heads := rfl
@[simp] theorem setPart_hull (n : Nat) (v : PartSt) : (setPart s n v).hull = s.hull := rfl
@[simp] theorem setPart_hchans (n : Nat) (v : PartSt) : (setPart s n v).hchans = s.hchans := rfl
@[simp] theorem setPart_pwr (n : Nat) (v : PartSt) : (setPart s n v).pwr = s.pwr := rfl
@[simp] theorem setPart_trc (n : Nat) (v : PartSt) : (setPart s n v).trc = s.trc := rfl
@[simp] theorem setPart_mgt (n : Nat) (v : PartSt) : (setPart s n v).mgt = s.mgt := rfl
@[simp] theorem setPart_latch (n : Nat) (v : PartSt) : (setPart s n v).latch = s.latch := rfl
@[simp] theorem pipOf_setPart (x : Nat) (n : Nat) (v : PartSt) : pipOf (setPart s n v) x = pipOf s x := rfl
@[simp] theorem podSt_setPart (x : Nat) (n : Nat) (v : PartSt) : podSt (setPart s n v) x = podSt s x := rfl
@[simp] theorem fieldSt_setPart (x : Nat) (n : Nat) (v : PartSt) : fieldSt (setPart s n v) x = fieldSt s x := rfl
@[simp] theorem ctxSt_setPart (x : Nat) (n : Nat) (v : PartSt) : ctxSt (setPart s n v) x = ctxSt s x := rfl
@[simp] theorem stackSt_setPart (x : Nat) (n : Nat) (v : PartSt) : stackSt (setPart s n v) x = stackSt s x := rfl
@[simp] theorem linkSt_setPart (x : Nat) (n : Nat) (v : PartSt) : linkSt (setPart s n v) x = linkSt s x := rfl
@[simp] theorem chanSt_setPart (x : Nat) (n : Nat) (v : PartSt) : chanSt (setPart s n v) x = chanSt s x := rfl
@[simp] theorem hostSt_setPart (x : Nat) (n : Nat) (v : PartSt) : hostSt (setPart s n v) x = hostSt s x := rfl
@[simp] theorem headSt_setPart (x : Nat) (n : Nat) (v : PartSt) : headSt (setPart s n v) x = headSt s x := rfl
@[simp] theorem hchan_setPart (x : Nat) (n : Nat) (v : PartSt) : hchan (setPart s n v) x = hchan s x := rfl
@[simp] theorem syncVal_setPart (x : Nat) (n : Nat) (v : PartSt) : syncVal (setPart s n v) x = syncVal s x := rfl

/-! ### setStack -/

@[simp] theorem setStack_pending (k : Nat) (v : StackSt) : (setStack s k v).pending = s.pending := rfl
@[simp] theorem setStack_free (k : Nat) (v : StackSt) : (setStack s k v).free = s.free := rfl
@[simp] theorem setStack_out (k : Nat) (v : StackSt) : (setStack s k v).out = s.out := rfl
@[simp] theorem setStack_cycle (k : Nat) (v : StackSt) : (setStack s k v).cycle = s.cycle := rfl
@[simp] theorem setStack_timeOff (k : Nat) (v : StackSt) : (setStack s k v).timeOff = s.timeOff := rfl
@[simp] theorem setStack_nvm (k : Nat) (v : StackSt) : (setStack s k v).nvm = s.nvm := rfl
@[simp] theorem setStack_boot (k : Nat) (v : StackSt) : (setStack s k v).boot = s.boot := rfl
@[simp] theorem setStack_mod (k : Nat) (v : StackSt) : (setStack s k v).mod = s.mod := rfl
@[simp] theorem setStack_flt (k : Nat) (v : StackSt) : (setStack s k v).flt = s.flt := rfl
@[simp] theorem setStack_parts (k : Nat) (v : StackSt) : (setStack s k v).parts = s.parts := rfl
@[simp] theorem setStack_ctxs (k : Nat) (v : StackSt) : (setStack s k v).ctxs = s.ctxs := rfl
@[simp] theorem setStack_cmds (k : Nat) (v : StackSt) : (setStack s k v).cmds = s.cmds := rfl
@[simp] theorem setStack_jobs (k : Nat) (v : StackSt) : (setStack s k v).jobs = s.jobs := rfl
@[simp] theorem setStack_nextId (k : Nat) (v : StackSt) : (setStack s k v).nextId = s.nextId := rfl
@[simp] theorem setStack_syncs (k : Nat) (v : StackSt) : (setStack s k v).syncs = s.syncs := rfl
@[simp] theorem setStack_adds (k : Nat) (v : StackSt) : (setStack s k v).adds = s.adds := rfl
@[simp] theorem setStack_lateAdds (k : Nat) (v : StackSt) : (setStack s k v).lateAdds = s.lateAdds := rfl
@[simp] theorem setStack_fields (k : Nat) (v : StackSt) : (setStack s k v).fields = s.fields := rfl
@[simp] theorem setStack_pods (k : Nat) (v : StackSt) : (setStack s k v).pods = s.pods := rfl
@[simp] theorem setStack_pips (k : Nat) (v : StackSt) : (setStack s k v).pips = s.pips := rfl
@[simp] theorem setStack_hbm (k : Nat) (v : StackSt) : (setStack s k v).hbm = s.hbm := rfl
@[simp] theorem setStack_hbmFlips (k : Nat) (v : StackSt) : (setStack s k v).hbmFlips = s.hbmFlips := rfl
@[simp] theorem setStack_granules (k : Nat) (v : StackSt) : (setStack s k v).granules = s.granules := rfl
@[simp] theorem setStack_sgranules (k : Nat) (v : StackSt) : (setStack s k v).sgranules = s.sgranules := rfl
@[simp] theorem setStack_staging (k : Nat) (v : StackSt) : (setStack s k v).staging = s.staging := rfl
@[simp] theorem setStack_stgFlips (k : Nat) (v : StackSt) : (setStack s k v).stgFlips = s.stgFlips := rfl
@[simp] theorem setStack_flight (k : Nat) (v : StackSt) : (setStack s k v).flight = s.flight := rfl
@[simp] theorem setStack_hostq (k : Nat) (v : StackSt) : (setStack s k v).hostq = s.hostq := rfl
@[simp] theorem setStack_lnk (k : Nat) (v : StackSt) : (setStack s k v).lnk = s.lnk := rfl
@[simp] theorem setStack_links (k : Nat) (v : StackSt) : (setStack s k v).links = s.links := rfl
@[simp] theorem setStack_chans (k : Nat) (v : StackSt) : (setStack s k v).chans = s.chans := rfl
@[simp] theorem setStack_cxl (k : Nat) (v : StackSt) : (setStack s k v).cxl = s.cxl := rfl
@[simp] theorem setStack_hosts (k : Nat) (v : StackSt) : (setStack s k v).hosts = s.hosts := rfl
@[simp] theorem setStack_heads (k : Nat) (v : StackSt) : (setStack s k v).heads = s.heads := rfl
@[simp] theorem setStack_hull (k : Nat) (v : StackSt) : (setStack s k v).hull = s.hull := rfl
@[simp] theorem setStack_hchans (k : Nat) (v : StackSt) : (setStack s k v).hchans = s.hchans := rfl
@[simp] theorem setStack_pwr (k : Nat) (v : StackSt) : (setStack s k v).pwr = s.pwr := rfl
@[simp] theorem setStack_trc (k : Nat) (v : StackSt) : (setStack s k v).trc = s.trc := rfl
@[simp] theorem setStack_mgt (k : Nat) (v : StackSt) : (setStack s k v).mgt = s.mgt := rfl
@[simp] theorem setStack_latch (k : Nat) (v : StackSt) : (setStack s k v).latch = s.latch := rfl
@[simp] theorem pipOf_setStack (x : Nat) (k : Nat) (v : StackSt) : pipOf (setStack s k v) x = pipOf s x := rfl
@[simp] theorem podSt_setStack (x : Nat) (k : Nat) (v : StackSt) : podSt (setStack s k v) x = podSt s x := rfl
@[simp] theorem fieldSt_setStack (x : Nat) (k : Nat) (v : StackSt) : fieldSt (setStack s k v) x = fieldSt s x := rfl
@[simp] theorem ctxSt_setStack (x : Nat) (k : Nat) (v : StackSt) : ctxSt (setStack s k v) x = ctxSt s x := rfl
@[simp] theorem partSt_setStack (x : Nat) (k : Nat) (v : StackSt) : partSt (setStack s k v) x = partSt s x := rfl
@[simp] theorem linkSt_setStack (x : Nat) (k : Nat) (v : StackSt) : linkSt (setStack s k v) x = linkSt s x := rfl
@[simp] theorem chanSt_setStack (x : Nat) (k : Nat) (v : StackSt) : chanSt (setStack s k v) x = chanSt s x := rfl
@[simp] theorem hostSt_setStack (x : Nat) (k : Nat) (v : StackSt) : hostSt (setStack s k v) x = hostSt s x := rfl
@[simp] theorem headSt_setStack (x : Nat) (k : Nat) (v : StackSt) : headSt (setStack s k v) x = headSt s x := rfl
@[simp] theorem hchan_setStack (x : Nat) (k : Nat) (v : StackSt) : hchan (setStack s k v) x = hchan s x := rfl
@[simp] theorem syncVal_setStack (x : Nat) (k : Nat) (v : StackSt) : syncVal (setStack s k v) x = syncVal s x := rfl

/-! ### setLink -/

@[simp] theorem setLink_pending (l : Nat) (v : LinkSt) : (setLink s l v).pending = s.pending := rfl
@[simp] theorem setLink_free (l : Nat) (v : LinkSt) : (setLink s l v).free = s.free := rfl
@[simp] theorem setLink_out (l : Nat) (v : LinkSt) : (setLink s l v).out = s.out := rfl
@[simp] theorem setLink_cycle (l : Nat) (v : LinkSt) : (setLink s l v).cycle = s.cycle := rfl
@[simp] theorem setLink_timeOff (l : Nat) (v : LinkSt) : (setLink s l v).timeOff = s.timeOff := rfl
@[simp] theorem setLink_nvm (l : Nat) (v : LinkSt) : (setLink s l v).nvm = s.nvm := rfl
@[simp] theorem setLink_boot (l : Nat) (v : LinkSt) : (setLink s l v).boot = s.boot := rfl
@[simp] theorem setLink_mod (l : Nat) (v : LinkSt) : (setLink s l v).mod = s.mod := rfl
@[simp] theorem setLink_flt (l : Nat) (v : LinkSt) : (setLink s l v).flt = s.flt := rfl
@[simp] theorem setLink_parts (l : Nat) (v : LinkSt) : (setLink s l v).parts = s.parts := rfl
@[simp] theorem setLink_ctxs (l : Nat) (v : LinkSt) : (setLink s l v).ctxs = s.ctxs := rfl
@[simp] theorem setLink_cmds (l : Nat) (v : LinkSt) : (setLink s l v).cmds = s.cmds := rfl
@[simp] theorem setLink_jobs (l : Nat) (v : LinkSt) : (setLink s l v).jobs = s.jobs := rfl
@[simp] theorem setLink_nextId (l : Nat) (v : LinkSt) : (setLink s l v).nextId = s.nextId := rfl
@[simp] theorem setLink_syncs (l : Nat) (v : LinkSt) : (setLink s l v).syncs = s.syncs := rfl
@[simp] theorem setLink_adds (l : Nat) (v : LinkSt) : (setLink s l v).adds = s.adds := rfl
@[simp] theorem setLink_lateAdds (l : Nat) (v : LinkSt) : (setLink s l v).lateAdds = s.lateAdds := rfl
@[simp] theorem setLink_fields (l : Nat) (v : LinkSt) : (setLink s l v).fields = s.fields := rfl
@[simp] theorem setLink_pods (l : Nat) (v : LinkSt) : (setLink s l v).pods = s.pods := rfl
@[simp] theorem setLink_pips (l : Nat) (v : LinkSt) : (setLink s l v).pips = s.pips := rfl
@[simp] theorem setLink_hbm (l : Nat) (v : LinkSt) : (setLink s l v).hbm = s.hbm := rfl
@[simp] theorem setLink_hbmFlips (l : Nat) (v : LinkSt) : (setLink s l v).hbmFlips = s.hbmFlips := rfl
@[simp] theorem setLink_granules (l : Nat) (v : LinkSt) : (setLink s l v).granules = s.granules := rfl
@[simp] theorem setLink_sgranules (l : Nat) (v : LinkSt) : (setLink s l v).sgranules = s.sgranules := rfl
@[simp] theorem setLink_staging (l : Nat) (v : LinkSt) : (setLink s l v).staging = s.staging := rfl
@[simp] theorem setLink_stgFlips (l : Nat) (v : LinkSt) : (setLink s l v).stgFlips = s.stgFlips := rfl
@[simp] theorem setLink_hstacks (l : Nat) (v : LinkSt) : (setLink s l v).hstacks = s.hstacks := rfl
@[simp] theorem setLink_flight (l : Nat) (v : LinkSt) : (setLink s l v).flight = s.flight := rfl
@[simp] theorem setLink_hostq (l : Nat) (v : LinkSt) : (setLink s l v).hostq = s.hostq := rfl
@[simp] theorem setLink_lnk (l : Nat) (v : LinkSt) : (setLink s l v).lnk = s.lnk := rfl
@[simp] theorem setLink_chans (l : Nat) (v : LinkSt) : (setLink s l v).chans = s.chans := rfl
@[simp] theorem setLink_cxl (l : Nat) (v : LinkSt) : (setLink s l v).cxl = s.cxl := rfl
@[simp] theorem setLink_hosts (l : Nat) (v : LinkSt) : (setLink s l v).hosts = s.hosts := rfl
@[simp] theorem setLink_heads (l : Nat) (v : LinkSt) : (setLink s l v).heads = s.heads := rfl
@[simp] theorem setLink_hull (l : Nat) (v : LinkSt) : (setLink s l v).hull = s.hull := rfl
@[simp] theorem setLink_hchans (l : Nat) (v : LinkSt) : (setLink s l v).hchans = s.hchans := rfl
@[simp] theorem setLink_pwr (l : Nat) (v : LinkSt) : (setLink s l v).pwr = s.pwr := rfl
@[simp] theorem setLink_trc (l : Nat) (v : LinkSt) : (setLink s l v).trc = s.trc := rfl
@[simp] theorem setLink_mgt (l : Nat) (v : LinkSt) : (setLink s l v).mgt = s.mgt := rfl
@[simp] theorem setLink_latch (l : Nat) (v : LinkSt) : (setLink s l v).latch = s.latch := rfl
@[simp] theorem pipOf_setLink (x : Nat) (l : Nat) (v : LinkSt) : pipOf (setLink s l v) x = pipOf s x := rfl
@[simp] theorem podSt_setLink (x : Nat) (l : Nat) (v : LinkSt) : podSt (setLink s l v) x = podSt s x := rfl
@[simp] theorem fieldSt_setLink (x : Nat) (l : Nat) (v : LinkSt) : fieldSt (setLink s l v) x = fieldSt s x := rfl
@[simp] theorem ctxSt_setLink (x : Nat) (l : Nat) (v : LinkSt) : ctxSt (setLink s l v) x = ctxSt s x := rfl
@[simp] theorem partSt_setLink (x : Nat) (l : Nat) (v : LinkSt) : partSt (setLink s l v) x = partSt s x := rfl
@[simp] theorem stackSt_setLink (x : Nat) (l : Nat) (v : LinkSt) : stackSt (setLink s l v) x = stackSt s x := rfl
@[simp] theorem chanSt_setLink (x : Nat) (l : Nat) (v : LinkSt) : chanSt (setLink s l v) x = chanSt s x := rfl
@[simp] theorem hostSt_setLink (x : Nat) (l : Nat) (v : LinkSt) : hostSt (setLink s l v) x = hostSt s x := rfl
@[simp] theorem headSt_setLink (x : Nat) (l : Nat) (v : LinkSt) : headSt (setLink s l v) x = headSt s x := rfl
@[simp] theorem hchan_setLink (x : Nat) (l : Nat) (v : LinkSt) : hchan (setLink s l v) x = hchan s x := rfl
@[simp] theorem syncVal_setLink (x : Nat) (l : Nat) (v : LinkSt) : syncVal (setLink s l v) x = syncVal s x := rfl

/-! ### setChan -/

@[simp] theorem setChan_pending (c : Nat) (v : ChanSt) : (setChan s c v).pending = s.pending := rfl
@[simp] theorem setChan_free (c : Nat) (v : ChanSt) : (setChan s c v).free = s.free := rfl
@[simp] theorem setChan_out (c : Nat) (v : ChanSt) : (setChan s c v).out = s.out := rfl
@[simp] theorem setChan_cycle (c : Nat) (v : ChanSt) : (setChan s c v).cycle = s.cycle := rfl
@[simp] theorem setChan_timeOff (c : Nat) (v : ChanSt) : (setChan s c v).timeOff = s.timeOff := rfl
@[simp] theorem setChan_nvm (c : Nat) (v : ChanSt) : (setChan s c v).nvm = s.nvm := rfl
@[simp] theorem setChan_boot (c : Nat) (v : ChanSt) : (setChan s c v).boot = s.boot := rfl
@[simp] theorem setChan_mod (c : Nat) (v : ChanSt) : (setChan s c v).mod = s.mod := rfl
@[simp] theorem setChan_flt (c : Nat) (v : ChanSt) : (setChan s c v).flt = s.flt := rfl
@[simp] theorem setChan_parts (c : Nat) (v : ChanSt) : (setChan s c v).parts = s.parts := rfl
@[simp] theorem setChan_ctxs (c : Nat) (v : ChanSt) : (setChan s c v).ctxs = s.ctxs := rfl
@[simp] theorem setChan_cmds (c : Nat) (v : ChanSt) : (setChan s c v).cmds = s.cmds := rfl
@[simp] theorem setChan_jobs (c : Nat) (v : ChanSt) : (setChan s c v).jobs = s.jobs := rfl
@[simp] theorem setChan_nextId (c : Nat) (v : ChanSt) : (setChan s c v).nextId = s.nextId := rfl
@[simp] theorem setChan_syncs (c : Nat) (v : ChanSt) : (setChan s c v).syncs = s.syncs := rfl
@[simp] theorem setChan_adds (c : Nat) (v : ChanSt) : (setChan s c v).adds = s.adds := rfl
@[simp] theorem setChan_lateAdds (c : Nat) (v : ChanSt) : (setChan s c v).lateAdds = s.lateAdds := rfl
@[simp] theorem setChan_fields (c : Nat) (v : ChanSt) : (setChan s c v).fields = s.fields := rfl
@[simp] theorem setChan_pods (c : Nat) (v : ChanSt) : (setChan s c v).pods = s.pods := rfl
@[simp] theorem setChan_pips (c : Nat) (v : ChanSt) : (setChan s c v).pips = s.pips := rfl
@[simp] theorem setChan_hbm (c : Nat) (v : ChanSt) : (setChan s c v).hbm = s.hbm := rfl
@[simp] theorem setChan_hbmFlips (c : Nat) (v : ChanSt) : (setChan s c v).hbmFlips = s.hbmFlips := rfl
@[simp] theorem setChan_granules (c : Nat) (v : ChanSt) : (setChan s c v).granules = s.granules := rfl
@[simp] theorem setChan_sgranules (c : Nat) (v : ChanSt) : (setChan s c v).sgranules = s.sgranules := rfl
@[simp] theorem setChan_staging (c : Nat) (v : ChanSt) : (setChan s c v).staging = s.staging := rfl
@[simp] theorem setChan_stgFlips (c : Nat) (v : ChanSt) : (setChan s c v).stgFlips = s.stgFlips := rfl
@[simp] theorem setChan_hstacks (c : Nat) (v : ChanSt) : (setChan s c v).hstacks = s.hstacks := rfl
@[simp] theorem setChan_flight (c : Nat) (v : ChanSt) : (setChan s c v).flight = s.flight := rfl
@[simp] theorem setChan_hostq (c : Nat) (v : ChanSt) : (setChan s c v).hostq = s.hostq := rfl
@[simp] theorem setChan_lnk (c : Nat) (v : ChanSt) : (setChan s c v).lnk = s.lnk := rfl
@[simp] theorem setChan_links (c : Nat) (v : ChanSt) : (setChan s c v).links = s.links := rfl
@[simp] theorem setChan_cxl (c : Nat) (v : ChanSt) : (setChan s c v).cxl = s.cxl := rfl
@[simp] theorem setChan_hosts (c : Nat) (v : ChanSt) : (setChan s c v).hosts = s.hosts := rfl
@[simp] theorem setChan_heads (c : Nat) (v : ChanSt) : (setChan s c v).heads = s.heads := rfl
@[simp] theorem setChan_hull (c : Nat) (v : ChanSt) : (setChan s c v).hull = s.hull := rfl
@[simp] theorem setChan_hchans (c : Nat) (v : ChanSt) : (setChan s c v).hchans = s.hchans := rfl
@[simp] theorem setChan_pwr (c : Nat) (v : ChanSt) : (setChan s c v).pwr = s.pwr := rfl
@[simp] theorem setChan_trc (c : Nat) (v : ChanSt) : (setChan s c v).trc = s.trc := rfl
@[simp] theorem setChan_mgt (c : Nat) (v : ChanSt) : (setChan s c v).mgt = s.mgt := rfl
@[simp] theorem setChan_latch (c : Nat) (v : ChanSt) : (setChan s c v).latch = s.latch := rfl
@[simp] theorem pipOf_setChan (x : Nat) (c : Nat) (v : ChanSt) : pipOf (setChan s c v) x = pipOf s x := rfl
@[simp] theorem podSt_setChan (x : Nat) (c : Nat) (v : ChanSt) : podSt (setChan s c v) x = podSt s x := rfl
@[simp] theorem fieldSt_setChan (x : Nat) (c : Nat) (v : ChanSt) : fieldSt (setChan s c v) x = fieldSt s x := rfl
@[simp] theorem ctxSt_setChan (x : Nat) (c : Nat) (v : ChanSt) : ctxSt (setChan s c v) x = ctxSt s x := rfl
@[simp] theorem partSt_setChan (x : Nat) (c : Nat) (v : ChanSt) : partSt (setChan s c v) x = partSt s x := rfl
@[simp] theorem stackSt_setChan (x : Nat) (c : Nat) (v : ChanSt) : stackSt (setChan s c v) x = stackSt s x := rfl
@[simp] theorem linkSt_setChan (x : Nat) (c : Nat) (v : ChanSt) : linkSt (setChan s c v) x = linkSt s x := rfl
@[simp] theorem hostSt_setChan (x : Nat) (c : Nat) (v : ChanSt) : hostSt (setChan s c v) x = hostSt s x := rfl
@[simp] theorem headSt_setChan (x : Nat) (c : Nat) (v : ChanSt) : headSt (setChan s c v) x = headSt s x := rfl
@[simp] theorem hchan_setChan (x : Nat) (c : Nat) (v : ChanSt) : hchan (setChan s c v) x = hchan s x := rfl
@[simp] theorem syncVal_setChan (x : Nat) (c : Nat) (v : ChanSt) : syncVal (setChan s c v) x = syncVal s x := rfl

/-! ### setHost -/

@[simp] theorem setHost_pending (h : Nat) (v : HostSt) : (setHost s h v).pending = s.pending := rfl
@[simp] theorem setHost_free (h : Nat) (v : HostSt) : (setHost s h v).free = s.free := rfl
@[simp] theorem setHost_out (h : Nat) (v : HostSt) : (setHost s h v).out = s.out := rfl
@[simp] theorem setHost_cycle (h : Nat) (v : HostSt) : (setHost s h v).cycle = s.cycle := rfl
@[simp] theorem setHost_timeOff (h : Nat) (v : HostSt) : (setHost s h v).timeOff = s.timeOff := rfl
@[simp] theorem setHost_nvm (h : Nat) (v : HostSt) : (setHost s h v).nvm = s.nvm := rfl
@[simp] theorem setHost_boot (h : Nat) (v : HostSt) : (setHost s h v).boot = s.boot := rfl
@[simp] theorem setHost_mod (h : Nat) (v : HostSt) : (setHost s h v).mod = s.mod := rfl
@[simp] theorem setHost_flt (h : Nat) (v : HostSt) : (setHost s h v).flt = s.flt := rfl
@[simp] theorem setHost_parts (h : Nat) (v : HostSt) : (setHost s h v).parts = s.parts := rfl
@[simp] theorem setHost_ctxs (h : Nat) (v : HostSt) : (setHost s h v).ctxs = s.ctxs := rfl
@[simp] theorem setHost_cmds (h : Nat) (v : HostSt) : (setHost s h v).cmds = s.cmds := rfl
@[simp] theorem setHost_jobs (h : Nat) (v : HostSt) : (setHost s h v).jobs = s.jobs := rfl
@[simp] theorem setHost_nextId (h : Nat) (v : HostSt) : (setHost s h v).nextId = s.nextId := rfl
@[simp] theorem setHost_syncs (h : Nat) (v : HostSt) : (setHost s h v).syncs = s.syncs := rfl
@[simp] theorem setHost_adds (h : Nat) (v : HostSt) : (setHost s h v).adds = s.adds := rfl
@[simp] theorem setHost_lateAdds (h : Nat) (v : HostSt) : (setHost s h v).lateAdds = s.lateAdds := rfl
@[simp] theorem setHost_fields (h : Nat) (v : HostSt) : (setHost s h v).fields = s.fields := rfl
@[simp] theorem setHost_pods (h : Nat) (v : HostSt) : (setHost s h v).pods = s.pods := rfl
@[simp] theorem setHost_pips (h : Nat) (v : HostSt) : (setHost s h v).pips = s.pips := rfl
@[simp] theorem setHost_hbm (h : Nat) (v : HostSt) : (setHost s h v).hbm = s.hbm := rfl
@[simp] theorem setHost_hbmFlips (h : Nat) (v : HostSt) : (setHost s h v).hbmFlips = s.hbmFlips := rfl
@[simp] theorem setHost_granules (h : Nat) (v : HostSt) : (setHost s h v).granules = s.granules := rfl
@[simp] theorem setHost_sgranules (h : Nat) (v : HostSt) : (setHost s h v).sgranules = s.sgranules := rfl
@[simp] theorem setHost_staging (h : Nat) (v : HostSt) : (setHost s h v).staging = s.staging := rfl
@[simp] theorem setHost_stgFlips (h : Nat) (v : HostSt) : (setHost s h v).stgFlips = s.stgFlips := rfl
@[simp] theorem setHost_hstacks (h : Nat) (v : HostSt) : (setHost s h v).hstacks = s.hstacks := rfl
@[simp] theorem setHost_flight (h : Nat) (v : HostSt) : (setHost s h v).flight = s.flight := rfl
@[simp] theorem setHost_hostq (h : Nat) (v : HostSt) : (setHost s h v).hostq = s.hostq := rfl
@[simp] theorem setHost_lnk (h : Nat) (v : HostSt) : (setHost s h v).lnk = s.lnk := rfl
@[simp] theorem setHost_links (h : Nat) (v : HostSt) : (setHost s h v).links = s.links := rfl
@[simp] theorem setHost_chans (h : Nat) (v : HostSt) : (setHost s h v).chans = s.chans := rfl
@[simp] theorem setHost_cxl (h : Nat) (v : HostSt) : (setHost s h v).cxl = s.cxl := rfl
@[simp] theorem setHost_heads (h : Nat) (v : HostSt) : (setHost s h v).heads = s.heads := rfl
@[simp] theorem setHost_hull (h : Nat) (v : HostSt) : (setHost s h v).hull = s.hull := rfl
@[simp] theorem setHost_hchans (h : Nat) (v : HostSt) : (setHost s h v).hchans = s.hchans := rfl
@[simp] theorem setHost_pwr (h : Nat) (v : HostSt) : (setHost s h v).pwr = s.pwr := rfl
@[simp] theorem setHost_trc (h : Nat) (v : HostSt) : (setHost s h v).trc = s.trc := rfl
@[simp] theorem setHost_mgt (h : Nat) (v : HostSt) : (setHost s h v).mgt = s.mgt := rfl
@[simp] theorem setHost_latch (h : Nat) (v : HostSt) : (setHost s h v).latch = s.latch := rfl
@[simp] theorem pipOf_setHost (x : Nat) (h : Nat) (v : HostSt) : pipOf (setHost s h v) x = pipOf s x := rfl
@[simp] theorem podSt_setHost (x : Nat) (h : Nat) (v : HostSt) : podSt (setHost s h v) x = podSt s x := rfl
@[simp] theorem fieldSt_setHost (x : Nat) (h : Nat) (v : HostSt) : fieldSt (setHost s h v) x = fieldSt s x := rfl
@[simp] theorem ctxSt_setHost (x : Nat) (h : Nat) (v : HostSt) : ctxSt (setHost s h v) x = ctxSt s x := rfl
@[simp] theorem partSt_setHost (x : Nat) (h : Nat) (v : HostSt) : partSt (setHost s h v) x = partSt s x := rfl
@[simp] theorem stackSt_setHost (x : Nat) (h : Nat) (v : HostSt) : stackSt (setHost s h v) x = stackSt s x := rfl
@[simp] theorem linkSt_setHost (x : Nat) (h : Nat) (v : HostSt) : linkSt (setHost s h v) x = linkSt s x := rfl
@[simp] theorem chanSt_setHost (x : Nat) (h : Nat) (v : HostSt) : chanSt (setHost s h v) x = chanSt s x := rfl
@[simp] theorem headSt_setHost (x : Nat) (h : Nat) (v : HostSt) : headSt (setHost s h v) x = headSt s x := rfl
@[simp] theorem hchan_setHost (x : Nat) (h : Nat) (v : HostSt) : hchan (setHost s h v) x = hchan s x := rfl
@[simp] theorem syncVal_setHost (x : Nat) (h : Nat) (v : HostSt) : syncVal (setHost s h v) x = syncVal s x := rfl

/-! ### setHead -/

@[simp] theorem setHead_pending (h : Nat) (v : HeadSt) : (setHead s h v).pending = s.pending := rfl
@[simp] theorem setHead_free (h : Nat) (v : HeadSt) : (setHead s h v).free = s.free := rfl
@[simp] theorem setHead_out (h : Nat) (v : HeadSt) : (setHead s h v).out = s.out := rfl
@[simp] theorem setHead_cycle (h : Nat) (v : HeadSt) : (setHead s h v).cycle = s.cycle := rfl
@[simp] theorem setHead_timeOff (h : Nat) (v : HeadSt) : (setHead s h v).timeOff = s.timeOff := rfl
@[simp] theorem setHead_nvm (h : Nat) (v : HeadSt) : (setHead s h v).nvm = s.nvm := rfl
@[simp] theorem setHead_boot (h : Nat) (v : HeadSt) : (setHead s h v).boot = s.boot := rfl
@[simp] theorem setHead_mod (h : Nat) (v : HeadSt) : (setHead s h v).mod = s.mod := rfl
@[simp] theorem setHead_flt (h : Nat) (v : HeadSt) : (setHead s h v).flt = s.flt := rfl
@[simp] theorem setHead_parts (h : Nat) (v : HeadSt) : (setHead s h v).parts = s.parts := rfl
@[simp] theorem setHead_ctxs (h : Nat) (v : HeadSt) : (setHead s h v).ctxs = s.ctxs := rfl
@[simp] theorem setHead_cmds (h : Nat) (v : HeadSt) : (setHead s h v).cmds = s.cmds := rfl
@[simp] theorem setHead_jobs (h : Nat) (v : HeadSt) : (setHead s h v).jobs = s.jobs := rfl
@[simp] theorem setHead_nextId (h : Nat) (v : HeadSt) : (setHead s h v).nextId = s.nextId := rfl
@[simp] theorem setHead_syncs (h : Nat) (v : HeadSt) : (setHead s h v).syncs = s.syncs := rfl
@[simp] theorem setHead_adds (h : Nat) (v : HeadSt) : (setHead s h v).adds = s.adds := rfl
@[simp] theorem setHead_lateAdds (h : Nat) (v : HeadSt) : (setHead s h v).lateAdds = s.lateAdds := rfl
@[simp] theorem setHead_fields (h : Nat) (v : HeadSt) : (setHead s h v).fields = s.fields := rfl
@[simp] theorem setHead_pods (h : Nat) (v : HeadSt) : (setHead s h v).pods = s.pods := rfl
@[simp] theorem setHead_pips (h : Nat) (v : HeadSt) : (setHead s h v).pips = s.pips := rfl
@[simp] theorem setHead_hbm (h : Nat) (v : HeadSt) : (setHead s h v).hbm = s.hbm := rfl
@[simp] theorem setHead_hbmFlips (h : Nat) (v : HeadSt) : (setHead s h v).hbmFlips = s.hbmFlips := rfl
@[simp] theorem setHead_granules (h : Nat) (v : HeadSt) : (setHead s h v).granules = s.granules := rfl
@[simp] theorem setHead_sgranules (h : Nat) (v : HeadSt) : (setHead s h v).sgranules = s.sgranules := rfl
@[simp] theorem setHead_staging (h : Nat) (v : HeadSt) : (setHead s h v).staging = s.staging := rfl
@[simp] theorem setHead_stgFlips (h : Nat) (v : HeadSt) : (setHead s h v).stgFlips = s.stgFlips := rfl
@[simp] theorem setHead_hstacks (h : Nat) (v : HeadSt) : (setHead s h v).hstacks = s.hstacks := rfl
@[simp] theorem setHead_flight (h : Nat) (v : HeadSt) : (setHead s h v).flight = s.flight := rfl
@[simp] theorem setHead_hostq (h : Nat) (v : HeadSt) : (setHead s h v).hostq = s.hostq := rfl
@[simp] theorem setHead_lnk (h : Nat) (v : HeadSt) : (setHead s h v).lnk = s.lnk := rfl
@[simp] theorem setHead_links (h : Nat) (v : HeadSt) : (setHead s h v).links = s.links := rfl
@[simp] theorem setHead_chans (h : Nat) (v : HeadSt) : (setHead s h v).chans = s.chans := rfl
@[simp] theorem setHead_cxl (h : Nat) (v : HeadSt) : (setHead s h v).cxl = s.cxl := rfl
@[simp] theorem setHead_hosts (h : Nat) (v : HeadSt) : (setHead s h v).hosts = s.hosts := rfl
@[simp] theorem setHead_hull (h : Nat) (v : HeadSt) : (setHead s h v).hull = s.hull := rfl
@[simp] theorem setHead_hchans (h : Nat) (v : HeadSt) : (setHead s h v).hchans = s.hchans := rfl
@[simp] theorem setHead_pwr (h : Nat) (v : HeadSt) : (setHead s h v).pwr = s.pwr := rfl
@[simp] theorem setHead_trc (h : Nat) (v : HeadSt) : (setHead s h v).trc = s.trc := rfl
@[simp] theorem setHead_mgt (h : Nat) (v : HeadSt) : (setHead s h v).mgt = s.mgt := rfl
@[simp] theorem setHead_latch (h : Nat) (v : HeadSt) : (setHead s h v).latch = s.latch := rfl
@[simp] theorem pipOf_setHead (x : Nat) (h : Nat) (v : HeadSt) : pipOf (setHead s h v) x = pipOf s x := rfl
@[simp] theorem podSt_setHead (x : Nat) (h : Nat) (v : HeadSt) : podSt (setHead s h v) x = podSt s x := rfl
@[simp] theorem fieldSt_setHead (x : Nat) (h : Nat) (v : HeadSt) : fieldSt (setHead s h v) x = fieldSt s x := rfl
@[simp] theorem ctxSt_setHead (x : Nat) (h : Nat) (v : HeadSt) : ctxSt (setHead s h v) x = ctxSt s x := rfl
@[simp] theorem partSt_setHead (x : Nat) (h : Nat) (v : HeadSt) : partSt (setHead s h v) x = partSt s x := rfl
@[simp] theorem stackSt_setHead (x : Nat) (h : Nat) (v : HeadSt) : stackSt (setHead s h v) x = stackSt s x := rfl
@[simp] theorem linkSt_setHead (x : Nat) (h : Nat) (v : HeadSt) : linkSt (setHead s h v) x = linkSt s x := rfl
@[simp] theorem chanSt_setHead (x : Nat) (h : Nat) (v : HeadSt) : chanSt (setHead s h v) x = chanSt s x := rfl
@[simp] theorem hostSt_setHead (x : Nat) (h : Nat) (v : HeadSt) : hostSt (setHead s h v) x = hostSt s x := rfl
@[simp] theorem hchan_setHead (x : Nat) (h : Nat) (v : HeadSt) : hchan (setHead s h v) x = hchan s x := rfl
@[simp] theorem syncVal_setHead (x : Nat) (h : Nat) (v : HeadSt) : syncVal (setHead s h v) x = syncVal s x := rfl

/-! ### setHchan -/

@[simp] theorem setHchan_pending (c : Nat) (v : HullChanSt) : (setHchan s c v).pending = s.pending := rfl
@[simp] theorem setHchan_free (c : Nat) (v : HullChanSt) : (setHchan s c v).free = s.free := rfl
@[simp] theorem setHchan_out (c : Nat) (v : HullChanSt) : (setHchan s c v).out = s.out := rfl
@[simp] theorem setHchan_cycle (c : Nat) (v : HullChanSt) : (setHchan s c v).cycle = s.cycle := rfl
@[simp] theorem setHchan_timeOff (c : Nat) (v : HullChanSt) : (setHchan s c v).timeOff = s.timeOff := rfl
@[simp] theorem setHchan_nvm (c : Nat) (v : HullChanSt) : (setHchan s c v).nvm = s.nvm := rfl
@[simp] theorem setHchan_boot (c : Nat) (v : HullChanSt) : (setHchan s c v).boot = s.boot := rfl
@[simp] theorem setHchan_mod (c : Nat) (v : HullChanSt) : (setHchan s c v).mod = s.mod := rfl
@[simp] theorem setHchan_flt (c : Nat) (v : HullChanSt) : (setHchan s c v).flt = s.flt := rfl
@[simp] theorem setHchan_parts (c : Nat) (v : HullChanSt) : (setHchan s c v).parts = s.parts := rfl
@[simp] theorem setHchan_ctxs (c : Nat) (v : HullChanSt) : (setHchan s c v).ctxs = s.ctxs := rfl
@[simp] theorem setHchan_cmds (c : Nat) (v : HullChanSt) : (setHchan s c v).cmds = s.cmds := rfl
@[simp] theorem setHchan_jobs (c : Nat) (v : HullChanSt) : (setHchan s c v).jobs = s.jobs := rfl
@[simp] theorem setHchan_nextId (c : Nat) (v : HullChanSt) : (setHchan s c v).nextId = s.nextId := rfl
@[simp] theorem setHchan_syncs (c : Nat) (v : HullChanSt) : (setHchan s c v).syncs = s.syncs := rfl
@[simp] theorem setHchan_adds (c : Nat) (v : HullChanSt) : (setHchan s c v).adds = s.adds := rfl
@[simp] theorem setHchan_lateAdds (c : Nat) (v : HullChanSt) : (setHchan s c v).lateAdds = s.lateAdds := rfl
@[simp] theorem setHchan_fields (c : Nat) (v : HullChanSt) : (setHchan s c v).fields = s.fields := rfl
@[simp] theorem setHchan_pods (c : Nat) (v : HullChanSt) : (setHchan s c v).pods = s.pods := rfl
@[simp] theorem setHchan_pips (c : Nat) (v : HullChanSt) : (setHchan s c v).pips = s.pips := rfl
@[simp] theorem setHchan_hbm (c : Nat) (v : HullChanSt) : (setHchan s c v).hbm = s.hbm := rfl
@[simp] theorem setHchan_hbmFlips (c : Nat) (v : HullChanSt) : (setHchan s c v).hbmFlips = s.hbmFlips := rfl
@[simp] theorem setHchan_granules (c : Nat) (v : HullChanSt) : (setHchan s c v).granules = s.granules := rfl
@[simp] theorem setHchan_sgranules (c : Nat) (v : HullChanSt) : (setHchan s c v).sgranules = s.sgranules := rfl
@[simp] theorem setHchan_staging (c : Nat) (v : HullChanSt) : (setHchan s c v).staging = s.staging := rfl
@[simp] theorem setHchan_stgFlips (c : Nat) (v : HullChanSt) : (setHchan s c v).stgFlips = s.stgFlips := rfl
@[simp] theorem setHchan_hstacks (c : Nat) (v : HullChanSt) : (setHchan s c v).hstacks = s.hstacks := rfl
@[simp] theorem setHchan_flight (c : Nat) (v : HullChanSt) : (setHchan s c v).flight = s.flight := rfl
@[simp] theorem setHchan_hostq (c : Nat) (v : HullChanSt) : (setHchan s c v).hostq = s.hostq := rfl
@[simp] theorem setHchan_lnk (c : Nat) (v : HullChanSt) : (setHchan s c v).lnk = s.lnk := rfl
@[simp] theorem setHchan_links (c : Nat) (v : HullChanSt) : (setHchan s c v).links = s.links := rfl
@[simp] theorem setHchan_chans (c : Nat) (v : HullChanSt) : (setHchan s c v).chans = s.chans := rfl
@[simp] theorem setHchan_cxl (c : Nat) (v : HullChanSt) : (setHchan s c v).cxl = s.cxl := rfl
@[simp] theorem setHchan_hosts (c : Nat) (v : HullChanSt) : (setHchan s c v).hosts = s.hosts := rfl
@[simp] theorem setHchan_heads (c : Nat) (v : HullChanSt) : (setHchan s c v).heads = s.heads := rfl
@[simp] theorem setHchan_hull (c : Nat) (v : HullChanSt) : (setHchan s c v).hull = s.hull := rfl
@[simp] theorem setHchan_pwr (c : Nat) (v : HullChanSt) : (setHchan s c v).pwr = s.pwr := rfl
@[simp] theorem setHchan_trc (c : Nat) (v : HullChanSt) : (setHchan s c v).trc = s.trc := rfl
@[simp] theorem setHchan_mgt (c : Nat) (v : HullChanSt) : (setHchan s c v).mgt = s.mgt := rfl
@[simp] theorem setHchan_latch (c : Nat) (v : HullChanSt) : (setHchan s c v).latch = s.latch := rfl
@[simp] theorem pipOf_setHchan (x : Nat) (c : Nat) (v : HullChanSt) : pipOf (setHchan s c v) x = pipOf s x := rfl
@[simp] theorem podSt_setHchan (x : Nat) (c : Nat) (v : HullChanSt) : podSt (setHchan s c v) x = podSt s x := rfl
@[simp] theorem fieldSt_setHchan (x : Nat) (c : Nat) (v : HullChanSt) : fieldSt (setHchan s c v) x = fieldSt s x := rfl
@[simp] theorem ctxSt_setHchan (x : Nat) (c : Nat) (v : HullChanSt) : ctxSt (setHchan s c v) x = ctxSt s x := rfl
@[simp] theorem partSt_setHchan (x : Nat) (c : Nat) (v : HullChanSt) : partSt (setHchan s c v) x = partSt s x := rfl
@[simp] theorem stackSt_setHchan (x : Nat) (c : Nat) (v : HullChanSt) : stackSt (setHchan s c v) x = stackSt s x := rfl
@[simp] theorem linkSt_setHchan (x : Nat) (c : Nat) (v : HullChanSt) : linkSt (setHchan s c v) x = linkSt s x := rfl
@[simp] theorem chanSt_setHchan (x : Nat) (c : Nat) (v : HullChanSt) : chanSt (setHchan s c v) x = chanSt s x := rfl
@[simp] theorem hostSt_setHchan (x : Nat) (c : Nat) (v : HullChanSt) : hostSt (setHchan s c v) x = hostSt s x := rfl
@[simp] theorem headSt_setHchan (x : Nat) (c : Nat) (v : HullChanSt) : headSt (setHchan s c v) x = headSt s x := rfl
@[simp] theorem syncVal_setHchan (x : Nat) (c : Nat) (v : HullChanSt) : syncVal (setHchan s c v) x = syncVal s x := rfl

/-! ### syncSet -/

@[simp] theorem syncSet_pending (i : Nat) (v : Word32) : (syncSet s i v).pending = s.pending := rfl
@[simp] theorem syncSet_free (i : Nat) (v : Word32) : (syncSet s i v).free = s.free := rfl
@[simp] theorem syncSet_out (i : Nat) (v : Word32) : (syncSet s i v).out = s.out := rfl
@[simp] theorem syncSet_cycle (i : Nat) (v : Word32) : (syncSet s i v).cycle = s.cycle := rfl
@[simp] theorem syncSet_timeOff (i : Nat) (v : Word32) : (syncSet s i v).timeOff = s.timeOff := rfl
@[simp] theorem syncSet_nvm (i : Nat) (v : Word32) : (syncSet s i v).nvm = s.nvm := rfl
@[simp] theorem syncSet_boot (i : Nat) (v : Word32) : (syncSet s i v).boot = s.boot := rfl
@[simp] theorem syncSet_mod (i : Nat) (v : Word32) : (syncSet s i v).mod = s.mod := rfl
@[simp] theorem syncSet_flt (i : Nat) (v : Word32) : (syncSet s i v).flt = s.flt := rfl
@[simp] theorem syncSet_parts (i : Nat) (v : Word32) : (syncSet s i v).parts = s.parts := rfl
@[simp] theorem syncSet_ctxs (i : Nat) (v : Word32) : (syncSet s i v).ctxs = s.ctxs := rfl
@[simp] theorem syncSet_cmds (i : Nat) (v : Word32) : (syncSet s i v).cmds = s.cmds := rfl
@[simp] theorem syncSet_jobs (i : Nat) (v : Word32) : (syncSet s i v).jobs = s.jobs := rfl
@[simp] theorem syncSet_nextId (i : Nat) (v : Word32) : (syncSet s i v).nextId = s.nextId := rfl
@[simp] theorem syncSet_adds (i : Nat) (v : Word32) : (syncSet s i v).adds = s.adds := rfl
@[simp] theorem syncSet_lateAdds (i : Nat) (v : Word32) : (syncSet s i v).lateAdds = s.lateAdds := rfl
@[simp] theorem syncSet_fields (i : Nat) (v : Word32) : (syncSet s i v).fields = s.fields := rfl
@[simp] theorem syncSet_pods (i : Nat) (v : Word32) : (syncSet s i v).pods = s.pods := rfl
@[simp] theorem syncSet_pips (i : Nat) (v : Word32) : (syncSet s i v).pips = s.pips := rfl
@[simp] theorem syncSet_hbm (i : Nat) (v : Word32) : (syncSet s i v).hbm = s.hbm := rfl
@[simp] theorem syncSet_hbmFlips (i : Nat) (v : Word32) : (syncSet s i v).hbmFlips = s.hbmFlips := rfl
@[simp] theorem syncSet_granules (i : Nat) (v : Word32) : (syncSet s i v).granules = s.granules := rfl
@[simp] theorem syncSet_sgranules (i : Nat) (v : Word32) : (syncSet s i v).sgranules = s.sgranules := rfl
@[simp] theorem syncSet_staging (i : Nat) (v : Word32) : (syncSet s i v).staging = s.staging := rfl
@[simp] theorem syncSet_stgFlips (i : Nat) (v : Word32) : (syncSet s i v).stgFlips = s.stgFlips := rfl
@[simp] theorem syncSet_hstacks (i : Nat) (v : Word32) : (syncSet s i v).hstacks = s.hstacks := rfl
@[simp] theorem syncSet_flight (i : Nat) (v : Word32) : (syncSet s i v).flight = s.flight := rfl
@[simp] theorem syncSet_hostq (i : Nat) (v : Word32) : (syncSet s i v).hostq = s.hostq := rfl
@[simp] theorem syncSet_lnk (i : Nat) (v : Word32) : (syncSet s i v).lnk = s.lnk := rfl
@[simp] theorem syncSet_links (i : Nat) (v : Word32) : (syncSet s i v).links = s.links := rfl
@[simp] theorem syncSet_chans (i : Nat) (v : Word32) : (syncSet s i v).chans = s.chans := rfl
@[simp] theorem syncSet_cxl (i : Nat) (v : Word32) : (syncSet s i v).cxl = s.cxl := rfl
@[simp] theorem syncSet_hosts (i : Nat) (v : Word32) : (syncSet s i v).hosts = s.hosts := rfl
@[simp] theorem syncSet_heads (i : Nat) (v : Word32) : (syncSet s i v).heads = s.heads := rfl
@[simp] theorem syncSet_hull (i : Nat) (v : Word32) : (syncSet s i v).hull = s.hull := rfl
@[simp] theorem syncSet_hchans (i : Nat) (v : Word32) : (syncSet s i v).hchans = s.hchans := rfl
@[simp] theorem syncSet_pwr (i : Nat) (v : Word32) : (syncSet s i v).pwr = s.pwr := rfl
@[simp] theorem syncSet_trc (i : Nat) (v : Word32) : (syncSet s i v).trc = s.trc := rfl
@[simp] theorem syncSet_mgt (i : Nat) (v : Word32) : (syncSet s i v).mgt = s.mgt := rfl
@[simp] theorem syncSet_latch (i : Nat) (v : Word32) : (syncSet s i v).latch = s.latch := rfl
@[simp] theorem pipOf_syncSet (x : Nat) (i : Nat) (v : Word32) : pipOf (syncSet s i v) x = pipOf s x := rfl
@[simp] theorem podSt_syncSet (x : Nat) (i : Nat) (v : Word32) : podSt (syncSet s i v) x = podSt s x := rfl
@[simp] theorem fieldSt_syncSet (x : Nat) (i : Nat) (v : Word32) : fieldSt (syncSet s i v) x = fieldSt s x := rfl
@[simp] theorem ctxSt_syncSet (x : Nat) (i : Nat) (v : Word32) : ctxSt (syncSet s i v) x = ctxSt s x := rfl
@[simp] theorem partSt_syncSet (x : Nat) (i : Nat) (v : Word32) : partSt (syncSet s i v) x = partSt s x := rfl
@[simp] theorem stackSt_syncSet (x : Nat) (i : Nat) (v : Word32) : stackSt (syncSet s i v) x = stackSt s x := rfl
@[simp] theorem linkSt_syncSet (x : Nat) (i : Nat) (v : Word32) : linkSt (syncSet s i v) x = linkSt s x := rfl
@[simp] theorem chanSt_syncSet (x : Nat) (i : Nat) (v : Word32) : chanSt (syncSet s i v) x = chanSt s x := rfl
@[simp] theorem hostSt_syncSet (x : Nat) (i : Nat) (v : Word32) : hostSt (syncSet s i v) x = hostSt s x := rfl
@[simp] theorem headSt_syncSet (x : Nat) (i : Nat) (v : Word32) : headSt (syncSet s i v) x = headSt s x := rfl
@[simp] theorem hchan_syncSet (x : Nat) (i : Nat) (v : Word32) : hchan (syncSet s i v) x = hchan s x := rfl

/-! ### send -/

@[simp] theorem send_pending (m : OutMsg) : (send s m).pending = s.pending := rfl
@[simp] theorem send_free (m : OutMsg) : (send s m).free = s.free := rfl
@[simp] theorem send_cycle (m : OutMsg) : (send s m).cycle = s.cycle := rfl
@[simp] theorem send_timeOff (m : OutMsg) : (send s m).timeOff = s.timeOff := rfl
@[simp] theorem send_nvm (m : OutMsg) : (send s m).nvm = s.nvm := rfl
@[simp] theorem send_boot (m : OutMsg) : (send s m).boot = s.boot := rfl
@[simp] theorem send_mod (m : OutMsg) : (send s m).mod = s.mod := rfl
@[simp] theorem send_flt (m : OutMsg) : (send s m).flt = s.flt := rfl
@[simp] theorem send_parts (m : OutMsg) : (send s m).parts = s.parts := rfl
@[simp] theorem send_ctxs (m : OutMsg) : (send s m).ctxs = s.ctxs := rfl
@[simp] theorem send_cmds (m : OutMsg) : (send s m).cmds = s.cmds := rfl
@[simp] theorem send_jobs (m : OutMsg) : (send s m).jobs = s.jobs := rfl
@[simp] theorem send_nextId (m : OutMsg) : (send s m).nextId = s.nextId := rfl
@[simp] theorem send_syncs (m : OutMsg) : (send s m).syncs = s.syncs := rfl
@[simp] theorem send_adds (m : OutMsg) : (send s m).adds = s.adds := rfl
@[simp] theorem send_lateAdds (m : OutMsg) : (send s m).lateAdds = s.lateAdds := rfl
@[simp] theorem send_fields (m : OutMsg) : (send s m).fields = s.fields := rfl
@[simp] theorem send_pods (m : OutMsg) : (send s m).pods = s.pods := rfl
@[simp] theorem send_pips (m : OutMsg) : (send s m).pips = s.pips := rfl
@[simp] theorem send_hbm (m : OutMsg) : (send s m).hbm = s.hbm := rfl
@[simp] theorem send_hbmFlips (m : OutMsg) : (send s m).hbmFlips = s.hbmFlips := rfl
@[simp] theorem send_granules (m : OutMsg) : (send s m).granules = s.granules := rfl
@[simp] theorem send_sgranules (m : OutMsg) : (send s m).sgranules = s.sgranules := rfl
@[simp] theorem send_staging (m : OutMsg) : (send s m).staging = s.staging := rfl
@[simp] theorem send_stgFlips (m : OutMsg) : (send s m).stgFlips = s.stgFlips := rfl
@[simp] theorem send_hstacks (m : OutMsg) : (send s m).hstacks = s.hstacks := rfl
@[simp] theorem send_flight (m : OutMsg) : (send s m).flight = s.flight := rfl
@[simp] theorem send_hostq (m : OutMsg) : (send s m).hostq = s.hostq := rfl
@[simp] theorem send_lnk (m : OutMsg) : (send s m).lnk = s.lnk := rfl
@[simp] theorem send_links (m : OutMsg) : (send s m).links = s.links := rfl
@[simp] theorem send_chans (m : OutMsg) : (send s m).chans = s.chans := rfl
@[simp] theorem send_cxl (m : OutMsg) : (send s m).cxl = s.cxl := rfl
@[simp] theorem send_hosts (m : OutMsg) : (send s m).hosts = s.hosts := rfl
@[simp] theorem send_heads (m : OutMsg) : (send s m).heads = s.heads := rfl
@[simp] theorem send_hull (m : OutMsg) : (send s m).hull = s.hull := rfl
@[simp] theorem send_hchans (m : OutMsg) : (send s m).hchans = s.hchans := rfl
@[simp] theorem send_pwr (m : OutMsg) : (send s m).pwr = s.pwr := rfl
@[simp] theorem send_trc (m : OutMsg) : (send s m).trc = s.trc := rfl
@[simp] theorem send_mgt (m : OutMsg) : (send s m).mgt = s.mgt := rfl
@[simp] theorem send_latch (m : OutMsg) : (send s m).latch = s.latch := rfl
@[simp] theorem pipOf_send (x : Nat) (m : OutMsg) : pipOf (send s m) x = pipOf s x := rfl
@[simp] theorem podSt_send (x : Nat) (m : OutMsg) : podSt (send s m) x = podSt s x := rfl
@[simp] theorem fieldSt_send (x : Nat) (m : OutMsg) : fieldSt (send s m) x = fieldSt s x := rfl
@[simp] theorem ctxSt_send (x : Nat) (m : OutMsg) : ctxSt (send s m) x = ctxSt s x := rfl
@[simp] theorem partSt_send (x : Nat) (m : OutMsg) : partSt (send s m) x = partSt s x := rfl
@[simp] theorem stackSt_send (x : Nat) (m : OutMsg) : stackSt (send s m) x = stackSt s x := rfl
@[simp] theorem linkSt_send (x : Nat) (m : OutMsg) : linkSt (send s m) x = linkSt s x := rfl
@[simp] theorem chanSt_send (x : Nat) (m : OutMsg) : chanSt (send s m) x = chanSt s x := rfl
@[simp] theorem hostSt_send (x : Nat) (m : OutMsg) : hostSt (send s m) x = hostSt s x := rfl
@[simp] theorem headSt_send (x : Nat) (m : OutMsg) : headSt (send s m) x = headSt s x := rfl
@[simp] theorem hchan_send (x : Nat) (m : OutMsg) : hchan (send s m) x = hchan s x := rfl
@[simp] theorem syncVal_send (x : Nat) (m : OutMsg) : syncVal (send s m) x = syncVal s x := rfl

/-! ### setJob -/

@[simp] theorem setJob_pending (j : Job) : (setJob s j).pending = s.pending := rfl
@[simp] theorem setJob_free (j : Job) : (setJob s j).free = s.free := rfl
@[simp] theorem setJob_out (j : Job) : (setJob s j).out = s.out := rfl
@[simp] theorem setJob_cycle (j : Job) : (setJob s j).cycle = s.cycle := rfl
@[simp] theorem setJob_timeOff (j : Job) : (setJob s j).timeOff = s.timeOff := rfl
@[simp] theorem setJob_nvm (j : Job) : (setJob s j).nvm = s.nvm := rfl
@[simp] theorem setJob_boot (j : Job) : (setJob s j).boot = s.boot := rfl
@[simp] theorem setJob_mod (j : Job) : (setJob s j).mod = s.mod := rfl
@[simp] theorem setJob_flt (j : Job) : (setJob s j).flt = s.flt := rfl
@[simp] theorem setJob_parts (j : Job) : (setJob s j).parts = s.parts := rfl
@[simp] theorem setJob_ctxs (j : Job) : (setJob s j).ctxs = s.ctxs := rfl
@[simp] theorem setJob_cmds (j : Job) : (setJob s j).cmds = s.cmds := rfl
@[simp] theorem setJob_nextId (j : Job) : (setJob s j).nextId = s.nextId := rfl
@[simp] theorem setJob_syncs (j : Job) : (setJob s j).syncs = s.syncs := rfl
@[simp] theorem setJob_adds (j : Job) : (setJob s j).adds = s.adds := rfl
@[simp] theorem setJob_lateAdds (j : Job) : (setJob s j).lateAdds = s.lateAdds := rfl
@[simp] theorem setJob_fields (j : Job) : (setJob s j).fields = s.fields := rfl
@[simp] theorem setJob_pods (j : Job) : (setJob s j).pods = s.pods := rfl
@[simp] theorem setJob_pips (j : Job) : (setJob s j).pips = s.pips := rfl
@[simp] theorem setJob_hbm (j : Job) : (setJob s j).hbm = s.hbm := rfl
@[simp] theorem setJob_hbmFlips (j : Job) : (setJob s j).hbmFlips = s.hbmFlips := rfl
@[simp] theorem setJob_granules (j : Job) : (setJob s j).granules = s.granules := rfl
@[simp] theorem setJob_sgranules (j : Job) : (setJob s j).sgranules = s.sgranules := rfl
@[simp] theorem setJob_staging (j : Job) : (setJob s j).staging = s.staging := rfl
@[simp] theorem setJob_stgFlips (j : Job) : (setJob s j).stgFlips = s.stgFlips := rfl
@[simp] theorem setJob_hstacks (j : Job) : (setJob s j).hstacks = s.hstacks := rfl
@[simp] theorem setJob_flight (j : Job) : (setJob s j).flight = s.flight := rfl
@[simp] theorem setJob_hostq (j : Job) : (setJob s j).hostq = s.hostq := rfl
@[simp] theorem setJob_lnk (j : Job) : (setJob s j).lnk = s.lnk := rfl
@[simp] theorem setJob_links (j : Job) : (setJob s j).links = s.links := rfl
@[simp] theorem setJob_chans (j : Job) : (setJob s j).chans = s.chans := rfl
@[simp] theorem setJob_cxl (j : Job) : (setJob s j).cxl = s.cxl := rfl
@[simp] theorem setJob_hosts (j : Job) : (setJob s j).hosts = s.hosts := rfl
@[simp] theorem setJob_heads (j : Job) : (setJob s j).heads = s.heads := rfl
@[simp] theorem setJob_hull (j : Job) : (setJob s j).hull = s.hull := rfl
@[simp] theorem setJob_hchans (j : Job) : (setJob s j).hchans = s.hchans := rfl
@[simp] theorem setJob_pwr (j : Job) : (setJob s j).pwr = s.pwr := rfl
@[simp] theorem setJob_trc (j : Job) : (setJob s j).trc = s.trc := rfl
@[simp] theorem setJob_mgt (j : Job) : (setJob s j).mgt = s.mgt := rfl
@[simp] theorem setJob_latch (j : Job) : (setJob s j).latch = s.latch := rfl
@[simp] theorem pipOf_setJob (x : Nat) (j : Job) : pipOf (setJob s j) x = pipOf s x := rfl
@[simp] theorem podSt_setJob (x : Nat) (j : Job) : podSt (setJob s j) x = podSt s x := rfl
@[simp] theorem fieldSt_setJob (x : Nat) (j : Job) : fieldSt (setJob s j) x = fieldSt s x := rfl
@[simp] theorem ctxSt_setJob (x : Nat) (j : Job) : ctxSt (setJob s j) x = ctxSt s x := rfl
@[simp] theorem partSt_setJob (x : Nat) (j : Job) : partSt (setJob s j) x = partSt s x := rfl
@[simp] theorem stackSt_setJob (x : Nat) (j : Job) : stackSt (setJob s j) x = stackSt s x := rfl
@[simp] theorem linkSt_setJob (x : Nat) (j : Job) : linkSt (setJob s j) x = linkSt s x := rfl
@[simp] theorem chanSt_setJob (x : Nat) (j : Job) : chanSt (setJob s j) x = chanSt s x := rfl
@[simp] theorem hostSt_setJob (x : Nat) (j : Job) : hostSt (setJob s j) x = hostSt s x := rfl
@[simp] theorem headSt_setJob (x : Nat) (j : Job) : headSt (setJob s j) x = headSt s x := rfl
@[simp] theorem hchan_setJob (x : Nat) (j : Job) : hchan (setJob s j) x = hchan s x := rfl
@[simp] theorem syncVal_setJob (x : Nat) (j : Job) : syncVal (setJob s j) x = syncVal s x := rfl

/-! ### setCmd -/

@[simp] theorem setCmd_pending (k : Cmd) : (setCmd s k).pending = s.pending := rfl
@[simp] theorem setCmd_free (k : Cmd) : (setCmd s k).free = s.free := rfl
@[simp] theorem setCmd_out (k : Cmd) : (setCmd s k).out = s.out := rfl
@[simp] theorem setCmd_cycle (k : Cmd) : (setCmd s k).cycle = s.cycle := rfl
@[simp] theorem setCmd_timeOff (k : Cmd) : (setCmd s k).timeOff = s.timeOff := rfl
@[simp] theorem setCmd_nvm (k : Cmd) : (setCmd s k).nvm = s.nvm := rfl
@[simp] theorem setCmd_boot (k : Cmd) : (setCmd s k).boot = s.boot := rfl
@[simp] theorem setCmd_mod (k : Cmd) : (setCmd s k).mod = s.mod := rfl
@[simp] theorem setCmd_flt (k : Cmd) : (setCmd s k).flt = s.flt := rfl
@[simp] theorem setCmd_parts (k : Cmd) : (setCmd s k).parts = s.parts := rfl
@[simp] theorem setCmd_ctxs (k : Cmd) : (setCmd s k).ctxs = s.ctxs := rfl
@[simp] theorem setCmd_jobs (k : Cmd) : (setCmd s k).jobs = s.jobs := rfl
@[simp] theorem setCmd_nextId (k : Cmd) : (setCmd s k).nextId = s.nextId := rfl
@[simp] theorem setCmd_syncs (k : Cmd) : (setCmd s k).syncs = s.syncs := rfl
@[simp] theorem setCmd_adds (k : Cmd) : (setCmd s k).adds = s.adds := rfl
@[simp] theorem setCmd_lateAdds (k : Cmd) : (setCmd s k).lateAdds = s.lateAdds := rfl
@[simp] theorem setCmd_fields (k : Cmd) : (setCmd s k).fields = s.fields := rfl
@[simp] theorem setCmd_pods (k : Cmd) : (setCmd s k).pods = s.pods := rfl
@[simp] theorem setCmd_pips (k : Cmd) : (setCmd s k).pips = s.pips := rfl
@[simp] theorem setCmd_hbm (k : Cmd) : (setCmd s k).hbm = s.hbm := rfl
@[simp] theorem setCmd_hbmFlips (k : Cmd) : (setCmd s k).hbmFlips = s.hbmFlips := rfl
@[simp] theorem setCmd_granules (k : Cmd) : (setCmd s k).granules = s.granules := rfl
@[simp] theorem setCmd_sgranules (k : Cmd) : (setCmd s k).sgranules = s.sgranules := rfl
@[simp] theorem setCmd_staging (k : Cmd) : (setCmd s k).staging = s.staging := rfl
@[simp] theorem setCmd_stgFlips (k : Cmd) : (setCmd s k).stgFlips = s.stgFlips := rfl
@[simp] theorem setCmd_hstacks (k : Cmd) : (setCmd s k).hstacks = s.hstacks := rfl
@[simp] theorem setCmd_flight (k : Cmd) : (setCmd s k).flight = s.flight := rfl
@[simp] theorem setCmd_hostq (k : Cmd) : (setCmd s k).hostq = s.hostq := rfl
@[simp] theorem setCmd_lnk (k : Cmd) : (setCmd s k).lnk = s.lnk := rfl
@[simp] theorem setCmd_links (k : Cmd) : (setCmd s k).links = s.links := rfl
@[simp] theorem setCmd_chans (k : Cmd) : (setCmd s k).chans = s.chans := rfl
@[simp] theorem setCmd_cxl (k : Cmd) : (setCmd s k).cxl = s.cxl := rfl
@[simp] theorem setCmd_hosts (k : Cmd) : (setCmd s k).hosts = s.hosts := rfl
@[simp] theorem setCmd_heads (k : Cmd) : (setCmd s k).heads = s.heads := rfl
@[simp] theorem setCmd_hull (k : Cmd) : (setCmd s k).hull = s.hull := rfl
@[simp] theorem setCmd_hchans (k : Cmd) : (setCmd s k).hchans = s.hchans := rfl
@[simp] theorem setCmd_pwr (k : Cmd) : (setCmd s k).pwr = s.pwr := rfl
@[simp] theorem setCmd_trc (k : Cmd) : (setCmd s k).trc = s.trc := rfl
@[simp] theorem setCmd_mgt (k : Cmd) : (setCmd s k).mgt = s.mgt := rfl
@[simp] theorem setCmd_latch (k : Cmd) : (setCmd s k).latch = s.latch := rfl
@[simp] theorem pipOf_setCmd (x : Nat) (k : Cmd) : pipOf (setCmd s k) x = pipOf s x := rfl
@[simp] theorem podSt_setCmd (x : Nat) (k : Cmd) : podSt (setCmd s k) x = podSt s x := rfl
@[simp] theorem fieldSt_setCmd (x : Nat) (k : Cmd) : fieldSt (setCmd s k) x = fieldSt s x := rfl
@[simp] theorem ctxSt_setCmd (x : Nat) (k : Cmd) : ctxSt (setCmd s k) x = ctxSt s x := rfl
@[simp] theorem partSt_setCmd (x : Nat) (k : Cmd) : partSt (setCmd s k) x = partSt s x := rfl
@[simp] theorem stackSt_setCmd (x : Nat) (k : Cmd) : stackSt (setCmd s k) x = stackSt s x := rfl
@[simp] theorem linkSt_setCmd (x : Nat) (k : Cmd) : linkSt (setCmd s k) x = linkSt s x := rfl
@[simp] theorem chanSt_setCmd (x : Nat) (k : Cmd) : chanSt (setCmd s k) x = chanSt s x := rfl
@[simp] theorem hostSt_setCmd (x : Nat) (k : Cmd) : hostSt (setCmd s k) x = hostSt s x := rfl
@[simp] theorem headSt_setCmd (x : Nat) (k : Cmd) : headSt (setCmd s k) x = headSt s x := rfl
@[simp] theorem hchan_setCmd (x : Nat) (k : Cmd) : hchan (setCmd s k) x = hchan s x := rfl
@[simp] theorem syncVal_setCmd (x : Nat) (k : Cmd) : syncVal (setCmd s k) x = syncVal s x := rfl

/-! ### A part after its own update -/

@[simp] theorem pipOf_setPip_same (k : Nat) (v : PipSt) : pipOf (setPip s k v) k = v := Tab.get_set_same _ _ _ _
theorem pipOf_setPip_other {k j : Nat} (v : PipSt) (h : j ≠ k) : pipOf (setPip s k v) j = pipOf s j := Tab.get_set_other _ _ _ h
@[simp] theorem modPip_eq (k : Nat) (f : PipSt → PipSt) : modPip s k f = setPip s k (f (pipOf s k)) := rfl
@[simp] theorem podSt_setPod_same (k : Nat) (v : PodSt) : podSt (setPod s k v) k = v := Tab.get_set_same _ _ _ _
theorem podSt_setPod_other {k j : Nat} (v : PodSt) (h : j ≠ k) : podSt (setPod s k v) j = podSt s j := Tab.get_set_other _ _ _ h
@[simp] theorem modPod_eq (k : Nat) (f : PodSt → PodSt) : modPod s k f = setPod s k (f (podSt s k)) := rfl
@[simp] theorem fieldSt_setField_same (k : Nat) (v : FieldSt) : fieldSt (setField s k v) k = v := Tab.get_set_same _ _ _ _
theorem fieldSt_setField_other {k j : Nat} (v : FieldSt) (h : j ≠ k) : fieldSt (setField s k v) j = fieldSt s j := Tab.get_set_other _ _ _ h
@[simp] theorem modField_eq (k : Nat) (f : FieldSt → FieldSt) : modField s k f = setField s k (f (fieldSt s k)) := rfl
@[simp] theorem ctxSt_setCtx_same (k : Nat) (v : CtxSt) : ctxSt (setCtx s k v) k = v := Tab.get_set_same _ _ _ _
theorem ctxSt_setCtx_other {k j : Nat} (v : CtxSt) (h : j ≠ k) : ctxSt (setCtx s k v) j = ctxSt s j := Tab.get_set_other _ _ _ h
@[simp] theorem modCtx_eq (k : Nat) (f : CtxSt → CtxSt) : modCtx s k f = setCtx s k (f (ctxSt s k)) := rfl
@[simp] theorem partSt_setPart_same (k : Nat) (v : PartSt) : partSt (setPart s k v) k = v := Tab.get_set_same _ _ _ _
theorem partSt_setPart_other {k j : Nat} (v : PartSt) (h : j ≠ k) : partSt (setPart s k v) j = partSt s j := Tab.get_set_other _ _ _ h
@[simp] theorem modPart_eq (k : Nat) (f : PartSt → PartSt) : modPart s k f = setPart s k (f (partSt s k)) := rfl
@[simp] theorem stackSt_setStack_same (k : Nat) (v : StackSt) : stackSt (setStack s k v) k = v := Tab.get_set_same _ _ _ _
theorem stackSt_setStack_other {k j : Nat} (v : StackSt) (h : j ≠ k) : stackSt (setStack s k v) j = stackSt s j := Tab.get_set_other _ _ _ h
@[simp] theorem modStack_eq (k : Nat) (f : StackSt → StackSt) : modStack s k f = setStack s k (f (stackSt s k)) := rfl
@[simp] theorem linkSt_setLink_same (k : Nat) (v : LinkSt) : linkSt (setLink s k v) k = v := Tab.get_set_same _ _ _ _
theorem linkSt_setLink_other {k j : Nat} (v : LinkSt) (h : j ≠ k) : linkSt (setLink s k v) j = linkSt s j := Tab.get_set_other _ _ _ h
@[simp] theorem modLink_eq (k : Nat) (f : LinkSt → LinkSt) : modLink s k f = setLink s k (f (linkSt s k)) := rfl
@[simp] theorem chanSt_setChan_same (k : Nat) (v : ChanSt) : chanSt (setChan s k v) k = v := Tab.get_set_same _ _ _ _
theorem chanSt_setChan_other {k j : Nat} (v : ChanSt) (h : j ≠ k) : chanSt (setChan s k v) j = chanSt s j := Tab.get_set_other _ _ _ h
@[simp] theorem modChan_eq (k : Nat) (f : ChanSt → ChanSt) : modChan s k f = setChan s k (f (chanSt s k)) := rfl
@[simp] theorem hostSt_setHost_same (k : Nat) (v : HostSt) : hostSt (setHost s k v) k = v := Tab.get_set_same _ _ _ _
theorem hostSt_setHost_other {k j : Nat} (v : HostSt) (h : j ≠ k) : hostSt (setHost s k v) j = hostSt s j := Tab.get_set_other _ _ _ h
@[simp] theorem modHost_eq (k : Nat) (f : HostSt → HostSt) : modHost s k f = setHost s k (f (hostSt s k)) := rfl
@[simp] theorem headSt_setHead_same (k : Nat) (v : HeadSt) : headSt (setHead s k v) k = v := Tab.get_set_same _ _ _ _
theorem headSt_setHead_other {k j : Nat} (v : HeadSt) (h : j ≠ k) : headSt (setHead s k v) j = headSt s j := Tab.get_set_other _ _ _ h
@[simp] theorem modHead_eq (k : Nat) (f : HeadSt → HeadSt) : modHead s k f = setHead s k (f (headSt s k)) := rfl
@[simp] theorem hchan_setHchan_same (k : Nat) (v : HullChanSt) : hchan (setHchan s k v) k = v := Tab.get_set_same _ _ _ _
theorem hchan_setHchan_other {k j : Nat} (v : HullChanSt) (h : j ≠ k) : hchan (setHchan s k v) j = hchan s j := Tab.get_set_other _ _ _ h
@[simp] theorem modHchan_eq (k : Nat) (f : HullChanSt → HullChanSt) : modHchan s k f = setHchan s k (f (hchan s k)) := rfl
@[simp] theorem syncVal_syncSet_same (k : Nat) (v : Word32) : syncVal (syncSet s k v) k = v := Tab.get_set_same _ _ _ _
theorem syncVal_syncSet_other {k j : Nat} (v : Word32) (h : j ≠ k) : syncVal (syncSet s k v) j = syncVal s j := Tab.get_set_other _ _ _ h

/-! ### Steps of the module -/

/-- A step on a queue with a command at its front is that command on the rest. -/
theorem step_cons (c : Instr) (l : List Instr) : step { s with pending := c :: l } = exec c { s with pending := l } := rfl
theorem step_nil (h : s.pending = []) : step s = .next (tick s) := by unfold step; rw [h]

/-- The outcome of a command on a part the module has. -/
@[simp] theorem within_lt {n i : Nat} (t : State) (h : i < n) : within n i t = .next t := if_pos h
theorem within_ge {n i : Nat} (t : State) (h : n ≤ i) : within n i t = .fault (.absent i) := if_neg (Nat.not_lt.mpr h)
theorem within_next {n i : Nat} {t u : State} (h : within n i t = .next u) : i < n ∧ u = t := by
  unfold within at h
  split at h
  · next hi => exact ⟨hi, by cases h; rfl⟩
  · cases h

end Sys2Proof.Machine
end

