-- ==== Sys2Proof/Laws/Endings.lean ====
section
/-!
SUPPORT. Everything the end of work can do, said once: the end of a job, a fault, a recovery and a fence keep what the state
lists as lasting, keep memory in its canonical form, and keep every pip's registers.
-/
namespace Sys2Proof.Machine

/-- A state reached by ending work. -/
structure Ends (s t : State) : Prop where
  lasting : t.lasting = s.lasting
  wf : Memory.wf s = true → Memory.wf t = true
  last : ∀ k, (pipOf t k).last = (pipOf s k).last
  pods : ∀ d, (podSt t d).last = (podSt s d).last

theorem Ends.refl (s : State) : Ends s s := ⟨rfl, id, fun _ => rfl, fun _ => rfl⟩
theorem Ends.trans {s t u : State} (h : Ends s t) (g : Ends t u) : Ends s u :=
  ⟨g.lasting.trans h.lasting, fun w => g.wf (h.wf w), fun k => (g.last k).trans (h.last k), fun d => (g.pods d).trans (h.pods d)⟩

theorem Ends.forAll {α : Type} (l : List α) {f : α → State → State} (h : ∀ a s, Ends s (f a s)) (s : State) :
    Ends s (forAll l f s) := by
  induction l generalizing s with
  | nil => exact Ends.refl s
  | cons a l ih => exact (h a s).trans (ih _)

theorem Ends.ite {c : Prop} [Decidable c] {s t u : State} (h : Ends s t) (g : Ends s u) : Ends s (if c then t else u) := by
  split <;> assumption

/-- An update of fields outside memory, pips, pods and what lasts. -/
theorem Ends.of {s t : State} (h : t.lasting = s.lasting) (hb : t.hbm = s.hbm) (sg : t.staging = s.staging)
    (hp : t.pips = s.pips) (hd : t.pods = s.pods := by rfl) : Ends s t :=
  ⟨h, fun w => by simpa [Memory.wf, hb, sg] using w, fun k => by simp [pipOf, hp], fun d => by simp [podSt, hd]⟩

/-- An update of one pod that keeps what lasts in it. -/
theorem Ends.setPod (s : State) (d : Nat) (v : PodSt) (h : v.last = (podSt s d).last) : Ends s (setPod s d v) := by
  refine ⟨rfl, id, fun _ => rfl, fun k => ?_⟩
  by_cases hk : k = d
  · subst hk; simpa using h
  · rw [podSt_setPod_other s v hk]

theorem Ends.modPod (s : State) (d : Nat) (f : PodSt → PodSt) (h : ∀ v, (f v).last = v.last) : Ends s (modPod s d f) :=
  Ends.setPod s d _ (h _)

/-- An update of one pip that keeps what lasts in it. -/
theorem Ends.setPip (s : State) (p : Nat) (v : PipSt) (h : v.last = (pipOf s p).last) : Ends s (setPip s p v) := by
  refine ⟨rfl, id, fun k => ?_, fun _ => rfl⟩
  by_cases hk : k = p
  · subst hk; simpa using h
  · rw [pipOf_setPip_other s v hk]

theorem Ends.modPip (s : State) (p : Nat) (f : PipSt → PipSt) (h : ∀ q, (f q).last = q.last) : Ends s (modPip s p f) :=
  Ends.setPip s p _ (h _)

/-! ### Memory -/

/-- A state that differs in HBM, the staging buffers and their flipped bits only. -/
def MemOnly (s t : State) : Prop := ∃ a b c d, t = { s with hbm := a, hbmFlips := b, staging := c, stgFlips := d }

theorem MemOnly.refl (s : State) : MemOnly s s := ⟨_, _, _, _, rfl⟩
theorem MemOnly.trans {s t u : State} (h : MemOnly s t) (g : MemOnly t u) : MemOnly s u := by
  obtain ⟨_, _, _, _, rfl⟩ := h
  obtain ⟨a, b, c, d, rfl⟩ := g
  exact ⟨a, b, c, d, rfl⟩

theorem forAll_memOnly {α : Type} {f : α → State → State} (h : ∀ a s, MemOnly s (f a s)) (l : List α) (s : State) :
    MemOnly s (forAll l f s) := by
  induction l generalizing s with
  | nil => exact .refl s
  | cons a l ih => exact (h a s).trans (ih _)

theorem freshLine_memOnly (l : Nat) (s : State) : MemOnly s (freshLine l s) := by
  unfold freshLine; split
  · exact .refl s
  · exact ⟨_, _, _, _, rfl⟩
theorem freshWord_memOnly (w : Nat) (s : State) : MemOnly s (freshWord w s) := by
  unfold freshWord; split
  · exact .refl s
  · exact ⟨_, _, _, _, rfl⟩

theorem memOnly_hbm (s : State) (t : Tab Byte) : MemOnly s { s with hbm := t } := ⟨_, _, _, _, rfl⟩
theorem memOnly_staging (s : State) (t : Tab Byte) : MemOnly s { s with staging := t } := ⟨_, _, _, _, rfl⟩

theorem storeHbm_memOnly (s : State) (a : Nat) (bs : List Byte) : MemOnly s (storeHbm s a bs) :=
  (forAll_memOnly freshLine_memOnly _ s).trans (memOnly_hbm ..)
theorem storeStg_memOnly (s : State) (o : Nat) (bs : List Byte) : MemOnly s (storeStg s o bs) :=
  (forAll_memOnly freshWord_memOnly _ s).trans (memOnly_staging ..)

/-- A write of module memory changes HBM, the staging buffers and their flipped bits only. -/
theorem memWrite_memOnly (s : State) (a : Nat) (bs : List Byte) : MemOnly s (memWrite s a bs) := by
  unfold memWrite
  split
  · exact storeHbm_memOnly ..
  · split
    · exact storeStg_memOnly ..
    · exact .refl s

theorem forAll_wf {α : Type} {f : α → State → State} (h : ∀ a s, Memory.wf s = true → Memory.wf (f a s) = true) (l : List α) (s : State)
    (w : Memory.wf s = true) : Memory.wf (forAll l f s) = true := by
  induction l generalizing s with
  | nil => exact w
  | cons a l ih => exact ih _ (h a s w)

/-- New bytes of HBM keep the canonical form; so do new bytes of the staging buffers. -/
theorem wf_setHbm {s t : State} (w : Memory.wf s = true) {a : Nat} {bs : List Byte} (h : t.hbm = Tab.setMany 0 s.hbm a bs)
    (g : t.staging = s.staging) : Memory.wf t = true := by
  simp only [Memory.wf, Bool.and_eq_true] at w ⊢; exact ⟨h ▸ Tab.wf_setMany _ _ _ _ w.1, g ▸ w.2⟩
theorem wf_setStaging {s t : State} (w : Memory.wf s = true) {a : Nat} {bs : List Byte} (g : t.hbm = s.hbm)
    (h : t.staging = Tab.setMany 0 s.staging a bs) : Memory.wf t = true := by
  simp only [Memory.wf, Bool.and_eq_true] at w ⊢; exact ⟨g ▸ w.1, h ▸ Tab.wf_setMany _ _ _ _ w.2⟩

theorem freshLine_wf (l : Nat) (s : State) (w : Memory.wf s = true) : Memory.wf (freshLine l s) = true := by
  unfold freshLine; split
  · exact w
  · exact wf_setHbm w rfl rfl
theorem freshWord_wf (n : Nat) (s : State) (w : Memory.wf s = true) : Memory.wf (freshWord n s) = true := by
  unfold freshWord; split
  · exact w
  · exact wf_setStaging w rfl rfl

theorem storeHbm_wf (s : State) (a : Nat) (bs : List Byte) (w : Memory.wf s = true) : Memory.wf (storeHbm s a bs) = true :=
  wf_setHbm (forAll_wf freshLine_wf _ s w) rfl rfl
theorem storeStg_wf (s : State) (o : Nat) (bs : List Byte) (w : Memory.wf s = true) : Memory.wf (storeStg s o bs) = true :=
  wf_setStaging (forAll_wf freshWord_wf _ s w) rfl rfl

theorem memWrite_wf (s : State) (a : Nat) (bs : List Byte) (w : Memory.wf s = true) : Memory.wf (memWrite s a bs) = true := by
  unfold memWrite
  split
  · exact storeHbm_wf s a bs w
  · split
    · exact storeStg_wf s _ bs w
    · exact w

theorem memWrite_lasting (s : State) (a : Nat) (bs : List Byte) : (memWrite s a bs).lasting = s.lasting := by
  obtain ⟨_, _, _, _, h⟩ := memWrite_memOnly s a bs; rw [h]; rfl
theorem memWrite_pips (s : State) (a : Nat) (bs : List Byte) : (memWrite s a bs).pips = s.pips := by
  obtain ⟨_, _, _, _, h⟩ := memWrite_memOnly s a bs; rw [h]
theorem memWrite_pods (s : State) (a : Nat) (bs : List Byte) : (memWrite s a bs).pods = s.pods := by
  obtain ⟨_, _, _, _, h⟩ := memWrite_memOnly s a bs; rw [h]

theorem memWrite_ends (s : State) (a : Nat) (bs : List Byte) : Ends s (memWrite s a bs) :=
  ⟨memWrite_lasting s a bs, memWrite_wf s a bs, fun k => by simp [pipOf, memWrite_pips],
    fun d => by simp [podSt, memWrite_pods]⟩

theorem drew_ends (s : State) (n : Nat) : Ends s (drew s n) := .of rfl rfl rfl rfl

/-! ### Updates of single parts -/

theorem modField_ends (s : State) (d : Nat) (f : FieldSt → FieldSt) : Ends s (modField s d f) := .of rfl rfl rfl rfl
theorem modPart_ends (s : State) (d : Nat) (f : PartSt → PartSt) : Ends s (modPart s d f) := .of rfl rfl rfl rfl
theorem modStack_ends (s : State) (d : Nat) (f : StackSt → StackSt) : Ends s (modStack s d f) := .of rfl rfl rfl rfl
theorem modChan_ends (s : State) (d : Nat) (f : ChanSt → ChanSt) : Ends s (modChan s d f) := .of rfl rfl rfl rfl
theorem setJob_ends (s : State) (j : Job) : Ends s (setJob s j) := .of rfl rfl rfl rfl
theorem decideCmd_ends (s : State) (k : Nat) (c : Byte) (n : Nat) : Ends s (decideCmd s k c n) := .of rfl rfl rfl rfl
theorem send_ends (s : State) (m : OutMsg) : Ends s (send s m) := .of rfl rfl rfl rfl
theorem setCtDesc_ends (s : State) (p i : Nat) (d : BitVec 512) : Ends s (setCtDesc s p i d) := Ends.modPod _ _ _ fun _ => rfl
theorem platformEvent_ends (s : State) (n v : Nat) : Ends s (platformEvent s n v) := .of rfl rfl rfl rfl

theorem fabricRecord_ends (s : State) (r : TraceRec) : Ends s (fabricRecord s r) := by
  unfold fabricRecord
  split
  · exact .refl s
  · dsimp only; split <;> exact .of rfl rfl rfl rfl

theorem pipRecord_ends (s : State) (p : Nat) (r : TraceRec) : Ends s (pipRecord s p r) := by
  unfold pipRecord
  split
  · exact .refl s
  · extract_lets
    split
    · split
      · exact .of rfl rfl rfl rfl
      · split <;> exact .of rfl rfl rfl rfl
    · exact .of rfl rfl rfl rfl

theorem schedRecord_ends (s : State) (p e c : Nat) (i : Word64) (k : Byte) : Ends s (schedRecord s p e c i k) :=
  fabricRecord_ends ..
theorem errorRecord_ends (s : State) (e k i a : Nat) (c : Byte) : Ends s (errorRecord s e k i a c) := fabricRecord_ends ..
theorem moduleRecord_ends (s : State) (e : Nat) (f : Word64) : Ends s (moduleRecord s e f) := fabricRecord_ends ..
theorem powerRecord_ends (s : State) (f : Option Nat) (e a : Nat) (c : Byte) : Ends s (powerRecord s f e a c) :=
  fabricRecord_ends ..
theorem fieldTo_ends (s : State) (f : Nat) (st : FState) : Ends s (fieldTo s f st) := by
  unfold fieldTo
  dsimp only
  split
  · exact .refl s
  · exact (modField_ends ..).trans (powerRecord_ends ..)

/-! ### Fields -/

theorem avsVolt_ends (s : State) (f m : Nat) : Ends s (avsVolt s f m) := send_ends ..
theorem avsMode_ends (s : State) (f : Nat) (b : Bool) : Ends s (avsMode s f b) := send_ends ..

theorem startOff_ends (s : State) (f : Nat) : Ends s (startOff s f) := by
  unfold startOff
  split
  · exact (modField_ends ..).trans (avsMode_ends ..)
  · exact .refl s

theorem startDown_ends (s : State) (f : Nat) (tgt : FState) : Ends s (startDown s f tgt) := by
  unfold startDown
  dsimp only
  split
  · exact .refl s
  · split
    · exact (modField_ends ..).trans (startOff_ends ..)
    · exact modField_ends ..

theorem lowerField_ends (s : State) (f : Nat) (want : FState) : Ends s (lowerField s f want) := by
  unfold lowerField
  dsimp only
  split
  · exact .refl s
  · exact startDown_ends ..

theorem returnVrun_ends (s : State) (f : Nat) : Ends s (returnVrun s f) := by
  unfold returnVrun
  dsimp only
  split
  · exact (modField_ends ..).trans (avsVolt_ends ..)
  · exact .refl s

theorem dropStep_ends (s : State) (j f : Nat) : Ends s (dropStep s j f) := by
  unfold dropStep
  split
  · exact (modField_ends ..).trans (returnVrun_ends ..)
  · exact .refl s

theorem enableField_ends (s : State) (f : Nat) : Ends s (enableField s f) := by
  unfold enableField
  dsimp only
  split
  · exact .refl s
  · split
    · exact modField_ends ..
    · exact .refl s
    · split
      · exact modField_ends ..
      · exact (modField_ends ..).trans ((send_ends ..).trans (send_ends ..))
      · exact .refl s

/-! ### The end of a job -/

theorem undefBytes_ends (s : State) (p a n : Nat) : Ends s (undefBytes s p a n) :=
  by
  unfold undefBytes; refine Ends.trans ?_ (drew_ends ..); exact Ends.modPip _ _ _ fun _ => rfl

theorem undefObject_ends (s : State) (p i : Nat) : Ends s (undefObject s p i) := Ends.forAll _ (fun _ _ => undefBytes_ends ..) s

theorem undefRun_ends (p : Nat) (r : Int × Nat) (s : State) : Ends s (undefRun p r s) := by
  unfold undefRun
  dsimp only
  split
  · exact undefBytes_ends ..
  · exact .refl s

/-- Writes that the banks take in change bytes of a pip's scratchpad only. -/
theorem storeWords_last (ws : List PadWord) (q : PipSt) : (storeWords q ws).last = q.last := by
  have h (sp : Scratch) : ({ (ws.foldl storeWord sp) with mem := [], flips := [] } : Scratch) = { sp with mem := [], flips := [] } := by
    induction ws generalizing sp with
    | nil => rfl
    | cons w ws ih => exact (ih _).trans rfl
  unfold PipSt.last storeWords
  dsimp only
  rw [h]

theorem commitWrites_last (c : Nat) (q : PipSt) : (commitWrites c q).last = q.last := by
  have h (l : List PadWrite) (q : PipSt) : (l.foldl (fun q x => storeWords q x.words) q).last = q.last := by
    induction l generalizing q with
    | nil => rfl
    | cons x l ih => exact (ih _).trans (storeWords_last ..)
  unfold commitWrites
  exact (congrArg (fun r : PipSt => { r with ops := {} }) (h _ q) : _)

theorem endPip_ends (c : Byte) (p : Nat) (s : State) : Ends s (endPip c p s) := by
  unfold endPip
  extract_lets t u
  have h1 : Ends s t := Ends.modPip _ _ _ fun _ => commitWrites_last ..
  have h2 : Ends t u := by
    show Ends t (if _ then _ else _)
    split
    · exact .refl t
    · exact Ends.forAll _ (fun _ _ => undefRun_ends ..) t
  exact h1.trans (h2.trans (Ends.modPip _ _ _ fun _ => rfl))

theorem dropWork_ends (l : List Nat) (k : Bool) (s : State) : Ends s (dropWork l k s) := by
  unfold dropWork
  extract_lets keep tabs t
  exact (Ends.of rfl rfl rfl rfl : Ends s t).trans (Ends.forAll _ (fun _ _ => modStack_ends ..) t)

theorem dropShort_ends (l : List Nat) (p : Nat) (s : State) : Ends s (dropShort l p s) := by
  unfold dropShort
  extract_lets keep
  exact Ends.modPip _ _ _ fun _ => rfl
theorem undefDest_ends (d : Nat × Nat) (s : State) : Ends s (undefDest d s) := (setCtDesc_ends ..).trans (undefObject_ends ..)
theorem closeGate_ends (d : Nat) (s : State) : Ends s (closeGate d s) := Ends.modPod _ _ _ fun _ => rfl
theorem endChecker_ends (d : Nat) (s : State) : Ends s (endChecker d s) := Ends.modPod _ _ _ fun _ => rfl

theorem leavePods_ends (j : Job) (c : Byte) (s : State) : Ends s (leavePods j c s) := by
  unfold leavePods
  extract_lets t1 t2 t3 fs
  have h1 : Ends s t1 := .of rfl rfl rfl rfl
  have h2 : Ends t1 t2 := Ends.forAll _ (fun _ _ => closeGate_ends ..) t1
  have h3 : Ends t2 t3 := Ends.forAll _ (fun _ _ => schedRecord_ends ..) t2
  exact h1.trans (h2.trans (h3.trans (Ends.forAll _ (fun _ _ => (dropStep_ends ..).trans (modField_ends ..)) t3)))

theorem endJob_ends (s : State) (j : Job) (c : Byte) (site : Nat) : Ends s (endJob s j c site) := by
  unfold endJob
  split
  · exact .refl s
  extract_lets pips live drain t1 t2 t3 t4
  have h1 : Ends s t1 := by
    show Ends s (if _ then _ else _)
    split
    · exact (Ends.forAll _ (fun _ _ => endPip_ends ..) s).trans (Ends.forAll _ (fun _ _ => endChecker_ends ..) _)
    · exact .refl s
  have h2 : Ends t1 t2 := by
    show Ends t1 (if _ then _ else _)
    split
    · exact (dropWork_ends ..).trans (Ends.forAll _ (fun _ _ => dropShort_ends ..) _)
    · exact .refl _
  have h3 : Ends t2 t3 := by
    show Ends t2 (if _ then _ else _)
    split
    · exact .refl _
    · exact Ends.forAll _ (fun _ _ => errorRecord_ends ..) _
  have h4 : Ends t3 t4 := by
    show Ends t3 (if _ then _ else _)
    split
    · exact .refl _
    · exact Ends.forAll _ (fun _ _ => undefDest_ends ..) _
  refine h1.trans (h2.trans (h3.trans (h4.trans ?_)))
  split
  · exact setJob_ends ..
  · exact (decideCmd_ends ..).trans (leavePods_ends ..)

theorem endJobs_ends (s : State) (c : Byte) (f : Job → Bool) : Ends s (endJobs s c f) :=
  Ends.forAll _ (fun _ _ => endJob_ends ..) s

/-! ### Collectives -/

theorem undefMem_ends (s : State) (a n : Nat) : Ends s (undefMem s a n) := (memWrite_ends ..).trans (drew_ends ..)
theorem chanClose_ends (s : State) (c : Nat) : Ends s (chanClose s c) := modChan_ends ..
theorem chanAdvance_ends (s : State) (c : Nat) : Ends s (chanAdvance s c) := by
  unfold chanAdvance
  split
  · split
    · exact chanClose_ends ..
    · exact .refl s
  · exact .refl s

theorem chanFail_ends (s : State) (c : Nat) (k : Byte) : Ends s (chanFail s c k) := by
  unfold chanFail
  dsimp only
  split
  · exact .refl s
  · exact (decideCmd_ends ..).trans ((Ends.forAll _ (fun _ _ => decideCmd_ends ..) _).trans
      ((undefMem_ends ..).trans ((modChan_ends ..).trans (chanAdvance_ends ..))))

theorem chanFlush_ends (s : State) (c : Nat) : Ends s (chanFlush s c) := by
  unfold chanFlush; exact Ends.trans (Ends.forAll _ (fun _ _ => decideCmd_ends ..) s) (modChan_ends ..)
theorem chanForce_ends (s : State) (c : Nat) : Ends s (chanForce s c) :=
  (chanFail_ends ..).trans ((chanFlush_ends ..).trans (chanClose_ends ..))

/-! ### Faults -/

theorem faultSensor_ends (s : State) : Ends s (faultSensor s) := platformEvent_ends ..
theorem Ends.flt (s : State) (f : FaultSt) : Ends s { s with flt := f } := .of rfl rfl rfl rfl

theorem addLog_ends (s : State) (e : LogEntry) : Ends s (addLog s e) := Ends.flt s _

theorem closePart_ends (s : State) (n k : Nat) (c : Byte) : Ends s (closePart s n k c) := by
  unfold closePart
  dsimp only
  refine .trans ?_ (Ends.forAll _ (fun _ _ => chanFail_ends ..) _)
  refine .trans ?_ (endJobs_ends ..)
  refine .trans ?_ (modPart_ends ..)
  split
  · exact .refl s
  · exact .of rfl rfl rfl rfl

theorem endRecovery_ends (s : State) (n : Nat) : Ends s (endRecovery s n) := by
  unfold endRecovery
  split
  · exact .refl s
  · dsimp only
    split
    · exact modPart_ends ..
    · exact .of rfl rfl rfl rfl

theorem Ends.fltMod (s : State) (f : FaultSt) (m : ModRegs) : Ends s { s with flt := f, mod := m } := .of rfl rfl rfl rfl

theorem dropRoutes_ends (s : State) (n : Nat) : Ends s (dropRoutes s n) := .of rfl rfl rfl rfl

theorem fencePart_ends (s : State) (n : Nat) : Ends s (fencePart s n) := by
  unfold fencePart
  split
  · exact .refl s
  · dsimp only
    refine .trans ?_ (faultSensor_ends ..)
    refine .trans ?_ (Ends.forAll _ (fun _ _ => lowerField_ends ..) _)
    refine .trans ?_ (dropRoutes_ends ..)
    refine .trans ?_ (Ends.fltMod ..)
    refine .trans ?_ (endRecovery_ends ..)
    refine .trans ?_ (modPart_ends ..)
    refine .trans ?_ (Ends.forAll _ (fun _ _ => chanFail_ends ..) _)
    exact endJobs_ends ..

theorem fenceModule_ends (s : State) : Ends s (fenceModule s) := by
  unfold fenceModule
  dsimp only
  refine .trans ?_ (faultSensor_ends ..)
  refine .trans ?_ (Ends.forAll _ (fun _ _ => fencePart_ends ..) _)
  exact Ends.flt s _

theorem hitPart_ends (k : Nat) (c : Byte) (n : Nat) (s : State) : Ends s (hitPart k c n s) := by
  unfold hitPart
  split
  · exact .refl s
  · split
    · exact (modPart_ends ..).trans (fencePart_ends ..)
    · exact closePart_ends ..

theorem Ends.fence {s t : State} (c : Prop) [Decidable c] (h : Ends s t) : Ends s (if c then fenceModule t else t) := by
  split
  · exact h.trans (fenceModule_ends t)
  · exact h

theorem raiseFault_ends (s : State) (k : Nat) (ps : List Nat) (l : Nat) (c : Byte) : Ends s (raiseFault s k ps l c) := by
  unfold raiseFault
  dsimp only
  split
  · exact addLog_ends ..
  · split
    · exact .refl s
    · refine .trans ?_ (addLog_ends ..)
      refine Ends.fence _ ?_
      refine .trans ?_ (Ends.forAll _ (fun _ _ => hitPart_ends ..) _)
      refine .trans ?_ (errorRecord_ends ..)
      exact Ends.flt s _

theorem recordRepair_ends (s : State) (f r c : Nat) : Ends s (recordRepair s f r c) := .of rfl rfl rfl rfl
theorem Ends.modRegs (s : State) (m : ModRegs) : Ends s { s with mod := m } := .of rfl rfl rfl rfl
theorem noteSite_ends (s : State) (p a : Nat) : Ends s (noteSite s p a) := by
  unfold noteSite
  dsimp only
  split
  · exact .refl s
  · split
    · exact (Ends.modRegs s _).trans (recordRepair_ends ..)
    · exact Ends.modRegs s _

/-! ### Operations of a pip -/

theorem applyFx_ends (p : Nat) (f : Fx) (s : State) : Ends s (applyFx p f s) := by
  unfold applyFx
  dsimp only
  split
  · exact .of rfl rfl rfl rfl
  all_goals first
    | exact Ends.modPod _ _ _ fun _ => rfl
    | exact noteSite_ends ..
    | (split
       · exact pipRecord_ends ..
       · exact .refl s)

theorem failPip_ends (s : State) (p : Nat) (c : Byte) (u : Bool) : Ends s (failPip s p c u) := by
  unfold failPip
  split
  · exact .refl s
  · dsimp only
    split
    · exact (endJob_ends ..).trans (raiseFault_ends ..)
    · exact endJob_ends ..

theorem enqueueOne_last (v : PodSt) : (enqueueOne v).last = v.last := by
  unfold enqueueOne
  dsimp only
  split <;> rfl
theorem enqueueInv_last (v : PodSt) : (enqueueInv v).last = v.last := by
  unfold enqueueInv
  generalize List.range (v.pIntx.length / 16) = l
  induction l generalizing v with
  | nil => rfl
  | cons a l ih => exact (ih _).trans (enqueueOne_last v)
theorem checkQueues_ends (p : Nat) (s : State) : Ends s (checkQueues p s) := by
  unfold checkQueues
  dsimp only
  split
  · exact failPip_ends ..
  · exact .refl s

/-- Everything that taking over an operation of a pip can do: beside the pip's own new registers it only ends work. -/
theorem settle_ends (s : State) (p : Nat) (r : PRes) : Ends (setPip s p r.p) (settle s p r) := by
  unfold settle
  dsimp only
  have h : Ends _ (forAll r.fx (applyFx p) (setPip s p r.p)) := Ends.forAll r.fx (fun _ _ => applyFx_ends ..) (setPip s p r.p)
  split
  · exact h.trans (failPip_ends ..)
  · split
    · exact h.trans ((Ends.modPod _ _ _ fun v => enqueueInv_last v).trans (checkQueues_ends ..))
    · exact h

theorem Ends.regs {s t : State} (h : Ends s t) (k : Nat) : (pipOf t k).regs = (pipOf s k).regs :=
  (congrArg PipSt.regs (h.last k) : (pipOf t k).last.regs = _)
theorem Ends.regions {s t : State} (h : Ends s t) (k : Nat) : (pipOf t k).sp.regions = (pipOf s k).sp.regions :=
  (congrArg (fun x => x.sp.regions) (h.last k) : (pipOf t k).last.sp.regions = _)

/-- What lasts in the pips after an operation of pip `p`. -/
theorem settle_last (s : State) (p k : Nat) (r : PRes) :
    (pipOf (settle s p r) k).last = if k = p then r.p.last else (pipOf s k).last := by
  rw [(settle_ends s p r).last k]
  split
  · next h => subst h; simp
  · next h => rw [pipOf_setPip_other s _ h]

theorem settle_lasting (s : State) (p : Nat) (r : PRes) : (settle s p r).lasting = s.lasting := (settle_ends s p r).lasting
theorem settle_wf (s : State) (p : Nat) (r : PRes) (w : Memory.wf s = true) : Memory.wf (settle s p r) = true :=
  (settle_ends s p r).wf w

end Sys2Proof.Machine
end

