-- ==== Sys2Proof/Laws/Issue.lean ====
section
/-!
SUPPORT. What issuing an instruction can do, said once for every instruction of both streams.
-/
namespace Sys2Proof.Machine

/-- A record of a pip changes the trace alone. -/
theorem pipRecord_eq (s : State) (p : Nat) (r : TraceRec) : pipRecord s p r = { s with trc := (pipRecord s p r).trc } := by
  unfold pipRecord
  extract_lets
  repeat' split
  all_goals rfl

@[simp] theorem pipOf_pipRecord (s : State) (p k : Nat) (r : TraceRec) : pipOf (pipRecord s p r) k = pipOf s k := by
  rw [pipRecord_eq]; rfl

@[simp] theorem streamOf_setStream (q : PipSt) (x : Bool) (t : StreamSt) : streamOf (setStream q x t) x = t := by cases x <;> rfl
@[simp] theorem streamOf_setStream_not (q : PipSt) (x : Bool) (t : StreamSt) : streamOf (setStream q x t) (!x) = streamOf q (!x) := by
  cases x <;> rfl
@[simp] theorem setStream_regs (q : PipSt) (x : Bool) (t : StreamSt) : (setStream q x t).regs = q.regs := by cases x <;> rfl
@[simp] theorem setStream_q (q : PipSt) (x : Bool) (t : StreamSt) : (setStream q x t).q = q.q := by cases x <;> rfl
@[simp] theorem setStream_ops (q : PipSt) (x : Bool) (t : StreamSt) : (setStream q x t).ops = q.ops := by cases x <;> rfl
@[simp] theorem setStream_sp (q : PipSt) (x : Bool) (t : StreamSt) : (setStream q x t).sp = q.sp := by cases x <;> rfl
@[simp] theorem issued_regs (q : PipSt) (x : Bool) (c : Nat) : (issued q x c).regs = q.regs := by cases x <;> rfl
@[simp] theorem issued_q (q : PipSt) (x : Bool) (c : Nat) : (issued q x c).q = q.q := by cases x <;> rfl
@[simp] theorem issued_ops (q : PipSt) (x : Bool) (c : Nat) : (issued q x c).ops = q.ops := by cases x <;> rfl
@[simp] theorem issued_sp (q : PipSt) (x : Bool) (c : Nat) : (issued q x c).sp = q.sp := by cases x <;> rfl
@[simp] theorem issued_stream (q : PipSt) (x : Bool) (c : Nat) : streamOf (issued q x c) x = nextInstr (issueAt (streamOf q x) c) := by
  cases x <;> rfl
@[simp] theorem issued_other (q : PipSt) (x : Bool) (c : Nat) : streamOf (issued q x c) (!x) = streamOf q (!x) := by cases x <;> rfl

/-- Nothing stalls an attempt: it acts. -/
@[simp] theorem attempt_nil (r : PRes) : attempt [] r = .acts r := rfl
/-- An attempt that something stalls is held. -/
theorem attempt_ne {ws : List Stall} (h : ws ≠ []) (r : PRes) : attempt ws r = .held ws := if_neg h

/-- What taking over a pip's effect does where the effect outside it is no more than the record of a stall that ends. -/
theorem settle_stall (s : State) (p : Nat) (x : Bool) (q : PipSt) :
    pipOf (settle s p ⟨q, none, stallFx (pipOf s p) x⟩) p = q ∧ OnlyPip s (settle s p ⟨q, none, stallFx (pipOf s p) x⟩) p := by
  unfold settle stallFx
  dsimp only
  split
  · exact ⟨pipOf_setPip_same .., rfl, fun k hk => pipOf_setPip_other _ _ hk⟩
  · show pipOf (applyFx p (.stallEnd x _) (setPip s p q)) p = q ∧ OnlyPip s (applyFx p (.stallEnd x _) (setPip s p q)) p
    unfold applyFx
    dsimp only
    split
    · refine ⟨by simp, ?_, fun k hk => by simp [pipOf_setPip_other s q hk]⟩
      rw [pipRecord_eq]; rfl
    · exact ⟨pipOf_setPip_same .., rfl, fun k hk => pipOf_setPip_other _ _ hk⟩

section
variable {s : State} {p : Nat} {x ok : Bool} {i : Instr} {f : PipSt → Attempt} {ws : List Stall} {q : PipSt} {r : PRes}

/-- What an attempt to issue the next instruction comes to. -/
theorem issueBy_ready (hr : Ready s p x i) (act : PipSt → Attempt) :
    issueBy s p x i act = match act (pipOf s p) with
      | .held ws => modPip s p fun q => heldPip q x ws
      | .acts r => settle s p { r with fx := stallFx (pipOf s p) x ++ r.fx } := by
  unfold issueBy
  rw [hr.2.1, hr.2.2]
  rfl

/-- An instruction that acts on its pip as `q` alone has that effect. -/
theorem issue_effect (hr : Ready s p x i) (hok : ok = true) (hf : f (pipOf s p) = .acts (done q)) :
    Effect s (issue s p x i ok f) p x q := by
  unfold issue
  rw [issueBy_ready hr, hok]
  simp only [Bool.not_true, Bool.false_eq_true, if_false, hf]
  have h := settle_stall s p x (issued q x s.cycle)
  simpa [PRes.andThen, done, Effect] using h

/-- An instruction that acts with effects outside its pip, and does not end its job. -/
theorem issue_settles (hr : Ready s p x i) (hok : ok = true) (hf : f (pipOf s p) = .acts r) (hn : r.fail = none) :
    issue s p x i ok f = settle s p ⟨issued r.p x s.cycle, none, stallFx (pipOf s p) x ++ r.fx⟩ := by
  unfold issue
  rw [issueBy_ready hr, hok]
  simp [hf, PRes.andThen, done, hn]

/-- An instruction that something stalls is held. -/
theorem issue_held (hr : Ready s p x i) (hok : ok = true) (hf : f (pipOf s p) = .held ws) (hw : ws ≠ []) :
    Held s (issue s p x i ok f) p x ws := by
  refine ⟨hw, ?_⟩
  unfold issue
  rw [issueBy_ready hr, hok]
  simp only [Bool.not_true, Bool.false_eq_true, if_false, hf]
  rfl

/-- An instruction whose operands are out of range ends the job (R70, R86). -/
theorem issue_refused (hr : Ready s p x i) (hok : ok = false) :
    issue s p x i ok f = settle s p ⟨pipOf s p, some eDesc, stallFx (pipOf s p) x⟩ := by
  unfold issue
  rw [issueBy_ready hr, hok]
  simp [failWith]

/-- A control instruction that nothing stalls: control goes where it says. -/
theorem issueJump_jumps {hold : PipSt → List Stall} {pre : PipSt → PipSt} {g : PipSt → StreamSt → StreamSt}
    (hr : Ready s p x i) (hok : ok = true) (hh : hold (pipOf s p) = []) :
    Jumps s (issueJump s p x i ok hold pre g) p x (g (pipOf s p) (issueAt (streamOf (pre (pipOf s p)) x) s.cycle)) (pre (pipOf s p)) := by
  unfold issueJump
  rw [issueBy_ready hr, hok]
  simp only [Bool.not_true, Bool.false_eq_true, if_false, hh, attempt_nil]
  have h := settle_stall s p x (tried (modStream (pre (pipOf s p)) x fun t => g (pipOf s p) (issueAt t s.cycle)) x)
  simpa [done, Jumps, modStream] using h

/-- An attempt that is not the stream's next instruction, or comes twice in a cycle, changes nothing (log 2). -/
theorem issueBy_not_next (h : isNext s p x i = false) (act : PipSt → Attempt) : issueBy s p x i act = s := by
  unfold issueBy; rw [h]; rfl

end

end Sys2Proof.Machine
end

