-- ==== Sys2Proof/Laws/Memory.lean ====
section
/-!
SUPPORT. Laws of the module's memory and of credits: a read after a write, the canonical form kept by zeroing, and what a
returning credit can do.
-/
namespace Sys2Proof.Machine

theorem reset_memory_wf : Memory.wf State.reset = true := by decide

/-- Zeroing a range keeps the canonical form. -/
theorem zeroRange_wf (t : Tab Byte) (a n : Nat) (w : Tab.wf (0 : Byte) t = true) : Tab.wf (0 : Byte) (zeroRange t a n) = true :=
  Tab.wf_filter _ _ _ w

/-! ### Runs of a table -/

@[simp] theorem length_getMany (d : Byte) (t : Tab Byte) (i n : Nat) : (Tab.getMany d t i n).length = n := by
  induction n generalizing i with
  | zero => rfl
  | succ n ih => simp [Tab.getMany, ih]

theorem getD_getMany (d : Byte) (t : Tab Byte) (i n k : Nat) (h : k < n) : (Tab.getMany d t i n).getD k 0 = Tab.get d t (i + k) := by
  induction n generalizing i k with
  | zero => omega
  | succ n ih =>
    cases k with
    | zero => simp [Tab.getMany]
    | succ k =>
      have := ih (i + 1) k (by omega)
      rw [show i + (k + 1) = i + 1 + k by omega, ← this]
      simp [Tab.getMany]

theorem getMany_congr (d : Byte) (t u : Tab Byte) (i n : Nat) (h : ∀ k, i ≤ k → k < i + n → Tab.get d t k = Tab.get d u k) :
    Tab.getMany d t i n = Tab.getMany d u i n := by
  induction n generalizing i with
  | zero => rfl
  | succ n ih => simp only [Tab.getMany]; rw [h i (by omega) (by omega), ih (i + 1) fun k a b => h k (by omega) (by omega)]

/-- A run that has just been written reads as written. -/
theorem getMany_setMany (d : Byte) (t : Tab Byte) (i : Nat) (l : List Byte) : Tab.getMany d (Tab.setMany d t i l) i l.length = l := by
  refine List.ext_getElem (by simp) fun k h1 h2 => ?_
  have e := getD_getMany d (Tab.setMany d t i l) i l.length k h2
  rw [Tab.get_setMany, if_pos (by omega), Nat.add_sub_cancel_left] at e
  simpa [h2] using e

@[simp] theorem length_toBytes (n w : Nat) : (toBytes n w).length = n := by
  induction n generalizing w with
  | zero => rfl
  | succ n ih => simp [toBytes, ih]

/-- Bytes go through their number unchanged. -/
theorem toBytes_ofBytes (l : List Byte) : toBytes l.length (ofBytes l) = l := by
  induction l with
  | nil => rfl
  | cons b l ih =>
    simp only [List.length_cons, toBytes, ofBytes]
    have h1 : (b.toNat + 256 * ofBytes l) / 256 = ofBytes l := by have := b.isLt; omega
    rw [h1, ih]
    congr 1
    apply BitVec.eq_of_toNat_eq
    simp only [BitVec.toNat_ofNat]
    have := b.isLt; omega

theorem ofBytes_lt (l : List Byte) : ofBytes l < 256 ^ l.length := by
  induction l with
  | nil => simp [ofBytes]
  | cons b l ih => simp only [ofBytes, List.length_cons, Nat.pow_succ]; have := b.isLt; omega

/-! ### What a line and a word read as -/

@[simp] theorem length_hbmLine (s : State) (l : Nat) : (hbmLine s l).bytes.length = 128 := by
  unfold hbmLine
  dsimp only
  split
  · simp
  · split
    · simp [flipBytes]
    · split <;> simp [flipBytes]

/-- A line without flipped bits reads as it is stored. -/
theorem hbmLine_clean (s : State) (l : Nat) (h : Tab.get 0 s.hbmFlips l = 0) :
    (hbmLine s l).bytes = Tab.getMany 0 s.hbm (128 * l) 128 := by
  unfold hbmLine; dsimp only; rw [if_pos (by rw [h]; simp)]

/-- A line reads alike in states that store it alike. -/
theorem hbmLine_congr {s t : State} {l : Nat} (hb : Tab.getMany 0 s.hbm (128 * l) 128 = Tab.getMany 0 t.hbm (128 * l) 128)
    (hf : Tab.get 0 s.hbmFlips l = Tab.get 0 t.hbmFlips l) (hg : s.granules = t.granules) : hbmLine s l = hbmLine t l := by
  have hk : granSt s false (l / 2 ^ 23) = granSt t false (l / 2 ^ 23) := by unfold granSt; simp [hg]
  unfold hbmLine
  rw [hb, hf, hk]

/-- A word without flipped bits reads as it is stored. -/
theorem stgWord_clean (s : State) (w : Nat) (h : Tab.get 0 s.stgFlips w = 0) :
    toBytes 8 (stgWord s w).word.toNat = Tab.getMany 0 s.staging (8 * w) 8 := by
  unfold stgWord codeWord
  rw [h, show popCount 72 (0 : BitVec 72).toNat = 0 by decide]
  simp only [BitVec.toNat_ofNat]
  have hl := length_getMany 0 s.staging (8 * w) 8
  have hlt := ofBytes_lt (Tab.getMany 0 s.staging (8 * w) 8)
  rw [hl] at hlt
  rw [Nat.mod_eq_of_lt (by omega)]
  have := toBytes_ofBytes (Tab.getMany 0 s.staging (8 * w) 8)
  rwa [hl] at this

theorem stgWord_congr {s t : State} {w : Nat} (hb : Tab.getMany 0 s.staging (8 * w) 8 = Tab.getMany 0 t.staging (8 * w) 8)
    (hf : Tab.get 0 s.stgFlips w = Tab.get 0 t.stgFlips w) : stgWord s w = stgWord t w := by
  unfold stgWord
  rw [hb, hf]

theorem linesOf_one (a : Nat) : linesOf a 1 = [a / 128] := by
  unfold linesOf; rw [show (a + 1 + 127) / 128 - a / 128 = 1 by omega]; simp
theorem wordsIn_one (a : Nat) : wordsIn a 1 = [a / 8] := by
  unfold wordsIn; rw [show (a + 1 + 7) / 8 - a / 8 = 1 by omega]; simp

theorem mem_linesOf {a n k : Nat} : k ∈ linesOf a n ↔ a / 128 ≤ k ∧ 128 * k < a + n := by
  unfold linesOf
  simp only [List.mem_map, List.mem_range]
  constructor
  · rintro ⟨i, h, rfl⟩; omega
  · intro h; exact ⟨k - a / 128, by omega, by omega⟩
theorem mem_wordsIn {a n k : Nat} : k ∈ wordsIn a n ↔ a / 8 ≤ k ∧ 8 * k < a + n := by
  unfold wordsIn
  simp only [List.mem_map, List.mem_range]
  constructor
  · rintro ⟨i, h, rfl⟩; omega
  · intro h; exact ⟨k - a / 8, by omega, by omega⟩

theorem headD_slice (l : List Byte) (i : Nat) : (slice l i 1).headD 0 = l.getD i 0 := by
  unfold slice
  rw [List.headD_eq_head?_getD, List.head?_take]
  simp

/-- One byte of HBM, of the staging buffers, or of no memory, as it reads. -/
theorem byteAt_eq (s : State) (a : Nat) : byteAt s a =
    if isHbm a then (hbmLine s (a / 128)).bytes.getD (a % 128) 0
    else if isStg a then (toBytes 8 (stgWord s ((a - stgBase) / 8)).word.toNat).getD ((a - stgBase) % 8) 0 else 0 := by
  unfold byteAt memRead
  generalize a - stgBase = o
  split
  · split
    · next h =>
      rw [hbmLine_clean _ _ (by rw [h]; rfl), getD_getMany _ _ _ _ _ (Nat.mod_lt _ (by decide)), Nat.div_add_mod]
      simp [Tab.getMany]
    · rw [linesOf_one, headD_slice]; simp
  · split
    · dsimp only
      split
      · next h =>
        rw [stgWord_clean _ _ (by rw [h]; rfl), getD_getMany _ _ _ _ _ (Nat.mod_lt _ (by decide)), Nat.div_add_mod]
        simp [Tab.getMany]
      · rw [wordsIn_one, headD_slice]; simp
    · rfl

/-! ### A write -/

/-- Storing a line as it reads changes no byte that a read gives, and clears the flips of that line alone. -/
theorem freshLine_reads (l k : Nat) (s : State) :
    (hbmLine (freshLine l s) k).bytes = (hbmLine s k).bytes ∧
    Tab.get 0 (freshLine l s).hbmFlips k = if k = l then 0 else Tab.get 0 s.hbmFlips k := by
  unfold freshLine
  split
  · next h =>
    refine ⟨rfl, ?_⟩
    split
    · next e => rw [e]; exact h
    · rfl
  · refine ⟨?_, by simp only [Tab.get_set]⟩
    by_cases hk : k = l
    · subst hk
      rw [hbmLine_clean _ _ (by simp only [Tab.get_set_same])]
      have := getMany_setMany 0 s.hbm (128 * k) (hbmLine s k).bytes
      rwa [length_hbmLine] at this
    · rw [hbmLine_congr (s := { s with hbm := Tab.setMany 0 s.hbm (128 * l) (hbmLine s l).bytes, hbmFlips := Tab.set 0 s.hbmFlips l 0 }) (t := s) (getMany_congr _ _ _ _ _ fun i h1 h2 => ?_) (by simp only [Tab.get_set_other _ _ _ hk]) rfl]
      dsimp only
      rw [Tab.get_setMany, if_neg (by rw [length_hbmLine]; omega)]

theorem freshLines_reads (ls : List Nat) (k : Nat) (s : State) :
    (hbmLine (forAll ls freshLine s) k).bytes = (hbmLine s k).bytes ∧
    Tab.get 0 (forAll ls freshLine s).hbmFlips k = if k ∈ ls then 0 else Tab.get 0 s.hbmFlips k := by
  induction ls generalizing s with
  | nil => exact ⟨rfl, by simp [forAll]⟩
  | cons l ls ih =>
    obtain ⟨a, b⟩ := ih (freshLine l s)
    obtain ⟨c, d⟩ := freshLine_reads l k s
    refine ⟨a.trans c, b.trans ?_⟩
    rw [d]
    by_cases h1 : k ∈ ls <;> by_cases h2 : k = l <;> simp [h1, h2]

/-- The bytes of HBM after a write to it. -/
theorem storeHbm_reads (s : State) (a : Nat) (bs : List Byte) (x : Nat) :
    (hbmLine (storeHbm s a bs) (x / 128)).bytes.getD (x % 128) 0 =
      if a ≤ x ∧ x < a + bs.length then bs.getD (x - a) 0 else (hbmLine s (x / 128)).bytes.getD (x % 128) 0 := by
  obtain ⟨hr, hf⟩ := freshLines_reads (linesOf a bs.length) (x / 128) s
  unfold storeHbm
  dsimp only
  generalize ht : forAll (linesOf a bs.length) freshLine s = t at hr hf
  by_cases hm : x / 128 ∈ linesOf a bs.length
  · rw [if_pos hm] at hf
    rw [hbmLine_clean { t with hbm := Tab.setMany 0 t.hbm a bs } _ hf, getD_getMany _ _ _ _ _ (Nat.mod_lt _ (by decide)), Nat.div_add_mod, ← hr,
      hbmLine_clean t _ hf, getD_getMany _ _ _ _ _ (Nat.mod_lt _ (by decide)), Nat.div_add_mod, Tab.get_setMany]
  · rw [if_neg (fun h => hm (mem_linesOf.mpr (by omega))), ← hr]
    rw [mem_linesOf] at hm
    rw [hbmLine_congr (s := { t with hbm := Tab.setMany 0 t.hbm a bs }) (t := t) (getMany_congr _ _ _ _ _ fun i h1 h2 => ?_) rfl rfl]
    dsimp only
    rw [Tab.get_setMany, if_neg (by omega)]

theorem freshWord_reads (l k : Nat) (s : State) :
    toBytes 8 (stgWord (freshWord l s) k).word.toNat = toBytes 8 (stgWord s k).word.toNat ∧
    Tab.get 0 (freshWord l s).stgFlips k = if k = l then 0 else Tab.get 0 s.stgFlips k := by
  unfold freshWord
  split
  · next h =>
    refine ⟨rfl, ?_⟩
    split
    · next e => rw [e]; exact h
    · rfl
  · refine ⟨?_, by simp only [Tab.get_set]⟩
    by_cases hk : k = l
    · subst hk
      rw [stgWord_clean _ _ (by simp only [Tab.get_set_same])]
      have := getMany_setMany 0 s.staging (8 * k) (toBytes 8 (stgWord s k).word.toNat)
      rwa [length_toBytes] at this
    · rw [stgWord_congr
        (s := { s with staging := Tab.setMany 0 s.staging (8 * l) (toBytes 8 (stgWord s l).word.toNat), stgFlips := Tab.set 0 s.stgFlips l 0 })
        (t := s) (getMany_congr _ _ _ _ _ fun i h1 h2 => ?_) (by simp only [Tab.get_set_other _ _ _ hk])]
      dsimp only
      rw [Tab.get_setMany, if_neg (by rw [length_toBytes]; omega)]

theorem freshWords_reads (ls : List Nat) (k : Nat) (s : State) :
    toBytes 8 (stgWord (forAll ls freshWord s) k).word.toNat = toBytes 8 (stgWord s k).word.toNat ∧
    Tab.get 0 (forAll ls freshWord s).stgFlips k = if k ∈ ls then 0 else Tab.get 0 s.stgFlips k := by
  induction ls generalizing s with
  | nil => exact ⟨rfl, by simp [forAll]⟩
  | cons l ls ih =>
    obtain ⟨a, b⟩ := ih (freshWord l s)
    obtain ⟨c, d⟩ := freshWord_reads l k s
    refine ⟨a.trans c, b.trans ?_⟩
    rw [d]
    by_cases h1 : k ∈ ls <;> by_cases h2 : k = l <;> simp [h1, h2]

/-- The bytes of the staging buffers after a write to them. -/
theorem storeStg_reads (s : State) (a : Nat) (bs : List Byte) (x : Nat) :
    (toBytes 8 (stgWord (storeStg s a bs) (x / 8)).word.toNat).getD (x % 8) 0 =
      if a ≤ x ∧ x < a + bs.length then bs.getD (x - a) 0 else (toBytes 8 (stgWord s (x / 8)).word.toNat).getD (x % 8) 0 := by
  obtain ⟨hr, hf⟩ := freshWords_reads (wordsIn a bs.length) (x / 8) s
  unfold storeStg
  dsimp only
  generalize ht : forAll (wordsIn a bs.length) freshWord s = t at hr hf
  by_cases hm : x / 8 ∈ wordsIn a bs.length
  · rw [if_pos hm] at hf
    rw [stgWord_clean { t with staging := Tab.setMany 0 t.staging a bs } _ hf, getD_getMany _ _ _ _ _ (Nat.mod_lt _ (by decide)), Nat.div_add_mod,
      ← hr, stgWord_clean t _ hf, getD_getMany _ _ _ _ _ (Nat.mod_lt _ (by decide)), Nat.div_add_mod, Tab.get_setMany]
  · rw [if_neg (fun h => hm (mem_wordsIn.mpr (by omega))), ← hr]
    rw [mem_wordsIn] at hm
    rw [stgWord_congr (s := { t with staging := Tab.setMany 0 t.staging a bs }) (t := t) (getMany_congr _ _ _ _ _ fun i h1 h2 => ?_) rfl]
    dsimp only
    rw [Tab.get_setMany, if_neg (by omega)]

/-- A write to HBM leaves what the staging buffers read as, and the other way round. -/
theorem stgWord_freshLine (l w : Nat) (s : State) : stgWord (freshLine l s) w = stgWord s w := by
  apply stgWord_congr <;> (unfold freshLine; split <;> rfl)
theorem stgWord_freshLines (ls : List Nat) (w : Nat) (s : State) : stgWord (forAll ls freshLine s) w = stgWord s w := by
  induction ls generalizing s with
  | nil => rfl
  | cons l ls ih => exact (ih _).trans (stgWord_freshLine ..)
theorem stgWord_storeHbm (s : State) (a w : Nat) (bs : List Byte) : stgWord (storeHbm s a bs) w = stgWord s w :=
  (stgWord_congr rfl rfl).trans (stgWord_freshLines (linesOf a bs.length) w s)
theorem hbmLine_freshWord (w l : Nat) (s : State) : hbmLine (freshWord w s) l = hbmLine s l := by
  apply hbmLine_congr <;> (unfold freshWord; split <;> rfl)
theorem hbmLine_freshWords (ws : List Nat) (l : Nat) (s : State) : hbmLine (forAll ws freshWord s) l = hbmLine s l := by
  induction ws generalizing s with
  | nil => rfl
  | cons w ws ih => exact (ih _).trans (hbmLine_freshWord ..)
theorem hbmLine_storeStg (s : State) (o l : Nat) (bs : List Byte) : hbmLine (storeStg s o bs) l = hbmLine s l :=
  (hbmLine_congr rfl rfl rfl).trans (hbmLine_freshWords (wordsIn o bs.length) l s)

/-- After a write that lies in one memory, its bytes read as written and every other byte as before. -/
theorem memWrite_writes (s : State) (a : Nat) (bs : List Byte) (hb : bs ≠ []) (h : OneMemory a bs.length) :
    Writes s (memWrite s a bs) a bs := by
  have hl : 0 < bs.length := List.length_pos_iff.mpr hb
  intro x
  rw [byteAt_eq, byteAt_eq]
  rcases h with ⟨h1, h2⟩ | ⟨h1, h2⟩
  · have hw : memWrite s a bs = storeHbm s a bs := by unfold memWrite; rw [if_pos h1]
    rw [hw, storeHbm_reads, stgWord_storeHbm]
    simp only [isHbm, decide_eq_true_eq] at h1 h2
    by_cases hx : a ≤ x ∧ x < a + bs.length
    · have : isHbm x = true := by simp only [isHbm, decide_eq_true_eq]; omega
      rw [if_pos this, if_pos hx, if_pos hx]
    · rw [if_neg hx, if_neg hx]
  · have far (y : Nat) (hy : stgBase ≤ y) : isHbm y = false := by
      have : hbmTop ≤ stgBase := by decide
      exact decide_eq_false (by omega)
    have hn : isHbm a = false := far a (by
      simp only [isStg, Bool.and_eq_true, decide_eq_true_eq] at h1; exact h1.1)
    have hw : memWrite s a bs = storeStg s (a - stgBase) bs := by
      unfold memWrite; rw [hn, if_neg (by simp), if_pos h1]
    rw [hw, storeStg_reads, hbmLine_storeStg]
    simp only [isStg, Bool.and_eq_true, decide_eq_true_eq] at h1 h2
    by_cases hx : a ≤ x ∧ x < a + bs.length
    · have e1 : isHbm x = false := far x (by omega)
      have e2 : isStg x = true := by
        simp only [isStg, Bool.and_eq_true, decide_eq_true_eq]; omega
      have e3 : a - stgBase ≤ x - stgBase ∧ x - stgBase < a - stgBase + bs.length := by omega
      have e4 : x - stgBase - (a - stgBase) = x - a := by omega
      rw [e1, e2, if_neg (by simp), if_pos rfl, if_pos e3, if_pos hx, e4]
    · rw [if_neg hx]
      by_cases e2 : isStg x = true
      · have e3 : ¬(a - stgBase ≤ x - stgBase ∧ x - stgBase < a - stgBase + bs.length) := by
          simp only [isStg, Bool.and_eq_true, decide_eq_true_eq] at e2; omega
        rw [if_neg e3]
      · rw [if_neg e2, if_neg e2]

/-- What a credit can do (R111): it completes the oldest flit that lacks only it, or is taken off the oldest flit that lacks it, or
no flit lacks it and nothing changes. -/
theorem takenBy_cases (d : Nat) (l : List (List Nat)) :
    (∃ p f q, l = p ++ f :: q ∧ f.contains d = true ∧ (∀ g ∈ p, g.contains d = false) ∧
      ((f.erase d = [] ∧ takenBy d l = (p ++ q, true)) ∨ (f.erase d ≠ [] ∧ takenBy d l = (p ++ f.erase d :: q, false)))) ∨
    ((∀ g ∈ l, g.contains d = false) ∧ takenBy d l = (l, false)) := by
  induction l with
  | nil => exact .inr ⟨by simp, rfl⟩
  | cons f l ih =>
    by_cases hf : f.contains d = true
    · refine .inl ⟨[], f, l, rfl, hf, by simp, ?_⟩
      by_cases he : f.erase d = []
      · exact .inl ⟨he, by simp only [takenBy, hf, he, if_true, List.nil_append]⟩
      · exact .inr ⟨he, by simp only [takenBy, hf, he, if_true, if_false, List.nil_append]⟩
    · have hf' : f.contains d = false := by simpa using hf
      rcases ih with ⟨p, g, q, rfl, hg, hp, h⟩ | ⟨hn, h⟩
      · refine .inl ⟨f :: p, g, q, rfl, hg, ?_, ?_⟩
        · intro x hx
          rcases List.mem_cons.mp hx with rfl | hx
          · exact hf'
          · exact hp x hx
        · rcases h with ⟨he, h⟩ | ⟨he, h⟩
          · exact .inl ⟨he, by unfold takenBy; rw [hf', h]; rfl⟩
          · exact .inr ⟨he, by unfold takenBy; rw [hf', h]; rfl⟩
      · refine .inr ⟨?_, by unfold takenBy; rw [hf', h]; rfl⟩
        intro x hx
        rcases List.mem_cons.mp hx with rfl | hx
        · exact hf'
        · exact hn x hx

end Sys2Proof.Machine
end

