-- ==== Sys2Proof/Tests/Slice0.lean ====
section
/-!
SUPPORT. Small tests: ill-formed commands that the checks refuse, values that the specification works out, and for each
statement states and operands that meet the hypotheses of its clauses.
-/
namespace Sys2Proof.Tests

open Sys2Proof Sys2Proof.Machine

set_option Elab.async false

/-! ### Small states -/

/-- A job of context 3 that runs on pod 0 in partition 0. -/
def job0 : Job := { id := 0, cmd := 7, ctx := 3, part := 0, phase := .running, prog := 0x10000 }

/-- Context 3 of host 0, bound to partition 0, with eight sync objects. -/
def ctx3 : CtxSt := { created := true, part := 1, jobq := 8, scount := 8, qbase := 0x8000 }

/-- Partition 0 is the module; field 0 is in F0; host 0 owns granule 0 and the pages of contexts 0 to 15. -/
def base : State :=
  { State.reset with
    parts := [(0, { valid := true, fx1 := 7, fy1 := 7, hasPlan := true, hostMask := 1 })]
    ctxs := [(3, ctx3)], fields := [(0, { state := .f0 })]
    granules := [(0, { prot := 1, share := true })], sgranules := [(0, { prot := 1, share := true })]
    cxl := { pages := [(0, (0, true))] } }

/-- The pips of pod 0, all in the same state. -/
def onPod (q : PipSt) : Tab PipSt := (pipsOfPod 0).map fun p => (p, q)

/-- The state of a pip of the job. -/
def live (q : PipSt) : PipSt :=
  { q with job := 1, loaded := true, loadOk := true, chainIn := true, ringAt := 1, descIn := true, st := { q.st with context := 3 }
           sp := { q.sp with regions := [(0, { base := 0, len := 2047, ctx := 3, valid := true })] } }

/-- The job runs, with every pip of the pod in the state `q`. -/
def running (q : PipSt) : State := { base with jobs := [job0], pips := onPod (live q), cycle := 4096 }

/-- The job runs, with every pip of the pod in the state `q` at the start of a cycle, and `i` is the one instruction of stream `x`. -/
def issuing (x : Bool) (i : Instr) (q : PipSt) : State :=
  let u : StreamSt := { prog := [BitVec.ofNat 64 ((encodeInstr i).getD (x, 0)).2] }
  running (sample (setStream (setStream q x u) (!x) { ended := true }))

/-- Memory that holds bytes from an address on. -/
def bytesAt (a : Nat) (bs : List Byte) : Tab Byte := (List.zip (List.range' a bs.length) bs).filter fun e => e.2 ≠ 0

/-- A command of 64 bytes: OPC, FLAGS, and its bytes from 16 on. -/
def cmdOf16 (opc flags : Nat) (b : List Byte) : List Byte :=
  toBytes 2 (opc + 256 * flags) ++ List.replicate 14 0 ++ b ++ List.replicate (48 - b.length) 0

/-- Context 3 with a command read and ready. -/
def withCmd (b : List Byte) : State := { base with ctxs := [(3, { ctx3 with ahead := [b], readyAt := 1 })] }

/-- The state with an empty repair map, whose fingerprint is that of the empty string. -/
def bare (s : State) : State := { s with mod := { s.mod with map := [] } }


/-! ### Well-formedness: each check refuses an ill-formed command -/

theorem test_wf_numbers :
    ∀ i ∈ [Instr.nop 10240 true 1, .tsw 0 0, .tsw 0 1024, .residueCompare 640 true, .commandRead 10240, .clr .acorn 10240,
        .pendingRepair 64 0 0, .pendingRepair 0 8 0, .pendingRepair 0 0 21, .modPart .acorn 16 0, .pipRegion .acorn 0 16 0,
        .streamRunStart 0 5, .gset 0 4, .linkDown 36, .localStep 16, .scrub 768, .hbmIdle 12 0, .hbmIdle 0 32, .ideFail 4,
        .create 16, .fieldGate 64, .recoveryIdle 16, .execEnd ⟨16, false⟩, .cxlCtxpage .acorn 640 0, .requestWord 0 9 0 0],
      i.wellFormed = false := by decide
theorem test_wf_registers :
    ∀ i ∈ [Instr.registerWrite .acorn 0 0 0, .registerWrite .acorn (2 ^ 26) 4 0, .registerWrite .acorn 0 9 0,
        .counterLowRead 16 ⟨0, 4⟩, .counterLowRead 0 ⟨0, 0⟩, .counterLowRead 0 ⟨2 ^ 26, 4⟩], i.wellFormed = false := by decide
theorem test_wf_transfers :
    ∀ i ∈ [Instr.ldq 0 1 { qsel := 5 }, .stq 0 1 { qsel := 0 }, .msnd 0 1 { qsel := 4 }, .mrcv 0 1 { qsel := 8 },
        .ldq 0 1 { handle := 256 }, .ldq 0 1 { areg := 16 }, .ldq 0 1 { count := 0 }, .ldq 0 1 { count := 65536 },
        .ldq 0 1 { port := 4 }, .ldq 0 1 { post := true, idx := true }, .dma 0 1 { ahbm := 16 }, .dma 0 1 { asp := 16 },
        .dma 0 1 { handle := 256 }, .dma 0 1 { len := 0 }, .dma 0 1 { len := 16384 }, .swap 0 1 256, .dld 0 1 256 0, .dld 0 1 0 16,
        .strmStart 0 1 16 0, .strmStart 0 1 0 5, .strmWait 0 1 5, .sigl 0 1 16384 1, .sigl 0 1 0 0, .sigl 0 1 0 65536],
      i.wellFormed = false := by decide
theorem test_wf_scalars :
    ∀ i ∈ [Instr.aop 0 1 { ad := 16 }, .aop 0 1 { as_ := 16 }, .aop 0 1 { fn := 6 }, .aop 0 1 { imm := 2 ^ 32 },
        .sop 0 1 { sd := 32 }, .sop 0 1 { sa := 32 }, .sop 0 1 { sb := 32 }, .sop 0 1 { fn := 18 }, .sop 0 1 { imm := 2 ^ 24 },
        .sld 0 1 { sd := 32 }, .sld 0 1 { sa := 32 }, .sld 0 1 { handle := 256 }, .sst 0 1 { size := 4 }, .sst 0 1 { imm := 2 ^ 24 },
        .spush 0 1 32, .ssum 0 1 32 0, .ssum 0 1 0 4, .lrxset 0 1 64 0, .lrxset 0 1 0 32], i.wellFormed = false := by decide
theorem test_wf_control :
    ∀ i ∈ [Instr.loop 0 true 1 4 1, .loop 0 true 1 0 0, .loop 0 true 1 0 8192, .brf 0 true 1 { cond := 32 }, .brf 0 false 1 { cond := 17 },
        .brf 0 true 1 { test := 4 }, .brf 0 true 1 { na := 256 }, .brf 0 true 1 { nb := 256 }, .brf 0 true 1 { pad := 0 },
        .brf 0 true 1 { pad := 65536 }, .lcset 0 true 1 4 0 0 0, .lcset 0 true 1 0 2 0 0, .lcset 0 false 1 0 3 0 0,
        .lcset 0 true 1 0 1 32 0, .lcset 0 false 1 0 1 16 0, .lcset 0 true 1 0 0 0 65536], i.wellFormed = false := by decide
theorem test_wf_units :
    ∀ i ∈ [Instr.tlw 0 1 0, .tlw 0 1 17, .tmm 0 1 false false 16 0, .tmm 0 1 false false 0 16, .tdrn 0 1 false 16 false,
        .nttx 0 1 { rslot := 16 }, .nttx 0 1 { count := 0 }, .nttx 0 1 { count := 65536 }, .meshFlitSend 0 4 0,
        .meshFlitSend 0 0 4096, .modCtxGrant .acorn 0 8 0, .hbmHot 0 256, .cxlMemRead 0 0 0 0, .cxlMemWrite 0 0 [],
        .hdmDecoderCommit 0 4 0 0 0, .temperatureReading 0 256, .monitorRead 0 [], .cdcTimeout (.job 10240), .cdcTimeout (.field 64),
        .dynamicAddress 128, .pldmSensorRead 0, .pldmSensorRead 8, .setMgmt 32, .enrolOwner [], .readFaultLog 4096,
        .firmwareUpdateComponent 0 false [], .firmwareUpdateComponent 5 false [], .samplePreload 128 0, .samplePreload 0 128, .flitLock 36 0, .flitLock 0 3,
        .headLinkUp 0 0 1, .headLinkUp 0 17 1, .headLinkUp 0 1 0, .headLinkUp 0 1 4], i.wellFormed = false := by decide
/-- Every operand at the end of its range is well formed. -/
theorem test_wf_ends :
    ∀ i ∈ [Instr.nop 10239 true 1023, .ldq 10239 1023 { qsel := 4, handle := 255, areg := 15, count := 65535, port := 3, idx := true },
        .stq 0 1 { qsel := 9 }, .msnd 0 1 { qsel := 5 }, .mrcv 0 1 { qsel := 5 }, .dma 0 1 { len := 16383 }, .strmStart 0 1 15 4,
        .loop 0 true 1 3 8191, .brf 0 true 1 { cond := 31, pad := 65535 }, .lcset 0 false 1 3 2 31 65535, .tlw 0 1 16, .sop 0 1 { fn := 17 },
        .registerWrite .acorn (2 ^ 26 - 8) 8 0, .hbmGran .acorn 767 0, .pendingRepair 63 7 20], i.wellFormed = true := by decide

/-! ### Hypotheses met: pips -/

/-- A tensor descriptor of 16 lines from address 0 in FMT 1 (Table 5.3). -/
def tensor16 : BitVec 512 := 3#512 <<< 47 ||| 16#512 <<< 128 ||| 128#512 <<< 160 ||| 1#512 <<< 448

/-- A ring image with one slot of 1,024 points and the prime 786,433 = 3 × 2^18 + 1 (Tables 8.1 to 8.3). -/
def ringImage : List Byte :=
  toBytes 8 (10 + 2 ^ 12 + 3 * 2 ^ 19 + 2 ^ 44) ++ List.replicate 248 0 ++ toBytes 4 786433 ++ toBytes 4 730318

/-- A chain configuration that passes every check: VALID and nothing else. -/
def chain0 : Chain := { image := toBytes 4 (2 ^ 31), imageOk := true }

/-- A pip with an entry in the SCQ. -/
def withScq : PipSt := { q := { scq := [5] } }

/-- The instruction is the one that its stream tries to issue, on a pip in the state `q`. -/
def readyOn (x : Bool) (i : Instr) (q : PipSt) : Prop := Ready (issuing x i q) 0 x i

theorem wit_RegisterInstructions :
    readyOn false (.nop 0 false 1) {} ∧ readyOn true (.nop 0 true 1023) {} ∧ readyOn false (.swap 0 1 255) {} ∧
    readyOn false (.aop 0 1 { ad := 15, fn := 5, imm := 2 ^ 32 - 1 }) {} ∧ readyOn false (.aop 0 1 { fn := 3 }) withScq ∧
    readyOn true (.lcset 0 true 1 3 1 31 0) {} ∧ readyOn false (.lcset 0 false 1 3 2 31 65535) withScq := by
  unfold readyOn Ready; decide +kernel
theorem wit_RegisterInstructions_scalar :
    readyOn true (.sop 0 1 { sd := 31, fn := 17, imm := 2 ^ 24 - 1 }) {} ∧ readyOn true (.ssum 0 1 31 3) {} ∧
    readyOn true (.lrxset 0 1 63 31) {} ∧ readyOn true (.spush 0 1 31) {} := by unfold readyOn Ready; decide +kernel
theorem wit_RegisterInstructions_reads :
    (let q := pipOf (issuing false (.nop 0 false 1) withScq) 0
     q.descIn = true ∧ canPop q qScq = true ∧ canPut q qScq 1 = true ∧ q.chn.readyAt ≤ 4096) ∧
    CanRead (running {}) 0 (sopReads { sd := 31, sa := 31, sb := 31 }) ∧ aOk { ad := 15, fn := 5, imm := 2 ^ 32 - 1 } = true ∧
    lcsetOk false 3 2 31 65535 = true ∧ sOk { sd := 31, fn := 17, imm := 2 ^ 24 - 1 } = true := by unfold CanRead; decide +kernel
theorem wit_ControlInstructions :
    readyOn true (.loop 0 true 1 3 8191) {} ∧ readyOn false (.brf 0 false 1 { cond := 16, pad := 1 }) withScq ∧
    readyOn true (.brf 0 true 1 { cond := 31, na := 255, nb := 255, pad := 65535 }) {} ∧
    readyOn false (.endStream 0 false 1) {} ∧ loopOk 3 8191 = true ∧ bOk true { cond := 31, na := 255, nb := 255, pad := 65535 } = true ∧
    brfPops false { cond := 16 } = true ∧ CanRead (running {}) 0 [31] := by unfold readyOn Ready CanRead; decide +kernel
theorem wit_ScalarResults : ({} : StreamSt).loops = [] := rfl
theorem wit_InstructionWords :
    ∀ i ∈ [Instr.sigl 10239 1023 16383 65535, .kout 0 1 { count := 1 }, .dld 0 1 255 15], i.wellFormed = true ∧ (encodeInstr i).isSome = true := by
  decide

/-- The words of a few instructions, bit by bit as Tables 3.1 to 3.5 and 8.4 lay them out. -/
theorem test_words :
    decodeWord 5 false (2 ^ 54 + 1 * 2 ^ 48 + 2 * 2 ^ 44 + 7 * 2 ^ 36 + 3 * 2 ^ 32 + 9 * 2 ^ 16 + 2 ^ 15 + 1 * 2 ^ 12) =
      some (.ldq 5 1 { qsel := 2, handle := 7, areg := 3, count := 9, post := true, port := 1 }) ∧
    decodeWord 5 false (2 * 2 ^ 54 + 0xB * 2 ^ 48 + 7 * 2 ^ 34 + 5 * 2 ^ 18) = some (.sigl 5 2 7 5) ∧
    decodeWord 5 true (3 * 2 ^ 54 + 7 * 2 ^ 48 + 1 * 2 ^ 43 + 2 * 2 ^ 38 + 3 * 2 ^ 33 + 4 * 2 ^ 28) =
      some (.sop 5 3 { sd := 1, sa := 2, sb := 3, fn := 4 }) ∧
    decodeWord 5 true (2 ^ 54 + 6 * 2 ^ 48 + 8 * 2 ^ 44 + 2 * 2 ^ 40 + 6 * 2 ^ 24 + 2 ^ 23) =
      some (.kmac 5 1 { rslot := 2, count := 6, sq := true }) ∧
    decodeWord 5 true (2 ^ 54 + 0x3D * 2 ^ 48 + 4 * 2 ^ 43 + 1 * 2 ^ 40 + 2 * 2 ^ 32 + 3 * 2 ^ 24 + 10 * 2 ^ 8) =
      some (.brf 5 true 1 { cond := 4, test := 1, na := 2, nb := 3, pad := 10 }) ∧
    decodeWord 5 true (2 ^ 54 + 0xD * 2 ^ 48) = none := by decide

/-- A pip with the descriptor of 16 lines under handle 0. -/
def withDesc : PipSt := { regs := { desc := [(0, tensor16)] } }
theorem wit_TransferInstructions :
    (let i := Instr.ldq 0 1 { count := 2, post := true }
     let s := issuing false i withDesc
     let q := pipOf s 0
     Ready s 0 false i ∧ ldqOk { count := 65535, post := true } = true ∧ issueRules (xferOf q s.cycle .ldq { count := 2, post := true }) = true ∧
     xferBusy q (xferOf q s.cycle .ldq { count := 2, post := true }) = [] ∧
     (match xferStep q s.cycle (xferOf q s.cycle .ldq { count := 2, post := true }) with | .moved r => decide (r.fail = none) | _ => false) =
       true) := by unfold Ready; decide +kernel
theorem wit_InstructionsHeldOrRefused :
    (let held := { issuing true (.ssum 0 1 0 0) { chn := { readyAt := 5000 } } with jobs := [job0] }
     let i := Instr.ldq 0 1 { count := 1 }
     let s := issuing false i {}
     let x := xferOf (pipOf s 0) s.cycle .ldq { count := 1 }
     Ready held 0 true (.ssum 0 1 0 0) ∧ held.cycle < (pipOf held 0).chn.readyAt ∧
     Ready (issuing true (.spush 0 1 0) { q := { scq := List.replicate 32 0 } }) 0 true (.spush 0 1 0) ∧
     canPut (pipOf (issuing true (.spush 0 1 0) { q := { scq := List.replicate 32 0 } }) 0) qScq 1 = false ∧
     dmaBusy (live { ops := { dma0 := some { len := 2 } } }) false = true ∧ Ready s 0 false i ∧ issueRules x = true ∧ xferBusy (pipOf s 0) x = [] ∧
     (match xferStep (pipOf s 0) s.cycle x with | .moved r => decide (r.fail = some eDesc ∧ r.fx.any isUe = false) | _ => false) = true ∧
     usesPad x = true ∧ dValid (descOf (pipOf s 0) 0) = false) := by unfold Ready; decide +kernel
theorem wit_InstructionsHeldOrRefused_load :
    (let i := Instr.nop 0 false 1
     let s := issuing false i { loadOk := false }
     let w : List Byte := toBytes 8 (2 ^ 54)
     let t := { s with pips := onPod { live {} with loadOk := false }, hbm := [(0x10041, 8)] ++ bytesAt 0x10800 w }
     isNext t 0 false i = true ∧ canIssue t 0 = false) ∧
    ldqOk { count := 0 } = false ∧ readyOn false (.ldq 0 1 { count := 0 }) {} := by unfold readyOn Ready; decide +kernel
theorem wit_InstructionsHeldOrRefused_narrow :
    nOk { raw := true, size := 1 } = true ∧ narrowCheck (live {}) { raw := true, imm := 1, size := 1 } = some eDesc ∧
    narrowCheck (live {}) { raw := true, imm := 2 ^ 24 - 2, size := 1 } = some eBounds ∧
    narrowWait (live {}) 4096 { raw := true, size := 1 } [0] false = [] := by decide +kernel
theorem wit_DmaAndDescriptorInstructions :
    (let s := issuing false (.dma 0 1 { len := 16383 }) withDesc
     let q := pipOf s 0
     Ready s 0 false (.dma 0 1 { len := 16383 }) ∧ dOk { len := 16383 } = true ∧ dmaBusy q false = false ∧ q.descIn = true ∧
     (aReg q 0).toNat % 128 = 0 ∧ dValid (descOf q 0) = true ∧ dWord (descOf q 0) = false ∧ dEbc (descOf q 0) = false ∧
     lineWait q 0 = [] ∧ inRegion q.sp q.st.context 0 128 = true ∧ (spRead (takeBank q 0) 0 128).2.fail = none ∧
     siglOk 7 65535 = true ∧ jobOwnsSync s 0 7 = true ∧ startWait q 0 3 = []) ∧
    readyOn false (.dmaw 0 1 true) {} ∧ readyOn false (.dld 0 1 255 15) {} ∧ readyOn false (.sigl 0 1 7 65535) {} ∧
    readyOn false (.strmStart 0 1 15 3) {} ∧ readyOn false (.strmWait 0 1 3) {} := by unfold readyOn Ready; decide +kernel
/-- The job of a PK_MUL, which takes a key. -/
def keyState : State := { issuing false (.strmStart 0 1 0 4) {} with jobs := [{ job0 with opc := 0x17 }] }
theorem wit_DmaAndDescriptorInstructions_keys :
    (let q := pipOf keyState 0
     Ready keyState 0 false (.strmStart 0 1 0 4) ∧
     (∃ j, jobOfPip keyState 0 = some j ∧ (jobKind j).isSome = true ∧ readerPip j = 0) ∧
     (∃ j, jobOfPip keyState 1 = some j ∧ 1 ≠ readerPip j) ∧ startWait q 0 4 = [] ∧
     inRegion q.sp q.st.context 0 128 = true ∧ (spRead (takeBank q 0) 0 128).2.fail = none) := by
  refine ⟨by unfold Ready; decide +kernel, ⟨_, rfl, by decide +kernel⟩, ⟨_, rfl, by decide +kernel⟩, by decide +kernel,
    by decide +kernel, by decide +kernel⟩
theorem wit_DmaAndDescriptorInstructions_wait :
    (let i := Instr.strmWait 0 1 4
     let s := { issuing false i { eng := [(4, { started := true })] } with jobs := [{ job0 with opc := 0x17 }] }
     Ready s 0 false i ∧ keysComing s { job0 with opc := 0x17 } = false) := by unfold Ready; decide +kernel
theorem wit_NarrowAccesses :
    (let i := Instr.sst 0 1 { raw := true, size := 3, sd := 31 }
     let q := pipOf (issuing true i { sp := { flips := [(0, 1)] } }) 0
     readyOn true i {} ∧ readyOn true (.sld 0 1 { raw := true, size := 3, sd := 31 }) {} ∧
     nOk { raw := true, size := 3, sd := 31 } = true ∧ narrowCheck q { raw := true, size := 3 } = none ∧
     narrowWait q 4096 { raw := true, size := 3 } [0] false = [] ∧ narrowWait q 4096 { raw := true, size := 3, sd := 31 } [0, 31] true = [] ∧
     (readCode q.sp 0).ue = false ∧ popCount 72 (Tab.get 0 q.sp.flips 0).toNat ≤ 1) := by unfold readyOn Ready; decide +kernel
theorem wit_StoresOfTransfers :
    (let q := sample (live { q := { sq := [(0, [5])] } })
     xferWrites { kind := .ldq } = false ∧
     (match xferStep q 4096 { kind := .stq, qsel := 8, raw := true, count := 1 } with
      | .moved r => decide (r.fail = none) | _ => false) = true) := by decide +kernel

/-! Units -/

theorem wit_WeightAndModeInstructions :
    (let i := Instr.tlw 0 1 16
     let q := pipOf (issuing true i { q := { lq := [(1, [{}, {}])] } }) 0
     readyOn true i {} ∧ readyOn true (.tsw 0 1) {} ∧ readyOn true (.tmode 0 1 true) {} ∧
     switches q 4096 = false ∧ q.ops.tlw = none ∧ q.ten.tmode = false ∧ canPop q 1 = true ∧ rowsToEnter q = false ∧
     q.ops.tmms.any (tmmLive 4096) = false ∧ chainBusy q = false ∧ modSetOk [] = false) := by unfold readyOn Ready; decide +kernel
theorem wit_TileMultiplies :
    (let i := Instr.tmm 0 1 true true 9 9
     let s := issuing true i { q := { lq := [(0, [{}])] } }
     let q := pipOf s 0
     let o : TmmOp := { acc := true, clr := true, fmtA := 9, fmtW := 9 }
     Ready s 0 true i ∧ tmmCodesOk 9 9 = true ∧ tmmModeOk q 9 9 = true ∧ drainReads q true = false ∧ rowsToEnter q = false ∧
     ringTakesKey q 4096 = false ∧ tmmStall q false o = [] ∧
     ([o].find? fun o => decide (o.row < 32)) = some o ∧ o.due ≤ 4096) := by unfold Ready; decide +kernel
theorem wit_TileMultiplies_end :
    (let q := live { ops := { tmms := [{ row := 32, last := 7 }], upds := [⟨9, true, 0, 0, true, [], [0]⟩] } }
     q.ops.tmms = { row := 32, last := 7 } :: [] ∧ 7 < 4096 ∧ ∀ u ∈ q.ops.upds, 8 < u.due) := by decide +kernel
theorem wit_Drains :
    (let i := Instr.tdrn 0 1 false 0 true
     let q := pipOf (issuing true i { chn := chain0 }) 0
     let o : DrainOp := { cfg := cfgOf chain0 0 }
     readyOn true i { chn := chain0 } ∧ readyOn true (.tdrn 0 1 true 15 false) { chn := chain0 } ∧ q.chainIn = true ∧ chainBusy q = false ∧
     accPending q 4096 false (cfgOf q.chn 0) = false ∧ cfgFail q.chn (cfgOf q.chn 0) = 0 ∧ cfgFail q.chn (cfgOf q.chn 15) ≠ 0 ∧
     o.t ≤ drainLast o ∧ drainStall { q with ops := { drain := some o } } o = [] ∧ cStload o.cfg = false ∧
     drainStall { q with cyc := { used := [(8, 16)] } } { o with t := 4, len := 8, pipe := [0] } ≠ [] ∧
     drainLast o < drainLast o + 1) := by unfold readyOn Ready; decide +kernel
theorem wit_RingInstructions :
    (let i := Instr.nttl 0 1 { count := 65535 }
     let s := issuing true i { rng := { image := ringImage } }
     let q := pipOf s 0
     let op : RingOp := { rfn := 0xC, count := 1 }
     Ready s 0 true i ∧ gOk { count := 65535 } = true ∧ ringReady q s.cycle = true ∧ ringBusy q = false ∧ slotOk ringImage 0 = true ∧
     slotGexp ringImage 0 ≠ 0 ∧ slotOk ringImage 15 = false ∧ op.due ≤ 4096 ∧ op.k < op.count ∧
     ringStall { q with ops := { ring := some op } } op = [] ∧ opT { q with ops := { ring := some op } } op ≤ 2 ^ 20) := by
  unfold Ready; decide +kernel
theorem wit_ResidueComparisons :
    (let s := running { rng := { image := ringImage } }
     (compareOf { inv := [(9, 0)], pIntl := [(0, 10)] } true).isSome = true ∧
     (compareOf { fwd := [(9, 0)], pNttx := (List.range 16).map fun i => (i, 1) } false).isSome = true ∧
     (jobOfPod s 0).isSome = true ∧ primeQ (pipOf s (podLead 0)).rng.image 0 = 786433) := by decide +kernel
theorem wit_JobEnds : job0.phase = .running ∧ eDesc ≠ eKeyset := by decide
theorem wit_PipCompletions :
    (let ended : StreamSt := { ended := true, hold := { n := 2 ^ 20 } }
     let s := running { acc := ended, exe := ended, ops := { sigls := [⟨0, 7, 1⟩] }, eng := [(4, { running := true })] }
     let t := running { acc := ended, exe := ended }
     dmaOf (live { ops := { dma1 := some { len := 2, landed := 2 } } }) true = some { len := 2, landed := 2 } ∧
     opsDone t 0 = true ∧ jobLoaded t job0 = true ∧ (pipOf t 0).finished = false ∧ job0.extra = none ∧
     (pipOf t (nth (pipsOfPod 1) 15 0)).sp.flips = [] ∧ workDone s 0 0 = true ∧ (pipOf s 0).net.shortOut.length < 8 ∧
     (engOf (pipOf s 0) 4).running = true ∧ (pipOf s 0).endAt + 2 ^ 20 ≤ 2 ^ 20 ∧
     ∃ h ∈ holdsOf (pipOf s 0) true, 2 ^ 20 ≤ h.n) := by decide +kernel

/-! ### Hypotheses met: mesh, commands and jobs -/

theorem wit_MeshFlits :
    (let f : MFlit := { cls := 0, cr := 1 }
     let s := { running { ops := { load := some {} }, st := { kopen := true } } with
       flight := [.flit 0 1 0 f, .line 0 5 0 7 {}, .line 0 7 0 7 {}, .wline 11 4095 0 {}, .key 0 0 true false 0, .key 0 0 false false 0,
         .credit 0 1 (destNum (.pip 5 1)) 0] }
     let q := sample (live { q := { egr := [(1, [(3, 5)])] } })
     arriving s 0 = some (.flit 0 1 0 f) ∧ arriving s 1 = some (.line 0 5 0 7 {}) ∧ arriving s 2 = some (.line 0 7 0 7 {}) ∧
     arriving s 3 = some (.wline 11 4095 0 {}) ∧ arriving s 4 = some (.key 0 0 true false 0) ∧
     arriving s 5 = some (.key 0 0 false false 0) ∧ arriving s 6 = some (.credit 0 1 (destNum (.pip 5 1)) 0) ∧ draining s 0 = false ∧
     draining { s with jobs := [{ job0 with phase := .draining }] } 0 = true ∧ (pipOf s 0).ops.load = some {} ∧
     (pipOf s 0).st.kopen = true ∧ (pipOf s 0).q.kq.length < 64 ∧ (pipOf s 0).job ≠ 0 ∧ isHbm ({} : Req).addr = true ∧
     (Tab.get [] (pipOf s 0).q.ing 1).length < 8 ∧ (Tab.get [] (stackSt s 11).wbuf 4095).length < 8 ∧
     didWork q 25 = false ∧ canPop q (qEgress 1) = true) := by decide +kernel
/-- A plan whose first entry of output 1 sends the pip's own flits under counter 2. -/
theorem wit_MeshFlits_send : ∃ s : State, sendSlot s 0 1 (s.cycle % 4096) = some 2 :=
  ⟨{ running {} with parts := [(0, { valid := true, fx1 := 7, fy1 := 7, hasPlan := true, plan := toBytes 4 (21 * 2 ^ 6) })] }, by decide +kernel⟩
theorem wit_WriterAndShortPath :
    (let f : ShortFlit := { dx := 1, sync := true, addr := 7, add := 3 }
     let g : ShortFlit := { ctx := 3, data := [1, 2], last := false }
     let s := running { net := { writer := [{ sp := 0, unit := 5 }], shortOut := [f], shortBuf := [f] }, ops := { dma0 := some { len := 1, raw := true } } }
     let t := { s with pips := onPod { live {} with cyc := { banks := [0] } } }
     let late := { s with fields := [(0, { state := .f2 })] }
     padAwake s 0 = true ∧ bankTaken (pipOf s 0) 0 = false ∧ bankTaken (pipOf t 0) 0 = true ∧ padAwake late 0 = false ∧
     (match (lineDesc (pipOf s 0) 5).1 with | some x => dValid x | none => true) = true ∧
     inRegion (pipOf s 0).sp 3 0 128 = true ∧ (legDir 0 f).isSome = true ∧ f.ready < s.cycle ∧ didWork (pipOf s 0) 28 = false ∧
     syncReady s 7 = true ∧ inRegion (pipOf s 0).sp g.ctx g.addr g.data.length = true ∧ g.data.length ≤ 128 - g.addr % 128) := by decide +kernel
/-- Cycles in which a short flit may enter eastward, and in which it finds the slot taken by another flit of its leg. -/
theorem wit_WriterAndShortPath_slot :
    (∃ c, c < 64 ∧ shortPos [] 0 1 c = true) ∧
    (let s := running {}
     shortHeld s 0 1 4096 = false ∧ shortHeld { s with flight := [.short 0 1 4096 { dx := 1 }] } 0 1 4096 = true) := by decide +kernel
theorem wit_ContextRegisters :
    (let s := base
     ownsPage s (.host 0) 3 = true ∧ (ctxSt s 3).created = true ∧ mayName s 3 7 false = true ∧ mayName s 3 8 false = false ∧
     syncReady s 7 = true ∧ ownsPage s (.host 1) 3 = false ∧ bit (2 ^ 15 + 3) 15 = true ∧ bits (2 ^ 15 + 3) 13 0 = 3) := by
  decide +kernel
theorem wit_CommandReader :
    (let s := { base with ctxs := [(3, { ctx3 with tail := 1 })] }
     let bad := cmdOf16 7 0 []
     let launch := cmdOf16 1 0 []
     let t := { base with ctxs := [(3, { ctx3 with ahead := [bad] })] }
     (ctxSt s 3).head ≠ (ctxSt s 3).tail ∧ (ctxSt s 3).ahead = [] ∧ headCmd t 3 = some bad ∧ (ctxSt t 3).readyAt = 0 ∧
     fenceMet t 3 bad = true ∧ opcListed (cmdOpc bad) = false ∧ opcListed (cmdOpc launch) = true ∧ sleepers s 3 launch = [] ∧
     mayReady s 3 launch = true ∧ sleepers { s with fields := [] } 3 launch = [0]) := by decide +kernel
theorem wit_CommandCompletes :
    (let m : Cmd := { id := 7, ctx := 3, bytes := toBytes 16 (1 + 256 * 11 + 2 ^ 32 * 7 + 2 ^ 48 * 5 + 2 ^ 64 * 0x100), code := some eOk }
     let s := { base with cmds := [m] }
     cmdOf s 7 = some m ∧ cmdFlag m.bytes 0 = true ∧ cmdFlag m.bytes 1 = true ∧ cmdFlag m.bytes 3 = true ∧
     syncReady s (cmdSigObj m.bytes) = true ∧ ctxMem s 3 (cmdRec m.bytes) 16 = true ∧ (hostSt s 0).state = 1) := by decide +kernel
theorem wit_SyncCommands :
    (let b (opc : Nat) : List Byte := cmdOf16 opc 0 (toBytes 8 (7 + 2 ^ 32 * 5))
     let w : Cmd := { id := 1, ctx := 3, bytes := b 2, waiting := true }
     MayIssue (withCmd (b 3)) 3 3 (b 3) (objForm (b 3)) (mayName (withCmd (b 3)) 3 (objOf (b 3)) true) eOk ∧
     MayIssue (withCmd (b 4)) 3 4 (b 4) (objForm (b 4)) (ownsSync (withCmd (b 4)) 3 (objOf (b 4))) eOk ∧
     MayIssue (withCmd (b 2)) 3 2 (b 2) (objForm (b 2)) (mayName (withCmd (b 2)) 3 (objOf (b 2)) false) eOk ∧
     syncReady base 7 = true ∧ w.met = false ∧ ({ w with met := true } : Cmd).met = true ∧
     ({ base with cmds := [w] }.cmds.find? fun k => k.ctx = 3 && k.waiting) = some w) := by
  unfold MayIssue; decide +kernel
theorem wit_CopyReleaseAndNop :
    (let copy := cmdOf16 5 0 (toBytes 24 (0x100 + 2 ^ 64 * 0x200 + 2 ^ 128 * 64))
     let release := cmdOf16 6 0 []
     let nop := cmdOf16 0 0 []
     let bad := cmdOf16 0 0 [1]
     MayIssue (withCmd copy) 3 5 copy (field copy 16 8 % 64 = 0 && field copy 24 8 % 64 = 0 && field copy 32 8 % 64 = 0 &&
       zeroBytes copy 40 24) (ctxHbm (withCmd copy) 3 (field copy 16 8) (field copy 32 8) &&
       ctxHbm (withCmd copy) 3 (field copy 24 8) (field copy 32 8)) eOk ∧
     MayIssue (withCmd release) 3 6 release (rectOk release && zeroBytes release 16 8 && zeroBytes release 28 36)
       ((rectPods release).all (podMine (withCmd release) 3)) eOk ∧
     MayIssue (withCmd nop) 3 0 nop (zeroBytes nop 16 48) true eOk ∧
     (let k : Cmd := { id := 1, ctx := 3, bytes := copy, new_ := List.replicate 64 1 }
      ctxHbm base 3 (copySrc k.bytes) 64 = true ∧ ctxHbm base 3 (copyDst k.bytes) 64 = true ∧ ctxHbm State.reset 3 (copySrc k.bytes) 64 = false) ∧
     readyHead (withCmd bad) 3 0 = some bad ∧ checkCmd (withCmd bad) 3 bad (zeroBytes bad 16 48) true eOk = eDesc) := by
  unfold MayIssue; decide +kernel

/-- A program block of one pod at 0x10000: 16 entries whose programs are one END each, at 0x800. -/
def block0 : Tab Byte :=
  [(0x10000, 5), (0x10008, 1), (0x10010, 227), (0x10011, 176), (0x10012, 196), (0x10013, 66), (0x10014, 152), (0x10015, 252), (0x10016, 28),
   (0x10017, 20), (0x1001c, 16)]
  ++ [(0x10041, 8), (0x10044, 1), (0x10046, 1), (0x10049, 8), (0x10061, 8), (0x10064, 1), (0x10066, 1), (0x10069, 8)]
  ++ [(0x10081, 8), (0x10084, 1), (0x10086, 1), (0x10089, 8), (0x100a1, 8), (0x100a4, 1), (0x100a6, 1), (0x100a9, 8)]
  ++ [(0x100c1, 8), (0x100c4, 1), (0x100c6, 1), (0x100c9, 8), (0x100e1, 8), (0x100e4, 1), (0x100e6, 1), (0x100e9, 8)]
  ++ [(0x10101, 8), (0x10104, 1), (0x10106, 1), (0x10109, 8), (0x10121, 8), (0x10124, 1), (0x10126, 1), (0x10129, 8)]
  ++ [(0x10141, 8), (0x10144, 1), (0x10146, 1), (0x10149, 8), (0x10161, 8), (0x10164, 1), (0x10166, 1), (0x10169, 8)]
  ++ [(0x10181, 8), (0x10184, 1), (0x10186, 1), (0x10189, 8), (0x101a1, 8), (0x101a4, 1), (0x101a6, 1), (0x101a9, 8)]
  ++ [(0x101c1, 8), (0x101c4, 1), (0x101c6, 1), (0x101c9, 8), (0x101e1, 8), (0x101e4, 1), (0x101e6, 1), (0x101e9, 8)]
  ++ [(0x10201, 8), (0x10204, 1), (0x10206, 1), (0x10209, 8), (0x10221, 8), (0x10224, 1), (0x10226, 1), (0x10229, 8)]
theorem wit_JobsRun :
    (let b := cmdOf16 1 0 (toBytes 16 (0x10000 + 2 ^ 96))
     let s := { bare (withCmd b) with hbm := block0 }
     let queued : Job := { job0 with phase := .queued }
     let loading : Job := { job0 with phase := .loading, t0 := 4096, loadCycles := 9 }
     MayIssue s 3 1 b (progAddr b % 64 = 0 && rectOk b) ((rectPods b).all (podMine s 3) && blockMine s 3 (progAddr b))
       (blockCode s 3 b) ∧
     jobOf { base with jobs := [queued] } 0 = some queued ∧ jobMayStart { base with cycle := 4096, jobs := [queued] } queued = true ∧
     jobOf { base with jobs := [loading] } 0 = some loading ∧ 5000 ≥ loading.t0 + loading.loadCycles) := by
  unfold MayIssue; decide +kernel
/-- A load of two programs of one END each, of which every line but the last of the programs has been written. -/
def load0 : LoadOp :=
  { parts := [(0, 8), (128, 8), (256, 128), (384, 128), (512, 128)], landed := 1,
    got := [toBytes 128 (2 ^ 54 + 63 * 2 ^ 48), toBytes 128 (2 ^ 54 + 63 * 2 ^ 48)] }
theorem wit_JobsRun_load :
    (let bad := { load0 with got := [toBytes 128 0, toBytes 128 0] }
     let ov := live { ops := { load := some { load0 with landed := 5 } } }
     load0.landed < load0.got.length ∧ (live {}).cyc.banks.contains 7 = false ∧ linesUpTo load0 1 ≤ load0.landed + 1 ∧
     programOk false (wordsOf (loadedPart load0 0)) = true ∧ programOk true (wordsOf (loadedPart load0 1)) = true ∧
     (programOk false (wordsOf (loadedPart bad 0)) && programOk true (wordsOf (loadedPart bad 1))) = false ∧
     loadOver 4096 ov = true ∧ loadOver 4096 (live {}) = false) := by decide +kernel


/-! ### Hypotheses met: images, partitions, repairs and regions -/

/-- An image without plans: its header only. -/
def image0 : List Byte :=
  toBytes 8 (0x494D5153 + 2 ^ 32) ++ toBytes 8 1 ++ toBytes 8 0x141cfc9842c4b0e3 ++ toBytes 8 0x46 ++ List.replicate 32 0

/-- An admission of that image runs for host 0. -/
def admitting : State :=
  { base with hbm := bytesAt 0x4000 image0, mod := { (bare base).mod with imgState := 1, imgAt := 0x4000, imgBy := 1 } }

theorem wit_ImageAdmission :
    (base.mod.imgState ≠ 1 ∧ base.boot.stage = 5 ∧ base.mgt.testEn = false ∧ admitting.mod.imgState = 1 ∧ admitting.mgt.testEn = false ∧
     (readImage admitting 0x4000).hasBase = false ∧ admitCode (admitView admitting) (imgWriter admitting) = eOk ∧
     (let s := { admitting with hbm := [] }; admitCode (admitView s) (imgWriter s) ≠ eOk)) := by decide +kernel
theorem wit_PartitionsAndRoutes :
    (let s := { base with jobs := [] }
     let v := 2 * 2 ^ 3 + 2 ^ 12
     mgmtOnly s (.host 0) = true ∧ s.boot.stage = 5 ∧ (partSt s 0).fenced = false ∧ (partSt s 0).recovery = .open_ ∧
     s.flt.mfenced = false ∧ s.jobs.any (·.part = 0) = false ∧ partAllowed s 0 (partRect (partSt s 0) v) = true ∧
     partAllowed s 1 (partRect (partSt s 1) v) = false ∧ (ctxSt s 3).created = true ∧ (ctxSt s 3).part = 0 + 1 ∧
     (let t := { s with cycle := 8192, mod := { s.mod with transitDue := true } }
      t.mod.transitDue = true ∧ t.cycle % 4096 = 0)) := by decide +kernel
theorem wit_Repairs :
    (let s := { base with mod := { base.mod with map := List.replicate 512 0x1F } }
     let q : Job := { job0 with phase := .queued, id := 1 }
     let k : Cmd := { id := 7, ctx := 3, bytes := cmdOf16 1 0 [] }
     let t := { s with mod := { s.mod with pending := true, applying := true, pendMap := 0x9F :: List.replicate 511 0x1F, base := [1] },
                       jobs := [q], cmds := [k] }
     oos (pendingBase s) 63 = false ∧ failCol (pendingBase s) 63 7 ≠ 20 ∧ t.mod.pending = true ∧ s.mod.pending = false ∧
     t.mod.applying = true ∧ t.mod.base ≠ [] ∧ (∀ j ∈ t.jobs, j.phase = .queued) ∧ inPart t 0 0 = true ∧ oos t.mod.pendMap 0 = true ∧
     k.id = q.cmd ∧ k.code = none) := by decide +kernel
theorem wit_Regions :
    (let s := running {}
     let old : Region := { base := 0, len := 0, ctx := 3, valid := true, scrub := true }
     let t := running { sp := { owners := [(0, .ctx 5)] } }
     let u := setPip s 0 { pipOf s 0 with sp := { regions := [(2, old)] } }
     mgmtOnly s (.host 0) = true ∧ mgmtOnly s (.host 1) = false ∧
     regionBad (pipOf s 0).sp 1 (regionOf (1 + 2047 * 2 ^ 12)) = true ∧
     regionBad (pipOf s 0).sp 0 (regionOf 0) = false ∧ (regionOf 0).valid = false ∧
     (∃ g ∈ granulesOf old, mustScrub (pipOf t 0).sp 3 g = true) ∧
     (Tab.get {} (pipOf u 0).sp.regions 2).valid = true ∧ (Tab.get {} (pipOf u 0).sp.regions 2).scrub = true ∧
     syncReady u (256 * fieldOfPip 0) = true ∧
     (let v := setPip s 0 { pipOf s 0 with sp := { regions := [(2, { old with zeroed := 32 })], owners := [(0, .ctx 5)] } }
      32 * (toScrub (pipOf v 0).sp { old with zeroed := 32 }).length ≤ 32) ∧
     (let v := setPip s 0 { pipOf s 0 with sp := { regions := [(2, old)], owners := [(0, .ctx 5)] } }
      old.zeroed < 32 * (toScrub (pipOf v 0).sp old).length ∧ (pipOf v 0).cyc.banks.contains (bankOf (128 * 0)) = false)) := by
  decide +kernel


/-! ### Hypotheses met: engines and key gates -/

/-- A tensor descriptor of one line at address 0, and one of 32-bit words. -/
def tensor1 : BitVec 512 := 3#512 <<< 47 ||| 1#512 <<< 128 ||| 128#512 <<< 160 ||| 1#512 <<< 448

/-- A descriptor-form record of one line, and a copy of handle 0 to handle 1 (Table 10.1). -/
def recLine : List Byte := toBytes 16 0 ++ toBytes 8 (1 + 128 * 2 ^ 24) ++ List.replicate 32 0 ++ toBytes 8 1
def recCopy : List Byte := toBytes 64 (2 + 2 ^ 12)

/-- A program record of one instruction and an END (Table 10.2). -/
def recProg (op w : Nat) : List Byte := toBytes 16 (1 + 2 * 2 ^ 20) ++ toBytes 8 (op * 2 ^ 58 + w) ++ toBytes 8 (0x3F * 2 ^ 58)

/-- Pip 0 of the job runs an engine. -/
def withEng (e : Nat) (g : Engine) : State := running { eng := [(e, { g with running := true })] }

/-- Engine `e` of pip 0 is at an instruction. -/
def atInstr (e op w : Nat) : State := withEng e { started := true, record := recProg op w, g := [(1, 128)], descs := [(5, tensor1)] }

theorem wit_EngineRuns :
    (let view (g : Engine) := latchedView (pipOf (withEng 0 g) 0) g
     let d : Engine := { record := recLine, descs := [(0, tensor1)] }
     let a : Engine := { record := recProg 0 0, descs := [(0, tensor1)] }
     let c : Engine := { record := recCopy, descs := [(0, tensor1), (1, tensor1)], running := true }
     let u : Engine := { c with started := true, ending := true, busyTo := 4096 + copySteps tensor1 (copyKind tensor1 tensor1) }
     let r := runCopy (setEng (pipOf (withEng 0 c) 0) 0 u) tensor1 tensor1
     let e : Engine := { record := recLine, started := true, ending := true }
     jobOfPip (withEng 0 d) 0 = some job0 ∧ job0.phase = .running ∧
     recCheck (view d) d.record 0 (jobKind job0).isSome false = none ∧ recForm d.record = 0 ∧
     recCheck (view a) a.record 0 (jobKind job0).isSome false = none ∧ recForm a.record = 1 ∧
     recCheck (view a) a.record 0 (jobKind job0).isSome true = some (7, eDesc) ∧
     recCheck (view c) c.record 0 (jobKind job0).isSome false = none ∧ recForm c.record = 2 ∧ copyRuns (pipOf (withEng 0 c) 0) = false ∧
     (pipOf (withEng 0 c) 0).ops.xfers = [] ∧ r.fail = none ∧ r.fx = [] ∧ d.recLeft = 0 ∧ d.firstAt ≤ (withEng 0 d).cycle ∧
     e.keys = [] ∧ e.busyTo ≤ (withEng 0 e).cycle ∧ movesDone (pipOf (withEng 0 e) 0) 0 = true ∧
     ownsSync (withEng 0 d) 3 7 = true ∧ syncReady (withEng 0 d) 7 = true) := by decide +kernel
theorem wit_EngineInstructions :
    (∀ op ∈ [0x00, 0x01, 0x02, 0x03, 0x05, 0x08, 0x09, 0x0A, 0x3F], (agAt (atInstr 3 op 7) 0 3 op).isSome = true) ∧
    (let s := atInstr 0 5 (2 ^ 52 + 1)
     (gReg (engOf (pipOf s 0) 0) 1).toNat % 128 = 0 ∧ ownsSync s 3 7 = true ∧ ownsSync s 3 8 = false ∧ syncReady s 7 = true ∧
     jobOfPip s 0 = some job0 ∧ movesDone (pipOf (atInstr 3 9 7) 0) 3 = true ∧ gReg { g := [(1, 127)] } 1 % 128 ≠ 0) ∧
    (let m := withEng 3 { started := true, record := recProg 8 (7 * 2 ^ 32), marked := true }
     let w := recInstr (recProg 8 (7 * 2 ^ 32)) 0
     agAt m 0 3 8 = some (engOf (pipOf m 0) 3, w) ∧ (engOf (pipOf m 0) 3).met = false ∧ syncReady m (bits w 45 32) = true ∧
     (engOf (pipOf (testMark m 0 3) 0) 3).met = true ∧ (agAt (testMark m 0 3) 0 3 8).isSome = true) := by
  decide +kernel
theorem wit_EngineMemoryInstructions :
    (let s := atInstr 0 4 (5 * 2 ^ 40)
     let g := engOf (pipOf s 0) 0
     let put := atInstr 2 7 (2 ^ 40 + 2 ^ 34 + 2 ^ 29 + 2 ^ 52)
     let q := pipOf put 0
     (agAt s 0 0 4).isSome = true ∧ dValid (Tab.get 0 g.descs 5) = true ∧ dWord (Tab.get 0 g.descs 5) = false ∧
     seqWord tensor1 g.ipos = some 0 ∧ bankTaken (pipOf s 0) 0 = false ∧ indexHeld g 5 (lineOf 0) = none ∧
     bankTaken (takeBank (pipOf s 0) 0) 0 = true ∧
     (indexLine (pipOf s 0) g 5 tensor1 0).2.fail = none ∧ (indexLine (pipOf s 0) g 5 tensor1 0).2.fx = [] ∧
     dValid (Tab.get 0 g.descs 6) = false ∧
     (agAt put 0 2 7).isSome = true ∧ jobOfPip put 0 = some job0 ∧ pipAt 1 1 ∈ jobPips job0 ∧ pipAt 4 0 ∉ jobPips job0 ∧
     inRegion q.sp q.st.context 128 16 = true ∧ shortRoom q 1 = true ∧
     bankTaken q 128 = false ∧ (spRead (takeBank q 128) 128 16).2.fail = none ∧ (spRead (takeBank q 128) 128 16).2.fx = [] ∧
     shortRoom { q with net := { q.net with shortOut := List.replicate 8 {} } } 1 = false ∧ (agAt (atInstr 4 6 0) 0 4 6).isSome = true ∧
     (engOf (pipOf (atInstr 4 6 0) 0) 4).marked = false ∧ (engOf (pipOf (atInstr 4 6 0) 0) 4).stopped = false) := by
  decide +kernel

/-- The header of a key's only block, of 2,048 bytes (R259). -/
def keyHeader (k : Nat) : List Byte :=
  toBytes 8 (0x424B5153 + 2 ^ 32 + k * 2 ^ 40) ++ List.replicate 20 0 ++ toBytes 4 1 ++ toBytes 4 2048 ++ List.replicate 92 0

theorem wit_KeyGates :
    (let j : Job := { job0 with opc := 0x17 }
     let x := ofLineBytes (keyHeader ((jobKind j).getD 0))
     let s := { keyState with pods := [(0, { khdr := [(x, true, 4000)] })] }
     let drain := { keyState with jobs := [{ j with phase := .draining }] }
     (podSt s 0).khdr = [(x, true, 4000)] ∧ 4000 + 4 ≤ s.cycle ∧ (podSt s 0).kbad = false ∧ j.phase = .running ∧ podJob s 0 = some j ∧ keyFail (lineBytes x) (gateWant s j 0 true) = 0 ∧
     keyFail (lineBytes x) (gateWant s j 0 false) ≠ 0 ∧
     podJob { drain with pods := s.pods } 0 = some { j with phase := .draining } ∧
     jobOf drain 0 = some { j with phase := .draining } ∧ keysMoving drain { j with phase := .draining } = false) := by
  decide +kernel


/-! ### Hypotheses met: encrypted commands -/

/-- An encrypted command on pod 0 (Table 9.5). -/
def ctCmd (opc prog dst a b arg kaddr paddr : Nat) : List Byte :=
  cmdOf16 opc 0 (toBytes 16 (prog + (if prog = 0 then 0 else 2 ^ 96)) ++ toBytes 8 (dst + a * 2 ^ 16 + b * 2 ^ 32 + 2 ^ 48)
    ++ toBytes 8 (arg * 2 ^ 32) ++ toBytes 8 kaddr ++ toBytes 8 paddr)

/-- The bytes in use of parameter blocks of the two classes with 1,024 points (Table 9.2). -/
def params0 : List Byte := toBytes 12 (10 * 2 ^ 8 + 256 * 2 ^ 16 + 2 ^ 32 + 2 ^ 48 + 2 ^ 56 + 0xFFFF * 2 ^ 80)
def params1 : List Byte := toBytes 12 (1 + 10 * 2 ^ 8 + 2 * 2 ^ 32 + 2 ^ 56 + 0xFFFF * 2 ^ 80)

/-- A descriptor of context 3: TYPE and PSET, FORM, level, base, limb and polynomial strides (Table 9.4). -/
def ctObj (ty pset form lvl base ls ps : Nat) (fp : Word64) : BitVec 512 :=
  BitVec.ofNat 512 (ty + 4 * pset + 64 + 128 * form + 256 * lvl + 2 ^ 16 * 3) ||| BitVec.ofNat 512 fp.toNat <<< 128
    ||| BitVec.ofNat 512 base <<< 192 ||| BitVec.ofNat 512 (ls + ps * 2 ^ 23) <<< 256

/-- Pod 0 with a parameter entry of each class, objects 0 to 2 of class 0 and 4 to 6 of class 1. -/
def ctPod : PodSt :=
  let f0 := fingerprint params0
  let f1 := fingerprint params1
  { psets := [(0, ⟨params0, [], 3, true⟩), (1, ⟨params1, [], 3, true⟩)]
    descs := [(0, ctObj 1 0 0 0 0 1152 0 f0), (1, ctObj 1 0 0 0 2048 1152 0 f0), (2, ctObj 1 0 0 0 4096 1152 0 f0),
              (4, ctObj 2 1 0 1 8192 256 512 f1), (5, ctObj 2 1 0 1 16384 256 512 f1), (6, ctObj 2 1 0 1 32768 256 512 f1)] }

/-- The command stands ready; its program block, the parameters and a descriptor image are in HBM. -/
def ctState (b : List Byte) : State :=
  { bare (withCmd b) with
    pips := onPod (live {}), pods := [(0, ctPod)]
    hbm := bytesAt 0x8000 (keyHeader 0) ++ block0 ++ bytesAt 0x20000 (params0 ++ List.replicate 52 0 ++ toBytes 4 786433)
      ++ bytesAt 0x21000 (toBytes 64 (ctObj 1 0 0 0 4096 1152 0 (fingerprint params0)).toNat) }

theorem wit_EncryptedTables :
    (let pset := ctCmd 0x10 0 0 0 0 2 0x20000 0x20000
     let bind := ctCmd 0x11 0 2 0 0 0 0 0x21000
     let free := ctCmd 0x12 0 2 0 0 0 0 0
     MayIssue (ctState pset) 3 0x10 pset (ctForm pset) (ctBounds (ctState pset) 3 pset) eOk ∧ mayAct (ctState pset) pset = true ∧
     psetCode (ctState pset) 3 pset = eOk ∧ psetCode { ctState pset with hbm := [] } 3 pset ≠ eOk ∧
     MayIssue (ctState bind) 3 0x11 bind (ctForm bind) (ctBounds (ctState bind) 3 bind) eOk ∧
     bindCode (ctState bind) 3 bind = eOk ∧ bindCode { ctState bind with hbm := [] } 3 bind ≠ eOk ∧
     MayIssue (ctState free) 3 0x12 free (ctForm free) (ctBounds (ctState free) 3 free) eOk ∧
     freeCode (ctState free) 3 free = eOk ∧ freeCode { ctState free with pods := [] } 3 free ≠ eOk) := by
  unfold MayIssue; decide +kernel
/-- An LI_LIN of class 0 objects and a PK_ADD of class 1 objects. -/
def linCmd : List Byte := ctCmd 0x1B 0x10000 2 0 1 0x0101 0 0
def addCmd : List Byte := ctCmd 0x15 0x10000 6 4 5 0 0 0

theorem wit_EncryptedCommands_issue :
    MayIssue (ctState linCmd) 3 0x1B linCmd (ctForm linCmd) (ctBounds (ctState linCmd) 3 linCmd) eOk ∧
    MayIssue (ctState addCmd) 3 0x15 addCmd (ctForm addCmd) (ctBounds (ctState addCmd) 3 addCmd) eOk := by
  unfold MayIssue; decide +kernel
theorem wit_EncryptedCommands_lwe : ctCode (ctState linCmd) 3 linCmd = eOk := by decide +kernel
theorem wit_EncryptedCommands_packed : ctCode (ctState addCmd) 3 addCmd = eOk := by decide +kernel
theorem wit_EncryptedCommands_refused : 
    ctCode { ctState addCmd with parts := [(0, { partSt base 0 with hasPlan := false })] } 3 addCmd = eImage := by decide +kernel


/-! ### Hypotheses met: HBM and staging buffers -/

/-- Requests of pip 0's DC0 and of host 0, and host accesses, at HBM line 0 or at a staging address. -/
def fromPip (w : Bool) (a : Nat) : Req := { src := .unit 0 5, write := w, addr := a, ctx := 3 }
def fromHost (w : Bool) (a : Nat) (b : List Byte) : Req := { src := .host 0 9, write := w, addr := a, bytes := b, len := 128 }

/-- Stack `k` is `v`, and the base plan's schedule holds one entry for the slot of this cycle: of the stack and group 0, with an operation
and a route (Table 11.3, R283). -/
def scheduled (k op route : Nat) (v : StackSt) : State :=
  { running {} with
    mod := { base.mod with base := toBytes 16 0 ++ toBytes 16 0x20 ++ toBytes 8 1 ++ toBytes 8 (k + (op + 256 * route) * 2 ^ 20) }
    hstacks := [(k, { v with boot := false })] }

/-- Stack 0 holds these requests on route 2, a line in its write buffer and one at its attachment pip there, and an entry for them. -/
def queued (op : Nat) (rs : List Req) : State := scheduled 0 op 2 { fifo := [(2, rs)], wbuf := [(2, rs)], lines := [(2, rs)] }

/-- Line 0 has flipped bits in two symbols. -/
def spoilt (s : State) : State := { s with hbmFlips := [(0, 0x10001)] }

theorem wit_HbmEntries :
    (let rd := fromPip false 0
     let wr := fromPip true 0
     let s := queued 1 [rd]
     let w := queued 2 [wr]
     (routeEntry s 0 0 1 2).isSome = true ∧ headReq s 0 2 = some rd ∧ groupOf rd.addr = 0 ∧ stackOf rd.addr = 0 ∧ reqOpen s rd = true ∧
     memUe s rd.addr 128 = false ∧ memUe (spoilt s) rd.addr 128 = true ∧ reqJob s rd = some job0 ∧
     reqOpen { s with granules := [] } rd = false ∧ headReq (scheduled 0 1 2 {}) 0 2 = none ∧ routeEntry s 0 0 1 3 = none ∧
     (routeEntry (scheduled 0 1 2 {}) 0 0 1 2).isSome = true ∧ headReq (queued 1 [wr]) 0 2 = some wr ∧
     (routeEntry w 0 0 2 2).isSome = true ∧ headReq w 0 2 = some wr ∧ Tab.get [] (stackSt w 0).wbuf 2 = wr :: [] ∧ reqOpen w wr = true ∧
     Tab.get [] (stackSt (scheduled 0 2 2 {}) 0).wbuf 2 = [] ∧ isHbm wr.addr = true ∧ isHbm (wr.addr + 127) = true) ∧
    (let a : HostAcc := { host := 0, write := true, addr := 0, data := [1] }
     let b : HostAcc := { host := 1, addr := 0, len := 4 }
     let c : HostAcc := { host := 0, addr := stgBase, len := 4 }
     let u : HostAcc := { host := 0, addr := 0x4000, len := 128, hull := 3 }
     let h := scheduled 0 4 0 {}
     let r := scheduled 0 3 0 {}
     let busy := scheduled 0 3 0 { refAt := [(0, slotNow r + 1)] }
     entryNow h 0 0 0 = none ∧ (entryNow (scheduled 0 0 0 {}) 0 0 0).isSome = true ∧ (entryNow r 0 0 3).isSome = true ∧
     refEnd (stackSt r 0) 0 ≤ slotNow r + Tab.get 0 (stackSt r 0).slip 0 ∧ (entryNow busy 0 0 3).isSome = true ∧
     slotNow busy + Tab.get 0 (stackSt busy 0).slip 0 < refEnd (stackSt busy 0) 0 ∧
     (stackSt { r with cycle := 2 ^ 20 } 0).state = 2 ∧ (stackSt { r with cycle := 2 ^ 20 } 0).rint ≤ sinceRef { r with cycle := 2 ^ 20 } 0 0 ∧
     (entryNow h 0 0 4).isSome = true ∧ { h with hostq := [a] }.hostq.find? (hostHere 0 0) = some a ∧ hostMem h 0 0 1 = true ∧
     isHbm 0 = true ∧ { h with hostq := [b] }.hostq.find? (hostHere 0 0) = some b ∧ hostMem { h with granules := [] } 1 0 4 = false ∧
     { h with hostq := [u] }.hostq.find? (hostHere 0 0) = some u ∧ isHbm 0x4000 = true ∧ hostMem h 0 0x4000 128 = true ∧
     hostMem h 0 0 4 = true ∧ { h with hostq := [c] }.hostq.find? (hostHere 0 0) = some c ∧ isHbm stgBase = false ∧
     isReq stgBase = false) := by decide +kernel

/-- Route 0 of the base plan comes in at attachment 0 of stack 11, goes north and ends at pip 0, at frame position 0. -/
def routed (s : State) : State :=
  { s with
    granules := [(704, { prot := 1, share := true })]
    mod := { s.mod with
      map := [], transit := [0]
      resv := { owned := [(320 * 4 * 512, 1), (160 * 4 * 512, 255)],
                routes := [1 + 11 * 2 ^ 8 + 2 * 2 ^ 24]
                ents := [320 + 4 * 2 ^ 32, 160 + hopCycles [] 320 160 * 2 ^ 14 + 3 * 2 ^ 32,
                         (hopCycles [] 320 160 + hopCycles [] 160 0) * 2 ^ 14 + 2 ^ 26 * 2 ^ 32] } } }

/-- A read line of stack 11 for a unit of pip 0 waits at its attachment pip. -/
def leaving (sent u : Nat) (s : State) : State :=
  { routed s with hstacks := [(11, { lines := [(0, [{ src := .unit 0 u, addr := 704 * 2 ^ 30, ctx := 3, sent := sent }])] })] }

/-- The residual lines of a bucket of 512 elements move between stack 0 and the staging buffer on route 5. -/
def residual (op : Nat) (c : ChanSt) : State :=
  let opened := toBytes 16 0 ++ toBytes 6 0 ++ toBytes 2 5 ++ toBytes 8 0 ++ toBytes 8 stgBase ++ toBytes 24 0
  let cmd := toBytes 32 0 ++ toBytes 4 512 ++ toBytes 28 0
  { scheduled 0 op 5 {} with chans := [(0, { c with state := 2, ctx := 3, opened := opened, running := some { bytes := cmd } })] }

theorem wit_LineRequests_ask :
    (let d (dir : Bool) : DmaOp := { dir := dir, raw := true, len := 2, hbm := 704 * 2 ^ 30 }
     let s (dir : Bool) := routed (running { ops := { dma0 := some (d dir) } })
     let out := routed (running { ops := { dma0 := some { d false with hbm := 2 ^ 45 } } })
     jobOfPip (s true) 0 = some job0 ∧ stackEnd (s true) 0 11 = some 320 ∧
     (match unitAsk (s true) 0 5 job0 with
      | some a => askOk (s true) 3 5 a && a.sp = some 0 && stackOf a.hbm.toNat = 11 && a.write && routeRoom (s true) 11 0 a
          && inRegion (pipOf (s true) 0).sp (pipOf (s true) 0).st.context 0 128 && !bankTaken (pipOf (s true) 0) 0
          && decide ((askData (pipOf (s true) 0) 5 0).2.fail = none) && (askData (pipOf (s true) 0) 5 0).2.fx.isEmpty
      | none => false) = true ∧
     (match unitAsk (s false) 0 5 job0 with
      | some a => askOk (s false) 3 5 a && a.sp = some 0 && !a.write && routeRoom (s false) 11 0 a
      | none => false) = true ∧
     (match unitAsk out 0 5 job0 with | some a => askOk out 3 5 a | none => true) = false) := by decide +kernel
theorem wit_LineRequests_leave :
    (let s := leaving 0 5 (running {})
     let k (n : Nat) := { leaving 1 4 (running { eng := [(4, { started := true, keys := [{ ser := 0, asked := 1, sent := n }] })] }) with
       jobs := [{ job0 with opc := 0x17 }] }
     (match Tab.get [] (stackSt s 11).lines 0 with
      | r :: _ => decide (r.ready ≤ slotNow s) && (stackEnd s 0 11).isSome && routeIn (resv s) s.mod.map 0 11 r.att (s.cycle % 4096)
          && decide (r.sent = 0) && ((linePips s 11 0 r).bind (travelAll s 11 r.att)).isSome
      | [] => false) = true ∧
     Tab.get 0 (stackSt s 11).outAt 0 ≠ s.cycle + 1 ∧
     (match Tab.get [] (stackSt (leaving 1 5 (running {})) 11).lines 0 with
      | r :: _ => ((linePips (leaving 1 5 (running {})) 11 0 r).bind (travelAll (leaving 1 5 (running {})) 11 r.att)).isSome
      | [] => false) = true ∧
     (match Tab.get [] (stackSt (k 0) 11).lines 0 with
      | r :: _ => ((linePips (k 0) 11 0 r).bind (travelAll (k 0) 11 r.att)).isSome && ((keyOf (k 0) 0 r).map (·.2)) = some 0
          && ((keyOf (k 0) 0 { r with sp := 1 }).map (·.2)) = some 1
          && ((linePips (k 0) 11 0 { r with sp := 1 }).bind (travelAll (k 0) 11 r.att)).isSome
      | [] => false) = true) := by decide +kernel
theorem wit_LineRequests_stage :
    (let s := residual 5 {}
     let o := residual 6 { resOut := [1] }
     (stageGroup s 0 5 5 = some 0) ∧ stageGroup s 0 5 6 = none ∧ stageGroup o 0 5 6 = some 0 ∧ stageGroup o 0 5 5 = none ∧
     (match movesChan s 0 5 wantsResid with
      | some (ch, c, b) => ch = 0 && groupOf (residHalf b (clSeq b % 2) + 128 * (c.resIn % residLines b)) = 0
          && ctxMem s c.ctx (residHalf b (clSeq b % 2)) 128 && !memUe s (residHalf b (clSeq b % 2)) 128
          && isStg (windowLine c c.resIn) && isStg (windowLine c c.resIn + 127)
      | none => false) = true ∧
     (match movesChan o 0 5 fun c => c.resOut ≠ [] with
      | some (_, c, b) => groupOf (residHalf b ((clSeq b + 1) % 2) + 128 * c.resNext) = 0
          && ctxMem o c.ctx (residHalf b ((clSeq b + 1) % 2) + 128 * c.resNext) 128
          && isHbm (residHalf b ((clSeq b + 1) % 2) + 128 * c.resNext) && isStg (windowLine c c.resNext)
      | none => false) = true ∧
     movesChan (residual 5 { resIn := 48 }) 0 5 wantsResid = none ∧ stageGroup (residual 5 { resIn := 48 }) 0 5 5 = some 0) := by decide +kernel
theorem wit_GranulesAndStacks :
    (let done : Tab Nat := (List.range 16).map fun i => (i, groupLines)
     let s := { scheduled 0 7 0 { state := 2 } with
       granules := [(1, { scrub := true }), (2, { scrub := true, zeroed := done })], sgranules := [(1, { scrub := true })] }
     let t := { base with hstacks := [(0, { state := 1 })] }
     priv t (.host 1) = false ∧ priv t .acorn = true ∧ granBad false false (granSt t false 0) 3 false = true ∧
     granBad false false (granSt s false 0) 1 false = false ∧ (granSt s false 0).prot = 0 ∧ (granSt s false 1).scrub = true ∧
     scrubGroup s 1 = some 0 ∧ scrubGroup s 2 = none ∧ zeroedAll false (granSt s false 2) = true ∧
     zeroedAll false (granSt s false 1) = false ∧ (granSt s true 1).scrub = true ∧
     Tab.get 0 (granSt s true 1).zeroed 0 < stgLines ∧ 1 % 64 / 4 ∉ (stackSt s (1 / 64)).stUsed ∧ (stackSt t 0).state = 1) := by
  decide +kernel

/-- A request line (Table 11.6): AOP, 32-bit elements or not, NEL 1, slot 0 and SEQ, TARGET 0, RET 128, two operands. -/
def request (aop : Nat) (w32 : Bool) (seq : Nat) : List Byte :=
  toBytes 8 (aop + (if w32 then 16 else 0) + 32 + seq * 2 ^ 32) ++ toBytes 8 0 ++ toBytes 8 128 ++ toBytes 8 5 ++ toBytes 8 6
/-- Stack 0 has the access next. -/
def staged (r : Req) : State := { running {} with hstacks := [(0, { stq := [r] })] }

theorem wit_StagingRequests :
    (∀ aop ∈ List.range 7,
      let r := { fromPip true reqBase with bytes := request aop false 0 }
      nextAccess (staged r) 0 = some (r, []) ∧ isReq r.addr = true ∧ r.write = true ∧ rqAop r.bytes = aop ∧
      rqCode (staged r) 0 r = eOk ∧ runUe (staged r) 0 r.bytes = false ∧
      runUe { staged r with stgFlips := [(0, 3)] } 0 r.bytes = true ∧ reqJob (staged r) r = some job0 ∧ rqCode { staged r with sgranules := [] } 0 { r with ctx := 4 } ≠ eOk) := by
  decide +kernel
theorem wit_OrderedAdds :
    (let add (seq : Nat) : Req := { fromHost true reqBase [] with bytes := request 8 true seq }
     let ord : Req := { fromHost true reqBase [] with bytes := request 9 true 7 }
     let h : HeldAdd := { slot := 2, seq := 0, addr := stgBase, words := [1] }
     let s := { base with hstacks := [(0, { held := [h] })] }
     (∀ r ∈ [add 0, add 1, ord], nextAccess (staged r) 0 = some (r, []) ∧ isReq r.addr = true ∧ r.write = true ∧
       rqCode (staged r) 0 r = eOk) ∧
     runUe (staged (add 0)) 0 (add 0).bytes = false ∧ rqAop (add 0).bytes = 8 ∧ rqAop ord.bytes = 9 ∧ seqAhead (stackSt (staged (add 0)) 0) (add 0).bytes = 0 ∧
     0 < seqAhead (stackSt (staged (add 1)) 0) (add 1).bytes ∧
     ((stackSt s 0).held.find? fun h => h.slot = 2 && BitVec.ofNat 32 h.seq = Tab.get 0 (stackSt s 0).next 2) = some h ∧
     h.words ≠ [] ∧ isStg h.addr = true ∧ isStg (h.addr + 4 - 1) = true) := by decide +kernel
theorem wit_StagingAccesses :
    (let wr := fromHost true stgBase [1, 2]
     let rd := fromHost false stgBase []
     let un := fromPip false stgBase
     let out := fromPip false (stgBase + 2 ^ 25)
     let win := fromHost false reqBase []
     let bad := fromHost true reqBase (request 7 false 0)
     (∀ r ∈ [wr, rd, un, out, win, bad], nextAccess (staged r) 0 = some (r, [])) ∧
     senderOwns (staged wr) wr wr.addr 2 = true ∧ senderOwns (staged rd) rd rd.addr 128 = true ∧
     senderOwns (staged un) un un.addr 128 = true ∧ memUe (staged un) un.addr 128 = false ∧
     senderOwns { staged rd with sgranules := [] } rd rd.addr 128 = false ∧
     senderOwns { staged out with sgranules := [(0, { prot := 1, share := true })] } out out.addr 128 = false ∧ jobOfPip (staged out) 0 = some job0 ∧
     isReq win.addr = true ∧ isReq rd.addr = false ∧ rqAop bad.bytes = 7) := by decide +kernel


/-! ### Hypotheses met: links -/

/-- A module of a torus of two by one by one, with link 0 in a state. -/
def withLink (v : LinkSt) : State :=
  { base with links := [(0, v)], boot := { base.boot with linkEn := 1 }, lnk := { node := 2 ^ 12 } }

/-- A field past the first `h` of a block, and past the zeros that a block begins with. -/
theorem field_after (h l : List Byte) (m k : Nat) : field (h ++ l) (h.length + m) k = field l m k := by
  simp [field, slice, List.drop_append, List.drop_eq_nil_of_le]
theorem field_zeros (n m k : Nat) (l : List Byte) : field (List.replicate n 0 ++ l) (n + m) k = field l m k := by
  simp [field, slice, List.drop_append]

/-- A link record (Table 12.5): DPLAN, identity, route 3 sent at position 1, and the receive entry of position 21. -/
def recordHead : List Byte := toBytes 16 (1152 * 2 ^ 32 + 5 * 2 ^ 64) ++ toBytes 4 0 ++ toBytes 4 13
def linkRecord (rx : Nat) : List Byte := recordHead ++ (List.replicate 35916 0 ++ toBytes 4 rx)
theorem record_rx (rx : Nat) : lrRx (linkRecord rx) 21 = field (toBytes 4 rx) 0 4 := by
  have h : 0x8C10 + 4 * 21 = recordHead.length + (35916 + 0) := by decide +kernel
  rw [lrRx, linkRecord, h, field_after, field_zeros]

theorem wit_LinkTraining :
    (let s := withLink {}
     let m : CapMsg := { node := 1, dir := 1, k := 0, size := 1, mode := 0, fec := 1 }
     let up : LinkSt := { state := 2, record := linkRecord 0, partner := { known := true, lplan := 5 }, meas := 1152, mode := 0 }
     let held : LinkSt := { state := 3, bursts := [{ held := true }] }
     let e := { withLink up with lnk := { sync := 2 } }
     linkLive s 0 = true ∧ (linkSt s 0).state = 0 ∧ identityOk s 0 m = true ∧ identityOk s 0 { m with k := 1 } = false ∧
     (∃ b ∈ held.bursts, b.dead = false ∧ b.held = true) ∧ held.lastFlit + cyclesOf s 256 ≤ 2 ^ 20 ∧
     held.lastFlit + cyclesOf s 10000 ≤ 2 ^ 20 ∧ s.lnk.anchor = false ∧ e.lnk.departReq = false ∧ e.lnk.sync = 2 ∧
     (linkSt e 0).state = 2 ∧ (linkSt e 0).record ≠ [] ∧ e.lnk.pendTables = false ∧ planFits (linkSt e 0) = true ∧
     delayFits (linkSt e 0) = true ∧ (linkSt e 0).meas ≤ 34560 ∧ priv s .acorn = true ∧ priv s (.host 1) = false ∧
     0 + cyclesOf s 1000000 ≤ 2 ^ 21 ∧ s.lnk.period < periodNow { s with cycle := 2 ^ 25 } ∧ s.lnk.epochs < epochNow { s with cycle := 2 ^ 25 }) := by
  decide +kernel
theorem wit_LinkTraffic_flits :
    (let f : RxFlit := { slot := 1, pos := 1, type := 1, data := [1, 2], arr := 1226 }
     let fwd : LinkSt := { state := 3, record := linkRecord (2 + 6 * 2 ^ 14) }
     let dlv : LinkSt := { state := 3, record := linkRecord 13 }
     let s := { withLink fwd with links := [(0, fwd), (6, { state := 3 })] }
     f.err0 = 0 ∧ f.err1 = 0 ∧ offWindow fwd.record f = false ∧ offWindow dlv.record f = false ∧ f.pos = f.slot ∧ f.bpos = 0 ∧ f.slot % 64 ≠ 0 ∧ rxPosition fwd.record f.slot = 21 ∧
     f.etag = (flitEpoch s f).toNat % 256 ∧ rxAct (lrRx fwd.record 21) = 2 ∧ rxOut (lrRx fwd.record 21) = 6 ∧
     (linkSt s 6).state = 3 ∧ rxAct (lrRx dlv.record 21) = 1 ∧ burstOf dlv (rxRoute (lrRx dlv.record 21)) = none ∧
     rxFill dlv < 128 ∧ rxAct (lrRx (linkRecord 0) 21) = 0 ∧ { f with etag := 1 }.etag ≠ (flitEpoch s f).toNat % 256) := by
  simp only [record_rx]; decide +kernel
theorem wit_LinkTraffic_runs :
    (let v : LinkSt := { state := 3, record := linkRecord 0, tx := [{ route := 3, bytes := [1] }, { route := 3, bytes := List.replicate 300 0 }] }
     v.record ≠ [] ∧ posNow { base with cycle := 3 } % 8960 = 1 ∧ v.runAt < posNow { base with cycle := 3 } ∧ runStarts v.record (bits (lrTx v.record 1) 13 2) 1 = true ∧ bits (lrTx v.record 1) 13 2 = 3 ∧
     linkFlits (v.tx.headD {}).bytes ≤ runLen v.record 3 1 ∧ runLen v.record 3 1 < linkFlits (List.replicate 300 0)) := by decide +kernel

/-- A DATA message without a signal (Table 12.3): kind, context 3, address, length. -/
def dataMsg (kind a n : Nat) : List Byte := toBytes 8 (kind + 3 * 2 ^ 16) ++ toBytes 8 a ++ toBytes 8 n ++ List.replicate n 1

/-- The same with a signal of 1 to object 7. -/
def dataSig (kind a n : Nat) : List Byte :=
  toBytes 8 (kind + 2 ^ 8 + 3 * 2 ^ 16) ++ toBytes 8 a ++ toBytes 8 (n + 2 ^ 16 + 7 * 2 ^ 32) ++ List.replicate n 1

/-- Route 0 of the base plan runs between stack 0 and pip 0. -/
def stackState : State := { running {} with mod := { base.mod with resv := { routes := [1] } } }

theorem wit_LinkTraffic_data :
    (let s := running {}
     let b := dataMsg 0 0 8
     dataForm s 0 b = true ∧ dataOwned s 0 b = true ∧ dKind b = 0 ∧ padAwake s (dPip b) = true ∧
     padTaken (pipOf s (dPip b)) (dAddr b) (dLen b) = false ∧ dataForm s 0 (dataSig 0 0 8) = true ∧
     dataOwned s 0 (dataSig 0 0 8) = true ∧ dSen (dataSig 0 0 8) = true ∧ syncReady s (dSobj (dataSig 0 0 8)) = true ∧
     dataForm s 0 (dataMsg 3 0 8) = false ∧ dataOwned s 0 (dataMsg 0 0x800000 8) = false ∧ routePart s 0 = some 0) ∧
    (∀ k ∈ [(1, stgBase, 8), (2, reqBase, 128)],
      dataForm stackState 0 (dataMsg k.1 k.2.1 k.2.2) = true ∧ dataOwned stackState 0 (dataMsg k.1 k.2.1 k.2.2) = true ∧
      dataForm stackState 0 (dataSig k.1 k.2.1 k.2.2) = true ∧ dataOwned stackState 0 (dataSig k.1 k.2.1 k.2.2) = true ∧
      dataReqs stackState 0 (dataSig k.1 k.2.1 k.2.2) ≠ [] ∧ dataWaits stackState 0 (dataSig k.1 k.2.1 k.2.2) = false ∧
      syncReady stackState (dSobj (dataSig k.1 k.2.1 k.2.2)) = true) := by decide +kernel


/-! ### Hypotheses met: collectives -/

/-- A collective command of context 3 (Table 13.1). -/
def collCmd (opc : Nat) (b : List Byte) : List Byte := cmdOf16 opc 0 b
def reduceCmd : List Byte :=
  collCmd 0x21 (toBytes 8 (1 + 2 ^ 8 + 5 * 2 ^ 32) ++ toBytes 8 (stgBase + 0x200000) ++ toBytes 8 (0x80000 + 7 * 2 ^ 32) ++ toBytes 8 9
    ++ toBytes 8 0 ++ toBytes 8 (stgBase + 0x400000))
def closeCmd (force : Bool) : List Byte := collCmd 0x22 (toBytes 8 (1 + if force then 2 ^ 8 else 0))

/-- A group of nodes 0 and 1 with tag 9 (R334). -/
def group2 : List Byte := toBytes 4 2 ++ toBytes 12 9 ++ toBytes 4 (2 ^ 16)

/-- The command stands ready in partition 0, of one field, whose plan serves route 0; six granules of staging are shared. -/
def collState (b : List Byte) (v : ChanSt) : State :=
  { withCmd b with
    parts := [(0, { valid := true, hasPlan := true, plan := List.replicate 640 0 ++ [1] })]
    sgranules := (List.range 6).map fun g => (g, { prot := 1, share := true }), hbm := bytesAt 0x9000 group2
    chans := [(1, v)], mod := { base.mod with resv := { routes := [0, 1 + 2 * 2 ^ 32] } } }

/-- CL_OPEN of channel 1 for stack 0, sending and receiving on route 1, with HBM route 0. -/
def openCmd : List Byte := collCmd 0x20 (toBytes 8 (1 + 2 ^ 16 + 2 ^ 32) ++ toBytes 8 0x9000 ++ toBytes 8 stgBase)
theorem wit_CollectiveChannels_open :
    MayIssue (collState openCmd {}) 3 0x20 openCmd (openForm openCmd)
      (ctxHbm (collState openCmd {}) 3 (field openCmd 24 8) 16 &&
        ctxHbm (collState openCmd {}) 3 (field openCmd 24 8) (groupLen (collState openCmd {}) (field openCmd 24 8)) &&
        ctxMem (collState openCmd {}) 3 (field openCmd 32 8) 0x40000)
      (openCode (collState openCmd {}) 3 openCmd) := by
  unfold MayIssue; decide +kernel

/-- Channel 1 is open for context 3, with room for its reductions. -/
def openChan : ChanSt := { state := 1, ctx := 3, opened := openCmd, group := group2 }
theorem wit_CollectiveChannels :
    (let s := collState reduceCmd openChan
     let b := reduceCmd
     let run : ChanSt := { openChan with state := 3, running := some { cmd := 7, bytes := toBytes 40 (2 ^ 256) }, recvR := 1, recvG := 1 }
     clChan b = 1 ∧
     MayIssue s 3 0x21 b (reduceForm b) (ctxMem s 3 (clBucket b) (clNelem b * clElem b) && ctxMem s 3 (clOut b) (4 * clNelem b) &&
       (clDense b || ctxMem s 3 (clResid b) (8 * clNelem b)))
       (reduceCode s 3 b) ∧
     (∀ force, MayIssue (collState (closeCmd force) openChan) 3 0x22 (closeCmd force) (closeForm (closeCmd force)) true
       (if chanMine (collState (closeCmd force) openChan) 3 (clChan (closeCmd force)) then eOk else eDesc) ∧
       bit (field (closeCmd force) 17 1) 0 = force) ∧
     (let t := collState [] run
      (chanSt t 1).running ≠ none ∧ (chanSt t 1).resOut = [] ∧ (chanSt t 1).unacked = 0 ∧ (∀ m ∈ (chanSt t 1).outq, m.paid = false) ∧
      collP run = 2 ∧ chunksBut 1 2 ((rankOf t run + 2 - 1) % 2) ≤ run.recvR ∧ chunksBut 1 2 (rankOf t run) ≤ run.recvG)) := by
  unfold MayIssue; decide +kernel

/-- The reduction that channel 1 holds: dense, SEQ 5, one element, OUT at the start of the staging buffer. -/
def held1 : CollCmd := { cmd := 7, bytes := List.replicate 17 0 ++ toBytes 19 (1 + 5 * 2 ^ 24 + 2 ^ 120) ++ toBytes 20 7 ++ toBytes 8 stgBase }
/-- A message of a kind from node 1 with the group's tag. -/
def collMsg (kind seq : Nat) : CollMsg :=
  { src := 1, bytes := toBytes 8 (kind + seq * 2 ^ 32) ++ toBytes 8 (2 ^ 32) ++ toBytes 8 9 ++ toBytes 4 0x3F800000 }
theorem wit_CollectiveSteps :
    (let thin : CollCmd := { cmd := 7, bytes := List.replicate 32 0 ++ toBytes 8 (1 + 7 * 2 ^ 32) }
     let start : ChanSt := { openChan with fifo := [thin] }
     let s := collState [] start
     let ring (m : CollMsg) : ChanSt := { openChan with state := 3, running := some held1, inbox := [m] }
     let t := collState [] (ring (collMsg 1 5))
     syncReady s (clFill thin.bytes) = true ∧ 0 ≤ (syncVal s (clFill thin.bytes) - BitVec.ofNat 32 (clThresh thin.bytes)).toInt ∧
     0 < residLines thin.bytes ∧ start.abortSent = false ∧ residLines held1.bytes = 0 ∧ (effective t held1.bytes).length = 1 ∧
     isStg (clOut held1.bytes) = true ∧ isStg (clOut held1.bytes + 3) = true ∧
     firstChunk (ring (collMsg 1 5)) = some (collMsg 1 5) ∧ (collMsg 1 5).src = prevNode t (ring (collMsg 1 5)) ∧
     slice (collMsg 1 5).bytes 16 4 = slice group2 4 4 ∧ msgSeq (collMsg 1 5) = clSeq held1.bytes ∧ msgKind (collMsg 1 5) ≤ 5 ∧
     chunkForm (clNelem held1.bytes) (collP (ring (collMsg 1 5))) (collMsg 1 5) = true ∧ msgSeq (collMsg 1 6) ≠ clSeq held1.bytes ∧
     firstKind (ring (collMsg 4 5)) 4 = some (collMsg 4 5) ∧ (collMsg 4 5).src = nextNode t (ring (collMsg 4 5)) ∧
     firstKind (ring (collMsg 5 5)) 5 = some (collMsg 5 5) ∧ msgSeq (collMsg 5 5) = clSeq held1.bytes ∧
     nextOut { openChan with outq := [{ route := 1, paid := true, bytes := (collMsg 1 5).bytes }] } =
       some { route := 1, paid := true, bytes := (collMsg 1 5).bytes }) := by decide +kernel

/-- A run of a route is no longer than the longest. -/
theorem longest_run (rec' : List Byte) (route j : Nat) (hj : j < 8960) (h : runStarts rec' route j = true) :
    runLen rec' route j ≤ longestRun rec' route := by
  have grows : ∀ (l : List Nat) (m : Nat),
      m ≤ l.foldl (fun m j => if runStarts rec' route j then max m (runLen rec' route j) else m) m := by
    intro l
    induction l with
    | nil => intro m; exact Nat.le_refl m
    | cons a l ih => intro m; refine Nat.le_trans ?_ (ih _); dsimp only; split <;> omega
  have meets : ∀ (l : List Nat) (m : Nat), j ∈ l →
      runLen rec' route j ≤ l.foldl (fun m j => if runStarts rec' route j then max m (runLen rec' route j) else m) m := by
    intro l
    induction l with
    | nil => intro m hl; cases hl
    | cons a l ih =>
      intro m hl
      rcases List.mem_cons.mp hl with rfl | hl
      · refine Nat.le_trans ?_ (grows l _); dsimp only; rw [if_pos h]; omega
      · exact ih _ hl
  exact meets _ 0 (List.mem_range.mpr hj)
/-- A transmit table whose position 1 is route 1's. -/
def sendRecord : List Byte := List.replicate 20 0 ++ toBytes 4 5
theorem wit_CollectiveSteps_send :
    (routeLink (resv (collState [] openChan)) 1 = some 0 ∧ txFill { record := sendRecord } + linkFlits (collMsg 1 5).bytes ≤ 128 ∧
      outAhead (collState [] openChan) 1 { route := 1, bytes := (collMsg 1 5).bytes } = false) ∧
    linkFlits (collMsg 1 5).bytes ≤ min 64 (longestRun sendRecord 1) :=
  ⟨by decide +kernel, Nat.le_min.mpr ⟨by decide +kernel,
    Nat.le_trans (by decide +kernel) (longest_run sendRecord 1 1 (by omega) (by decide +kernel))⟩⟩


/-! ### Hypotheses met: hosts -/

/-- Host 0's block asks for context `c` in partition 0 with sync objects from 256 on. -/
def withHost (c : Nat) : State :=
  { base with hosts := [(0, { state := 1, crCtx := c, crPart := 0, crJobq := 1, crVec := 1, crScount := 8, crSbase := 256,
                              spdm := { stage := 5 } })]
              heads := [(0, { up := true })] }

theorem wit_HostMemory :
    (let s := { running {} with cycle := 2 ^ 14 }
     let wr : WinAccess := { write := true, addr := 0, data := [1], len := 1, host := 0, since := 0 }
     let t := setPip s 0 { pipOf s 0 with net := { window := [wr] } }
     attached s 0 = true ∧ memAccepted s 0 (2 ^ 40 - 1) 1 false = false ∧ memAccepted s 0 winBase 8 true = true ∧ isWin winBase = true ∧
     memAccepted s 0 64 8 false = true ∧ isWin 64 = false ∧ stackQueue s (stackOf 64) < 64 ∧
     (pipOf t 0).net.window = wr :: [] ∧ wr.since + 8192 ≤ t.cycle ∧ (winRuns 0 1).all (winRunOk t 0) = true ∧
     (winRuns 0 1).all (fun r => syncReady t (256 * fieldOfPip r.1)) = true ∧ wr.data.length = wr.len ∧
     winBusy t (winRuns 0 1) = false ∧ (pipOf t 0).sp.flips = [] ∧
     winBusy (setPip t 0 (takeBank (pipOf t 0) 0)) (winRuns 0 1) = true ∧
     syncReady { t with fields := [(0, { state := .f2 })] } (256 * fieldOfPip 0) = false ∧
     (winRuns 0 1).all (winRunOk { t with fields := [(0, { state := .f2 })] } 0) = true ∧
     decoderSize 3 ≠ 0 ∧ ({ s with cxl := { s.cxl with mld := true } }).cxl.mld = true) := by decide +kernel
theorem wit_HostMemory_two : -- a write over the last byte of pip 0 and the first of pip 1
    (winRuns (2 ^ 23 - 1) 2).all (winRunOk (running {}) 0) = true ∧ memAccepted (running {}) 0 (winBase + 2 ^ 23 - 1) 2 true = true := by
  decide +kernel
theorem wit_ContextsOfHosts :
    (let s := withHost 4
     let v := hostSt s 0
     let mine := withHost 3
     let noPage := withHost 20
     attached s 0 = true ∧ createForm s v = true ∧ bindOk s 0 4 0 256 8 0 = true ∧ createForm mine (hostSt mine 0) = false ∧
     createForm noPage (hostSt noPage 0) = true ∧ bindOk noPage 0 20 0 256 8 0 = false ∧ crMine mine 0 = true ∧ crMine s 0 = false ∧
     (∀ j ∈ mine.jobs, j.ctx ≠ 3) ∧
     bindOk mine 0 3 0 (ctxSt mine 3).sbase (ctxSt mine 3).scount (ctxSt mine 3).qbase = true ∧
     priv s (.host 0) = true ∧ priv s (.host 1) = false ∧ mgmtOnly s (.host 0) = true ∧ mgmtOnly s .acorn = false ∧
     (∀ i ∈ List.range 16, (ctxSt s (16 * 1 + i)).created = false) ∧ (ctxSt s (16 * 0 + 3)).created = true) := by decide +kernel
theorem wit_HeadsAndHosts :
    (let s := withHost 3
     let down := { s with heads := [] }
     let mld := { s with cxl := { s.cxl with mld := true, nld := 2 }, hosts := [(0, { state := 2 }), (1, { bound := false })] }
     0 < headCount s ∧ (headSt down 0).up = false ∧ (headSt down 0).perst = false ∧ s.boot.working = true ∧ s.pwr.mstate = .m0 ∧
     0 ∈ hostsOfHead s 0 ∧ (hostSt s 0).bound = true ∧ (headSt s 0).up = true ∧ (hostSt s 0).state = 1 ∧
     (ctxSt s 3).created = true ∧ (ctxSt s 3).host = 0 ∧ 1 < mld.cxl.nld ∧ (hostSt mld 1).bound = false ∧
     (hostSt mld 0).state = 2 ∧ (headSt mld (headOfHost mld 0)).up = true ∧ attached s 0 = true ∧
     (hostSt s 0).spdm.stage = 5 ∧ (headSt s (headOfHost s 0)).up = true ∧ s.cxl.mld = false) := by decide +kernel
theorem wit_SpdmRequests :
    (let s := withHost 3
     attached s 0 = true ∧ 3 ≤ (hostSt s 0).spdm.stage ∧ (hostSt s 0).spdm.slot ≤ 2 ∧ s.hull.idOk = true ∧ s.hull.drbgOk = true ∧
     { s.hull with idOk := false }.idOk = false ∧ (hostSt base 0).spdm.stage < 3) := by decide +kernel


/-! ### Hypotheses met: hull, fields and limits -/

/-- A job block with three operands of eight words: n = 2^511 + 1, x = 2 and y or e = 3; DST 0x8000. -/
def hullBlock (op : Nat) : List Byte :=
  toBytes 24 (op + 8 * 2 ^ 16 + 2 ^ 24) ++ toBytes 40 0x8000 ++ toBytes 512 (2 ^ 511 + 1) ++ toBytes 512 2 ++ toBytes 512 3
/-- Channel 2 is host 0's, in a state; its job block lies at 0x4000. -/
def withChan (v : HullChanSt) : State :=
  { base with hchans := [(2, { v with owner := 0, ownerValid := true, job := 0x4000 })], hbm := bytesAt 0x4000 (hullBlock 2) }

theorem wit_HullJobs_start :
    (let s := withChan {}
     hullWriter s (.host 0) 2 = true ∧ hullWriter s .acorn 2 = false ∧ hullWriter s .acorn 1 = true ∧ (hchan s 2).state = .idle ∧
     hbOp (hullRead s 2 (hchan s 2).job.toNat 1) = 2 ∧ hullWriter (withChan { state := .wait }) (.host 0) 2 = true ∧
     (hchan (withChan { state := .wait }) 2).state ≠ .idle) := by decide +kernel
theorem wit_HullJobs_load :
    (let b := hullBlock 2
     let s := withChan { state := .load, moved := 1, opmem := b.take 128 }
     let h := (hchan s 2).opmem.take 0x40
     let n := 0x40 + hbBody (hbOp h) (hbLen h)
     let e : List Byte := toBytes 24 0x23 ++ List.replicate 40 0
     let a := { base with hchans := [(0, { state := .load, job := BitVec.ofNat 64 (2 ^ 63) })] }
     (hchan s 2).job.toNat = 0x4000 ∧ hullMay s 2 0x4000 0x40 = true ∧ hbForm h none = true ∧ hullMay s 2 0x4000 n = true ∧ hbOp h ≠ 0x20 ∧
     hbResult h none = 64 ∧ hullMay s 2 (hbDst h) 64 = true ∧ hbForm [0xFF] none = false ∧ 0 < (hchan s 2).moved ∧
     (hchan s 2).moved < (n + 127) / 128 ∧ (stackSt s (stackOf 0x4080)).state = 2 ∧ stackQueue s (stackOf 0x4080) < 64 ∧
     hbForm e none = false ∧ hullMay a 0 (2 ^ 63) 0x40 = true ∧ (hchan a 0).job.toNat % 128 = 0 ∧ hullMay s 2 0x4000000000 0x40 = false) := by
  decide +kernel
theorem wit_HullJobs_exec :
    (let b := hullBlock 1
     let s := { withChan { state := .exec, opmem := b, execN := 8 } with cycle := 4096 }
     let t := withChan { state := .store, opmem := b, result := toBytes 64 8 }
     let x := withChan { state := .wait }
     (hchan s 2).execAt + hullCycles s 8 ≤ s.cycle ∧ base.cycle < 0 + hullCycles base 8 ∧ hbOp b = 1 ∧ hbW b = 8 ∧ hbEw b = 1 ∧
     modulusOk (hbNum b 0 8) 8 = true ∧ 0 < hbNum b 1 8 ∧ hbNum b 1 8 < hbNum b 0 8 ∧ hbNum b 2 1 ≠ 0 ∧ 0 < hbNum b 2 8 ∧
     hbNum b 2 8 < hbNum b 0 8 ∧ modulusOk 2 8 = false ∧ hbOp (hullBlock 0x20) = 0x20 ∧ hbOp (hullBlock 0x23) = 0x23 ∧
     (hchan t 2).dropped = false ∧ (hchan t 2).result ≠ [] ∧ (hchan t 2).waits = false ∧ msgLeft 2 (hchan s 2) = false ∧
     (hchan t 2).moved < lineCount (hbDst b) 64 ∧ lineCount (hbDst b) 64 ≤ 1 ∧ (stackSt t (stackOf (hbDst b))).state = 2 ∧
     stackQueue t (stackOf (hbDst b)) < 64 ∧
     0 + hullCycles s 256 ≤ s.cycle ∧ x.hull.engB = 0 ∧ 2 ≤ x.hull.lastB ∧ x.hull.lastB < 16 ∧
     (∀ k ∈ List.range 16, 2 ≤ k → (hchan x k).state = .wait → (2 + 13 - x.hull.lastB) % 14 ≤ (k + 13 - x.hull.lastB) % 14) ∧
     x.hull.engA = 0 ∧ (hchan x 0).state ≠ .wait) := by decide +kernel
theorem wit_CurveSlots :
    (let s := { withChan { curve := some p256 } with heads := [(0, { up := true })] }
     hullWriter s (.host 0) 2 = true ∧ (hchan s 2).state = .idle ∧ isMgmt s 0 = true ∧ (hchan s 2).owner ≠ bits 1 3 0 ∧
     (hostSt s 0).state = 1 ∧ (hchan s 2).ownerValid = true ∧ 0 ∈ hostsOfHead s 0 ∧ (headSt s 0).up = true ∧ 0 < headCount s ∧
     s.pwr.mstate = .m0 ∧ priv s .acorn = true ∧ s.boot.stage ≠ 0 ∧ s.boot.stage ≠ 1 ∧
     { s.cxl with mld := true }.mld = true ∧ 0 < s.cxl.nld) := by decide +kernel

/-- Field 0 in a state, in cycle 2^20. -/
def withField (v : FieldSt) : State := { base with fields := [(0, v)], cycle := 2 ^ 20 }
/-- A partition plan of one field whose power plan has one step of program 0 at offset 2^17 (Table 16.6). -/
def stepPart : PartSt :=
  { valid := true, hasPlan := true, plan := List.replicate 648 0 ++ toBytes 8 1 ++ toBytes 8 0 ++ toBytes 8 (2 ^ 17 + 5 * 2 ^ 40) }
theorem wit_FieldTransitions :
    (let due := withField { state := .f0 }
     let exp := withField { state := .f1, rest := 2 }
     let j := { job0 with t0 := 2 ^ 19 }
     let step := { withField { state := .f0, railOn := true, stepJobs := [0] } with parts := [(0, stepPart)], jobs := [j] }
     fieldIdle due 0 = true ∧ (fieldSt due 0).idleFrom + 4096 ≤ due.cycle ∧ fieldIdle exp 0 = true ∧
     (fieldSt exp 0).idleFrom + cyclesOf exp (1000 * (fieldSt exp 0).idle) ≤ exp.cycle ∧ floored exp 0 .f2 = .f2 ∧
     floored (withField { state := .f1, rest := 3 }) 0 .f3 = .f3 ∧ mustF3 exp 0 = false ∧
     mustF3 { withField { state := .f2, trans := .wake } with parts := [] } 0 = true ∧
     floored { withField { state := .f2, trans := .wake } with parts := [] } 0 .f3 = .f3 ∧ floored exp 0 .f1 = .f1 ∧
     exp.cycle ≤ reqEnd { exp with fields := [(0, { req := .off, reqAt := 2 ^ 20 - 1 })] } 0 ∧ reqEnd exp 0 < exp.cycle ∧
     base.pwr.mstate = .m0 ∧ base.trc.en.getLsbD 1 = false ∧ priv base .acorn = true ∧ priv base (.host 1) = false ∧
     jobOf step 0 = some j ∧
     (match (powerSteps (partSt step j.part))[0]? with
      | some r => decide (r.fld = 0) && decide (r.prog = j.progId.toNat) && decide (r.dv = 5) && decide (j.t0 + r.offset ≤ step.cycle + stepLead step)
      | none => false) = true ∧
     0 ∉ j.steps) := by decide +kernel
theorem wit_LimitsAndMonitors :
    (let s := { running {} with fields := [(0, { state := .f0, railOn := true })] }
     (fieldSt s 0).temp ≤ 95 ∧ (fieldSt s 0).hot = false ∧ partOfField s 0 = some 0 ∧ s.pwr.mstate = .m0 ∧ s.pwr.excess = false ∧
     jobOfPip s 0 = some job0 ∧ (fieldSt s 0).state = .f0 ∧ monRead s 0 = false ∧
     monRead { withField { state := .f0, monDue := true } with cycle := 2 ^ 31 } 0 = true ∧ s.pwr.vinBadAt = none ∧
     0 + cyclesOf s 1000000 < 2 ^ 21 ∧ (-3 : Int) ∈ (-3 : Int) :: List.replicate 15 0 ∧
     (∀ x ∈ (-3 : Int) :: List.replicate 15 0, (-3 : Int) ≤ x) ∧ ((-3 : Int) :: List.replicate 15 0).length = 16) := by decide +kernel


/-! ### An accepted image -/

/-- A key made for this test (3,072 bits, E = 3), its signature of a configuration image, and the digest of the key. -/
def testN : Nat :=
    0x9b1cd99c7688dbb809bd2c04c48586d2b129f82c60a7bf1246be0a6a17a5c7af8ff3d510633a7a5062bdde5f32762ce9 * 2 ^ 2688
    + 0x7bcbddd15fed9539396cb5e03d50c312aee6c65bfc68db30b700b0ef4baa1dfe2298f783d71503ff0b1894f7e859618e * 2 ^ 2304
    + 0xe4c511f7ab018b2733029ae8532b1fe7fbf30388bfb37aecde5ab94a3b323802a25b8a7424efa8948fc290adfb396388 * 2 ^ 1920
    + 0x5dfa36e455f2932a0c71a221f666ed53cd3dcb01fc847ce1e2e391365fd3a22f42ab524b960880a7effe2a770b2efd8b * 2 ^ 1536
    + 0x6630c1a87d30ffb6f4c905f5f5462491bf63b036e8248d89c173ab1edafc9111d1da2f02cc14c6ba3da710e9f9b52d9b * 2 ^ 1152
    + 0xa53e4461fa172953d7ca83440f4e80ed24033d2ec6a54e10e073c74cbf33fd0de6b855177351118ffc49395d9e67ba05 * 2 ^ 768
    + 0xa6af33939618dda46db9d7b9f622d5d9634441e1c8484d5c925181514c1e4b43df4eedd0d87a69ecbc2cfaa19a6a9de7 * 2 ^ 384
    + 0xfa18c1e30fb12e45a2fe3d8fd491bca18fec62aa1dc25c257f32430d9973a0b2a7b7053a9e6a3d19bb2627491829d3ad
def testSig : Nat :=
    0x682a3027911c3e009ec56c75f59b03d351aa05cddfe73cf1eb78756900f655ad8c3ad48ede38828366bf2be94f334fc0 * 2 ^ 2688
    + 0x9b12901f6eaa3eb533bc2adfdb21641ba79bc98c86bf4e018561f881e52a69d118d1b5050dbf55d084251c44296a0ced * 2 ^ 2304
    + 0x5843c2cae79d2efa5ad40231b79e585d344a4d0330485446b71fd3d16f8cba6bad9db9a3e8e1ff40bc8412605f697589 * 2 ^ 1920
    + 0xbd126916bb96767bccf07b1bed43c561c0714ffb356fc80caa8ff30add9c27223cf854e20384c5ec7e439f968b37b5eb * 2 ^ 1536
    + 0x47a961245af9c0e667cb80fe669ddc5f35feb01ffd8aafe3977acf2dd3bab32dedba16a0bd3ffb0bdb4fffd50869293d * 2 ^ 1152
    + 0x4042141cdb76810d77af221c9d3af02c4c861651df8ec4ab51e2076949ae2cd2a8ae82af6a1b094ed855871e6ef3f369 * 2 ^ 768
    + 0x830f0eab9ee2ffe674fc5aded2ade2c7d9e6386e77dfaf0f527fb728c7f85e115c91e8938dad0370c4c80e7263f9c572 * 2 ^ 384
    + 0x351b729b1c9ef0b80add7f4ad11c359c25e778af70a1b1583cef8595b820333f9ea4972fe85c21ec60918b5e7872bcc8
def testOwner : BitVec 256 := 0x2ed4b3b1eab92fbf8c58632ae5fa5325d39516a36b7989e849ca3e64721539e3
/-- The default configuration as an image of the owner (Table 15.9). -/
def ownerImage : List Byte :=
  toBytes 64 (0x46475153 + 2 * 2 ^ 32 + 2 * 2 ^ 40 + 64 * 2 ^ 192) ++ toBytes 384 testN ++ toBytes 64 3 ++ toBytes 384 testSig ++ defaultConfig
theorem wit_image_accepted :
    imageOk { base with hull := { base.hull with owner := testOwner } } [2] ownerImage = true ∧ configOk (siPayload ownerImage) = true := by
  decide +kernel


/-! ### Hypotheses met: power states, start-up, recovery, management, trace and registers -/

theorem wit_PowerStatesAndStartUp :
    (let none_ := { base with ctxs := [] }
     let going := { base with pwr := { base.pwr with mstate := .entering } }
     let m1 := { base with pwr := { base.pwr with mstate := .m1, wakeEn := 0x1F, timer := 1 }, cycle := 2 ^ 40 }
     let m2 := { base with pwr := { base.pwr with mstate := .m2 } }
     let stage (n : Nat) : State := { base with boot := { base.boot with stage := n } }
     let good : BootMeas := { vin := 5000, refOk := true, hstacks := 0xFFE }
     priv base .acorn = true ∧ priv base (.host 1) = false ∧ base.pwr.mstate = .m0 ∧ anyContext none_ = false ∧ anyContext base = true ∧
     base.boot.stage ≠ 0 ∧ base.boot.stage ≠ 1 ∧
     (∀ f ∈ List.range 64, (fieldSt { going with fields := [] } f).state = .f3 ∧ (fieldSt { going with fields := [] } f).trans = .none) ∧
     (fieldSt going 0).state ≠ .f3 ∧ (∀ k ∈ List.range 5, m1.pwr.wakeEn.getLsbD k = true) ∧ m1.pwr.timer ≠ 0 ∧
     m1.pwr.m1At + cyclesOf m1 (1000000 * m1.pwr.timer.toNat) ≤ m1.cycle ∧ m2.pwr.mstate = .m2 ∧ (stage 1).boot.stage = 1 ∧
     imageOk (stage 1) [1] (slotImage (stage 1) false) = false ∧ imageOk (stage 1) [1] (slotImage (stage 1) true) = false ∧
     (stage 2).nvm.calib = [] ∧ (stage 2).nvm.cal.ok = true ∧ (stage 2).nvm.okA = true ∧
     4600 ≤ good.vin ∧ good.vin ≤ 5600 ∧ good.refOk = true ∧ bit (stage 3).boot.stackEn 0 = true ∧ bit good.hstacks 0 = false ∧
     readsVin (stage 3) = true ∧ readsVin { stage 3 with boot := { stage := 3, vinBad := some (stage 3).cycle, vinRead := (stage 3).cycle } } = false ∧
     (stage 3).boot.vinBad = none ∧ (stage 3).cycle < (stage 3).cycle + cyclesOf (stage 3) 1000000000 ∧
     0 + cyclesOf (stage 3) 1000000000 ≤ 2 ^ 40 ∧
     railExcess (stage 3) { good with amps := [1000000000] } 0 = true ∧
     (∀ h ∈ List.range (headCount (stage 4)), headSettled { stage 4 with cycle := 2 ^ 40 } h = true) ∧
     (∀ k ∈ List.range 12, bit (stage 4).boot.stackEn k = true → (stackSt (stage 4) k).state = 2)) := by decide +kernel
theorem wit_RecoveryAndFences :
    (let s (p : PartSt) : State := { base with parts := [(0, p)], hbm := [(0x8000, 2)] }
     let p : PartSt := { valid := true, recovery := .verifying, manifest := 0x8000 }
     (∀ j ∈ base.jobs, j.part ≠ 0) ∧ (∃ j ∈ (running {}).jobs, j.part = 0) ∧ manifestOk (s p) 0x8000 = true ∧
     manifestOk (s p) 0x8004 = false ∧ (ctxSt (s p) 3).created = true ∧ (ctxSt (s p) 3).part = 0 + 1 ∧
     (partSt (s { p with fenced := true }) 0).fenced = true ∧ base.flt.mfenced = false ∧ priv base .acorn = true) := by decide +kernel
theorem wit_ManagementAndTestPort :
    (let s := { base with ctxs := [] }
     base.pwr.mstate ≠ .m2 ∧ base.pwr.mstate = .m0 ∧ base.boot.stage = 5 ∧ anyContext s = false ∧ anyContext base = true ∧
     s.mgt.updating = false ∧ s.hull.owner = 0 ∧ base.boot.stage ≠ 7 ∧ ownerImage.length ≤ 16 * 2 ^ 20 ∧ 2 ∈ componentTypes 2 ∧
     imageOk base [1] [] = false) := by decide +kernel
theorem wit_TraceAndRegisters :
    (let f : TraceFlit := { recs := [{}] }
     let s := { base with trc := { base.trc with egress := [(0, [f]), (96, [f])], relay := [(96, [f])] }, fields := (List.range 8).map fun f => (f, { state := .f1 }) }
     let at_ (p d : Nat) : Nat := (shortOffset s.mod.map p d + 32) % 64
     tracePos s.mod.map 0 (traceOut 0) (at_ 0 1) = true ∧ tracePos s.mod.map 0 (traceOut 0) (at_ 0 1 + 1) = false ∧ traceOut 0 = 1 ∧
     traceOut 96 = 0 ∧ tracePos s.mod.map 96 0 (at_ 96 0) = true ∧ pipAt (traceCol 0) (pipY 0) = 96 ∧
     (∀ g ∈ traceRow 0, (fieldSt s g).state ≠ .f3) ∧ (Tab.get [] s.trc.relay 96).length < 4 ∧
     (∀ g ∈ traceUp 96, (fieldSt s g).state ≠ .f3) ∧ s.trc.portEn = true ∧ s.trc.sink.length + f.recs.length ≤ sinkSize ∧
     Tab.get (0, false) [(2, (0x4108, true))] 2 = (0x4108, true) ∧
     (fieldSt base 1).state = .f3 ∧ reaches s (.host 0) = true ∧ reaches s (.host 1) = false ∧ priv s (.host 0) = true ∧
     attached s 0 = true ∧ attached s 1 = false ∧ isLow s (some 0) 0x4108 = true ∧ isHigh s (some 0) 0x410C = true ∧
     isLow s (some 0) 0x410C = false ∧ read32 s (some 0) 0x410C < 2 ^ 32 ∧ syncValAt 0x4108 = none ∧
     syncValAt 0x410C = none ∧ isLow s (some 0) 0x4100 = false ∧
     isHigh s (some 0) 0x4100 = false) := by decide +kernel
theorem wit_every_command :
    (Instr.nop 0 true 1).wellFormed = true ∧ Memory.wf State.reset = true ∧ Memory.wf { base with hbm := [(5, 1), (9, 2)] } = true := by
  decide +kernel
theorem wit_EveryStepKeepsMemoryCanonical :
    Memory.wf State.reset = true ∧ (∃ t, step State.reset = .next t) ∧
    ∃ t, step { withCmd (cmdOf16 5 0 []) with pending := [.copy 3], hbm := [(0x100, 7)] } = .next t :=
  ⟨by decide +kernel, ⟨_, rfl⟩, ⟨_, rfl⟩⟩


/-! ### Values that the specification or the standard it names works out -/

/-- The worked gather of chapter 5: FP32 words, WSTRIDE 256, SWZ 2, SIZE0 32, STRIDE0 8, base 0x0012_3400. -/
def gatherDesc : BitVec 512 :=
  0x123400#512 ||| 1#512 <<< 47 ||| 1#512 <<< 55 ||| 2#512 <<< 56 ||| 256#512 <<< 64 ||| 32#512 <<< 128 ||| 8#512 <<< 160 ||| 1#512 <<< 448
theorem test_worked_gather :
    walk gatherDesc 9 = some (0x123400 + 72) ∧ (0x123400 + 72 : Int) + 3 * dWstride gatherDesc = 0x123748 := by decide +kernel
/-- The bias of chapter 5: two lines at 0x0008_0000 repeated for 32 rows. -/
def biasDesc : BitVec 512 := 0x80000#512 ||| 1#512 <<< 47 ||| 2#512 <<< 128 ||| 128#512 <<< 160 ||| 32#512 <<< 192 ||| 2#512 <<< 448
theorem test_bias : walk biasDesc 5 = some 0x80080 ∧ walk biasDesc 62 = some 0x80000 ∧ walk biasDesc 64 = none := by decide +kernel
/-- FIPS 180-4: the digest of "abc". -/
theorem test_sha256 : (sha256 [0x61, 0x62, 0x63]).take 4 = [0xba, 0x78, 0x16, 0xbf] := by decide +kernel
/-- The check value of CRC-32C. -/
theorem test_crc32c : crc32c [0x31, 0x32, 0x33, 0x34, 0x35, 0x36, 0x37, 0x38, 0x39] = 0xE3069283 := by decide +kernel
/-- R178: sums of FP32 numbers: one and two, and a tie that goes to even. -/
theorem test_f32add : f32add 0x3F800000 0x40000000 = 0x40400000 ∧ f32add 0x4B800000 0x3F800000 = 0x4B800000 := by decide +kernel
/-- R237: D(0) = 256. -/
theorem test_noise : noiseD 0 = 256 := by decide +kernel
/-- R82: a loop of count 0 is passed over. -/
theorem test_loop_zero :
    (match execLoop 0 true 1 0 5 (issuing true (.loop 0 true 1 0 5) {}) with | .next t => decide ((pipOf t 0).exe.pc = 6) | _ => false) = true := by decide +kernel
/-- A doorbell write of the owner host moves the tail of its context (R95). -/
theorem test_doorbell :
    (match execDoorbell (.host 0) 3 2 base with | .next t => decide ((ctxSt t 3).tail = 2) | _ => false) = true := by decide +kernel

end Sys2Proof.Tests
end

/-! ## The command reader (O20) -/

namespace Sys2Proof.Machine

/-- What the steps of a loop keep, the loop keeps. -/
theorem forAll_keeps_mem {σ α β : Type} {f : α → σ → σ} (g : σ → β) (l : List α) (h : ∀ a ∈ l, ∀ s, g (f a s) = g s) (s : σ) :
    g (forAll l f s) = g s := by
  induction l generalizing s with
  | nil => rfl
  | cons a l ih => exact (ih (fun b hb => h b (List.mem_cons_of_mem _ hb)) _).trans (h a List.mem_cons_self s)

theorem forAll_keeps {σ α β : Type} {f : α → σ → σ} (g : σ → β) (h : ∀ a s, g (f a s) = g s) (l : List α) (s : σ) :
    g (forAll l f s) = g s :=
  forAll_keeps_mem g l (fun a _ => h a) s

def State.besideStacks (s : State) : State := { s with hstacks := [] }

/-- Counting a read error changes the stacks alone. -/
theorem besideStacks_noteError (s : State) (k a : Nat) (ce ue : Bool) :
    (noteError s k a ce ue).besideStacks = s.besideStacks := by
  unfold noteError
  split
  · rfl
  · split <;> rfl

/-- Accounting for a read of module memory changes the stacks alone. -/
theorem besideStacks_noteMem (s : State) (a n : Nat) : (noteMem s a n).besideStacks = s.besideStacks := by
  unfold noteMem
  split
  · exact forAll_keeps State.besideStacks (fun _ _ => besideStacks_noteError ..) _ s
  · split
    · exact forAll_keeps State.besideStacks (fun _ _ => besideStacks_noteError ..) _ s
    · rfl

theorem noteMem_eq (s : State) (a n : Nat) : noteMem s a n = { s with hstacks := (noteMem s a n).hstacks } :=
  congrArg (fun t : State => { t with hstacks := (noteMem s a n).hstacks }) (besideStacks_noteMem s a n)

theorem ctxSt_noteMem (s : State) (a n c : Nat) : ctxSt (noteMem s a n) c = ctxSt s c := by rw [noteMem_eq]; rfl

def State.besideFields (s : State) : State := { s with fields := [], out := [] }

/-- An enabled field, or the enable that is latched, changes the fields and what is sent alone. -/
theorem besideFields_enableField (s : State) (f : Nat) : (enableField s f).besideFields = s.besideFields := by
  unfold enableField
  dsimp only
  split
  · rfl
  · split
    · rfl
    · rfl
    · split <;> rfl

theorem enableField_ctxs (s : State) (f : Nat) : (enableField s f).ctxs = s.ctxs :=
  (congrArg State.ctxs (besideFields_enableField s f) :)
theorem enableField_jobs (s : State) (f : Nat) : (enableField s f).jobs = s.jobs :=
  (congrArg State.jobs (besideFields_enableField s f) :)

/-- A command that is accepted stands as issued (R97, R101). -/
theorem accept_issued (s : State) (c : Nat) (b : List Byte) (k : Cmd → Cmd) :
    accept s c b k = { s with ctxs := (accept s c b k).ctxs, cmds := s.cmds ++ [k { id := s.nextId, ctx := c, bytes := b }],
                              nextId := s.nextId + 1 } ∧
    ctxSt (accept s c b k) c = { ctxSt s c with ahead := (ctxSt s c).ahead.drop 1, readyAt := 0 } ∧
    ∀ n, n ≠ c → ctxSt (accept s c b k) n = ctxSt s n :=
  ⟨rfl, ctxSt_setCtx_same .., fun _ h => ctxSt_setCtx_other s _ h⟩

/-- A command that ends where it issues has its code. -/
theorem atIssue_issued (s : State) (c : Nat) (b : List Byte) (code : Byte) : Issued s (atIssue s c b code) c b (some code) false := by
  obtain ⟨-, hc, ho⟩ := accept_issued s c b fun k => { k with code := some code }
  exact ⟨rfl, rfl, hc, ho⟩

/-- COMMAND_READ where the context may read (R96, R360). -/
theorem commandRead_reads {s : State} {c : Nat} (hc : c < 10240) (hcr : (ctxSt s c).created = true) (hp : (ctxSt s c).part ≠ 0)
    (hu : (ctxSt s c).head ≠ (ctxSt s c).tail) (hl : (ctxSt s c).ahead.length < 9) (ha : ∀ b ∈ (ctxSt s c).ahead, cmdOpc b ≠ 2)
    (hw : ∀ k ∈ s.cmds, k.ctx = c → cmdOpc k.bytes ≠ 2) :
    exec (.commandRead c) s = .next (setCtx (noteMem s ((ctxSt s c).qbase + (ctxSt s c).head % 256 * 64) 64) c { ctxSt s c with
      head := ((ctxSt s c).head + 1) % 65536
      ahead := (ctxSt s c).ahead ++ [memRead s ((ctxSt s c).qbase + (ctxSt s c).head % 256 * 64) 64] }) := by
  have h1 : ((ctxSt s c).ahead.any fun b => decide (cmdOpc b = 2)) = false := by simpa using ha
  have h2 : (s.cmds.any fun k => decide (k.ctx = c) && decide (cmdOpc k.bytes = 2)) = false := by simpa using hw
  show execCommandRead c s = _
  unfold execCommandRead
  rw [within_lt _ hc]
  simp [hcr, hp, hu, hl, h1, h2]

section
variable {s : State} {c : Nat} {b : List Byte} (hc : c < 10240) (hh : headCmd s c = some b) (h0 : (ctxSt s c).readyAt = 0)
  (hf : fenceMet s c b = true)
include hc hh h0 hf

/-- COMMAND_READY on a head whose fence is met (R101): refused, its fields woken, ready, or left to wait. -/
theorem commandReady_fenceMet : exec (.commandReady c) s = .next
    (if !opcListed (cmdOpc b) then atIssue s c b eDesc
     else if sleepers s c b ≠ [] then
       forAll (sleepers s c b) (fun f s => modField (enableField s f) f fun v => { v with wakeEntry := true }) s
     else if mayReady s c b then modCtx s c fun x => { x with readyAt := s.cycle + 1 }
     else s) := by
  show execCommandReady c s = _
  unfold execCommandReady
  rw [within_lt _ hc, hh]
  simp [h0, hf]

end

end Sys2Proof.Machine

section
open Sys2Proof Sys2Proof.Machine

/-- Settles O20: each clause is one branch of COMMAND_READ or COMMAND_READY, whose guards the hypotheses decide. -/
theorem commandReader : Obligations.CommandReader := by
  unfold Obligations.CommandReader
  intro s c hc
  refine ⟨fun hcr hp hu hl ha hw => ⟨_, commandRead_reads hc hcr hp hu hl ha hw, ?_, fun k hk => ?_, by simp⟩,
    fun b hh h0 hf => ⟨fun ho => ⟨_, commandReady_fenceMet hc hh h0 hf, ?_⟩,
      fun ho hs hm => ⟨_, commandReady_fenceMet hc hh h0 hf, ?_⟩, fun f ho hs => ⟨_, commandReady_fenceMet hc hh h0 hf, ?_⟩⟩⟩
  · rw [noteMem_eq]; rfl
  · rw [ctxSt_setCtx_other _ _ hk, ctxSt_noteMem]
  · rw [ho]
    exact ⟨atIssue_issued s c b eDesc, rfl⟩
  · simp [ho, hs, hm]
  · simp [ho, hs, forAll, enableField_ctxs, enableField_jobs]

end

namespace Sys2Proof.Machine

/-! ## Repairs (O27) -/

/-- What every step of a loop keeps true, the loop keeps true. -/
theorem forAll_invariant {σ α : Type} {f : α → σ → σ} {J : σ → Prop} (h : ∀ a s, J s → J (f a s)) (l : List α) {s : σ}
    (hs : J s) : J (forAll l f s) := by
  induction l generalizing s with
  | nil => exact hs
  | cons a l ih => exact ih (h a s hs)

/-- What the step of an element makes true, and every step keeps true, holds after the loop for each of its elements. -/
theorem forAll_reaches {σ α : Type} {f : α → σ → σ} {J : σ → Prop} {P : α → σ → Prop} (hj : ∀ a s, J s → J (f a s))
    (hp : ∀ a s, J s → P a (f a s)) (hk : ∀ a b s, P b s → P b (f a s)) (l : List α) {s : σ} (hs : J s) :
    ∀ a ∈ l, P a (forAll l f s) := by
  induction l generalizing s with
  | nil => simp
  | cons b l ih =>
    intro a ha
    rcases List.mem_cons.mp ha with rfl | ha
    · exact forAll_invariant (J := P a) (fun c s => hk c a s) l (hp a s hs)
    · exact ih (hj b s hs) a ha

/-! ### Frames -/

def State.besideTrace (s : State) : State := { s with trc := {} }

/-- A record of the control fabric changes the trace alone (R444). -/
theorem besideTrace_fabricRecord (s : State) (r : TraceRec) : (fabricRecord s r).besideTrace = s.besideTrace := by
  unfold fabricRecord
  split
  · rfl
  · dsimp only
    split <;> rfl

theorem fabricRecord_eq (s : State) (r : TraceRec) : fabricRecord s r = { s with trc := (fabricRecord s r).trc } :=
  congrArg (fun t : State => { t with trc := (fabricRecord s r).trc }) (besideTrace_fabricRecord s r)
theorem moduleRecord_eq (s : State) (e : Nat) (fp : Word64) : moduleRecord s e fp = { s with trc := (moduleRecord s e fp).trc } :=
  fabricRecord_eq ..

theorem besideFields_startOff (s : State) (f : Nat) : (startOff s f).besideFields = s.besideFields := by
  unfold startOff
  split <;> rfl

/-- The start of a shutdown changes the fields and what is sent alone. -/
theorem besideFields_startDown (s : State) (f : Nat) (tgt : FState) : (startDown s f tgt).besideFields = s.besideFields := by
  unfold startDown
  dsimp only
  split
  · rfl
  · split
    · rw [besideFields_startOff]; rfl
    · rfl

theorem besideFields_lowerField (s : State) (f : Nat) (want : FState) : (lowerField s f want).besideFields = s.besideFields := by
  unfold lowerField
  dsimp only
  split
  · rfl
  · exact besideFields_startDown ..

theorem besideFields_lowerFields (l : List Nat) (want : FState) (s : State) :
    (forAll l (fun f s => lowerField s f want) s).besideFields = s.besideFields :=
  forAll_keeps State.besideFields (fun _ _ => besideFields_lowerField ..) l s

def State.besideCtxs (s : State) : State := { s with ctxs := [], out := [] }

/-- The unbinding of contexts changes contexts and what is sent alone. -/
theorem besideCtxs_unbindAll (s : State) (n : Nat) : (unbindAll s n).besideCtxs = s.besideCtxs := by
  unfold unbindAll
  refine forAll_keeps State.besideCtxs (fun c s => ?_) _ s
  unfold hostEvent msix
  split <;> rfl

theorem unbindAll_eq (s : State) (n : Nat) : unbindAll s n = { s with ctxs := (unbindAll s n).ctxs, out := (unbindAll s n).out } :=
  congrArg (fun t : State => { t with ctxs := (unbindAll s n).ctxs, out := (unbindAll s n).out }) (besideCtxs_unbindAll s n)

/-- The pending map is in force and in the NVM copy that was not in use (R424), and no base plan holds. -/
def mapWritten (s : State) : State :=
  let t := writeMap s s.mod.pendMap
  { t with mod := { t.mod with map := s.mod.pendMap, base := [], resv := {}, baseFp := 0, reserveFp := 0, transit := [] }
           lnk := { t.lnk with pendTables := true } }

/-- Every partition plan is then revoked and, where a base plan held, the stacks are back on the boot schedule (R284). -/
def plansRevoked (s : State) : State :=
  let t := forAll (List.range 16) (fun n s => revokePlan s n) (mapWritten s)
  if (writeMap s s.mod.pendMap).mod.base ≠ [] then setBoot true (moduleRecord t 4 0) else t

/-- Partitions that hold a field out of service. -/
def hitParts (s : State) (m : List Byte) : List Nat :=
  (List.range 16).filter fun n => (List.range 64).any fun f => inPart s n f && oos m f

def invalidatePart (n : Nat) (s : State) : State := modPart (unbindAll s n) n fun p => { p with valid := false }

/-- Partitions that hold a field out of service are then no longer valid. -/
def partsHit (s : State) : State := forAll (hitParts (plansRevoked s) s.mod.pendMap) invalidatePart (plansRevoked s)

/-- Every queued job is then refused. -/
def jobsRefused (s : State) : State := forAll (partsHit s).jobs refuseJob (partsHit s)

/-- No repair is pending any more. -/
def repairOver (s : State) : State :=
  { s with mod := { s.mod with pending := false, nPend := 0, pendMap := [], applying := false, heldOut := [], transitDue := true } }

/-- The fields of `l`, and those of `lost` that lie in no partition, go down. -/
def fieldsDropped (l lost : List Nat) (s : State) : State := dropFields (forAll l (fun f s => lowerField s f .f3) s) lost

theorem writeMap_mod (s : State) (m : List Byte) : (writeMap s m).mod = s.mod := by
  unfold writeMap
  dsimp only
  split <;> rfl

/-- REPAIR_REVOKE in a module whose jobs are all queued (R132), as its stages. -/
theorem repairRevoke_stages {s : State} (ha : s.mod.applying = true) (hq : ∀ j ∈ s.jobs, j.phase = .queued) :
    exec .repairRevoke s = .next (fieldsDropped ((List.range 64).filter (oos s.mod.pendMap))
      ((hitParts (plansRevoked s) s.mod.pendMap).flatMap (fieldsOfPart (plansRevoked s))) (repairOver (jobsRefused s))) := by
  show execRepairRevoke s = _
  unfold execRepairRevoke
  rw [if_neg (by simpa [ha] using hq)]
  unfold fieldsDropped jobsRefused partsHit plansRevoked mapWritten hitParts
  rfl

/-! ### What the stages change -/

/-- What the stages after the map is written leave alone. -/
def State.besideRevoke (s : State) : State :=
  { s with parts := [], hstacks := [], ctxs := [], jobs := [], pods := [], fields := [], cmds := [], trc := {}, out := [] }

theorem besideRevoke_revokePlan (s : State) (n : Nat) : (revokePlan s n).besideRevoke = s.besideRevoke := by
  unfold revokePlan
  split
  · rw [moduleRecord_eq]; rfl
  · rfl

/-- What a write of a stack leaves, the boot schedule of every stack leaves. -/
theorem setBoot_keeps {β : Type} (g : State → β) (h : ∀ s k v, g (setStack s k v) = g s) (b : Bool) (s : State) :
    g (setBoot b s) = g s :=
  forAll_keeps (f := fun k s => modStack s k fun v => { v with boot := b }) g (fun _ _ => h ..) (List.range 12) s

theorem besideRevoke_setBoot (b : Bool) (s : State) : (setBoot b s).besideRevoke = s.besideRevoke :=
  setBoot_keeps State.besideRevoke (fun _ _ _ => rfl) b s
theorem besideRevoke_moduleRecord (s : State) (e : Nat) (fp : Word64) : (moduleRecord s e fp).besideRevoke = s.besideRevoke := by
  rw [moduleRecord_eq]; rfl

theorem besideRevoke_plansRevoked (s : State) : (plansRevoked s).besideRevoke = (mapWritten s).besideRevoke := by
  have h := forAll_keeps State.besideRevoke (fun n s => besideRevoke_revokePlan s n) (List.range 16) (mapWritten s)
  unfold plansRevoked
  dsimp only
  split
  · rw [besideRevoke_setBoot, besideRevoke_moduleRecord, h]
  · exact h

theorem besideRevoke_invalidatePart (n : Nat) (s : State) : (invalidatePart n s).besideRevoke = s.besideRevoke := by
  unfold invalidatePart
  rw [unbindAll_eq]; rfl

def State.besidePodsFields (s : State) : State := { s with pods := [], fields := [] }

/-- A refusal takes the job out of the queue, restores its pods, marks its fields idle, and decides its command. -/
theorem refuseJob_decides (j : Job) (s : State) :
    ∃ t : State, t.besidePodsFields = { s with jobs := s.jobs.filter (·.id ≠ j.id) }.besidePodsFields ∧
      refuseJob j s = decideCmd t j.cmd eImage 0 := by
  have hpods (l : List (Nat × Nat × BitVec 512)) (t : State) :
      (forAll l (fun d s => setCtDesc s d.1 d.2.1 d.2.2) t).besidePodsFields = t.besidePodsFields := by
    refine forAll_keeps State.besidePodsFields (fun _ _ => ?_) l t
    rfl
  have hfields (l : List Nat) (t : State) :
      (forAll l (fun f s => modField s f fun v => { v with idleFrom := s.cycle }) t).besidePodsFields = t.besidePodsFields := by
    refine forAll_keeps State.besidePodsFields (fun _ _ => ?_) l t
    rfl
  exact ⟨_, (hfields ((heldPods j).map fieldOfPod).eraseDups _).trans (hpods j.saved _), rfl⟩

theorem refuseJob_eq (j : Job) (s : State) :
    refuseJob j s = { s with
      jobs := s.jobs.filter (·.id ≠ j.id), cmds := (decideCmd s j.cmd eImage 0).cmds,
      pods := (refuseJob j s).pods, fields := (refuseJob j s).fields } := by
  obtain ⟨t, ht, hr⟩ := refuseJob_decides j s
  rw [hr]
  exact congrArg (fun u : State => { decideCmd u j.cmd eImage 0 with pods := t.pods, fields := t.fields }) ht

theorem besideRevoke_refuseJob (j : Job) (s : State) : (refuseJob j s).besideRevoke = s.besideRevoke := by
  rw [refuseJob_eq]; rfl

theorem besideRevoke_jobsRefused (s : State) : (jobsRefused s).besideRevoke = (mapWritten s).besideRevoke :=
  (forAll_keeps State.besideRevoke besideRevoke_refuseJob ..).trans
    ((forAll_keeps State.besideRevoke besideRevoke_invalidatePart ..).trans (besideRevoke_plansRevoked s))

/-- The drop of fields changes the fields and what is sent alone. -/
theorem besideFields_fieldsDropped (l lost : List Nat) (s : State) :
    (fieldsDropped l lost s).besideFields = s.besideFields :=
  (besideFields_lowerFields ..).trans (besideFields_lowerFields l .f3 s)

/-! ### Plans and stacks -/

theorem partSt_moduleRecord (s : State) (e : Nat) (fp : Word64) (n : Nat) : partSt (moduleRecord s e fp) n = partSt s n := by
  rw [moduleRecord_eq]; rfl

/-- A revoked plan leaves its partition's rectangle, and every other partition. -/
theorem partSt_revokePlan (s : State) (n k : Nat) : partSt (revokePlan s n) k =
    if k = n then { partSt s n with hasPlan := false, plan := [], plog2 := 0, planFp := 0 } else partSt s k := by
  have h (m : Nat) : partSt (if (partSt s n).hasPlan then moduleRecord s 4 (partSt s n).planFp else s) m = partSt s m := by
    split
    · exact partSt_moduleRecord ..
    · rfl
  unfold revokePlan releasePlan
  rw [modPart_eq]
  by_cases hk : k = n
  · rw [if_pos hk, hk, partSt_setPart_same, h]
  · rw [if_neg hk, partSt_setPart_other _ _ hk, h]

theorem inPart_revokePlan (s : State) (n k f : Nat) : inPart (revokePlan s n) k f = inPart s k f := by
  unfold inPart
  rw [partSt_revokePlan]
  split
  · next h => subst h; rfl
  · rfl

theorem partSt_mapWritten (s : State) (n : Nat) : partSt (mapWritten s) n = partSt s n := by
  unfold mapWritten writeMap
  dsimp only
  split <;> rfl

theorem partSt_setBoot (b : Bool) (s : State) (n : Nat) : partSt (setBoot b s) n = partSt s n :=
  setBoot_keeps (partSt · n) (fun _ _ _ => rfl) b s

/-- The record and the boot schedule leave the partitions. -/
theorem partSt_plansRevoked (s : State) (n : Nat) :
    partSt (plansRevoked s) n = partSt (forAll (List.range 16) (fun n s => revokePlan s n) (mapWritten s)) n := by
  unfold plansRevoked
  dsimp only
  split
  · rw [partSt_setBoot, partSt_moduleRecord]
  · rfl

theorem hasPlan_plansRevoked (s : State) {n : Nat} (hn : n < 16) : (partSt (plansRevoked s) n).hasPlan = false := by
  rw [partSt_plansRevoked]
  refine forAll_reaches (J := fun _ => True) (P := fun n s => (partSt s n).hasPlan = false) (fun _ _ _ => trivial)
    (fun a s _ => ?_) (fun a b s h => ?_) (List.range 16) trivial n (List.mem_range.mpr hn)
  · rw [partSt_revokePlan, if_pos rfl]
  · rw [partSt_revokePlan]
    split
    · rfl
    · exact h

theorem inPart_plansRevoked (s : State) (n f : Nat) : inPart (plansRevoked s) n f = inPart s n f := by
  have h := forAll_keeps (inPart · n f) (fun k s => inPart_revokePlan s k n f) (List.range 16) (mapWritten s)
  unfold inPart at h ⊢
  rw [partSt_plansRevoked]
  exact h.trans (by rw [partSt_mapWritten])

/-- The boot schedule runs on every stack. -/
theorem boot_setBoot (b : Bool) (s : State) {k : Nat} (hk : k < 12) : (stackSt (setBoot b s) k).boot = b := by
  refine forAll_reaches (J := fun _ => True) (P := fun k s => (stackSt s k).boot = b) (fun _ _ _ => trivial)
    (fun a s _ => by simp) (fun a c s h => ?_) (List.range 12) trivial k (List.mem_range.mpr hk)
  by_cases hc : c = a
  · subst hc; simp
  · simpa [stackSt_setStack_other _ _ hc] using h

theorem boot_plansRevoked {s : State} (h : s.mod.base ≠ []) {k : Nat} (hk : k < 12) : (stackSt (plansRevoked s) k).boot = true := by
  unfold plansRevoked
  dsimp only
  rw [if_pos (by rwa [writeMap_mod])]
  exact boot_setBoot true _ hk

/-! ### Partitions -/

theorem partSt_invalidatePart (n k : Nat) (s : State) :
    partSt (invalidatePart n s) k = if k = n then { partSt s n with valid := false } else partSt s k := by
  have h (m : Nat) : partSt (unbindAll s n) m = partSt s m := (congrArg (partSt · m) (besideCtxs_unbindAll s n) :)
  unfold invalidatePart
  split
  · next hk => subst hk; simp [h]
  · next hk => rw [modPart_eq, partSt_setPart_other _ _ hk, h]

theorem hasPlan_partsHit (s : State) {n : Nat} (hn : n < 16) : (partSt (partsHit s) n).hasPlan = false := by
  refine forAll_invariant (J := fun s => (partSt s n).hasPlan = false) (fun a s h => ?_) _ (hasPlan_plansRevoked s hn)
  rw [partSt_invalidatePart]
  split
  · next hk => subst hk; exact h
  · exact h

/-- A partition that holds a field out of service is no longer valid. -/
theorem valid_partsHit {s : State} {n f : Nat} (hn : n < 16) (hf : f < 64) (hp : inPart s n f = true)
    (ho : oos s.mod.pendMap f = true) : (partSt (partsHit s) n).valid = false := by
  have hit : n ∈ hitParts (plansRevoked s) s.mod.pendMap := by
    refine List.mem_filter.mpr ⟨List.mem_range.mpr hn, List.any_eq_true.mpr ⟨f, List.mem_range.mpr hf, ?_⟩⟩
    rw [inPart_plansRevoked, hp, ho]; rfl
  refine forAll_reaches (J := fun _ => True) (P := fun n s => (partSt s n).valid = false) (fun _ _ _ => trivial)
    (fun a s _ => ?_) (fun a b s h => ?_) _ trivial n hit
  · rw [partSt_invalidatePart, if_pos rfl]
  · rw [partSt_invalidatePart]
    split
    · rfl
    · exact h

theorem boot_partsHit {s : State} (h : s.mod.base ≠ []) {k : Nat} (hk : k < 12) : (stackSt (partsHit s) k).boot = true := by
  refine forAll_invariant (J := fun s => (stackSt s k).boot = true) (fun n s h => ?_) _ (boot_plansRevoked h hk)
  unfold invalidatePart
  rw [unbindAll_eq]
  exact h

/-- The jobs and the commands. -/
def State.work (s : State) : List Job × List Cmd := (s.jobs, s.cmds)

theorem work_revokePlan (s : State) (n : Nat) : (revokePlan s n).work = s.work := by
  unfold revokePlan
  split
  · rw [moduleRecord_eq]; rfl
  · rfl

theorem work_mapWritten (s : State) : (mapWritten s).work = s.work := by
  unfold mapWritten writeMap
  dsimp only
  split <;> rfl

theorem work_setBoot (b : Bool) (s : State) : (setBoot b s).work = s.work := setBoot_keeps State.work (fun _ _ _ => rfl) b s
theorem work_moduleRecord (s : State) (e : Nat) (fp : Word64) : (moduleRecord s e fp).work = s.work := by rw [moduleRecord_eq]; rfl

theorem work_plansRevoked (s : State) : (plansRevoked s).work = s.work := by
  have h := (forAll_keeps State.work (fun n s => work_revokePlan s n) (List.range 16) (mapWritten s)).trans (work_mapWritten s)
  unfold plansRevoked
  dsimp only
  split
  · rw [work_setBoot, work_moduleRecord, h]
  · exact h

theorem work_invalidatePart (n : Nat) (s : State) : (invalidatePart n s).work = s.work := by
  unfold invalidatePart
  rw [unbindAll_eq]; rfl

/-- The plans' and partitions' stages leave jobs and commands. -/
theorem work_partsHit (s : State) : (partsHit s).jobs = s.jobs ∧ (partsHit s).cmds = s.cmds :=
  Prod.mk.inj ((forAll_keeps State.work work_invalidatePart _ (plansRevoked s)).trans (work_plansRevoked s))

/-! ### Jobs -/

theorem refuseJob_jobs (j : Job) (s : State) : (refuseJob j s).jobs = s.jobs.filter (·.id ≠ j.id) := by rw [refuseJob_eq]
theorem refuseJob_cmds (j : Job) (s : State) : (refuseJob j s).cmds = (decideCmd s j.cmd eImage 0).cmds := by rw [refuseJob_eq]

/-- No job is left. -/
theorem jobs_jobsRefused (s : State) : (jobsRefused s).jobs = [] := by
  have hgone : ∀ j ∈ (partsHit s).jobs, ∀ x ∈ (jobsRefused s).jobs, x.id ≠ j.id := by
    refine forAll_reaches (J := fun _ => True) (P := fun (j : Job) (s : State) => ∀ x ∈ s.jobs, x.id ≠ j.id)
      (fun _ _ _ => trivial) (fun j s _ x hx => ?_) (fun a b s h x hx => ?_) (partsHit s).jobs trivial
    · rw [refuseJob_jobs] at hx; simpa using (List.mem_filter.mp hx).2
    · rw [refuseJob_jobs] at hx; exact h x (List.mem_filter.mp hx).1
  have hsub : ∀ x ∈ (jobsRefused s).jobs, x ∈ (partsHit s).jobs := by
    refine forAll_invariant (J := fun t : State => ∀ x ∈ t.jobs, x ∈ (partsHit s).jobs) (fun j t h x hx => ?_) _ fun _ h => h
    rw [refuseJob_jobs] at hx; exact h x (List.mem_filter.mp hx).1
  exact List.eq_nil_iff_forall_not_mem.mpr fun x hx => hgone x (hsub x hx) x hx rfl

/-- A command stands with a status among `codes`. -/
def StandsWith (id : Nat) (codes : List (Option Byte)) (s : State) : Prop := ∃ m ∈ s.cmds, m.id = id ∧ m.code ∈ codes

/-- A refusal decides the command of its job and keeps a status that is decided (R13). -/
theorem standsWith_refuseJob (j : Job) (s : State) (id : Nat) :
    (StandsWith id [none, some eImage] s → StandsWith id [none, some eImage] (refuseJob j s)) ∧
    (StandsWith id [none, some eImage] s → j.cmd = id → StandsWith id [some eImage] (refuseJob j s)) ∧
    (StandsWith id [some eImage] s → StandsWith id [some eImage] (refuseJob j s)) := by
  unfold StandsWith
  rw [refuseJob_cmds]
  unfold decideCmd
  simp only [List.mem_map, List.mem_cons, List.not_mem_nil, or_false]
  refine ⟨fun ⟨m, hm, hi, ho⟩ => ⟨_, ⟨m, hm, rfl⟩, ?_⟩, fun ⟨m, hm, hi, ho⟩ hj => ⟨_, ⟨m, hm, rfl⟩, ?_⟩,
    fun ⟨m, hm, hi, ho⟩ => ⟨_, ⟨m, hm, rfl⟩, ?_⟩⟩
  · split <;> simp_all
  · rcases ho with ho | ho <;> simp [hi, ho, hj]
  · simp [hi, ho]

/-- The command of every refused job has E_IMAGE (R14). -/
theorem standsWith_jobsRefused {s : State} {j : Job} (hj : j ∈ s.jobs) {k : Cmd} (hk : k ∈ s.cmds) (hid : k.id = j.cmd)
    (hn : k.code = none) : StandsWith k.id [some eImage] (jobsRefused s) := by
  obtain ⟨hjobs, hcmds⟩ := work_partsHit s
  have h0 : StandsWith k.id [none, some eImage] (partsHit s) := ⟨k, hcmds ▸ hk, rfl, by simp [hn]⟩
  exact forAll_reaches (f := refuseJob) (J := StandsWith k.id [none, some eImage])
    (P := fun j s => j.cmd = k.id → StandsWith k.id [some eImage] s)
    (fun j s => (standsWith_refuseJob j s k.id).1) (fun j s => (standsWith_refuseJob j s k.id).2.1)
    (fun a b s h hb => (standsWith_refuseJob a s k.id).2.2 (h hb)) _ h0 j (hjobs ▸ hj) hid.symm

theorem partSt_jobsRefused (s : State) (n : Nat) : partSt (jobsRefused s) n = partSt (partsHit s) n :=
  forAll_keeps (partSt · n) (fun j s => by rw [refuseJob_eq]; rfl) _ _
theorem stackSt_jobsRefused (s : State) (k : Nat) : stackSt (jobsRefused s) k = stackSt (partsHit s) k :=
  forAll_keeps (stackSt · k) (fun j s => by rw [refuseJob_eq]; rfl) _ _

/-- The module once the pending map has taken effect, but for what the later stages change. -/
def mapInForce (s : State) : State :=
  { s with
    nvm := if s.boot.repairCopy then { s.nvm with mapA := s.mod.pendMap, seqA := s.nvm.seqB + 1, okA := true }
           else { s.nvm with mapB := s.mod.pendMap, seqB := s.nvm.seqA + 1, okB := true }
    boot := { s.boot with repairCopy := !s.boot.repairCopy }
    mod := { s.mod with map := s.mod.pendMap, base := [], resv := {}, baseFp := 0, reserveFp := 0, transit := [], pending := false,
                        nPend := 0, pendMap := [], applying := false, heldOut := [], transitDue := true }
    lnk := { s.lnk with pendTables := true } }

theorem repairOver_mapWritten (s : State) : repairOver (mapWritten s) = mapInForce s := by
  unfold repairOver mapWritten writeMap mapInForce
  cases s.boot.repairCopy <;> rfl

/-- What the last stage leaves of a module `u` in which the jobs are refused. -/
theorem besideRevoke_repaired {s t u : State} (ht : t.besideFields = (repairOver u).besideFields)
    (hu : u.besideRevoke = (mapWritten s).besideRevoke) : t.besideRevoke = (mapInForce s).besideRevoke :=
  calc t.besideRevoke = (repairOver u).besideRevoke := (congrArg State.besideRevoke ht :)
    _ = (repairOver (mapWritten s)).besideRevoke := congrArg repairOver hu
    _ = (mapInForce s).besideRevoke := by rw [repairOver_mapWritten]

theorem kept_repaired {t u : State} (ht : t.besideFields = (repairOver u).besideFields) :
    (∀ n, partSt t n = partSt u n) ∧ (∀ k, stackSt t k = stackSt u k) ∧ t.jobs = u.jobs ∧ t.cmds = u.cmds :=
  ⟨fun n => (congrArg (partSt · n) ht :), fun k => (congrArg (stackSt · k) ht :), (congrArg State.jobs ht :),
    (congrArg State.cmds ht :)⟩

end Sys2Proof.Machine

section
open Sys2Proof Sys2Proof.Machine

/-- Settles O27: the first clauses are the branches of PENDING_REPAIR and APPLY; the last follows the stages of REPAIR_REVOKE, each
of which keeps what those before it made true. -/
theorem repairs : Obligations.Repairs := by
  unfold Obligations.Repairs
  intro s
  refine ⟨fun f row col hf hr hc ho hn => ⟨recordRepair s f row col, ?_, rfl, ?_, fun g hg => ?_⟩,
    fun w => ⟨fun hp => ⟨_, rfl, by rw [if_pos hp]⟩, fun hp => ⟨_, rfl, by rw [if_neg (by simp [hp])]⟩⟩, fun ha hq => ?_⟩
  · show execPendingRepair f row col s = _
    unfold execPendingRepair
    rw [within_lt _ hf, if_neg]
    simp only [not_or, ho]
    exact ⟨by omega, by omega, by simp, hn⟩
  · show f ∈ if _ then _ else _
    split <;> simp_all
  · show g ∈ if _ then _ else _
    split
    · exact hg
    · exact List.mem_cons_of_mem _ hg
  refine ⟨_, repairRevoke_stages ha hq, ?_⟩
  generalize hl : (List.range 64).filter (oos s.mod.pendMap) = l
  generalize hd : (hitParts (plansRevoked s) s.mod.pendMap).flatMap (fieldsOfPart (plansRevoked s)) = lost
  generalize ht : fieldsDropped l lost (repairOver (jobsRefused s)) = t
  have hframe : t.besideFields = (repairOver (jobsRefused s)).besideFields := ht ▸ besideFields_fieldsDropped l lost _
  have hbeside := besideRevoke_repaired hframe (besideRevoke_jobsRefused s)
  obtain ⟨hparts, hstacks, hjobs, hcmds⟩ := kept_repaired hframe
  rw [jobs_jobsRefused] at hjobs
  refine ⟨?_, (congrArg State.mod hbeside :), (congrArg State.nvm hbeside :), fun n hn => ?_, fun hb k hk => ?_,
    fun n f hn hf hp ho => ?_, fun j hj k hk hid hc => ?_⟩
  · have h := congrArg (fun u : State => { u with
      nvm := t.nvm, mod := t.mod, parts := t.parts, hstacks := t.hstacks, ctxs := t.ctxs, jobs := t.jobs, pods := t.pods,
      fields := t.fields, cmds := t.cmds, trc := t.trc, out := t.out }) hbeside
    rw [← hjobs]
    exact h
  · rw [hparts, partSt_jobsRefused]
    exact hasPlan_partsHit s hn
  · rw [hstacks, stackSt_jobsRefused]
    exact boot_partsHit hb hk
  · rw [hparts, partSt_jobsRefused]
    exact valid_partsHit hn hf hp ho
  · obtain ⟨m, hm, hi, ho⟩ := standsWith_jobsRefused hj hk hid hc
    exact ⟨m, hcmds ▸ hm, hi, by simpa using ho⟩

end

namespace Sys2Proof.Machine

/-! ## Encrypted commands (O34) -/

/-! ### Issue -/

/-- A command whose code is E_OK has passed every check of R99. -/
theorem checkCmd_ok {s : State} {c : Nat} {b : List Byte} {form bounds : Bool} {own : Byte}
    (h : checkCmd s c b form bounds own = eOk) : form = true ∧ bounds = true ∧ own = eOk := by
  unfold checkCmd at h
  split at h
  · exact absurd h (by decide)
  · next hform =>
    split at h
    · exact absurd h (by decide)
    · next hbounds =>
      split at h
      · exact absurd h (by decide)
      · simp only [Bool.not_eq_true, Bool.not_eq_false', Bool.and_eq_true] at hform hbounds
        exact ⟨hform.2, hbounds.2, h⟩

theorem readyHead_opc {s : State} {c opc : Nat} {b : List Byte} (h : readyHead s c opc = some b) : cmdOpc b = opc := by
  unfold readyHead at h
  split at h
  · split at h
    · next ho => cases h; simpa using (Bool.and_eq_true_iff.mp ho).2
    · cases h
  · cases h

/-- A command that may issue acts. -/
theorem issueCmd_mayIssue {s : State} {c opc : Nat} {b : List Byte} {form bounds : List Byte → Bool} {own : List Byte → Byte}
    (act : List Byte → State) (h : MayIssue s c opc b (form b) (bounds b) (own b)) :
    issueCmd s c opc form bounds own act = act b := by
  obtain ⟨-, hhead, hready, hfree, hcheck⟩ := h
  have hgo : (!cmdRuns b && (cmdPods b).any (podBusy s)) = false := by
    rcases hfree with h | h <;> simp [h]
  unfold issueCmd
  simp [hhead, hready, hgo, hcheck]

/-- The thirteen commands that run a program issue alike. -/
theorem exec_encrypted {s : State} {c opc : Nat} {i : Instr}
    (h : (i, opc) ∈ [(Instr.ctCopy c, 0x13), (.ctExport c, 0x14), (.pkAdd c, 0x15), (.pkMulp c, 0x16), (.pkMul c, 0x17),
      (.pkRot c, 0x18), (.pkLdrop c, 0x19), (.pkExtract c, 0x1A), (.liLin c, 0x1B), (.liPbs c, 0x1C), (.lbGate c, 0x1D),
      (.liRepack c, 0x1E), (.ctMaskout c, 0x1F)]) (hc : c < 10240) : exec i s = .next (issueCt s c opc) := by
  have hall : ∀ e ∈ [(Instr.ctCopy c, 0x13), (.ctExport c, 0x14), (.pkAdd c, 0x15), (.pkMulp c, 0x16), (.pkMul c, 0x17),
      (.pkRot c, 0x18), (.pkLdrop c, 0x19), (.pkExtract c, 0x1A), (.liLin c, 0x1B), (.liPbs c, 0x1C), (.lbGate c, 0x1D),
      (.liRepack c, 0x1E), (.ctMaskout c, 0x1F)], exec e.1 s = within 10240 c (issueCt s c e.2) := by
    simp only [List.forall_mem_cons]
    exact ⟨rfl, rfl, rfl, rfl, rfl, rfl, rfl, rfl, rfl, rfl, rfl, rfl, rfl, by simp⟩
  exact (hall _ h).trans (within_lt _ hc)

/-! ### Refusal -/

def State.besidePods (s : State) : State := { s with pods := [] }

/-- The counters of a refusal change pods alone (R248). -/
theorem countRefusal_eq (b : List Byte) (s0 : State) (code : Byte) (s : State) :
    countRefusal b s0 code s = { s with pods := (countRefusal b s0 code s).pods } := by
  have h : (countRefusal b s0 code s).besidePods = s.besidePods := by
    unfold countRefusal
    split
    · refine forAll_keeps State.besidePods (fun _ _ => ?_) (rectPods b) s
      rfl
    · rfl
  exact congrArg (fun t : State => { t with pods := (countRefusal b s0 code s).pods }) h

/-- The counters of a refusal leave every descriptor and parameter entry. -/
theorem countRefusal_tables (b : List Byte) (s0 : State) (code : Byte) (s : State) (d : Nat) :
    (podSt (countRefusal b s0 code s) d).descs = (podSt s d).descs ∧
    (podSt (countRefusal b s0 code s) d).psets = (podSt s d).psets := by
  refine Prod.mk.inj (?_ : (fun s : State => ((podSt s d).descs, (podSt s d).psets)) _ = _)
  unfold countRefusal
  split
  · refine forAll_keeps (fun s : State => ((podSt s d).descs, (podSt s d).psets)) (fun a s => ?_) (rectPods b) s
    by_cases h : d = a
    · subst h; simp
    · simp [podSt_setPod_other _ _ h]
  · rfl

/-! ### Descriptors -/

theorem ctDesc_setCtDesc (s : State) (p i q h : Nat) (d : BitVec 512) :
    ctDesc (setCtDesc s p i d) q h = if q = p ∧ h = i then d else ctDesc s q h := by
  unfold ctDesc setCtDesc
  by_cases hq : q = p
  · rw [hq, modPod_eq, podSt_setPod_same, Tab.get_set]
    simp only [true_and]
  · rw [modPod_eq, podSt_setPod_other _ _ hq, if_neg fun h => hq h.1]

/-- A run of descriptors of a pod after it is written. -/
theorem ctDesc_run (v : Nat → BitVec 512) (p a n q h : Nat) (s : State) :
    ctDesc (forAll (List.range n) (fun j s => setCtDesc s p (a + j) (v j)) s) q h =
      if q = p ∧ a ≤ h ∧ h < a + n then v (h - a) else ctDesc s q h := by
  induction n with
  | zero => simp [forAll]
  | succ n ih =>
    rw [List.range_succ]
    unfold forAll at ih ⊢
    rw [List.foldl_append]
    simp only [List.foldl_cons, List.foldl_nil, ctDesc_setCtDesc, ih]
    by_cases hq : q = p
    · by_cases hn : h = a + n
      · rw [if_pos ⟨hq, hn⟩, if_pos ⟨hq, by omega⟩, hn, Nat.add_sub_cancel_left]
      · rw [if_neg (by simp [hn])]
        congr 1
        simp only [hq, true_and, eq_iff_iff]
        omega
    · simp [hq]

/-- The destinations of a command are the run of handles from DST on. -/
theorem ctDsts_eq_runOf (b : List Byte) : ctDsts b = runOf (ctDst b) (ctDsts b).length := by
  unfold ctDsts
  split <;> simp [runOf]

theorem mem_ctDsts {b : List Byte} {h : Nat} : h ∈ ctDsts b ↔ ctDst b ≤ h ∧ h < ctDst b + (ctDsts b).length := by
  rw [ctDsts_eq_runOf, runOf, List.mem_map, List.length_map, List.length_range]
  simp only [List.mem_range]
  exact ⟨fun ⟨i, hi, he⟩ => by omega, fun hh => ⟨h - ctDst b, by omega, by omega⟩⟩

/-- The written destinations change pods alone. -/
theorem writeDsts_eq (s0 : State) (c : Nat) (b : List Byte) (s : State) :
    writeDsts s0 c b s = { s with pods := (writeDsts s0 c b s).pods } := by
  have h : (writeDsts s0 c b s).besidePods = s.besidePods := by
    refine forAll_keeps State.besidePods (fun d s => ?_) (rectPods b) s
    refine forAll_keeps State.besidePods (fun _ _ => ?_) (List.range (ctDsts b).length) s
    rfl
  exact congrArg (fun t : State => { t with pods := (writeDsts s0 c b s).pods }) h

/-- No pods share a destination pod: only CT_COPY, which names one pod, has another destination (R236). -/
theorem dstPod_cases {b : List Byte} (hf : ctForm b = true) : (∃ d, rectPods b = [d]) ∨ ∀ d, dstPod b d = d := by
  unfold ctForm nPods at hf
  simp only [Bool.and_eq_true, Bool.or_eq_true, decide_eq_true_eq] at hf
  rcases hf.2 with h | h
  · exact .inr fun d => by unfold dstPod; rw [if_neg h]
  · exact .inl (List.length_eq_one_iff.mp h)

/-- Every destination of a pod holds the descriptor of the result. -/
theorem ctDesc_writeDsts {s0 s : State} {c : Nat} {b : List Byte} (hf : ctForm b = true) {d : Nat} (hd : d ∈ rectPods b) {n : Nat}
    (hn : n < (ctDsts b).length) : ctDesc (writeDsts s0 c b s) (dstPod b d) (ctDst b + n) = resDesc s0 c b d n := by
  have hrow (d : Nat) (s : State) : ctDesc (forAll (List.range (ctDsts b).length)
      (fun j s => setCtDesc s (dstPod b d) (ctDst b + j) (resDesc s0 c b d j)) s) (dstPod b d) (ctDst b + n) = resDesc s0 c b d n := by
    rw [ctDesc_run, if_pos ⟨rfl, by omega, by omega⟩, Nat.add_sub_cancel_left]
  unfold writeDsts
  rcases dstPod_cases hf with ⟨e, he⟩ | hself
  · rw [he] at hd ⊢
    cases List.mem_singleton.mp hd
    exact hrow d s
  · refine forAll_reaches (J := fun _ => True)
      (P := fun d s => ctDesc s (dstPod b d) (ctDst b + n) = resDesc s0 c b d n) (fun _ _ _ => trivial) (fun d s _ => hrow d s)
      (fun x y s h => ?_) (rectPods b) trivial d hd
    by_cases hxy : y = x
    · subst hxy; exact hrow y s
    · rw [ctDesc_run, if_neg (by simp [hself, hxy])]
      exact h

/-- Every other descriptor is as before. -/
theorem ctDesc_writeDsts_other {s0 s : State} {c : Nat} {b : List Byte} {q h : Nat}
    (hq : (∀ d ∈ rectPods b, dstPod b d ≠ q) ∨ h ∉ ctDsts b) : ctDesc (writeDsts s0 c b s) q h = ctDesc s q h := by
  unfold writeDsts
  refine forAll_keeps_mem (ctDesc · q h) (rectPods b) (fun d hd s => ?_) s
  rw [ctDesc_run, if_neg]
  rintro ⟨rfl, hh⟩
  rcases hq with hq | hq
  · exact hq d hd rfl
  · exact hq (mem_ctDsts.mpr hh)

/-! ### The descriptor of the result -/

section
variable (s : State) (c : Nat) (b : List Byte) (pod j : Nat)

theorem resType_lt : resType s b pod < 4 := by
  unfold resType
  split
  · decide
  · split
    · decide
    · exact Nat.mod_lt _ (by decide)

theorem resPset_lt : resPset s b pod j < 16 := by
  unfold resPset
  split <;> exact Nat.mod_lt _ (by decide)

theorem cForm_lt (d : BitVec 512) : cForm d < 2 := Nat.mod_lt _ (by decide)
theorem cLevel_lt (d : BitVec 512) : cLevel d < 64 := Nat.mod_lt _ (by decide)

theorem resForm_lt : resForm s b pod < 2 := by
  have h := cForm_lt (ctDesc s pod (ctA b))
  unfold resForm
  split
  any_goals omega
  all_goals split <;> omega

theorem resLevel_lt : resLevel s b pod < 64 := by
  have ha := cLevel_lt (ctDesc s pod (ctA b))
  have hb := cLevel_lt (ctDesc s pod (ctB b))
  unfold resLevel
  dsimp only
  split
  any_goals omega
  split <;> omega

theorem lim16_lt (n : Nat) : lim16 n < 2 ^ 16 := by unfold lim16; omega
theorem resNoise_lt : resNoise s b pod j < 2 ^ 16 := lim16_lt _

variable {c} in
/-- A descriptor whose fields are packed reads back each of them (Table 9.4). -/
theorem packed_reads {ty e fm lv c nz ks fp pl st : Nat} (hty : ty < 4) (he : e < 16) (hfm : fm < 2) (hlv : lv < 64) (hc : c < 10240)
    (hnz : nz < 2 ^ 16) (hks : ks < 2 ^ 32) (hfp : fp < 2 ^ 64) (hpl : pl < 2 ^ 27) (hst : st < 2 ^ 46) :
    (let d := BitVec.ofNat 512 (ty + 4 * e + 128 * fm + 256 * lv + 2 ^ 16 * c + 2 ^ 32 * nz + 2 ^ 64 * ks + 2 ^ 128 * fp
      + 2 ^ 192 * pl + 2 ^ 256 * st)
     cType d = ty ∧ cValid d = false ∧ cForm d = fm ∧ cLevel d = lv ∧ cOwner d = c ∧ cNoise d = nz ∧ cKeyset d = ks ∧
     cBase d = pl % 2 ^ 23) := by
  generalize hn : ty + 4 * e + 128 * fm + 256 * lv + 2 ^ 16 * c + 2 ^ 32 * nz + 2 ^ 64 * ks + 2 ^ 128 * fp + 2 ^ 192 * pl
    + 2 ^ 256 * st = n
  have hlt : n < 2 ^ 256 * 2 ^ 256 := by omega
  have hof : (BitVec.ofNat 512 n).toNat = n :=
    (BitVec.toNat_ofNat n 512).trans (Nat.mod_eq_of_lt (hlt.trans_eq (Nat.pow_add 2 256 256).symm))
  simp only [cType, cValid, cForm, cLevel, cOwner, cNoise, cKeyset, cBase, dbits, bits, hof, decide_eq_false_iff_not]
  norm_num
  refine ⟨?_, ?_, ?_, ?_, ?_, ?_, ?_, ?_⟩ <;> omega

variable {c} in
/-- The descriptor that the issue writes: not VALID, of the context, with the values of Table 9.6 (R234). -/
theorem resDesc_reads (hc : c < 10240) :
    (let r := resDesc s c b pod j
     cType r = resType s b pod ∧ cValid r = false ∧ cForm r = resForm s b pod ∧ cLevel r = resLevel s b pod ∧ cOwner r = c ∧
     cNoise r = resNoise s b pod j ∧ cKeyset r = cKeyset (ctDesc s pod (ctA b)) ∧
     cBase r = cBase (ctDesc s (dstPod b pod) (ctDst b + j))) := by
  have hfp : (if cmdOpc b = 0x1A ∨ cmdOpc b = 0x1E then entFp s pod (resPset s b pod j) else cFp (ctDesc s pod (ctA b))) < 2 ^ 64 := by
    split
    · exact BitVec.isLt _
    · exact Nat.mod_lt _ (by decide)
  obtain ⟨h1, h2, h3, h4, h5, h6, h7, h8⟩ := packed_reads (resType_lt s b pod) (resPset_lt s b pod j) (resForm_lt s b pod)
    (resLevel_lt s b pod) hc (resNoise_lt s b pod j) (Nat.mod_lt _ (by decide) : cKeyset (ctDesc s pod (ctA b)) < 2 ^ 32) hfp
    (Nat.mod_lt _ (by decide) : dbits (ctDesc s (dstPod b pod) (ctDst b + j)) 3 26 0 < 2 ^ 27)
    (Nat.mod_lt _ (by decide) : dbits (ctDesc s (dstPod b pod) (ctDst b + j)) 4 45 0 < 2 ^ 46)
  refine ⟨h1, h2, h3, h4, h5, h6, h7, h8.trans ?_⟩
  exact Nat.mod_mod_of_dvd _ (by decide)

end

/-! ### The job -/

theorem fieldTo_eq (s : State) (f : Nat) (st : FState) :
    fieldTo s f st = { s with fields := (fieldTo s f st).fields, trc := (fieldTo s f st).trc } := by
  unfold fieldTo powerRecord
  dsimp only
  split
  · rfl
  · rw [fabricRecord_eq]; rfl

def State.besideFieldsTrace (s : State) : State := { s with fields := [], trc := {} }

/-- Fields that leave F1 for a job change the fields and the trace alone (R398). -/
theorem fieldsTo_eq (l : List Nat) (st : FState) (s : State) :
    forAll l (fun f s => fieldTo s f st) s = { s with
      fields := (forAll l (fun f s => fieldTo s f st) s).fields, trc := (forAll l (fun f s => fieldTo s f st) s).trc } := by
  have h : (forAll l (fun f s => fieldTo s f st) s).besideFieldsTrace = s.besideFieldsTrace :=
    forAll_keeps State.besideFieldsTrace (fun f s => by rw [fieldTo_eq]; rfl) l s
  exact congrArg (fun t : State => { t with
    fields := (forAll l (fun f s => fieldTo s f st) s).fields, trc := (forAll l (fun f s => fieldTo s f st) s).trc }) h

/-- The job that a command queues (R101). -/
def queuedJob (s : State) (c : Nat) (b : List Byte) : Job :=
  { id := s.nextId, cmd := s.nextId, ctx := c, part := (ctxSt s c).part - 1,
    pcx0 := field b 24 1, pcx1 := field b 25 1, pcy0 := field b 26 1, pcy1 := field b 27 1,
    prog := progAddr b, progId := BitVec.ofNat 64 (field (memRead s (progAddr b) 8) 0 8),
    loadCycles := field b 28 4, t0 := (ctxSt s c).readyAt - 1, opc := cmdOpc b, payload := b }

theorem enqueue_eq (s : State) (c : Nat) (b : List Byte) (k : Cmd → Cmd) (f : Job → Job) :
    enqueue s c b k f = { accept s c b k with
      jobs := queueJob (f (queuedJob s c b)) s.jobs, fields := (enqueue s c b k f).fields, trc := (enqueue s c b k f).trc } :=
  fieldsTo_eq ((heldPods (f (queuedJob s c b))).map fieldOfPod).eraseDups .f0
    { accept s c b k with jobs := queueJob (f (queuedJob s c b)) s.jobs }

/-- Destinations of a command: pod and handle. -/
def destsOf (b : List Byte) : List (Nat × Nat) := (rectPods b).flatMap fun d => (ctDsts b).map fun h => (dstPod b d, h)

/-- What the command and the job of an encrypted command hold besides. -/
def ctCmd (b : List Byte) (k : Cmd) : Cmd := { k with dests := destsOf b }
def ctJob (s : State) (opc : Nat) (b : List Byte) (j : Job) : Job :=
  { j with dests := destsOf b, saved := (destsOf b).map fun d => (d.1, d.2, ctDesc s d.1 d.2)
           extra := if opc = 0x13 then some (ctArg b) else none }

/-- An encrypted command that runs a program, at the point where it acts. -/
theorem issueCt_mayIssue {s : State} {c opc : Nat} {b : List Byte} (h : MayIssue s c opc b (ctForm b) (ctBounds s c b) eOk) :
    issueCt s c opc =
      if ctCode s c b ≠ eOk then atIssue (countRefusal b s (ctCode s c b) s) c b (ctCode s c b)
      else enqueue (writeDsts s c b s) c b (ctCmd b) (ctJob s opc b) := by
  unfold issueCt
  rw [issueCmd_mayIssue (form := ctForm) (bounds := ctBounds s c) (own := fun _ => eOk) _ h]
  rfl

end Sys2Proof.Machine

section
open Sys2Proof Sys2Proof.Machine

/-- Settles O34: the thirteen commands issue alike; a refusal changes counters alone, and a command that passes writes its
destinations and queues its job. -/
theorem encryptedCommands : Obligations.EncryptedCommands := by
  unfold Obligations.EncryptedCommands
  intro s c b i opc hi hm
  have hexec := (exec_encrypted (s := s) hi hm.1).trans (congrArg Host.Outcome.next (issueCt_mayIssue hm))
  obtain ⟨hc, hhead, -, -, hcheck⟩ := hm
  obtain ⟨hform, -, -⟩ := checkCmd_ok hcheck
  have hrect : rectOk b = true := by
    unfold ctForm at hform
    simp only [Bool.and_eq_true] at hform
    tauto
  refine ⟨fun hok => ⟨_, by rw [hexec, if_neg (by simp [hok])], ?_⟩, fun hbad => ⟨_, by rw [hexec, if_pos hbad], ?_⟩⟩
  · have hframe := writeDsts_eq s c b s
    have hwritten (d : Nat) (hd : d ∈ rectPods b) (n : Nat) (hn : n < (ctDsts b).length) :=
      ctDesc_writeDsts (s0 := s) (s := s) (c := c) hform hd hn
    have hother (q h : Nat) (hq : (∀ d ∈ rectPods b, dstPod b d ≠ q) ∨ h ∉ ctDsts b) :=
      ctDesc_writeDsts_other (s0 := s) (s := s) (c := c) hq
    generalize writeDsts s c b s = w at hframe hwritten hother
    have hid : w.nextId = s.nextId := (congrArg State.nextId hframe :)
    have hctx : ctxSt w c = ctxSt s c := (congrArg (ctxSt · c) hframe :)
    have hjobs : w.jobs = s.jobs := (congrArg State.jobs hframe :)
    have hcmds : w.cmds = s.cmds := (congrArg State.cmds hframe :)
    have hdesc (q h : Nat) : ctDesc (enqueue w c b (ctCmd b) (ctJob s opc b)) q h = ctDesc w q h := by rw [enqueue_eq]; rfl
    refine ⟨?_, ⟨ctJob s opc b (queuedJob w c b), ?_, rfl, rfl, hid, ?_, readyHead_opc hhead, rfl, ?_, rfl⟩,
      ⟨ctCmd b { id := w.nextId, ctx := c, bytes := b }, ?_, hid, rfl, rfl, rfl⟩, fun d hd n hn => ?_, fun q h hq => ?_⟩
    · rw [enqueue_eq, hframe]; rfl
    · rw [enqueue_eq, hjobs]
    · show (ctxSt w c).readyAt - 1 = _
      rw [hctx]
    · unfold rectPods
      rw [if_pos hrect]; rfl
    · rw [enqueue_eq, ← hcmds]; rfl
    · obtain ⟨hty, hva, hfo, hle, how, hno, hks, hba⟩ := resDesc_reads s b d n hc
      rw [hdesc, hwritten d hd n hn]
      exact ⟨hva, how, hty, hfo, hle, hno, hks, hba⟩
    · rw [hdesc, hother q h hq]
  · have hissued := atIssue_issued (countRefusal b s (ctCode s c b) s) c b (ctCode s c b)
    have htables := countRefusal_tables b s (ctCode s c b) s
    have hframe := countRefusal_eq b s (ctCode s c b) s
    generalize countRefusal b s (ctCode s c b) s = w at hissued htables hframe
    refine ⟨?_, ?_, htables⟩
    · rw [hframe] at hissued ⊢
      exact hissued
    · rw [hframe]; rfl

end
section
/-!
SUPPORT. No command touches the queue of waiting commands: a rule for each update of the state and each shared operation of the model,
in the order of their definitions, and from them what each command answers. A rule whose proof is written (rfl) has to rewrite also
under the hypothesis of another rule, where simp wants a step with a proof of its own.
-/
namespace Sys2Proof.Machine

/-! ### Updates of the state -/

@[simp] theorem pending_ite {c : Prop} [Decidable c] (s t : State) :
    (if c then s else t).pending = if c then s.pending else t.pending :=
  apply_ite ..

/-- An operation over a list keeps the queue where each of its steps does. -/
@[simp] theorem forAll_pending {α : Type} {f : α → State → State} (h : ∀ a s, (f a s).pending = s.pending) (l : List α) (s : State) :
    (forAll l f s).pending = s.pending :=
  forAll_keeps (f := f) State.pending h l s

theorem foldl_pending {α β : Type} {f : State × β → α → State × β} (h : ∀ acc a, (f acc a).1.pending = acc.1.pending) (l : List α)
    (acc : State × β) : (l.foldl f acc).1.pending = acc.1.pending := by
  induction l generalizing acc with
  | nil => rfl
  | cons a l ih => exact (ih _).trans (h acc a)

/-- What ends work leaves the queue alone, as it lasts. -/
theorem Ends.pending {s t : State} (h : Ends s t) : t.pending = s.pending := (congrArg State.pending h.lasting :)

theorem modPip_pending (s : State) (k : Nat) (f : PipSt → PipSt) : (modPip s k f).pending = s.pending := rfl
theorem modPod_pending (s : State) (k : Nat) (f : PodSt → PodSt) : (modPod s k f).pending = s.pending := rfl
theorem modField_pending (s : State) (k : Nat) (f : FieldSt → FieldSt) : (modField s k f).pending = s.pending := rfl
theorem modStack_pending (s : State) (k : Nat) (f : StackSt → StackSt) : (modStack s k f).pending = s.pending := rfl
theorem modLink_pending (s : State) (k : Nat) (f : LinkSt → LinkSt) : (modLink s k f).pending = s.pending := rfl
theorem modChan_pending (s : State) (k : Nat) (f : ChanSt → ChanSt) : (modChan s k f).pending = s.pending := rfl
theorem modHost_pending (s : State) (k : Nat) (f : HostSt → HostSt) : (modHost s k f).pending = s.pending := rfl
theorem modHchan_pending (s : State) (k : Nat) (f : HullChanSt → HullChanSt) : (modHchan s k f).pending = s.pending := rfl

/-! ### Updates of Machine/Module -/

@[simp] theorem setGran_pending (s : State) (staging : Bool) (g : Nat) (v : Granule) : (setGran s staging g v).pending = s.pending := by
  simp [setGran]
@[simp] theorem decideCmd_pending (s : State) (k : Nat) (code : Byte) (site : Nat) : (decideCmd s k code site).pending = s.pending :=
  (decideCmd_ends ..).pending
@[simp] theorem drew_pending (s : State) (n : Nat) : (drew s n).pending = s.pending := (drew_ends ..).pending
@[simp] theorem memWrite_pending (s : State) (a : Nat) (bs : List Byte) : (memWrite s a bs).pending = s.pending :=
  (memWrite_ends ..).pending
@[simp] theorem msix_pending (s : State) (h vec : Nat) : (msix s h vec).pending = s.pending := by simp [msix]
@[simp] theorem platformEvent_pending (s : State) (sensor v : Nat) : (platformEvent s sensor v).pending = s.pending :=
  (platformEvent_ends ..).pending
@[simp] theorem fabricRecord_pending (s : State) (r : TraceRec) : (fabricRecord s r).pending = s.pending := (fabricRecord_ends ..).pending
@[simp] theorem powerRecord_pending (s : State) (field : Option Nat) (event arg1 : Nat) (code : Byte) :
    (powerRecord s field event arg1 code).pending = s.pending :=
  (powerRecord_ends ..).pending
@[simp] theorem fieldTo_pending (s : State) (f : Nat) (st : FState) : (fieldTo s f st).pending = s.pending := (fieldTo_ends ..).pending
@[simp] theorem enableField_pending (s : State) (f : Nat) : (enableField s f).pending = s.pending := (enableField_ends ..).pending
@[simp] theorem syncAdd_pending (s : State) (i add : Nat) : (syncAdd s i add).pending = s.pending := rfl

/-! ### Updates of Machine/CtDesc -/

@[simp] theorem setCtDesc_pending (s : State) (pod i : Nat) (d : BitVec 512) : (setCtDesc s pod i d).pending = s.pending :=
  (setCtDesc_ends ..).pending

/-! ### Updates of Machine/Ending -/

@[simp] theorem avsVolt_pending (s : State) (f mv : Nat) : (avsVolt s f mv).pending = s.pending := (avsVolt_ends ..).pending
@[simp] theorem startOff_pending (s : State) (f : Nat) : (startOff s f).pending = s.pending := (startOff_ends ..).pending
@[simp] theorem startDown_pending (s : State) (f : Nat) (tgt : FState) : (startDown s f tgt).pending = s.pending :=
  (startDown_ends ..).pending
@[simp] theorem lowerField_pending (s : State) (f : Nat) (want : FState) : (lowerField s f want).pending = s.pending :=
  (lowerField_ends ..).pending
@[simp] theorem returnVrun_pending (s : State) (f : Nat) : (returnVrun s f).pending = s.pending := (returnVrun_ends ..).pending
@[simp] theorem afterTrans_pending (s : State) (f : Nat) : (afterTrans s f).pending = s.pending := by simp [afterTrans]
@[simp] theorem schedRecord_pending (s : State) (pod event ctx : Nat) (progId : Word64) (code : Byte) :
    (schedRecord s pod event ctx progId code).pending = s.pending :=
  (schedRecord_ends ..).pending
@[simp] theorem moduleRecord_pending (s : State) (event : Nat) (fp : Word64) : (moduleRecord s event fp).pending = s.pending :=
  (moduleRecord_ends ..).pending
@[simp] theorem errorRecord_pending (s : State) (event kind index arg1 : Nat) (code : Byte) :
    (errorRecord s event kind index arg1 code).pending = s.pending :=
  (errorRecord_ends ..).pending
@[simp] theorem dropWork_pending (pips : List Nat) (keys : Bool) (s : State) : (dropWork pips keys s).pending = s.pending :=
  (dropWork_ends ..).pending
@[simp] theorem dropShort_pending (pips : List Nat) (p : Nat) (s : State) : (dropShort pips p s).pending = s.pending :=
  (dropShort_ends ..).pending
@[simp] theorem leavePods_pending (j : Job) (code : Byte) (s : State) : (leavePods j code s).pending = s.pending :=
  (leavePods_ends ..).pending
@[simp] theorem endDrain_pending (s : State) (j : Job) : (endDrain s j).pending = s.pending := by simp [endDrain]
@[simp] theorem endJob_pending (s : State) (j : Job) (code : Byte) (site : Nat) : (endJob s j code site).pending = s.pending :=
  (endJob_ends ..).pending
@[simp] theorem endJobs_pending (s : State) (code : Byte) (test : Job → Bool) : (endJobs s code test).pending = s.pending :=
  (endJobs_ends ..).pending
@[simp] theorem chanAdvance_pending (s : State) (ch : Nat) : (chanAdvance s ch).pending = s.pending := (chanAdvance_ends ..).pending
@[simp] theorem chanFail_pending (s : State) (ch : Nat) (code : Byte) : (chanFail s ch code).pending = s.pending :=
  (chanFail_ends ..).pending
@[simp] theorem chanForce_pending (s : State) (ch : Nat) : (chanForce s ch).pending = s.pending := (chanForce_ends ..).pending
@[simp] theorem writeRecord_pending (s : State) (k : Cmd) (code : Byte) : (writeRecord s k code).pending = s.pending := by
  simp [writeRecord]
@[simp] theorem noteCt_pending (b : List Byte) (code : Byte) (d : Nat) (s : State) : (noteCt b code d s).pending = s.pending := (rfl)
@[simp] theorem lateAdd_pending (s : State) (i add : Nat) : (lateAdd s i add).pending = s.pending := by simp [lateAdd]
@[simp] theorem completeCmd_pending (s : State) (k : Cmd) (code : Byte) : (completeCmd s k code).pending = s.pending := by
  simp [completeCmd]
@[simp] theorem faultSensor_pending (s : State) : (faultSensor s).pending = s.pending := (faultSensor_ends ..).pending
@[simp] theorem addLog_pending (s : State) (e : LogEntry) : (addLog s e).pending = s.pending := (addLog_ends ..).pending
@[simp] theorem endRecovery_pending (s : State) (n : Nat) : (endRecovery s n).pending = s.pending := (endRecovery_ends ..).pending
@[simp] theorem raiseFault_pending (s : State) (cls : Nat) (ps : List Nat) (loc : Nat) (code : Byte) :
    (raiseFault s cls ps loc code).pending = s.pending :=
  (raiseFault_ends ..).pending
@[simp] theorem recordRepair_pending (s : State) (f row col : Nat) : (recordRepair s f row col).pending = s.pending :=
  (recordRepair_ends ..).pending
@[simp] theorem recordOos_pending (s : State) (f : Nat) : (recordOos s f).pending = s.pending := rfl
@[simp] theorem noteSite_pending (s : State) (p addr : Nat) : (noteSite s p addr).pending = s.pending := (noteSite_ends ..).pending
@[simp] theorem quiesce_pending (s : State) (c : Nat) : (quiesce s c).pending = s.pending := by
  unfold quiesce
  refine (forAll_pending (fun _ _ => syncSet_pending ..) ..).trans ?_
  exact (forAll_pending (fun _ _ => chanForce_pending ..) ..).trans (endJobs_pending ..)
@[simp] theorem dropCtx_pending (s : State) (c : Nat) : (dropCtx s c).pending = s.pending := rfl
@[simp] theorem hullDepart_pending (h ch : Nat) (s : State) : (hullDepart h ch s).pending = s.pending := by
  unfold hullDepart
  extract_lets v
  split
  · split <;> rfl
  · rfl
@[simp] theorem hostEvent_pending (s : State) (h : Nat) : (hostEvent s h).pending = s.pending := by simp [hostEvent]
@[simp] theorem departHost_pending (s : State) (h : Nat) : (departHost s h).pending = s.pending := by simp [departHost]
@[simp] theorem departAll_pending (s : State) : (departAll s).pending = s.pending := by simp [departAll]

/-! ### Updates of Machine/Lift -/

@[simp] theorem applyFx_pending (p : Nat) (fx : Fx) (s : State) : (applyFx p fx s).pending = s.pending := (applyFx_ends ..).pending
@[simp] theorem failPip_pending (s : State) (p : Nat) (code : Byte) (ue : Bool) : (failPip s p code ue).pending = s.pending :=
  (failPip_ends ..).pending
@[simp] theorem settle_pending (s : State) (p : Nat) (r : PRes) : (settle s p r).pending = s.pending := (settle_ends ..).pending
@[simp] theorem onPip_pending (s : State) (p : Nat) (f : PipSt → PRes) : (onPip s p f).pending = s.pending := by simp [onPip]
@[simp] theorem issueBy_pending (s : State) (p : Nat) (exe : Bool) (i : Instr) (act : PipSt → Attempt) :
    (issueBy s p exe i act).pending = s.pending := by
  unfold issueBy
  split
  · rfl
  · split
    · rfl
    · split
      · rfl
      · exact settle_pending ..
@[simp] theorem issue_pending (s : State) (p : Nat) (exe : Bool) (i : Instr) (ok : Bool) (f : PipSt → Attempt) :
    (issue s p exe i ok f).pending = s.pending := by
  simp [issue]
@[simp] theorem issueJump_pending (s : State) (p : Nat) (exe : Bool) (i : Instr) (ok : Bool) (ws : PipSt → List Stall) (pre : PipSt → PipSt)
    (f : PipSt → StreamSt → StreamSt) :
    (issueJump s p exe i ok ws pre f).pending = s.pending := by
  simp [issueJump]

/-! ### Updates of Machine/Access -/

@[simp] theorem clearKeys_pending (j : Job) (s : State) : (clearKeys j s).pending = s.pending := by
  rw [clearKeys, forAll_pending, forAll_pending] <;> exact fun _ _ => rfl

/-! ### Updates of Machine/HbmOps -/

@[simp] theorem noteError_pending (s : State) (k a : Nat) (ce ue : Bool) : (noteError s k a ce ue).pending = s.pending := by
  simp [noteError]
@[simp] theorem noteLine_pending (line : Nat) (s : State) : (noteLine line s).pending = s.pending := by simp [noteLine]
@[simp] theorem noteStg_pending (w : Nat) (s : State) : (noteStg w s).pending = s.pending := by simp [noteStg]
@[simp] theorem noteMem_pending (s : State) (a n : Nat) : (noteMem s a n).pending = s.pending := by simp [noteMem]
@[simp] theorem noteSites_pending (p : Nat) (fx : List Fx) (s : State) : (noteSites p fx s).pending = s.pending := by
  refine forAll_pending (fun f s => ?_) fx s
  split <;> simp
@[simp] theorem failReq_pending (s : State) (r : Req) (code : Byte) : (failReq s r code).pending = s.pending := by
  unfold failReq
  split <;> simp
@[simp] theorem ueReq_pending (s : State) (r : Req) : (ueReq s r).pending = s.pending := by
  unfold ueReq
  split <;> simp
@[simp] theorem hullGot_pending (s : State) (ch : Nat) (bs : List Byte) : (hullGot s ch bs).pending = s.pending := rfl
@[simp] theorem answerHost_pending (s : State) (a : HostAcc) (bs : List Byte) : (answerHost s a bs).pending = s.pending := by
  simp [answerHost]
@[simp] theorem rejectAcc_pending (s : State) (a : HostAcc) : (rejectAcc s a).pending = s.pending := by simp [rejectAcc]

/-! ### Updates of Machine/Issue -/

@[simp] theorem accept_pending (s : State) (c : Nat) (b : List Byte) (k : Cmd → Cmd) : (accept s c b k).pending = s.pending := (rfl)
@[simp] theorem atIssue_pending (s : State) (c : Nat) (b : List Byte) (code : Byte) : (atIssue s c b code).pending = s.pending := (rfl)
@[simp] theorem issueCmd_pending (s : State) (c opc : Nat) (form bounds : List Byte → Bool) (own : List Byte → Byte)
    (act : List Byte → State) (h : ∀ b, (act b).pending = s.pending) :
    (issueCmd s c opc form bounds own act).pending = s.pending := by
  unfold issueCmd
  split <;> simp [h]
@[simp] theorem issueSync_pending (s : State) (c opc : Nat) (form bounds : List Byte → Bool) (act : List Byte → State)
    (h : ∀ b, (act b).pending = s.pending) :
    (issueSync s c opc form bounds act).pending = s.pending :=
  issueCmd_pending (h := fun b => by simp [h]) ..

/-! ### Updates of Machine/LinkOps -/

@[simp] theorem linkCode_pending (s : State) (l route : Nat) (code : Byte) : (linkCode s l route code).pending = s.pending := by
  simp only [linkCode]
  split <;> simp
@[simp] theorem sendFlit_pending (s : State) (l pos : Nat) (f : RxFlit) : (sendFlit s l pos f).pending = s.pending := by simp [sendFlit]
@[simp] theorem sendVoid_pending (s : State) (l out pos : Nat) (code : Byte) : (sendVoid s l out pos code).pending = s.pending := by
  simp [sendVoid]
@[simp] theorem failBurst_pending (s : State) (l route : Nat) (code : Byte) : (failBurst s l route code).pending = s.pending := by
  unfold failBurst
  split <;> simp
@[simp] theorem takeColl_pending (s : State) (l route src : Nat) (bs : List Byte) : (takeColl s l route src bs).pending = s.pending := by
  simp [takeColl]
@[simp] theorem burstWhole_pending (s : State) (l : Nat) (b : Burst) : (burstWhole s l b).pending = s.pending := by simp [burstWhole]
@[simp] theorem burstFlit_pending (s : State) (l route : Nat) (f : RxFlit) : (burstFlit s l route f).pending = s.pending := by
  simp only [burstFlit, pending_ite, linkCode_pending, failBurst_pending, burstWhole_pending, modLink_pending, ite_self]
  split
  · rfl
  · split <;> simp only [pending_ite, linkCode_pending, failBurst_pending, burstWhole_pending, modLink_pending, ite_self]
@[simp] theorem settleHeld_pending (s : State) (l : Nat) : (settleHeld s l).pending = s.pending := by simp [settleHeld]
@[simp] theorem linkDown_pending (s : State) (l : Nat) : (linkDown s l).pending = s.pending := by simp [linkDown]
@[simp] theorem queueTx_pending (s : State) (l : Nat) (m : LinkMsg) : (queueTx s l m).pending = s.pending := by simp [queueTx]
@[simp] theorem takeEdge_pending (s : State) (l route from_ : Nat) (data : Flit) : (takeEdge s l route from_ data).pending = s.pending := by
  simp [takeEdge]

/-! ### Updates of Machine/Collective -/

@[simp] theorem issueClose_pending (s : State) (c : Nat) (act : Nat → State → State) (h : ∀ n s, (act n s).pending = s.pending) :
    (issueClose s c act).pending = s.pending :=
  issueCmd_pending (h := fun b => by simp [h]) ..
@[simp] theorem sendShard_pending (s : State) (ch : Nat) (b : List Byte) (gather : Bool) (step shard : Nat) :
    (sendShard s ch b gather step shard).pending = s.pending := by
  simp [sendShard]
@[simp] theorem localPass_pending (s : State) (ch : Nat) (b : List Byte) : (localPass s ch b).pending = s.pending := by simp [localPass]
@[simp] theorem fromBuf_pending (s : State) (c : ChanSt) (m : CollMsg) : (fromBuf s c m).1.pending = s.pending := by
  simp only [fromBuf]
  split <;> simp
@[simp] theorem mergeChunk_pending (s : State) (ch : Nat) (b : List Byte) (m : CollMsg) : (mergeChunk s ch b m).pending = s.pending := by
  simp [mergeChunk]

/-! ### Updates of Machine/Jobs -/

@[simp] theorem enqueue_pending (s : State) (c : Nat) (b : List Byte) (k : Cmd → Cmd) (f : Job → Job) :
    (enqueue s c b k f).pending = s.pending := by
  simp [enqueue]

/-! ### Updates of Machine/Control -/

@[simp] theorem moveRun_pending (a b : Nat) (r : (Nat × Nat × Nat) × (Nat × Nat × Nat)) (acc : State × Option Nat) :
    (moveRun a b r acc).1.pending = acc.1.pending := by
  simp [moveRun, forAll_pending]
@[simp] theorem moveObject_pending (s : State) (j : Job) : (moveObject s j).1.pending = s.pending := by
  unfold moveObject
  split
  · rfl
  · exact foldl_pending (fun acc r => moveRun_pending _ _ r acc) ..
@[simp] theorem finishJob_pending (s : State) (j : Job) : (finishJob s j).pending = s.pending := by
  have h := moveObject_pending s j
  unfold finishJob
  split <;> simp_all

/-! ### Updates of Machine/Mesh -/

@[simp] theorem leaveFlit_pending (s : State) (p port cr ser : Nat) (data : Flit) (rest : List (Nat × Flit)) :
    (leaveFlit s p port cr ser data rest).pending = s.pending := by
  simp [leaveFlit]
@[simp] theorem landed_pending (s : State) (k : Nat) : (landed s k).pending = s.pending := rfl
@[simp] theorem takeKey_pending (s : State) (p : Nat) (e : Line) : (takeKey s p e).pending = s.pending := rfl
@[simp] theorem flitIn_pending (s t : State) (p i : Nat) (f : MFlit) (h : t.pending = s.pending) :
    (flitIn s t p i f).pending = s.pending := by
  simp [flitIn, h]
@[simp] theorem edgeIn_pending (s t : State) (p i : Nat) (f : MFlit) (h : t.pending = s.pending) :
    (edgeIn s t p i f).pending = s.pending := by
  unfold edgeIn
  split <;> simp [h]
@[simp] theorem lineCredit_pending (s : State) (k route hop : Nat) : (lineCredit s k route hop).pending = s.pending := rfl
@[simp] theorem lineIn_pending (s : State) (p u route : Nat) (r : Req) : (lineIn s p u route r).pending = s.pending := by simp [lineIn]
@[simp] theorem wlineIn_pending (s t : State) (n route : Nat) (r : Req) (h : t.pending = s.pending) :
    (wlineIn s t n route r).pending = s.pending := by
  simp [wlineIn, h]
@[simp] theorem keyIn_pending (s t : State) (p : Nat) (header gran : Bool) (e : Line) (h : t.pending = s.pending) :
    (keyIn s t p header gran e).pending = s.pending := by
  simp [keyIn, h]
@[simp] theorem shortIn_pending (s t : State) (at_ : Nat) (f : ShortFlit) (h : t.pending = s.pending) :
    (shortIn s t at_ f).pending = s.pending := by
  simp [shortIn, h]
@[simp] theorem returnCredit_pending (s : State) (p cr by_ : Nat) : (returnCredit s p cr by_).pending = s.pending := rfl
@[simp] theorem putWritten_pending (f : ShortFlit) (s : State) : (putWritten f s).pending = s.pending := by simp [putWritten]
@[simp] theorem shortWrite_pending (s : State) (p : Nat) (f : ShortFlit) : (shortWrite s p f).pending = s.pending := by simp [shortWrite]

/-! ### Updates of Machine/EngineRun -/

@[simp] theorem refuseRun_pending (s : State) (p e : Nat) (c : Nat × Byte) : (refuseRun s p e c).pending = s.pending := by simp [refuseRun]
@[simp] theorem startCopy_pending (s : State) (p e : Nat) : (startCopy s p e).pending = s.pending := by simp [startCopy]
@[simp] theorem engSignal_pending (s : State) (p obj add : Nat) (next : State → State) (h : ∀ s, (next s).pending = s.pending) :
    (engSignal s p obj add next).pending = s.pending := by
  unfold engSignal
  split <;> simp [h]
@[simp] theorem stopRun_pending (p e : Nat) (s : State) : (stopRun p e s).pending = s.pending := by simp [stopRun]
@[simp] theorem agRun_pending (s : State) (p e op : Nat) (f : Engine → Nat → Engine) : (agRun s p e op f).pending = s.pending := by
  unfold agRun
  split <;> simp
@[simp] theorem markHeld_pending (s : State) (p e : Nat) : (markHeld s p e).pending = s.pending := rfl
@[simp] theorem passBlock_pending (s : State) (pod : Nat) (h : List Byte) : (passBlock s pod h).pending = s.pending := by
  rw [passBlock, forAll_pending] <;> intros <;> rfl
@[simp] theorem failBlock_pending (s : State) (j : Job) (pod : Nat) : (failBlock s j pod).pending = s.pending := by
  unfold failBlock
  split
  · rfl
  · rw [forAll_pending fun _ _ => modPod_pending ..]
    simp

/-! ### Updates of Machine/Hbm -/

@[simp] theorem passIdle_pending (s : State) (k g : Nat) : (passIdle s k g).pending = s.pending := rfl
@[simp] theorem placeReq_pending (s : State) (p k route t : Nat) (r : Req) : (placeReq s p k route t r).pending = s.pending := by
  simp [placeReq]
@[simp] theorem makeAsk_pending (s : State) (p u k route t : Nat) (j : Job) (a : LineAsk) (x : Nat) :
    (makeAsk s p u k route t j a x).pending = s.pending := by
  simp [makeAsk]
@[simp] theorem serveRead_pending (s : State) (k g route att : Nat) (r : Req) : (serveRead s k g route att r).pending = s.pending := by
  simp [serveRead]
@[simp] theorem writeAccepted_pending (s : State) (r : Req) : (writeAccepted s r).pending = s.pending := by
  unfold writeAccepted
  split <;> simp
@[simp] theorem hostWrite_pending (s : State) (a : Nat) (bs : List Byte) : (hostWrite s a bs).pending = s.pending := by simp [hostWrite]
@[simp] theorem serveHost_pending (s : State) (k g : Nat) (a : HostAcc) : (serveHost s k g a).pending = s.pending := by simp [serveHost]
@[simp] theorem sendKey_pending (s : State) (p : Nat) (r : Req) (to_ : List (Nat × Nat)) : (sendKey s p r to_).pending = s.pending := by
  unfold sendKey
  split <;> simp
@[simp] theorem departLine_pending (s : State) (route : Nat) (r : Req) (to_ : List (Nat × Nat)) :
    (departLine s route r to_).pending = s.pending := by
  unfold departLine
  split <;> simp

/-! ### Updates of Machine/Granules -/

@[simp] theorem writeGran_pending (s : State) (staging : Bool) (g v : Nat) : (writeGran s staging g v).pending = s.pending := by
  simp [writeGran]

/-! ### Updates of Machine/HostPort -/

@[simp] theorem attachHost_pending (h : Nat) (s : State) : (attachHost h s).pending = s.pending := by simp [attachHost]
@[simp] theorem dropHead_pending (s : State) (hd : Nat) : (dropHead s hd).pending = s.pending := by simp [dropHead]
@[simp] theorem hostAccess_pending (s : State) (a : HostAcc) : (hostAccess s a).pending = s.pending := by simp [hostAccess]
@[simp] theorem readRun_pending (r : Nat × Nat × Nat) (acc : State × List Byte) : (readRun r acc).1.pending = acc.1.pending := by
  rw [readRun, noteSites_pending, setPip_pending]
@[simp] theorem writeRuns_pending (rs : List (Nat × Nat × Nat)) (bs : List Byte) (s : State) : (writeRuns rs bs s).pending = s.pending := by
  induction rs generalizing bs s with
  | nil => rfl
  | cons r rs ih => rw [writeRuns, ih, noteSites_pending, setPip_pending]
@[simp] theorem winTake_pending (runs : List (Nat × Nat × Nat)) (s : State) : (winTake runs s).pending = s.pending :=
  forAll_pending (fun _ _ => modPip_pending ..) runs s
@[simp] theorem serveWindow_pending (s : State) (p : Nat) (a : WinAccess) (rest : List WinAccess) :
    (serveWindow s p a rest).pending = s.pending := by
  unfold serveWindow
  extract_lets runs pop
  have hp : pop.pending = s.pending := modPip_pending ..
  clear_value pop runs
  split
  · exact (rejectAcc_pending ..).trans hp
  · split
    · exact enableField_pending ..
    · split
      · rfl
      · split
        · exact (writeRuns_pending ..).trans ((winTake_pending ..).trans hp)
        · have hr := foldl_pending (fun acc r => readRun_pending r acc) runs (winTake runs pop, [])
          generalize runs.foldl _ _ = x at hr ⊢
          obtain ⟨u, bs⟩ := x
          have h1 : (winTake runs pop).pending = s.pending := (winTake_pending ..).trans hp
          have h2 : u.pending = (winTake runs pop).pending := hr
          exact (send_pending u _).trans (h2.trans h1)
@[simp] theorem setMgmt_pending (s : State) (v : Nat) : (setMgmt s v).pending = s.pending := by simp [setMgmt]
@[simp] theorem drbgRequest_pending (engB : Bool) (s : State) : (drbgRequest engB s).pending = s.pending := rfl
@[simp] theorem crResult_pending (s : State) (h : Nat) (code : Byte) : (crResult s h code).pending = s.pending := rfl

/-! ### Updates of Machine/Hull -/

@[simp] theorem hullWrite_pending (s : State) (ch a : Nat) (bs : List Byte) : (hullWrite s ch a bs).pending = s.pending := by
  simp [hullWrite]
@[simp] theorem hullAsk_pending (s : State) (ch a n : Nat) (data : Option (List Byte)) : (hullAsk s ch a n data).pending = s.pending := by
  simp [hullAsk]
@[simp] theorem securitySensor_pending (s : State) : (securitySensor s).pending = s.pending := rfl

/-! ### Updates of Machine/Power -/

@[simp] theorem loseField_pending (s : State) (f : Nat) (tgt : FState) : (loseField s f tgt).pending = s.pending := by
  unfold loseField
  split
  · rw [forAll_pending fun _ _ => modPod_pending .., forAll_pending fun _ _ => modPip_pending ..]
  · dsimp only
    rw [forAll_pending fun _ _ => modPod_pending .., forAll_pending fun _ _ => modPip_pending ..]
  · rfl
@[simp] theorem wakeFloor_pending (s : State) : (wakeFloor s).pending = s.pending := by simp [wakeFloor]
@[simp] theorem pendingOff_pending (s : State) (f : Nat) : (pendingOff s f).pending = s.pending := by simp [pendingOff]
@[simp] theorem refuseWaiters_pending (s : State) (f : Nat) : (refuseWaiters s f).pending = s.pending := by
  refine forAll_pending (fun c s => ?_) _ s
  split <;> simp
@[simp] theorem moduleTo_pending (s : State) (m : MState) : (moduleTo s m).pending = s.pending := by simp [moduleTo]
@[simp] theorem enterM1_pending (s : State) : (enterM1 s).pending = s.pending := by simp [enterM1]
@[simp] theorem standby_pending (s : State) : (standby s).pending = s.pending := by simp [standby]
@[simp] theorem wakeSource_pending (s : State) (n : Nat) : (wakeSource s n).pending = s.pending := by simp [wakeSource]
@[simp] theorem endRunning_pending (s : State) (code : Byte) (test : Job → Bool) : (endRunning s code test).pending = s.pending := by
  simp [endRunning]
@[simp] theorem tooHot_pending (s : State) (f : Nat) : (tooHot s f).pending = s.pending := by
  simp only [tooHot, pending_ite, fieldTo_pending, ite_self]
  split
  · rw [raiseFault_pending, endRunning_pending, modField_pending]
  · rfl
@[simp] theorem powerExcursion_pending (s : State) : (powerExcursion s).pending = s.pending := by simp [powerExcursion]
@[simp] theorem moduleFault_pending (s : State) : (moduleFault s).pending = s.pending := by simp [moduleFault]
@[simp] theorem readMonitors_pending (s : State) (f : Nat) (slack : List Int) : (readMonitors s f slack).pending = s.pending := by
  simp [readMonitors]

/-! ### Updates of Machine/Boot -/

@[simp] theorem huskJob_pending (s : State) (ok : Bool) (exec : Nat) : (huskJob s ok exec).pending = s.pending := rfl
@[simp] theorem tryImage_pending (s : State) (types : List Nat) (b : List Byte) : (tryImage s types b).pending = s.pending := by
  simp [tryImage]
@[simp] theorem toHusk_pending (s : State) (b : List Byte) : (toHusk s b).pending = s.pending := rfl
@[simp] theorem bootSensor_pending (s : State) : (bootSensor s).pending = s.pending := rfl
@[simp] theorem toStage_pending (s : State) (n : Nat) : (toStage s n).pending = s.pending := rfl
@[simp] theorem bootFail_pending (s : State) (cause : Nat) : (bootFail s cause).pending = s.pending := rfl
@[simp] theorem powerless_pending (s : State) : (powerless s).pending = s.pending := rfl
@[simp] theorem restart_pending (s : State) (stage : Nat) : (restart s stage).pending = s.pending := rfl
@[simp] theorem moduleReset_pending (s : State) : (moduleReset s).pending = s.pending := by simp [moduleReset]
@[simp] theorem bootSlot_pending (s : State) (slot : Bool) : (bootSlot s slot).1.pending = s.pending := by
  simp only [bootSlot]
  split <;> simp
@[simp] theorem useConfig_pending (s : State) (p : List Byte) (dflt : Bool) : (useConfig s p dflt).pending = s.pending := rfl
@[simp] theorem readConfig_pending (s : State) : (readConfig s).pending = s.pending := by simp [readConfig]
@[simp] theorem readCalib_pending (s : State) : (readCalib s).pending = s.pending := by simp [readCalib]
@[simp] theorem readIdentity_pending (s : State) : (readIdentity s).pending = s.pending := rfl
@[simp] theorem readMap_pending (s : State) : (readMap s).pending = s.pending := rfl
@[simp] theorem readMargin_pending (s : State) : (readMargin s).pending = s.pending := by
  unfold readMargin
  split
  · rfl
  · exact forAll_pending (fun _ _ => modField_pending ..) _ s
@[simp] theorem logBus_pending (m : BootMeas) (k : Nat) (s : State) : (logBus m k s).pending = s.pending := by simp [logBus]
@[simp] theorem measureField_pending (m : BootMeas) (f : Nat) (s : State) : (measureField m f s).pending = s.pending := by
  simp [measureField]
@[simp] theorem probeStack_pending (m : BootMeas) (k : Nat) (s : State) : (probeStack m k s).pending = s.pending := by simp [probeStack]
@[simp] theorem vinWait_pending (s : State) : (vinWait s).pending = s.pending := by simp [vinWait]
@[simp] theorem refWait_pending (s : State) : (refWait s).pending = s.pending := by simp [refWait]
@[simp] theorem haltCtx_pending (c : Nat) (s : State) : (haltCtx c s).pending = s.pending := (rfl)
@[simp] theorem verifyEntry_pending (n : Nat) (a : Nat) (s : State) : (verifyEntry n a s).pending = s.pending := by simp [verifyEntry]
@[simp] theorem verifyWeights_pending (s : State) (n : Nat) : (verifyWeights s n).pending = s.pending := by simp [verifyWeights]
@[simp] theorem partReset_pending (s : State) (n : Nat) : (partReset s n).pending = s.pending := by simp [partReset]

/-! ### Updates of Machine/Command -/

@[simp] theorem readSyncVal_pending (s : State) (h c : Nat) : (readSyncVal s h c).pending = s.pending := by simp [readSyncVal]

/-! ### Updates of Machine/Encrypted -/

@[simp] theorem countRefusal_pending (b : List Byte) (s0 : State) (code : Byte) (s : State) :
    (countRefusal b s0 code s).pending = s.pending := by
  unfold countRefusal
  split
  · exact forAll_pending (fun _ _ => modPod_pending ..) _ s
  · rfl
@[simp] theorem writeDsts_pending (s0 : State) (c : Nat) (b : List Byte) (s : State) : (writeDsts s0 c b s).pending = s.pending := by
  simp [writeDsts]
@[simp] theorem issueCt_pending (s : State) (c opc : Nat) : (issueCt s c opc).pending = s.pending := by simp [issueCt]
@[simp] theorem issueTable_pending (s : State) (c opc : Nat) (code : List Byte → Byte) (act : List Byte → State)
    (h : ∀ b, (act b).pending = s.pending) :
    (issueTable s c opc code act).pending = s.pending :=
  issueCmd_pending (h := fun b => by simp [h, countRefusal_pending]) ..

/-! ### Updates of Machine/Image -/

@[simp] theorem setBoot_pending (b : Bool) (s : State) : (setBoot b s).pending = s.pending :=
  forAll_pending (fun _ _ => modStack_pending ..) _ s
@[simp] theorem loadBase_pending (im : Image) (s : State) : (loadBase im s).pending = s.pending := by simp [loadBase]
@[simp] theorem loadPlan_pending (im : Image) (i : Nat) (s : State) : (loadPlan im i s).pending = s.pending := by
  simp only [loadPlan]
  split <;> simp
@[simp] theorem unbindAll_pending (s : State) (n : Nat) : (unbindAll s n).pending = s.pending := by simp [unbindAll]
@[simp] theorem releasePlan_pending (s : State) (n : Nat) : (releasePlan s n).pending = s.pending := rfl
@[simp] theorem revokePlan_pending (s : State) (n : Nat) : (revokePlan s n).pending = s.pending := by simp [revokePlan]
@[simp] theorem dropFields_pending (s : State) (fs : List Nat) : (dropFields s fs).pending = s.pending := by simp [dropFields]
@[simp] theorem refuseJob_pending (j : Job) (s : State) : (refuseJob j s).pending = s.pending := by
  unfold refuseJob
  simp only [decideCmd_pending]
  rw [forAll_pending, forAll_pending] <;> intros <;> simp
@[simp] theorem writeMap_pending (s : State) (m : List Byte) : (writeMap s m).pending = s.pending := by simp [writeMap]

/-! ### Updates of Machine/Links -/

@[simp] theorem periodLink_pending (l : Nat) (s : State) : (periodLink l s).pending = s.pending := (rfl)
@[simp] theorem periodChan_pending (ch : Nat) (s : State) : (periodChan ch s).pending = s.pending := (rfl)
@[simp] theorem steerAnchor_pending (s : State) : (steerAnchor s).pending = s.pending := rfl
@[simp] theorem setPhase_pending (s : State) (d : Int) : (setPhase s d).pending = s.pending := rfl
@[simp] theorem periodWork_pending (s : State) : (periodWork s).pending = s.pending := by simp [periodWork]
@[simp] theorem tellAll_pending (k : CtrlKind) (s : State) : (tellAll k s).pending = s.pending :=
  forAll_pending (fun _ _ => modLink_pending ..) _ s
@[simp] theorem adoptAnchor_pending (s : State) : (adoptAnchor s).pending = s.pending := by simp [adoptAnchor]
@[simp] theorem ownEpochs_pending (s : State) : (ownEpochs s).pending = s.pending := by simp [ownEpochs]
@[simp] theorem joinNow_pending (s : State) : (joinNow s).pending = s.pending := by
  unfold joinNow
  split
  · rfl
  · simp only [tellAll_pending]
    split <;> simp
@[simp] theorem countEpoch_pending (s : State) : (countEpoch s).pending = s.pending := by simp [countEpoch]
@[simp] theorem installTables_pending (s : State) : (installTables s).pending = s.pending := by
  unfold installTables
  split
  · rfl
  · exact forAll_pending (fun _ _ => modLink_pending ..) ..
@[simp] theorem scheduleLink_pending (l : Nat) (s : State) : (scheduleLink l s).pending = s.pending := by
  simp only [scheduleLink]
  split <;> simp
@[simp] theorem departNow_pending (s : State) : (departNow s).pending = s.pending :=
  (forAll_pending (fun _ _ => modLink_pending ..) ..).trans (tellAll_pending ..)
@[simp] theorem placeFlit_pending (s : State) (l : Nat) (f : RxFlit) : (placeFlit s l f).pending = s.pending := by
  simp only [placeFlit]
  split
  · split
    · exact failBurst_pending ..
    · split
      · exact burstFlit_pending ..
      · split
        · split
          · rfl
          · exact failBurst_pending ..
        · rfl
  · simp only [sendFlit_pending, pending_ite, modLink_pending, ite_self]
  · rfl
@[simp] theorem missFlit_pending (s : State) (l slot : Nat) (code : Byte) : (missFlit s l slot code).pending = s.pending := by
  simp only [missFlit]
  split <;> simp
@[simp] theorem flitInHold_pending (s : State) (l : Nat) (f : RxFlit) : (flitInHold s l f).pending = s.pending := by simp [flitInHold]
@[simp] theorem flitScheduled_pending (s : State) (l : Nat) (f : RxFlit) : (flitScheduled s l f).pending = s.pending := by
  simp [flitScheduled]
@[simp] theorem rejectData_pending (s : State) (l route : Nat) (code : Byte) : (rejectData s l route code).pending = s.pending := by
  simp only [rejectData]
  split <;> simp
@[simp] theorem padData_pending (s : State) (b : List Byte) : (padData s b).pending = s.pending := rfl
@[simp] theorem writeData_pending (s : State) (l : Nat) (b : List Byte) : (writeData s l b).pending = s.pending := by simp [writeData]
@[simp] theorem finishData_pending (s : State) (l : Nat) (b : List Byte) : (finishData s l b).pending = s.pending := by simp [finishData]

/-! ### Updates of Machine/Spdm -/

@[simp] theorem spdmError_pending (s : State) (h code err : Nat) : (spdmError s h code err).pending = s.pending := rfl
@[simp] theorem spdmReply_pending (s : State) (h code : Nat) (bs : List Byte) : (spdmReply s h code bs).pending = s.pending := rfl
@[simp] theorem setSpdm_pending (s : State) (h : Nat) (f : SpdmSt → SpdmSt) : (setSpdm s h f).pending = s.pending := rfl
@[simp] theorem acornJobs_pending (s : State) (n exec : Nat) : (acornJobs s n exec).pending = s.pending := rfl
@[simp] theorem signedReply_pending (h code slot jobs : Nat) (bs : List Byte) (f : State → State) (s : State) (hf : ∀ s,
    (f s).pending = s.pending) :
    (signedReply h code slot jobs bs f s).pending = s.pending := by
  simp [signedReply, hf]

/-! ### Updates of Machine/Regs -/

@[simp] theorem readHalf_pending (s : State) (h off : Nat) : (readHalf s h off).pending = s.pending := by simp [readHalf]

/-! ### Updates of Machine/Trace -/

@[simp] theorem traceTo_pending (s : State) (place due : Nat) (f : TraceFlit) : (traceTo s place due f).pending = s.pending := rfl
@[simp] theorem goNorth_pending (s : State) (p : Nat) (f : TraceFlit) : (goNorth s p f).pending = s.pending := by simp [goNorth]
@[simp] theorem goAlong_pending (s : State) (p : Nat) (f : TraceFlit) : (goAlong s p f).pending = s.pending := by simp [goAlong]
@[simp] theorem traceLand_pending (s : State) (e : Nat × TraceFlit) : (traceLand s e).pending = s.pending := by simp [traceLand]
@[simp] theorem landTraces_pending (s : State) : (landTraces s).pending = s.pending := by simp [landTraces]
@[simp] theorem snapRecord_pending (i : Nat) (s : State) : (snapRecord i s).pending = s.pending := by simp [snapRecord]

/-! ### Updates of Machine/Mgmt -/

@[simp] theorem pldmReply_pending (s : State) (type cmd code : Nat) (bs : List Byte) : (pldmReply s type cmd code bs).pending = s.pending :=
  rfl
@[simp] theorem enterTest_pending (s : State) : (enterTest s).pending = s.pending := by
  simp only [enterTest, securitySensor_pending]
  rw [forAll_pending fun _ _ => modHchan_pending .., forAll_pending fun _ _ => startDown_pending .., departAll_pending]
@[simp] theorem placeImage_pending (s : State) (id : Nat) (b : List Byte) : (placeImage s id b).pending = s.pending := by
  unfold placeImage
  split <;> simp
@[simp] theorem tapShift_pending (s : State) (instr bits v : Nat) : (tapShift s instr bits v).pending = s.pending := rfl

/-! ### Updates of Machine/Staging -/

@[simp] theorem applyInt_pending (s : State) (k : Nat) (b : List Byte) : (applyInt s k b).pending = s.pending := by simp [applyInt]
@[simp] theorem applyAdd_pending (s : State) (k slot addr : Nat) (ws : List Word32) : (applyAdd s k slot addr ws).pending = s.pending := by
  simp [applyAdd]
@[simp] theorem serveIt_pending (s : State) (k : Nat) (r : Req) (rest : List Req) : (serveIt s k r rest).pending = s.pending := rfl
@[simp] theorem refuseReq_pending (s : State) (k : Nat) (r : Req) (code : Byte) : (refuseReq s k r code).pending = s.pending := by
  simp [refuseReq]
@[simp] theorem serveReq_pending (s : State) (k aop : Nat) (act : State → Req → State) (h : ∀ s r, (act s r).pending = s.pending) :
    (serveReq s k aop act).pending = s.pending := by
  unfold serveReq
  split <;> simp [h]
@[simp] theorem lineBack_pending (s : State) (r : Req) (bs : List Byte) : (lineBack s r bs).pending = s.pending := rfl
@[simp] theorem answerRead_pending (s : State) (r : Req) : (answerRead s r).pending = s.pending := by
  unfold answerRead
  split <;> simp
@[simp] theorem answerFree_pending (s : State) (r : Req) : (answerFree s r).pending = s.pending := by
  unfold answerFree
  split <;> simp
@[simp] theorem writeStaging_pending (s : State) (a : Nat) (bs : List Byte) : (writeStaging s a bs).pending = s.pending := by
  simp [writeStaging]
@[simp] theorem servePlain_pending (s : State) (r : Req) : (servePlain s r).pending = s.pending := by
  unfold servePlain
  extract_lets n
  split
  · split <;> simp
  · simp

/-! ### Answers -/

/-- Whatever next state an answer gives, its queue of waiting commands is that of s. -/
structure KeepsQueue (s : State) (o : Host.Outcome State Fault Refusal) : Prop where
  pending : ∀ t, o = .next t → t.pending = s.pending

theorem KeepsQueue.of_pending_eq {s t : State} {o : Host.Outcome State Fault Refusal} (h : KeepsQueue t o)
    (e : t.pending = s.pending) : KeepsQueue s o :=
  ⟨fun u hu => (h.pending u hu).trans e⟩

theorem next_keepsQueue {s t : State} (h : t.pending = s.pending) : KeepsQueue s (.next t) := by
  refine ⟨?_⟩
  rintro u ⟨⟩
  exact h

theorem within_keepsQueue {s t : State} {n i : Nat} (h : t.pending = s.pending) : KeepsQueue s (within n i t) := by
  unfold within
  split
  · exact next_keepsQueue h
  · exact ⟨fun _ h => by cases h⟩

/-- A register write of a command's register has the command's effect, and so keeps the queue where the command does. -/
theorem after_pending {s : State} {o : Host.Outcome State Fault Refusal} (h : KeepsQueue s o) : (after s o).pending = s.pending := by
  cases o with
  | next t => exact h.pending t rfl
  | fault f => rfl
  | refused r => rfl

/-! ### Commands of Machine/Access -/

theorem execStrmStart_keepsQueue (p d areg e : Nat) (s : State) : KeepsQueue s (execStrmStart p d areg e s) := by
  refine within_keepsQueue ?_
  split <;> simp
theorem execStrmWait_keepsQueue (p d e : Nat) (s : State) : KeepsQueue s (execStrmWait p d e s) := by
  refine within_keepsQueue ?_
  split <;> simp
theorem execSiglApply_keepsQueue (p : Nat) (s : State) : KeepsQueue s (execSiglApply p s) := by
  refine within_keepsQueue ?_
  dsimp only
  split <;> simp

/-! ### Commands of Machine/Collective -/

theorem execClOpen_keepsQueue (c : Nat) (s : State) : KeepsQueue s (execClOpen c s) := within_keepsQueue (by simp)
theorem execClReduce_keepsQueue (c : Nat) (s : State) : KeepsQueue s (execClReduce c s) := within_keepsQueue (by simp)
theorem execClClose_keepsQueue (c : Nat) (s : State) : KeepsQueue s (execClClose c s) := within_keepsQueue (by simp)
theorem execClCloseForce_keepsQueue (c : Nat) (s : State) : KeepsQueue s (execClCloseForce c s) := within_keepsQueue (by simp)
theorem execLocalStep_keepsQueue (ch : Nat) (s : State) : KeepsQueue s (execLocalStep ch s) := by
  refine within_keepsQueue ?_
  dsimp only
  split <;> simp
theorem execChunkSend_keepsQueue (ch : Nat) (s : State) : KeepsQueue s (execChunkSend ch s) := by
  refine within_keepsQueue ?_
  dsimp only
  split <;> simp
theorem execColl_keepsQueue (ch : Nat) (s : State) : KeepsQueue s (execColl ch s) := by
  refine within_keepsQueue ?_
  extract_lets c
  split
  · rfl
  · split
    · rfl
    · split
      · rfl
      · split
        · rfl
        · simp only [pending_ite, chanFail_pending, setChan_pending, modChan_pending, mergeChunk_pending, fromBuf_pending, ite_self]
theorem execCredit_keepsQueue (ch : Nat) (s : State) : KeepsQueue s (execCredit ch s) := by
  refine within_keepsQueue ?_
  extract_lets c
  split
  · rfl
  · split
    · rfl
    · simp only [pending_ite, chanFail_pending, setChan_pending, ite_self]
theorem execAbortMsg_keepsQueue (ch : Nat) (s : State) : KeepsQueue s (execAbortMsg ch s) := by
  refine within_keepsQueue ?_
  extract_lets c
  split
  · rfl
  · split
    · rfl
    · split <;> simp only [pending_ite, chanFail_pending, setChan_pending, modChan_pending, ite_self]
theorem execClReduceComplete_keepsQueue (ch : Nat) (s : State) : KeepsQueue s (execClReduceComplete ch s) := by
  refine within_keepsQueue ?_
  dsimp only
  split <;> simp

/-! ### Commands of Machine/Jobs -/

theorem execLaunch_keepsQueue (c : Nat) (s : State) : KeepsQueue s (execLaunch c s) := within_keepsQueue (by simp)
theorem execJobStart_keepsQueue (j : Nat) (s : State) : KeepsQueue s (execJobStart j s) := by
  refine next_keepsQueue ?_
  split
  · rfl
  · split
    · rfl
    · extract_lets
      rw [forAll_pending fun _ _ => schedRecord_pending .., setJob_pending, forAll_pending fun _ _ => setPip_pending ..]
theorem execJobLoadEnd_keepsQueue (p : Nat) (s : State) : KeepsQueue s (execJobLoadEnd p s) := within_keepsQueue (by simp)
theorem execStreamStart_keepsQueue (j : Nat) (s : State) : KeepsQueue s (execStreamStart j s) := by
  refine next_keepsQueue ?_
  split
  · rfl
  · extract_lets ts
    split
    · rfl
    · rw [forAll_pending fun _ _ => schedRecord_pending .., forAll_pending fun _ _ => modPip_pending .., setJob_pending]

/-! ### Commands of Machine/Control -/

theorem execLoop_keepsQueue (p : Nat) (exe : Bool) (d level body : Nat) (s : State) : KeepsQueue s (execLoop p exe d level body s) :=
  within_keepsQueue (by simp)
theorem execBrf_keepsQueue (p : Nat) (exe : Bool) (d : Nat) (o : BOp) (s : State) : KeepsQueue s (execBrf p exe d o s) :=
  within_keepsQueue (by simp)
theorem execEndStream_keepsQueue (p : Nat) (exe : Bool) (d : Nat) (s : State) : KeepsQueue s (execEndStream p exe d s) :=
  within_keepsQueue (by simp)
theorem execDmaComplete_keepsQueue (p : Nat) (ch : Bool) (s : State) : KeepsQueue s (execDmaComplete p ch s) := by
  refine within_keepsQueue ?_
  split <;> simp
theorem execPipFinish_keepsQueue (p : Nat) (s : State) : KeepsQueue s (execPipFinish p s) := by
  refine within_keepsQueue ?_
  split <;> simp
theorem execJobWatchdog_keepsQueue (p : Nat) (exe : Bool) (s : State) : KeepsQueue s (execJobWatchdog p exe s) :=
  within_keepsQueue (by simp)
theorem execEngineWatchdog_keepsQueue (p : Nat) (s : State) : KeepsQueue s (execEngineWatchdog p s) := within_keepsQueue (by simp)

/-! ### Commands of Machine/Tensor -/

theorem execTmmComplete_keepsQueue (p : Nat) (s : State) : KeepsQueue s (execTmmComplete p s) := by
  refine within_keepsQueue ?_
  split <;> simp
theorem execTmode_keepsQueue (p d : Nat) (mode : Bool) (s : State) : KeepsQueue s (execTmode p d mode s) := within_keepsQueue (by simp)
theorem execTmodeComplete_keepsQueue (p : Nat) (s : State) : KeepsQueue s (execTmodeComplete p s) := within_keepsQueue (by simp)
theorem execDrainEnd_keepsQueue (p : Nat) (s : State) : KeepsQueue s (execDrainEnd p s) := within_keepsQueue (by simp)

/-! ### Commands of Machine/Ring -/

theorem execRingOpComplete_keepsQueue (p : Nat) (s : State) : KeepsQueue s (execRingOpComplete p s) := within_keepsQueue (by simp)
theorem execResidueCompare_keepsQueue (pod : Nat) (inverse : Bool) (s : State) : KeepsQueue s (execResidueCompare pod inverse s) := by
  refine within_keepsQueue ?_
  dsimp only
  split <;> simp

/-! ### Commands of Machine/Mesh -/

theorem execMeshFlitSend_keepsQueue (p port pos : Nat) (s : State) : KeepsQueue s (execMeshFlitSend p port pos s) := by
  refine within_keepsQueue ?_
  split
  · rfl
  · split <;> simp
theorem execMeshFlitArrive_keepsQueue (k : Nat) (s : State) : KeepsQueue s (execMeshFlitArrive k s) := by
  refine next_keepsQueue ?_
  have hl : (landed s k).pending = s.pending := landed_pending ..
  split
  · exact flitIn_pending (h := hl) ..
  · exact edgeIn_pending (h := hl) ..
  · exact (lineIn_pending ..).trans hl
  · exact wlineIn_pending (h := hl) ..
  · exact keyIn_pending (h := hl) ..
  · exact shortIn_pending (h := hl) ..
  · rfl
theorem execCreditReturn_keepsQueue (k : Nat) (s : State) : KeepsQueue s (execCreditReturn k s) := by
  refine next_keepsQueue ?_
  split <;> simp
theorem execDmaWriterWrite_keepsQueue (p : Nat) (s : State) : KeepsQueue s (execDmaWriterWrite p s) := by
  refine within_keepsQueue ?_
  split <;> simp
theorem execShortFlitEnter_keepsQueue (p : Nat) (s : State) : KeepsQueue s (execShortFlitEnter p s) := by
  refine within_keepsQueue ?_
  split
  · rfl
  · split <;> simp only [pending_ite, modPip_pending, ite_self]
theorem execShortPathWrite_keepsQueue (p : Nat) (s : State) : KeepsQueue s (execShortPathWrite p s) := by
  refine within_keepsQueue ?_
  dsimp only
  split <;> simp

/-! ### Commands of Machine/EngineRun -/

theorem execStreamRunStart_keepsQueue (p e : Nat) (s : State) : KeepsQueue s (execStreamRunStart p e s) := by
  refine within_keepsQueue ?_
  extract_lets q g
  split
  · rfl
  · split
    · rfl
    · split
      · exact refuseRun_pending ..
      · simp only [pending_ite, startCopy_pending, setPip_pending, ite_self]
theorem execStreamRunComplete_keepsQueue (p e : Nat) (s : State) : KeepsQueue s (execStreamRunComplete p e s) := within_keepsQueue (by simp)
theorem execGset_keepsQueue (p e : Nat) (s : State) : KeepsQueue s (execGset p e s) := within_keepsQueue (by simp)
theorem execGadd_keepsQueue (p e : Nat) (s : State) : KeepsQueue s (execGadd p e s) := within_keepsQueue (by simp)
theorem execGmod_keepsQueue (p e : Nat) (s : State) : KeepsQueue s (execGmod p e s) := within_keepsQueue (by simp)
theorem execGidx_keepsQueue (p e : Nat) (s : State) : KeepsQueue s (execGidx p e s) := by
  refine within_keepsQueue ?_
  split
  · rfl
  · extract_lets h d
    split
    · exact failPip_pending ..
    · split <;> simp only [pending_ite, failPip_pending, onPip_pending, ite_self]
theorem execXfer_keepsQueue (p e : Nat) (s : State) : KeepsQueue s (execXfer p e s) := by
  refine within_keepsQueue ?_
  split <;> simp
theorem execKblk_keepsQueue (p : Nat) (s : State) : KeepsQueue s (execKblk p s) := by
  refine within_keepsQueue ?_
  split <;> simp
theorem execSput_keepsQueue (p e : Nat) (s : State) : KeepsQueue s (execSput p e s) := by
  refine within_keepsQueue ?_
  split <;> simp
theorem execWaitso_keepsQueue (p e : Nat) (s : State) : KeepsQueue s (execWaitso p e s) := by
  refine within_keepsQueue ?_
  split <;> simp
theorem execDependenceMarkRelease_keepsQueue (p e : Nat) (s : State) : KeepsQueue s (execDependenceMarkRelease p e s) := by
  refine within_keepsQueue ?_
  split <;> simp
theorem execSigso_keepsQueue (p e : Nat) (s : State) : KeepsQueue s (execSigso p e s) := by
  refine within_keepsQueue ?_
  split
  · rfl
  · split
    · rfl
    · exact engSignal_pending (h := fun _ => modPip_pending ..) ..
theorem execAgLoop_keepsQueue (p e : Nat) (s : State) : KeepsQueue s (execAgLoop p e s) := within_keepsQueue (by simp)
theorem execAgNop_keepsQueue (p e : Nat) (s : State) : KeepsQueue s (execAgNop p e s) := within_keepsQueue (by simp)
theorem execAgEnd_keepsQueue (p e : Nat) (s : State) : KeepsQueue s (execAgEnd p e s) := within_keepsQueue (by simp)
theorem execKeyHeaderCheck_keepsQueue (pod : Nat) (s : State) : KeepsQueue s (execKeyHeaderCheck pod s) := by
  refine within_keepsQueue ?_
  split
  · simp only [pending_ite, modPod_pending, passBlock_pending, failBlock_pending, ite_self]
  · rfl
theorem execKeyDrainEnd_keepsQueue (j : Nat) (s : State) : KeepsQueue s (execKeyDrainEnd j s) := by
  refine next_keepsQueue ?_
  split <;> simp

/-! ### Commands of Machine/Hbm -/

theorem execRequestWord_keepsQueue (p u k route : Nat) (s : State) : KeepsQueue s (execRequestWord p u k route s) := by
  refine within_keepsQueue ?_
  split
  · rfl
  · split
    · split
      · exact failPip_pending ..
      · split <;> simp only [pending_ite, failPip_pending, makeAsk_pending, ite_self]
    · rfl
theorem execHbmRead_keepsQueue (k g route : Nat) (s : State) : KeepsQueue s (execHbmRead k g route s) := by
  refine within_keepsQueue ?_
  split
  · rfl
  · split <;> simp only [pending_ite, passIdle_pending, failReq_pending, modStack_pending, serveRead_pending, ite_self]
theorem execHbmWrite_keepsQueue (k g route : Nat) (s : State) : KeepsQueue s (execHbmWrite k g route s) := by
  refine within_keepsQueue ?_
  split
  · rfl
  · split <;> simp only [pending_ite, passIdle_pending, failReq_pending, writeAccepted_pending, modStack_pending, memWrite_pending, ite_self]
theorem execHbmIdle_keepsQueue (k g : Nat) (s : State) : KeepsQueue s (execHbmIdle k g s) := within_keepsQueue (by simp)
theorem execRef_keepsQueue (k g : Nat) (s : State) : KeepsQueue s (execRef k g s) := within_keepsQueue (by simp)
theorem execRefreshInsert_keepsQueue (k g : Nat) (s : State) : KeepsQueue s (execRefreshInsert k g s) := within_keepsQueue (by simp)
theorem execHost_keepsQueue (k g : Nat) (s : State) : KeepsQueue s (execHost k g s) := by
  refine within_keepsQueue ?_
  split
  · rfl
  · split
    · rfl
    · rw [serveHost_pending, modStack_pending]
theorem execStageIn_keepsQueue (k route : Nat) (s : State) : KeepsQueue s (execStageIn k route s) := by
  refine within_keepsQueue ?_
  split
  · rfl
  · split <;> simp only [pending_ite, passIdle_pending, chanFail_pending, modChan_pending, memWrite_pending, modStack_pending,
      noteMem_pending, ite_self]
theorem execStageOut_keepsQueue (k route : Nat) (s : State) : KeepsQueue s (execStageOut k route s) := by
  refine within_keepsQueue ?_
  split
  · rfl
  · split <;> simp only [pending_ite, passIdle_pending, chanFail_pending, modChan_pending, memWrite_pending, modStack_pending, ite_self]
theorem execReadLineReady_keepsQueue (k route : Nat) (s : State) : KeepsQueue s (execReadLineReady k route s) := by
  refine within_keepsQueue ?_
  split
  · rfl
  · split
    · rfl
    · split <;> simp only [pending_ite, departLine_pending, modStack_pending, ite_self]

/-! ### Commands of Machine/Scratchpad -/

theorem execPipRegion_keepsQueue (w : Writer) (p n v : Nat) (s : State) : KeepsQueue s (execPipRegion w p n v s) :=
  within_keepsQueue (by simp)
theorem execScrubDone_keepsQueue (p n : Nat) (s : State) : KeepsQueue s (execScrubDone p n s) := within_keepsQueue (by simp)
theorem execClr_keepsQueue (w : Writer) (p : Nat) (s : State) : KeepsQueue s (execClr w p s) := within_keepsQueue (modPip_pending ..)

/-! ### Commands of Machine/Granules -/

theorem execHbmGran_keepsQueue (w : Writer) (g v : Nat) (s : State) : KeepsQueue s (execHbmGran w g v s) := within_keepsQueue (by simp)
theorem execHbmSgran_keepsQueue (w : Writer) (g v : Nat) (s : State) : KeepsQueue s (execHbmSgran w g v s) := within_keepsQueue (by simp)
theorem execScrub_keepsQueue (g : Nat) (s : State) : KeepsQueue s (execScrub g s) := by
  refine within_keepsQueue ?_
  split <;> simp
theorem execGranuleZeroed_keepsQueue (staging : Bool) (g : Nat) (s : State) : KeepsQueue s (execGranuleZeroed staging g s) :=
  within_keepsQueue (by simp)
theorem execHbmHot_keepsQueue (k temp : Nat) (s : State) : KeepsQueue s (execHbmHot k temp s) := within_keepsQueue (by simp)
theorem execHbmTrainingEnd_keepsQueue (k : Nat) (ok : Bool) (s : State) : KeepsQueue s (execHbmTrainingEnd k ok s) :=
  within_keepsQueue (by simp)

/-! ### Commands of Machine/HostPort -/

theorem execHeadLinkUp_keepsQueue (hd width rate : Nat) (s : State) : KeepsQueue s (execHeadLinkUp hd width rate s) :=
  within_keepsQueue (by simp)
theorem execHeadLinkDown_keepsQueue (hd : Nat) (s : State) : KeepsQueue s (execHeadLinkDown hd s) := within_keepsQueue (by simp)
theorem execPerstN_keepsQueue (hd : Nat) (s : State) : KeepsQueue s (execPerstN hd s) := by
  refine within_keepsQueue ?_
  dsimp only
  split <;> simp
theorem execIdeFail_keepsQueue (hd : Nat) (s : State) : KeepsQueue s (execIdeFail hd s) := within_keepsQueue (by simp)
theorem execFmUnbind_keepsQueue (h : Nat) (s : State) : KeepsQueue s (execFmUnbind h s) := within_keepsQueue (by simp)
theorem execFmBind_keepsQueue (h : Nat) (s : State) : KeepsQueue s (execFmBind h s) :=
  within_keepsQueue (by simp only [pending_ite, attachHost_pending, modHost_pending, ite_self])
theorem execFunctionLevelReset_keepsQueue (h : Nat) (s : State) : KeepsQueue s (execFunctionLevelReset h s) := within_keepsQueue (by simp)
theorem execFlrReattach_keepsQueue (h : Nat) (s : State) : KeepsQueue s (execFlrReattach h s) := within_keepsQueue (by simp)
theorem execCxlMemRead_keepsQueue (h addr len tag : Nat) (s : State) : KeepsQueue s (execCxlMemRead h addr len tag s) :=
  within_keepsQueue (by simp)
theorem execCxlMemWrite_keepsQueue (h addr : Nat) (bs : List Byte) (s : State) : KeepsQueue s (execCxlMemWrite h addr bs s) :=
  within_keepsQueue (by simp)
theorem execScratchpadWindowAccess_keepsQueue (p : Nat) (s : State) : KeepsQueue s (execScratchpadWindowAccess p s) := by
  refine within_keepsQueue ?_
  split <;> simp
theorem execWindowEscalation_keepsQueue (p : Nat) (s : State) : KeepsQueue s (execWindowEscalation p s) := by
  refine within_keepsQueue ?_
  split <;> simp
theorem execHdmDecoderCommit_keepsQueue (h n base size ways : Nat) (s : State) : KeepsQueue s (execHdmDecoderCommit h n base size ways s) :=
  within_keepsQueue (by simp)
theorem execFmApiQuery_keepsQueue (cmd : Nat) (s : State) : KeepsQueue s (execFmApiQuery cmd s) := next_keepsQueue (by simp)
theorem execFmApiAllocationChange_keepsQueue (cmd : Nat) (s : State) : KeepsQueue s (execFmApiAllocationChange cmd s) :=
  next_keepsQueue (by simp)
theorem execDoeDiscovery_keepsQueue (h i : Nat) (s : State) : KeepsQueue s (execDoeDiscovery h i s) := within_keepsQueue (by simp)
theorem execCxlMgmt_keepsQueue (w : Writer) (v : Nat) (s : State) : KeepsQueue s (execCxlMgmt w v s) := next_keepsQueue (by simp)
theorem execCxlCtxpage_keepsQueue (w : Writer) (p v : Nat) (s : State) : KeepsQueue s (execCxlCtxpage w p v s) :=
  within_keepsQueue (by simp)
theorem execCreate_keepsQueue (h : Nat) (s : State) : KeepsQueue s (execCreate h s) := by
  refine within_keepsQueue ?_
  simp only [pending_ite, crResult_pending]
  rw [forAll_pending fun _ _ => syncSet_pending .., drbgRequest_pending, drew_pending, setCtx_pending]
  simp only [ite_self]
theorem execDestroy_keepsQueue (h : Nat) (s : State) : KeepsQueue s (execDestroy h s) := by
  refine within_keepsQueue ?_
  simp only [pending_ite, crResult_pending, dropCtx_pending]
  rw [forAll_pending fun _ _ => completeCmd_pending .., quiesce_pending, forAll_pending]
  · simp only [ite_self]
  · intro m t
    split <;> simp only [completeCmd_pending]
theorem execRebind_keepsQueue (h : Nat) (s : State) : KeepsQueue s (execRebind h s) := within_keepsQueue (by simp)

/-! ### Commands of Machine/Hull -/

theorem startHull_keepsQueue (ops : List Nat) (w : Writer) (ch : Nat) (s : State) : KeepsQueue s (startHull ops w ch s) :=
  within_keepsQueue (by simp only [pending_ite, setHchan_pending, ite_self])
theorem execHullLoadEnd_keepsQueue (ch : Nat) (s : State) : KeepsQueue s (execHullLoadEnd ch s) := within_keepsQueue (by simp)
theorem execEngineTake_keepsQueue (b : Bool) (s : State) : KeepsQueue s (execEngineTake b s) := by
  refine next_keepsQueue ?_
  extract_lets waits start
  split
  · split
    · rfl
    · split <;> rfl
  · split
    · rfl
    · split <;> rfl
theorem execExecEnd_keepsQueue (e : EngineEnd) (s : State) : KeepsQueue s (execExecEnd e s) :=
  within_keepsQueue (by simp only [pending_ite, hullAsk_pending, setHchan_pending, drbgRequest_pending, drew_pending, ite_self])
theorem execStoreEnd_keepsQueue (ch : Nat) (s : State) : KeepsQueue s (execStoreEnd ch s) := within_keepsQueue (by simp)
theorem execWipeEnd_keepsQueue (ch : Nat) (s : State) : KeepsQueue s (execWipeEnd ch s) := within_keepsQueue (by simp)
theorem execClrcurve_keepsQueue (w : Writer) (ch : Nat) (s : State) : KeepsQueue s (execClrcurve w ch s) := within_keepsQueue (by simp)
theorem execHullChanOwner_keepsQueue (w : Writer) (ch v : Nat) (s : State) : KeepsQueue s (execHullChanOwner w ch v s) :=
  within_keepsQueue (by simp)
theorem execDrbgHealthRetest_keepsQueue (pass : Bool) (s : State) : KeepsQueue s (execDrbgHealthRetest pass s) := next_keepsQueue (by simp)

/-! ### Commands of Machine/Power -/

theorem execFieldGate_keepsQueue (f : Nat) (s : State) : KeepsQueue s (execFieldGate f s) := within_keepsQueue (by simp)
theorem execIdleExpiry_keepsQueue (f : Nat) (s : State) : KeepsQueue s (execIdleExpiry f s) := within_keepsQueue (by simp)
theorem execShutdownComplete_keepsQueue (f : Nat) (s : State) : KeepsQueue s (execShutdownComplete f s) := by
  refine within_keepsQueue ?_
  dsimp only
  split <;> simp
theorem execWakeComplete_keepsQueue (f : Nat) (s : State) : KeepsQueue s (execWakeComplete f s) := by
  refine within_keepsQueue ?_
  have zeroed (l : List Nat) (t : State) := forAll_pending (fun k u => modPip_pending u k zeroBanks) l t
  simp only [pending_ite, afterTrans_pending, wakeFloor_pending, startDown_pending, fieldTo_pending, modField_pending, zeroed, ite_self]
theorem execFldPwrCtrl_keepsQueue (w : Writer) (f v : Nat) (s : State) : KeepsQueue s (execFldPwrCtrl w f v s) :=
  within_keepsQueue (by simp)
theorem execVrAck_keepsQueue (f : Nat) (s : State) : KeepsQueue s (execVrAck f s) := by
  refine within_keepsQueue ?_
  extract_lets set step
  split
  · rfl
  · split <;> simp only [pendingOff_pending, returnVrun_pending, pending_ite, modField_pending, powerRecord_pending, ite_self, set, step]
theorem execVrNack_keepsQueue (f : Nat) (s : State) : KeepsQueue s (execVrNack f s) := by
  refine within_keepsQueue ?_
  extract_lets req _ _ _ t waits u
  have ht : t.pending = s.pending := powerRecord_pending ..
  have hu : u.pending = s.pending := by simp only [u, pending_ite, refuseWaiters_pending, ht, ite_self]
  clear_value req u t
  split
  · rfl
  · split
    · exact hu
    · exact ht
    · simp only [pendingOff_pending]
      split <;> simp only [raiseFault_pending, endJob_pending, ht]
    · exact (pendingOff_pending ..).trans ht
theorem execPowerStepIssue_keepsQueue (j i : Nat) (s : State) : KeepsQueue s (execPowerStepIssue j i s) := by
  refine next_keepsQueue ?_
  split
  · rfl
  · split
    · rfl
    · simp only [pending_ite, avsVolt_pending, modField_pending, setJob_pending, ite_self]
theorem execStandby_keepsQueue (w : Writer) (s : State) : KeepsQueue s (execStandby w s) := next_keepsQueue (by simp)
theorem execM1Entry_keepsQueue (s : State) : KeepsQueue s (execM1Entry s) := next_keepsQueue (by simp)
theorem execLinksd_keepsQueue (l : Nat) (s : State) : KeepsQueue s (execLinksd l s) := within_keepsQueue (by simp)
theorem execPattern_keepsQueue (l : Nat) (s : State) : KeepsQueue s (execPattern l s) := within_keepsQueue (by simp)
theorem execCwakeN_keepsQueue (s : State) : KeepsQueue s (execCwakeN s) := next_keepsQueue (by simp)
theorem execWakeN_keepsQueue (s : State) : KeepsQueue s (execWakeN s) := next_keepsQueue (by simp)
theorem execPwrTimer_keepsQueue (s : State) : KeepsQueue s (execPwrTimer s) := next_keepsQueue (by simp)
theorem execTemperatureReading_keepsQueue (f t : Nat) (s : State) : KeepsQueue s (execTemperatureReading f t s) :=
  within_keepsQueue (by simp)
theorem execInputMeasure_keepsQueue (vin pin avg10ms avg1s : Nat) (s : State) : KeepsQueue s (execInputMeasure vin pin avg10ms avg1s s) :=
  next_keepsQueue (by simp)
theorem execVinFault_keepsQueue (s : State) : KeepsQueue s (execVinFault s) := by
  refine next_keepsQueue ?_
  split <;> simp
theorem execHoldover_keepsQueue (s : State) : KeepsQueue s (execHoldover s) := next_keepsQueue (by simp)
theorem execCdcTimeout_keepsQueue (k : Crossing) (s : State) : KeepsQueue s (execCdcTimeout k s) := by
  unfold execCdcTimeout
  extract_lets count fabric
  split
  · refine within_keepsQueue ?_
    extract_lets
    split
    · rw [raiseFault_pending, endJob_pending, modField_pending]
    · rfl
  · exact within_keepsQueue rfl
  · exact next_keepsQueue rfl
  · exact next_keepsQueue (by simp only [pending_ite, moduleFault_pending, ite_self, fabric])
  · exact within_keepsQueue rfl
  · exact next_keepsQueue rfl
theorem execMonitorRead_keepsQueue (f : Nat) (slack : List Int) (s : State) : KeepsQueue s (execMonitorRead f slack s) :=
  within_keepsQueue (by simp)
theorem execMarginApply_keepsQueue (f : Nat) (s : State) : KeepsQueue s (execMarginApply f s) := by
  refine within_keepsQueue ?_
  dsimp only
  split <;> simp

/-! ### Commands of Machine/Boot -/

theorem execHuskPowerUp_keepsQueue (pufOk drbgOk : Bool) (s : State) : KeepsQueue s (execHuskPowerUp pufOk drbgOk s) :=
  next_keepsQueue (by simp)
theorem execModReset_keepsQueue (w : Writer) (s : State) : KeepsQueue s (execModReset w s) := next_keepsQueue (by simp)
theorem execFirmware_keepsQueue (s : State) : KeepsQueue s (execFirmware s) := next_keepsQueue (by simp)
theorem execConfig_keepsQueue (s : State) : KeepsQueue s (execConfig s) := next_keepsQueue (by simp)
theorem execMeasure_keepsQueue (m : BootMeas) (s : State) : KeepsQueue s (execMeasure m s) := next_keepsQueue (by simp)
theorem execTrain_keepsQueue (s : State) : KeepsQueue s (execTrain s) := next_keepsQueue (by simp)
theorem execReady_keepsQueue (s : State) : KeepsQueue s (execReady s) := next_keepsQueue (by simp)
theorem execRecoveryIdle_keepsQueue (n : Nat) (s : State) : KeepsQueue s (execRecoveryIdle n s) := within_keepsQueue (by simp)
theorem execWeightVerify_keepsQueue (n : Nat) (s : State) : KeepsQueue s (execWeightVerify n s) := within_keepsQueue (by simp)
theorem execReopen_keepsQueue (n : Nat) (s : State) : KeepsQueue s (execReopen n s) := within_keepsQueue (by simp)
theorem execPartReset_keepsQueue (w : Writer) (n : Nat) (s : State) : KeepsQueue s (execPartReset w n s) := within_keepsQueue (by simp)

/-! ### Commands of Machine/Command -/

theorem execDoorbell_keepsQueue (w : Writer) (c v : Nat) (s : State) : KeepsQueue s (execDoorbell w c v s) := within_keepsQueue (by simp)
theorem execCommandRead_keepsQueue (c : Nat) (s : State) : KeepsQueue s (execCommandRead c s) := within_keepsQueue (by simp)
theorem execCommandReady_keepsQueue (c : Nat) (s : State) : KeepsQueue s (execCommandReady c s) := by
  refine within_keepsQueue ?_
  split <;> simp
theorem execCommandComplete_keepsQueue (k : Nat) (s : State) : KeepsQueue s (execCommandComplete k s) := by
  refine next_keepsQueue ?_
  split
  · rfl
  · split <;> simp only [pending_ite, enableField_pending, completeCmd_pending, ite_self]
theorem execResume_keepsQueue (w : Writer) (c : Nat) (s : State) : KeepsQueue s (execResume w c s) := within_keepsQueue (by simp)
theorem execFlush_keepsQueue (w : Writer) (c : Nat) (s : State) : KeepsQueue s (execFlush w c s) := within_keepsQueue (by simp)
theorem execCommandNop_keepsQueue (c : Nat) (s : State) : KeepsQueue s (execCommandNop c s) := within_keepsQueue (by simp)
theorem execWait_keepsQueue (c : Nat) (s : State) : KeepsQueue s (execWait c s) := within_keepsQueue (by simp)
theorem execWaitRelease_keepsQueue (c : Nat) (s : State) : KeepsQueue s (execWaitRelease c s) := by
  refine within_keepsQueue ?_
  split <;> simp
theorem execSignal_keepsQueue (c : Nat) (s : State) : KeepsQueue s (execSignal c s) := within_keepsQueue (by simp)
theorem execSyncset_keepsQueue (c : Nat) (s : State) : KeepsQueue s (execSyncset c s) := within_keepsQueue (by simp)
theorem execCopy_keepsQueue (c : Nat) (s : State) : KeepsQueue s (execCopy c s) := within_keepsQueue (by simp)
theorem execRelease_keepsQueue (c : Nat) (s : State) : KeepsQueue s (execRelease c s) :=
  within_keepsQueue (issueCmd_pending (h := fun _ => (atIssue_pending ..).trans (forAll_pending (fun _ _ => modPip_pending ..) ..)) ..)
theorem execModCtxSyncVal_keepsQueue (h c : Nat) (s : State) : KeepsQueue s (execModCtxSyncVal h c s) := within_keepsQueue (by simp)
theorem execModCtxGrant_keepsQueue (w : Writer) (c n v : Nat) (s : State) : KeepsQueue s (execModCtxGrant w c n v s) :=
  within_keepsQueue (by simp)

/-! ### Commands of Machine/Encrypted -/

theorem execCtPset_keepsQueue (c : Nat) (s : State) : KeepsQueue s (execCtPset c s) :=
  within_keepsQueue (issueTable_pending (h := fun _ => (atIssue_pending ..).trans (forAll_pending (fun _ _ => modPod_pending ..) ..)) ..)
theorem execCtBind_keepsQueue (c : Nat) (s : State) : KeepsQueue s (execCtBind c s) := within_keepsQueue (by simp)
theorem execCtFree_keepsQueue (c : Nat) (s : State) : KeepsQueue s (execCtFree c s) :=
  within_keepsQueue (issueTable_pending (h := fun _ => (atIssue_pending ..).trans
    (forAll_pending (fun _ _ => forAll_pending (fun _ _ => setCtDesc_pending ..) ..) ..)) ..)
theorem execCtCopy_keepsQueue (c : Nat) (s : State) : KeepsQueue s (execCtCopy c s) := within_keepsQueue (by simp)
theorem execCtExport_keepsQueue (c : Nat) (s : State) : KeepsQueue s (execCtExport c s) := within_keepsQueue (by simp)
theorem execPkAdd_keepsQueue (c : Nat) (s : State) : KeepsQueue s (execPkAdd c s) := within_keepsQueue (by simp)
theorem execPkMulp_keepsQueue (c : Nat) (s : State) : KeepsQueue s (execPkMulp c s) := within_keepsQueue (by simp)
theorem execPkMul_keepsQueue (c : Nat) (s : State) : KeepsQueue s (execPkMul c s) := within_keepsQueue (by simp)
theorem execPkRot_keepsQueue (c : Nat) (s : State) : KeepsQueue s (execPkRot c s) := within_keepsQueue (by simp)
theorem execPkLdrop_keepsQueue (c : Nat) (s : State) : KeepsQueue s (execPkLdrop c s) := within_keepsQueue (by simp)
theorem execPkExtract_keepsQueue (c : Nat) (s : State) : KeepsQueue s (execPkExtract c s) := within_keepsQueue (by simp)
theorem execLiLin_keepsQueue (c : Nat) (s : State) : KeepsQueue s (execLiLin c s) := within_keepsQueue (by simp)
theorem execLiPbs_keepsQueue (c : Nat) (s : State) : KeepsQueue s (execLiPbs c s) := within_keepsQueue (by simp)
theorem execLbGate_keepsQueue (c : Nat) (s : State) : KeepsQueue s (execLbGate c s) := within_keepsQueue (by simp)
theorem execLiRepack_keepsQueue (c : Nat) (s : State) : KeepsQueue s (execLiRepack c s) := within_keepsQueue (by simp)
theorem execCtMaskout_keepsQueue (c : Nat) (s : State) : KeepsQueue s (execCtMaskout c s) := within_keepsQueue (by simp)

/-! ### Commands of Machine/Image -/

theorem execAdmitImage_keepsQueue (w : Writer) (s : State) : KeepsQueue s (execAdmitImage w s) := next_keepsQueue (by simp)
theorem execAdmissionDone_keepsQueue (s : State) : KeepsQueue s (execAdmissionDone s) := next_keepsQueue (by simp)
theorem execTransitReenable_keepsQueue (s : State) : KeepsQueue s (execTransitReenable s) := next_keepsQueue (by simp)
theorem execModPart_keepsQueue (w : Writer) (n v : Nat) (s : State) : KeepsQueue s (execModPart w n v s) := within_keepsQueue (by simp)
theorem execPendingRepair_keepsQueue (f row col : Nat) (s : State) : KeepsQueue s (execPendingRepair f row col s) :=
  within_keepsQueue (by simp)
theorem execApplyRepair_keepsQueue (_w : Writer) (s : State) : KeepsQueue s (execApplyRepair _w s) := next_keepsQueue (by simp)
theorem execRepairRevoke_keepsQueue (s : State) : KeepsQueue s (execRepairRevoke s) := next_keepsQueue (by simp)

/-! ### Commands of Machine/Links -/

theorem execSignalDetect_keepsQueue (l : Nat) (s : State) : KeepsQueue s (execSignalDetect l s) := within_keepsQueue (by simp)
theorem execCapability_keepsQueue (l : Nat) (m : CapMsg) (s : State) : KeepsQueue s (execCapability l m s) := within_keepsQueue (by simp)
theorem execMeasureMessage_keepsQueue (l : Nat) (t1 t2 t3 t4 : Int) (s : State) : KeepsQueue s (execMeasureMessage l t1 t2 t3 t4 s) :=
  within_keepsQueue (by simp)
theorem execTime_keepsQueue (l : Nat) (m : TimeMsg) (s : State) : KeepsQueue s (execTime l m s) := within_keepsQueue (by simp)
theorem execLinkPeriod_keepsQueue (s : State) : KeepsQueue s (execLinkPeriod s) := next_keepsQueue (by simp)
theorem execEpochBoundary_keepsQueue (s : State) : KeepsQueue s (execEpochBoundary s) := next_keepsQueue (by simp)
theorem execTimePps_keepsQueue (s : State) : KeepsQueue s (execTimePps s) := next_keepsQueue (by simp)
theorem execLinkFlitReceive_keepsQueue (l : Nat) (f : RxFlit) (s : State) : KeepsQueue s (execLinkFlitReceive l f s) := by
  refine within_keepsQueue ?_
  split <;> simp
theorem execSilentReceivePosition_keepsQueue (l r : Nat) (s : State) : KeepsQueue s (execSilentReceivePosition l r s) := by
  refine within_keepsQueue ?_
  dsimp only
  split
  · rfl
  · split <;> simp only [pending_ite, setLink_pending, failBurst_pending, sendVoid_pending, ite_self]
theorem execLinkHold_keepsQueue (l : Nat) (s : State) : KeepsQueue s (execLinkHold l s) := within_keepsQueue (by simp)
theorem execLinkDown_keepsQueue (l : Nat) (s : State) : KeepsQueue s (execLinkDown l s) := within_keepsQueue (by simp)
theorem execPartnerDepart_keepsQueue (l : Nat) (s : State) : KeepsQueue s (execPartnerDepart l s) := within_keepsQueue (by simp)
theorem execLinkRunTransmit_keepsQueue (l r : Nat) (s : State) : KeepsQueue s (execLinkRunTransmit l r s) := by
  refine within_keepsQueue ?_
  dsimp only
  split
  · rfl
  · split <;> simp only [pending_ite, send_pending, setLink_pending, ite_self]
theorem execData_keepsQueue (l : Nat) (s : State) : KeepsQueue s (execData l s) := by
  refine within_keepsQueue ?_
  dsimp only
  split <;> simp
theorem execJoinEn_keepsQueue (w : Writer) (v : Bool) (s : State) : KeepsQueue s (execJoinEn w v s) := next_keepsQueue (by simp)
theorem execPpsEn_keepsQueue (w : Writer) (v : Bool) (s : State) : KeepsQueue s (execPpsEn w v s) := next_keepsQueue (by simp)
theorem execDepart_keepsQueue (w : Writer) (s : State) : KeepsQueue s (execDepart w s) := next_keepsQueue (by simp)
theorem execWakePattern_keepsQueue (w : Writer) (s : State) : KeepsQueue s (execWakePattern w s) :=
  next_keepsQueue (by rw [pending_ite, forAll_pending fun _ _ => send_pending .., ite_self])

/-! ### Commands of Machine/Spdm -/

theorem spdmAt_keepsQueue (h code : Nat) (ok : Nat → Bool) {f : State → State} (s : State) (hf : ∀ s, (f s).pending = s.pending) :
    KeepsQueue s (spdmAt h code ok f s) :=
  within_keepsQueue (by simp only [pending_ite, hf, spdmError_pending, ite_self])
theorem execGetVersion_keepsQueue (h : Nat) (s : State) : KeepsQueue s (execGetVersion h s) := spdmAt_keepsQueue (hf := fun _ => by simp) ..
theorem execGetCapabilities_keepsQueue (h : Nat) (s : State) : KeepsQueue s (execGetCapabilities h s) :=
  spdmAt_keepsQueue (hf := fun _ => by simp) ..
theorem execNegotiateAlgorithms_keepsQueue (h slot : Nat) (s : State) : KeepsQueue s (execNegotiateAlgorithms h slot s) :=
  spdmAt_keepsQueue (hf := fun _ => by simp) ..
theorem execGetDigests_keepsQueue (h : Nat) (s : State) : KeepsQueue s (execGetDigests h s) := spdmAt_keepsQueue (hf := fun _ => by simp) ..
theorem execGetCertificate_keepsQueue (h slot : Nat) (s : State) : KeepsQueue s (execGetCertificate h slot s) :=
  spdmAt_keepsQueue (hf := fun _ => by simp) ..
theorem execChallenge_keepsQueue (h slot : Nat) (s : State) : KeepsQueue s (execChallenge h slot s) :=
  spdmAt_keepsQueue (hf := fun _ => signedReply_pending (hf := fun _ => rfl) ..) ..
theorem execGetMeasurements_keepsQueue (h : Nat) (signed : Bool) (s : State) : KeepsQueue s (execGetMeasurements h signed s) :=
  spdmAt_keepsQueue (hf := fun _ => by simp) ..
theorem execKeyExchange_keepsQueue (h slot : Nat) (s : State) : KeepsQueue s (execKeyExchange h slot s) :=
  spdmAt_keepsQueue (hf := fun _ => signedReply_pending (hf := fun _ => setSpdm_pending ..) ..) ..
theorem execFinish_keepsQueue (h : Nat) (s : State) : KeepsQueue s (execFinish h s) := spdmAt_keepsQueue (hf := fun _ => by simp) ..
theorem execKeyUpdate_keepsQueue (h : Nat) (s : State) : KeepsQueue s (execKeyUpdate h s) := spdmAt_keepsQueue (hf := fun _ => by simp) ..
theorem execHeartbeat_keepsQueue (h : Nat) (s : State) : KeepsQueue s (execHeartbeat h s) := spdmAt_keepsQueue (hf := fun _ => by simp) ..
theorem execEndSession_keepsQueue (h : Nat) (s : State) : KeepsQueue s (execEndSession h s) := spdmAt_keepsQueue (hf := fun _ => by simp) ..
theorem execIdeKm_keepsQueue (h key : Nat) (s : State) : KeepsQueue s (execIdeKm h key s) := within_keepsQueue (by simp)

/-! ### Commands of Machine/Regs -/

theorem execCounterLowRead_keepsQueue (h : Nat) (r : ReadAt) (s : State) : KeepsQueue s (execCounterLowRead h r s) := by
  refine within_keepsQueue ?_
  split
  · rfl
  · split
    · rfl
    · split
      · split <;> simp only [readSyncVal_pending, readHalf_pending]
      · rfl

/-! ### Commands of Machine/Trace -/

theorem execTraceFlitSend_keepsQueue (p : Nat) (s : State) : KeepsQueue s (execTraceFlitSend p s) := by
  refine within_keepsQueue ?_
  split <;> simp
theorem execTraceRelay_keepsQueue (p : Nat) (s : State) : KeepsQueue s (execTraceRelay p s) := by
  refine within_keepsQueue ?_
  dsimp only
  split <;> simp
theorem execSnapshot_keepsQueue (s : State) : KeepsQueue s (execSnapshot s) := next_keepsQueue (by simp)

/-! ### Commands of Machine/Mgmt -/

theorem execDynamicAddress_keepsQueue (da : Nat) (s : State) : KeepsQueue s (execDynamicAddress da s) := next_keepsQueue (by simp)
theorem execPldmBase_keepsQueue (cmd : Nat) (s : State) : KeepsQueue s (execPldmBase cmd s) := next_keepsQueue (by simp)
theorem execPldmSensorRead_keepsQueue (id : Nat) (s : State) : KeepsQueue s (execPldmSensorRead id s) := by
  refine next_keepsQueue ?_
  split
  · rfl
  · split <;> rfl
theorem oem_keepsQueue (code : Nat) (ok : Bool) {f : State → State} (s : State) (hf : ∀ s, (f s).pending = s.pending) :
    KeepsQueue s (oem code ok f s) :=
  next_keepsQueue (by simp only [pending_ite, pldmReply_pending, hf, ite_self])
theorem execSetMgmt_keepsQueue (v : Nat) (s : State) : KeepsQueue s (execSetMgmt v s) :=
  oem_keepsQueue (hf := fun _ => setMgmt_pending ..) ..
theorem execOemPartReset_keepsQueue (n : Nat) (s : State) : KeepsQueue s (execOemPartReset n s) :=
  within_keepsQueue (after_pending (oem_keepsQueue (hf := fun _ => partReset_pending ..) ..))
theorem execOemModReset_keepsQueue (s : State) : KeepsQueue s (execOemModReset s) := oem_keepsQueue (hf := moduleReset_pending) ..
theorem execOemStandby_keepsQueue (s : State) : KeepsQueue s (execOemStandby s) := oem_keepsQueue (hf := fun _ => by simp) ..
theorem execOemWake_keepsQueue (s : State) : KeepsQueue s (execOemWake s) := oem_keepsQueue (hf := fun _ => by simp) ..
theorem execEnrolOwner_keepsQueue (nE : List Byte) (s : State) : KeepsQueue s (execEnrolOwner nE s) :=
  oem_keepsQueue (hf := fun _ => rfl) ..
theorem execReadFaultLog_keepsQueue (i : Nat) (s : State) : KeepsQueue s (execReadFaultLog i s) := next_keepsQueue (by simp)
theorem execTestEnable_keepsQueue (s : State) : KeepsQueue s (execTestEnable s) := oem_keepsQueue (hf := enterTest_pending) ..
theorem execFirmwareUpdateComponent_keepsQueue (id : Nat) (wp : Bool) (image : List Byte) (s : State) :
    KeepsQueue s (execFirmwareUpdateComponent id wp image s) :=
  next_keepsQueue (by simp)
theorem execBypass_keepsQueue (s : State) : KeepsQueue s (execBypass s) := next_keepsQueue (by simp)
theorem execIdcode_keepsQueue (s : State) : KeepsQueue s (execIdcode s) := next_keepsQueue (by simp)
theorem execSamplePreload_keepsQueue (pins v : Nat) (s : State) : KeepsQueue s (execSamplePreload pins v s) := next_keepsQueue (by simp)
theorem execExtest_keepsQueue (s : State) : KeepsQueue s (execExtest s) := next_keepsQueue (by simp)

/-! ### Commands of Machine/Staging -/

theorem execStagingAccess_keepsQueue (k : Nat) (s : State) : KeepsQueue s (execStagingAccess k s) := by
  refine within_keepsQueue ?_
  split <;> simp
theorem execStAdd_keepsQueue (k : Nat) (s : State) : KeepsQueue s (execStAdd k s) := within_keepsQueue (by simp)
theorem execStSmin_keepsQueue (k : Nat) (s : State) : KeepsQueue s (execStSmin k s) := within_keepsQueue (by simp)
theorem execStSmax_keepsQueue (k : Nat) (s : State) : KeepsQueue s (execStSmax k s) := within_keepsQueue (by simp)
theorem execStUmin_keepsQueue (k : Nat) (s : State) : KeepsQueue s (execStUmin k s) := within_keepsQueue (by simp)
theorem execStUmax_keepsQueue (k : Nat) (s : State) : KeepsQueue s (execStUmax k s) := within_keepsQueue (by simp)
theorem execStSwap_keepsQueue (k : Nat) (s : State) : KeepsQueue s (execStSwap k s) := within_keepsQueue (by simp)
theorem execStCas_keepsQueue (k : Nat) (s : State) : KeepsQueue s (execStCas k s) := within_keepsQueue (by simp)
theorem execStFadd_keepsQueue (k : Nat) (s : State) : KeepsQueue s (execStFadd k s) := within_keepsQueue (by simp)
theorem execFaddHeldApply_keepsQueue (k slot : Nat) (s : State) : KeepsQueue s (execFaddHeldApply k slot s) := by
  refine within_keepsQueue ?_
  split <;> simp
theorem execOrdset_keepsQueue (k : Nat) (s : State) : KeepsQueue s (execOrdset k s) :=
  within_keepsQueue (serveReq_pending (h := fun _ _ => modStack_pending ..) ..)

/-! ### Register writes -/

@[simp] theorem writeMod_pending (w : Writer) (o v : Nat) (s : State) : (writeMod w o v s).pending = s.pending := by
  unfold writeMod
  split
  · rw [pending_ite, after_pending (execAdmitImage_keepsQueue ..), ite_self]
  · rw [pending_ite, after_pending (execApplyRepair_keepsQueue ..), ite_self]
  · rfl
  · split <;> rfl
  · split <;> rfl
  · simp only [pending_ite, after_pending (execModReset_keepsQueue ..), after_pending (execPartReset_keepsQueue ..), ite_self]
  · rw [pending_ite, after_pending (execModPart_keepsQueue ..), ite_self]
@[simp] theorem writeHost_pending (w : Writer) (h o v : Nat) (s : State) : (writeHost w h o v s).pending = s.pending := by
  unfold writeHost
  split
  · rfl
  · split
    · split <;> rfl
    · rfl
    · rfl
    · split
      · rfl
      · exact after_pending (execCreate_keepsQueue ..)
      · exact after_pending (execDestroy_keepsQueue ..)
      · exact after_pending (execRebind_keepsQueue ..)
      · exact crResult_pending ..
    · rfl
    · rfl
@[simp] theorem writeHull_pending (w : Writer) (c o v : Nat) (s : State) : (writeHull w c o v s).pending = s.pending := by
  unfold writeHull
  split
  · split <;> rfl
  · simp only [pending_ite, after_pending (startHull_keepsQueue ..), after_pending (execClrcurve_keepsQueue ..), ite_self]
  · rfl
@[simp] theorem writePwr_pending (w : Writer) (o v : Nat) (s : State) : (writePwr w o v s).pending = s.pending := by
  unfold writePwr
  dsimp only
  split
  · rfl
  · rw [pending_ite, after_pending (execStandby_keepsQueue ..), ite_self]
  · split <;> rfl
  · rfl
  · split <;> rfl
  · rfl
  · rfl
@[simp] theorem writeTrc_pending (w : Writer) (o v : Nat) (s : State) : (writeTrc w o v s).pending = s.pending := by
  unfold writeTrc
  extract_lets t
  split
  · rfl
  · split <;> simp
@[simp] theorem writeCtx_pending (w : Writer) (c o v : Nat) (s : State) : (writeCtx w c o v s).pending = s.pending := by
  unfold writeCtx
  split
  · rfl
  · split
    · exact after_pending (execDoorbell_keepsQueue ..)
    · rfl
    · simp only [pending_ite, after_pending (execFlush_keepsQueue ..), after_pending (execResume_keepsQueue ..), ite_self]
    · rfl
    · rw [pending_ite, after_pending (execModCtxGrant_keepsQueue ..), ite_self]
@[simp] theorem writeLnk_pending (w : Writer) (o v : Nat) (s : State) : (writeLnk w o v s).pending = s.pending := by
  unfold writeLnk
  split
  · split <;> rfl
  · simp only [pending_ite, after_pending (execWakePattern_keepsQueue ..), after_pending (execDepart_keepsQueue ..), ite_self]
    exact after_pending ((execPpsEn_keepsQueue ..).of_pending_eq (after_pending (execJoinEn_keepsQueue ..)))
  · rfl
  · rfl
@[simp] theorem writeHbm_pending (k o v : Nat) (s : State) : (writeHbm k o v s).pending = s.pending := by
  unfold writeHbm
  split <;> rfl
@[simp] theorem writePip_pending (w : Writer) (b p o v : Nat) (s : State) : (writePip w b p o v s).pending = s.pending := by
  unfold writePip
  extract_lets st
  split
  · rfl
  · rfl
  · rfl
  · rw [pending_ite, after_pending (execClr_keepsQueue ..), ite_self]
  · rfl
  · rfl
  · rfl
  · rfl
theorem pending_ite_of {c : Prop} [Decidable c] {t u : State} {q : List Instr} (ht : t.pending = q) (hu : u.pending = q) :
    (if c then t else u).pending = q := by
  split <;> assumption
@[simp] theorem write32_pending (w : Writer) (o v : Nat) (s : State) : (write32 w o v s).pending = s.pending := by
  unfold write32
  extract_lets arr
  clear_value arr
  refine pending_ite_of (writeMod_pending ..) ?_
  cases arr 0x800000 16 0x100
  case some => exact writeHost_pending ..
  refine pending_ite_of (after_pending (execCxlMgmt_keepsQueue ..)) ?_
  refine pending_ite_of (by split <;> rfl) ?_
  cases arr 0x820000 640 4
  case some => exact after_pending (execCxlCtxpage_keepsQueue ..)
  refine pending_ite_of (after_pending (execHullChanOwner_keepsQueue ..)) ?_
  cases arr 0x901000 16 0x100
  case some => exact writeHull_pending ..
  refine pending_ite_of (writePwr_pending ..) ?_
  cases arr 0xA10000 64 0x100
  case some =>
    dsimp only
    split
    · split <;> rfl
    · exact after_pending (execFldPwrCtrl_keepsQueue ..)
    · rfl
  refine pending_ite_of (writeTrc_pending ..) ?_
  cases arr 0x1000000 10240 0x100
  case some => exact writeCtx_pending ..
  cases arr 0x1400000 12 0x100
  case some => exact writeHbm_pending ..
  cases arr 0x1410000 768 4
  case some => exact after_pending (execHbmGran_keepsQueue ..)
  cases arr 0x1411000 768 4
  case some => exact after_pending (execHbmSgran_keepsQueue ..)
  refine pending_ite_of (writeLnk_pending ..) ?_
  cases arr 0x1501000 36 0x100
  case some =>
    dsimp only
    split <;> rfl
  cases arr 0x1510000 16 0x100
  case some =>
    dsimp only
    split <;> rfl
  cases arr 0x2C00000 640 0x40
  case some =>
    dsimp only
    split <;> rfl
  cases arr 0x2D00000 640 0x40
  case some =>
    dsimp only
    split <;> rfl
  cases arr 0x2E00000 640 0x40
  case some =>
    dsimp only
    split <;> rfl
  exact pending_ite_of (writePip_pending ..) rfl
@[simp] theorem write64_pending (w : Writer) (b v : Nat) (s : State) : (write64 w b v s).pending = s.pending := by
  unfold write64
  extract_lets arr
  clear_value arr
  refine pending_ite_of rfl ?_
  refine pending_ite_of (by split <;> rfl) ?_
  cases arr 0x800000 16 0x100
  case some =>
    dsimp only
    split
    · rfl
    · split <;> rfl
  cases arr 0x901000 16 0x100
  case some =>
    dsimp only
    split <;> rfl
  exact after_pending (execPipRegion_keepsQueue ..)
@[simp] theorem writeHalf_pending (w : Writer) (o v : Nat) (s : State) : (writeHalf w o v s).pending = s.pending := by
  unfold writeHalf
  split <;> simp
theorem execRegisterWrite_keepsQueue (w : Writer) (off len v : Nat) (s : State) : KeepsQueue s (execRegisterWrite w off len v s) :=
  next_keepsQueue (by simp)

/-! ### Every command -/

theorem exec_keepsQueue (c : Instr) (s : State) : KeepsQueue s (exec c s) :=
  match c with
  | .nop .. | .ldq .. | .stq .. | .msnd .. | .mrcv .. | .dma .. | .dmaw .. | .swap .. | .dld .. | .aop .. | .sigl .. | .lcset .. |
    .tlw .. | .tsw .. | .tmm .. | .tdrn .. | .sop .. | .sld .. | .sst .. | .spush .. | .ssum .. | .lrxset .. | .nttl .. | .nttx .. |
    .intx .. | .intl .. | .eadd .. | .esub .. | .emul .. | .mulc .. | .kmac .. | .auto .. | .tomont .. | .frommont .. | .kout .. =>
    within_keepsQueue (issue_pending ..)
  | .trainingRestart .. | .wiringRetry .. | .recoveryWindowEnd .. | .flitLock .. | .lossOfFlitLock .. | .cblpwrOverload .. |
    .perstNRise .. => within_keepsQueue rfl
  | .modexp .. | .modmul .. | .rsaVerify .. | .ecmul .. | .ecdh .. | .ecdsaSign .. | .ecdsaVerify .. | .curveLoad .. | .sha256 .. |
    .kwrap .. | .kunwrap .. | .random .. => startHull_keepsQueue ..
  | .pwrEnFall | .barsLoss | .traceFrame | .refclkReturn | .platformEventAck => next_keepsQueue rfl
  | .registerWrite .. => execRegisterWrite_keepsQueue ..
  | .counterLowRead .. => execCounterLowRead_keepsQueue ..
  | .strmStart .. => execStrmStart_keepsQueue ..
  | .strmWait .. => execStrmWait_keepsQueue ..
  | .siglApply .. => execSiglApply_keepsQueue ..
  | .loop .. => execLoop_keepsQueue ..
  | .brf .. => execBrf_keepsQueue ..
  | .endStream .. => execEndStream_keepsQueue ..
  | .tmmComplete .. => execTmmComplete_keepsQueue ..
  | .drainEnd .. => execDrainEnd_keepsQueue ..
  | .tmode .. => execTmode_keepsQueue ..
  | .ringOpComplete .. => execRingOpComplete_keepsQueue ..
  | .residueCompare .. => execResidueCompare_keepsQueue ..
  | .dmaComplete .. => execDmaComplete_keepsQueue ..
  | .pipFinish .. => execPipFinish_keepsQueue ..
  | .jobWatchdog .. => execJobWatchdog_keepsQueue ..
  | .engineWatchdog .. => execEngineWatchdog_keepsQueue ..
  | .meshFlitSend .. => execMeshFlitSend_keepsQueue ..
  | .meshFlitArrive .. => execMeshFlitArrive_keepsQueue ..
  | .creditReturn .. => execCreditReturn_keepsQueue ..
  | .dmaWriterWrite .. => execDmaWriterWrite_keepsQueue ..
  | .shortFlitEnter .. => execShortFlitEnter_keepsQueue ..
  | .shortPathWrite .. => execShortPathWrite_keepsQueue ..
  | .commandRead .. => execCommandRead_keepsQueue ..
  | .commandReady .. => execCommandReady_keepsQueue ..
  | .jobStart .. => execJobStart_keepsQueue ..
  | .jobLoadEnd .. => execJobLoadEnd_keepsQueue ..
  | .streamStart .. => execStreamStart_keepsQueue ..
  | .commandComplete .. => execCommandComplete_keepsQueue ..
  | .commandNop .. => execCommandNop_keepsQueue ..
  | .launch .. => execLaunch_keepsQueue ..
  | .wait .. => execWait_keepsQueue ..
  | .waitRelease .. => execWaitRelease_keepsQueue ..
  | .signal .. => execSignal_keepsQueue ..
  | .syncset .. => execSyncset_keepsQueue ..
  | .copy .. => execCopy_keepsQueue ..
  | .release .. => execRelease_keepsQueue ..
  | .doorbell .. => execDoorbell_keepsQueue ..
  | .resume .. => execResume_keepsQueue ..
  | .flush .. => execFlush_keepsQueue ..
  | .modCtxSyncVal .. => execModCtxSyncVal_keepsQueue ..
  | .modCtxGrant .. => execModCtxGrant_keepsQueue ..
  | .admitImage .. => execAdmitImage_keepsQueue ..
  | .admissionDone => execAdmissionDone_keepsQueue ..
  | .transitReenable => execTransitReenable_keepsQueue ..
  | .modPart .. => execModPart_keepsQueue ..
  | .pendingRepair .. => execPendingRepair_keepsQueue ..
  | .applyRepair w => execApplyRepair_keepsQueue w s
  | .repairRevoke => execRepairRevoke_keepsQueue ..
  | .pipRegion .. => execPipRegion_keepsQueue ..
  | .scrubDone .. => execScrubDone_keepsQueue ..
  | .clr w p => execClr_keepsQueue w p s
  | .streamRunStart .. => execStreamRunStart_keepsQueue ..
  | .gset .. => execGset_keepsQueue ..
  | .gadd .. => execGadd_keepsQueue ..
  | .gmod .. => execGmod_keepsQueue ..
  | .gidx .. => execGidx_keepsQueue ..
  | .xfer .. => execXfer_keepsQueue ..
  | .kblk .. => execKblk_keepsQueue ..
  | .sput .. => execSput_keepsQueue ..
  | .waitso .. => execWaitso_keepsQueue ..
  | .dependenceMarkRelease .. => execDependenceMarkRelease_keepsQueue ..
  | .sigso .. => execSigso_keepsQueue ..
  | .agLoop .. => execAgLoop_keepsQueue ..
  | .agNop .. => execAgNop_keepsQueue ..
  | .agEnd .. => execAgEnd_keepsQueue ..
  | .streamRunComplete .. => execStreamRunComplete_keepsQueue ..
  | .keyHeaderCheck .. => execKeyHeaderCheck_keepsQueue ..
  | .keyDrainEnd .. => execKeyDrainEnd_keepsQueue ..
  | .ctPset .. => execCtPset_keepsQueue ..
  | .ctBind .. => execCtBind_keepsQueue ..
  | .ctFree .. => execCtFree_keepsQueue ..
  | .ctCopy .. => execCtCopy_keepsQueue ..
  | .ctExport .. => execCtExport_keepsQueue ..
  | .pkAdd .. => execPkAdd_keepsQueue ..
  | .pkMulp .. => execPkMulp_keepsQueue ..
  | .pkMul .. => execPkMul_keepsQueue ..
  | .pkRot .. => execPkRot_keepsQueue ..
  | .pkLdrop .. => execPkLdrop_keepsQueue ..
  | .pkExtract .. => execPkExtract_keepsQueue ..
  | .liLin .. => execLiLin_keepsQueue ..
  | .liPbs .. => execLiPbs_keepsQueue ..
  | .lbGate .. => execLbGate_keepsQueue ..
  | .liRepack .. => execLiRepack_keepsQueue ..
  | .ctMaskout .. => execCtMaskout_keepsQueue ..
  | .hbmRead .. => execHbmRead_keepsQueue ..
  | .hbmWrite .. => execHbmWrite_keepsQueue ..
  | .hbmIdle .. => execHbmIdle_keepsQueue ..
  | .ref .. => execRef_keepsQueue ..
  | .refreshInsert .. => execRefreshInsert_keepsQueue ..
  | .host .. => execHost_keepsQueue ..
  | .stageIn .. => execStageIn_keepsQueue ..
  | .stageOut .. => execStageOut_keepsQueue ..
  | .scrub .. => execScrub_keepsQueue ..
  | .requestWord .. => execRequestWord_keepsQueue ..
  | .readLineReady .. => execReadLineReady_keepsQueue ..
  | .hbmHot .. => execHbmHot_keepsQueue ..
  | .hbmGran .. => execHbmGran_keepsQueue ..
  | .hbmSgran .. => execHbmSgran_keepsQueue ..
  | .granuleZeroed .. => execGranuleZeroed_keepsQueue ..
  | .stagingAccess .. => execStagingAccess_keepsQueue ..
  | .stAdd .. => execStAdd_keepsQueue ..
  | .stSmin .. => execStSmin_keepsQueue ..
  | .stSmax .. => execStSmax_keepsQueue ..
  | .stUmin .. => execStUmin_keepsQueue ..
  | .stUmax .. => execStUmax_keepsQueue ..
  | .stSwap .. => execStSwap_keepsQueue ..
  | .stCas .. => execStCas_keepsQueue ..
  | .stFadd .. => execStFadd_keepsQueue ..
  | .faddHeldApply .. => execFaddHeldApply_keepsQueue ..
  | .ordset .. => execOrdset_keepsQueue ..
  | .signalDetect .. => execSignalDetect_keepsQueue ..
  | .capability .. => execCapability_keepsQueue ..
  | .measureMessage .. => execMeasureMessage_keepsQueue ..
  | .time .. => execTime_keepsQueue ..
  | .linkPeriod => execLinkPeriod_keepsQueue ..
  | .epochBoundary => execEpochBoundary_keepsQueue ..
  | .linkFlitReceive .. => execLinkFlitReceive_keepsQueue ..
  | .linkRunTransmit .. => execLinkRunTransmit_keepsQueue ..
  | .data .. => execData_keepsQueue ..
  | .linkHold .. => execLinkHold_keepsQueue ..
  | .linkDown .. => execLinkDown_keepsQueue ..
  | .partnerDepart .. => execPartnerDepart_keepsQueue ..
  | .joinEn .. => execJoinEn_keepsQueue ..
  | .ppsEn .. => execPpsEn_keepsQueue ..
  | .depart .. => execDepart_keepsQueue ..
  | .wakePattern .. => execWakePattern_keepsQueue ..
  | .timePps => execTimePps_keepsQueue ..
  | .clOpen .. => execClOpen_keepsQueue ..
  | .clReduce .. => execClReduce_keepsQueue ..
  | .clClose .. => execClClose_keepsQueue ..
  | .clCloseForce .. => execClCloseForce_keepsQueue ..
  | .localStep .. => execLocalStep_keepsQueue ..
  | .chunkSend .. => execChunkSend_keepsQueue ..
  | .coll .. => execColl_keepsQueue ..
  | .credit .. => execCredit_keepsQueue ..
  | .abortMsg .. => execAbortMsg_keepsQueue ..
  | .clReduceComplete .. => execClReduceComplete_keepsQueue ..
  | .cxlMemRead .. => execCxlMemRead_keepsQueue ..
  | .cxlMemWrite .. => execCxlMemWrite_keepsQueue ..
  | .scratchpadWindowAccess .. => execScratchpadWindowAccess_keepsQueue ..
  | .windowEscalation .. => execWindowEscalation_keepsQueue ..
  | .hdmDecoderCommit .. => execHdmDecoderCommit_keepsQueue ..
  | .fmApiQuery .. => execFmApiQuery_keepsQueue ..
  | .fmApiAllocationChange .. => execFmApiAllocationChange_keepsQueue ..
  | .cxlMgmt .. => execCxlMgmt_keepsQueue ..
  | .cxlCtxpage .. => execCxlCtxpage_keepsQueue ..
  | .create .. => execCreate_keepsQueue ..
  | .destroy .. => execDestroy_keepsQueue ..
  | .rebind .. => execRebind_keepsQueue ..
  | .headLinkDown .. => execHeadLinkDown_keepsQueue ..
  | .perstN .. => execPerstN_keepsQueue ..
  | .ideFail .. => execIdeFail_keepsQueue ..
  | .fmUnbind .. => execFmUnbind_keepsQueue ..
  | .functionLevelReset .. => execFunctionLevelReset_keepsQueue ..
  | .flrReattach .. => execFlrReattach_keepsQueue ..
  | .ideKm .. => execIdeKm_keepsQueue ..
  | .getVersion .. => execGetVersion_keepsQueue ..
  | .getCapabilities .. => execGetCapabilities_keepsQueue ..
  | .negotiateAlgorithms .. => execNegotiateAlgorithms_keepsQueue ..
  | .getDigests .. => execGetDigests_keepsQueue ..
  | .getCertificate .. => execGetCertificate_keepsQueue ..
  | .challenge .. => execChallenge_keepsQueue ..
  | .getMeasurements .. => execGetMeasurements_keepsQueue ..
  | .keyExchange .. => execKeyExchange_keepsQueue ..
  | .finish .. => execFinish_keepsQueue ..
  | .keyUpdate .. => execKeyUpdate_keepsQueue ..
  | .heartbeat .. => execHeartbeat_keepsQueue ..
  | .endSession .. => execEndSession_keepsQueue ..
  | .hullLoadEnd .. => execHullLoadEnd_keepsQueue ..
  | .engineTake .. => execEngineTake_keepsQueue ..
  | .execEnd .. => execExecEnd_keepsQueue ..
  | .storeEnd .. => execStoreEnd_keepsQueue ..
  | .wipeEnd .. => execWipeEnd_keepsQueue ..
  | .clrcurve .. => execClrcurve_keepsQueue ..
  | .hullChanOwner .. => execHullChanOwner_keepsQueue ..
  | .drbgHealthRetest .. => execDrbgHealthRetest_keepsQueue ..
  | .fieldGate .. => execFieldGate_keepsQueue ..
  | .idleExpiry .. => execIdleExpiry_keepsQueue ..
  | .shutdownComplete .. => execShutdownComplete_keepsQueue ..
  | .wakeComplete .. => execWakeComplete_keepsQueue ..
  | .vrAck .. => execVrAck_keepsQueue ..
  | .vrNack .. => execVrNack_keepsQueue ..
  | .powerStepIssue .. => execPowerStepIssue_keepsQueue ..
  | .fldPwrCtrl .. => execFldPwrCtrl_keepsQueue ..
  | .standby .. => execStandby_keepsQueue ..
  | .linksd .. => execLinksd_keepsQueue ..
  | .pattern .. => execPattern_keepsQueue ..
  | .cwakeN => execCwakeN_keepsQueue ..
  | .wakeN => execWakeN_keepsQueue ..
  | .pwrTimer => execPwrTimer_keepsQueue ..
  | .temperatureReading .. => execTemperatureReading_keepsQueue ..
  | .inputMeasure .. => execInputMeasure_keepsQueue ..
  | .vinFault => execVinFault_keepsQueue ..
  | .holdover => execHoldover_keepsQueue ..
  | .cdcTimeout .. => execCdcTimeout_keepsQueue ..
  | .monitorRead .. => execMonitorRead_keepsQueue ..
  | .marginApply .. => execMarginApply_keepsQueue ..
  | .huskPowerUp .. => execHuskPowerUp_keepsQueue ..
  | .firmware => execFirmware_keepsQueue ..
  | .config => execConfig_keepsQueue ..
  | .measure .. => execMeasure_keepsQueue ..
  | .train => execTrain_keepsQueue ..
  | .ready => execReady_keepsQueue ..
  | .recoveryIdle .. => execRecoveryIdle_keepsQueue ..
  | .weightVerify .. => execWeightVerify_keepsQueue ..
  | .reopen .. => execReopen_keepsQueue ..
  | .partReset .. => execPartReset_keepsQueue ..
  | .modReset .. => execModReset_keepsQueue ..
  | .traceFlitSend .. => execTraceFlitSend_keepsQueue ..
  | .traceRelay .. => execTraceRelay_keepsQueue ..
  | .snapshot => execSnapshot_keepsQueue ..
  | .dynamicAddress .. => execDynamicAddress_keepsQueue ..
  | .pldmBase .. => execPldmBase_keepsQueue ..
  | .pldmSensorRead .. => execPldmSensorRead_keepsQueue ..
  | .setMgmt .. => execSetMgmt_keepsQueue ..
  | .oemPartReset .. => execOemPartReset_keepsQueue ..
  | .oemModReset => execOemModReset_keepsQueue ..
  | .oemStandby => execOemStandby_keepsQueue ..
  | .oemWake => execOemWake_keepsQueue ..
  | .enrolOwner .. => execEnrolOwner_keepsQueue ..
  | .readFaultLog .. => execReadFaultLog_keepsQueue ..
  | .testEnable => execTestEnable_keepsQueue ..
  | .firmwareUpdateComponent .. => execFirmwareUpdateComponent_keepsQueue ..
  | .bypass => execBypass_keepsQueue ..
  | .idcode => execIdcode_keepsQueue ..
  | .samplePreload .. => execSamplePreload_keepsQueue ..
  | .extest => execExtest_keepsQueue ..
  | .tmodeComplete .. => execTmodeComplete_keepsQueue ..
  | .silentReceivePosition .. => execSilentReceivePosition_keepsQueue ..
  | .headLinkUp .. => execHeadLinkUp_keepsQueue ..
  | .fmBind .. => execFmBind_keepsQueue ..
  | .hbmTrainingEnd .. => execHbmTrainingEnd_keepsQueue ..
  | .m1Entry => execM1Entry_keepsQueue ..
  | .doeDiscovery .. => execDoeDiscovery_keepsQueue ..

/-! ### Shape of the answers -/

/-- An answer that is a next state, or that of a command which names one of n parts; a well-formed command names one that exists. -/
inductive Answer (wellFormed : Bool) : Host.Outcome State Fault Refusal → Prop
  | next {t : State} : Answer wellFormed (.next t)
  | within {n i : Nat} {t : State} (h : wellFormed = true → i < n) : Answer wellFormed (within n i t)

theorem Answer.ne_refused {w : Bool} {o : Host.Outcome State Fault Refusal} (h : Answer w o) (r : Refusal) : o ≠ .refused r := by
  cases h with
  | next => exact fun e => by cases e
  | within _ =>
    unfold Machine.within
    split <;> exact fun e => by cases e

theorem Answer.of_fault {w : Bool} {o : Host.Outcome State Fault Refusal} (h : Answer w o) {f : Fault} (hf : o = .fault f) :
    (∃ n, f = .absent n) ∧ w = false := by
  cases h with
  | next => cases hf
  | @within n i t hi =>
    unfold Machine.within at hf
    split at hf
    · cases hf
    · next hn =>
      cases hf
      exact ⟨⟨i, rfl⟩, Bool.eq_false_iff.mpr fun hw => hn (hi hw)⟩

theorem Answer.exists_next {o : Host.Outcome State Fault Refusal} (h : Answer true o) : ∃ t, o = .next t := by
  cases h with
  | next => exact ⟨_, rfl⟩
  | within hi => exact ⟨_, if_pos (hi rfl)⟩

theorem execCdcTimeout_answer (k : Crossing) (s : State) : Answer (crossingOk k) (execCdcTimeout k s) :=
  match k with
  | .job _ | .field _ => .within fun h => of_decide_eq_true h
  | .read (some _) _ _ => .within fun h => of_decide_eq_true (Bool.and_elim_left (Bool.and_elim_left h))
  | .fabric | .acorn _ | .read none _ _ => .next

theorem exec_answer (c : Instr) (s : State) : Answer c.wellFormed (exec c s) :=
  match c with
  | .registerWrite .. | .meshFlitArrive .. | .creditReturn .. | .jobStart .. | .streamStart .. | .commandComplete .. | .admitImage ..
    | .admissionDone | .transitReenable | .applyRepair .. | .repairRevoke | .keyDrainEnd .. | .linkPeriod | .epochBoundary | .joinEn ..
    | .ppsEn .. | .depart .. | .wakePattern .. | .timePps | .fmApiQuery .. | .fmApiAllocationChange .. | .cxlMgmt .. | .engineTake .. |
    .drbgHealthRetest .. | .powerStepIssue .. | .standby .. | .cwakeN | .wakeN | .pwrTimer | .inputMeasure .. | .vinFault | .holdover |
    .huskPowerUp .. | .pwrEnFall | .barsLoss | .firmware | .config | .measure .. | .train | .ready | .modReset .. | .traceFrame |
    .snapshot | .dynamicAddress .. | .pldmBase .. | .pldmSensorRead .. | .setMgmt .. | .oemModReset | .oemStandby | .oemWake |
    .enrolOwner .. | .readFaultLog .. | .testEnable | .firmwareUpdateComponent .. | .bypass | .idcode | .samplePreload .. | .extest |
    .m1Entry | .refclkReturn | .platformEventAck => .next
  | .siglApply .. | .tmmComplete .. | .drainEnd .. | .ringOpComplete .. | .residueCompare .. | .dmaComplete .. | .pipFinish .. |
    .jobWatchdog .. | .engineWatchdog .. | .dmaWriterWrite .. | .shortFlitEnter .. | .shortPathWrite .. | .commandRead .. |
    .commandReady .. | .jobLoadEnd .. | .commandNop .. | .launch .. | .wait .. | .waitRelease .. | .signal .. | .syncset .. | .copy .. |
    .release .. | .doorbell .. | .resume .. | .flush .. | .modPart .. | .clr .. | .kblk .. | .keyHeaderCheck .. | .ctPset .. | .ctBind
    .. | .ctFree .. | .ctCopy .. | .ctExport .. | .pkAdd .. | .pkMulp .. | .pkMul .. | .pkRot .. | .pkLdrop .. | .pkExtract .. | .liLin
    .. | .liPbs .. | .lbGate .. | .liRepack .. | .ctMaskout .. | .stageIn .. | .stageOut .. | .scrub .. | .readLineReady .. | .hbmGran
    .. | .hbmSgran .. | .granuleZeroed .. | .stagingAccess .. | .stAdd .. | .stSmin .. | .stSmax .. | .stUmin .. | .stUmax .. | .stSwap
    .. | .stCas .. | .stFadd .. | .faddHeldApply .. | .ordset .. | .signalDetect .. | .capability .. | .measureMessage .. |
    .trainingRestart .. | .wiringRetry .. | .time .. | .linkFlitReceive .. | .linkRunTransmit .. | .data .. | .linkHold .. | .linkDown
    .. | .partnerDepart .. | .clOpen .. | .clReduce .. | .clClose .. | .clCloseForce .. | .localStep .. | .chunkSend .. | .coll .. |
    .credit .. | .abortMsg .. | .clReduceComplete .. | .scratchpadWindowAccess .. | .windowEscalation .. | .cxlCtxpage .. | .create .. |
    .destroy .. | .rebind .. | .headLinkDown .. | .perstN .. | .ideFail .. | .fmUnbind .. | .functionLevelReset .. | .flrReattach .. |
    .ideKm .. | .getVersion .. | .getCapabilities .. | .negotiateAlgorithms .. | .getDigests .. | .getCertificate .. | .challenge .. |
    .getMeasurements .. | .keyExchange .. | .finish .. | .keyUpdate .. | .heartbeat .. | .endSession .. | .modexp .. | .modmul .. |
    .rsaVerify .. | .ecmul .. | .ecdh .. | .ecdsaSign .. | .ecdsaVerify .. | .curveLoad .. | .sha256 .. | .kwrap .. | .kunwrap .. |
    .random .. | .hullLoadEnd .. | .storeEnd .. | .wipeEnd .. | .clrcurve .. | .hullChanOwner .. | .fieldGate .. | .idleExpiry .. |
    .shutdownComplete .. | .wakeComplete .. | .vrAck .. | .vrNack .. | .fldPwrCtrl .. | .linksd .. | .pattern .. | .marginApply .. |
    .recoveryIdle .. | .weightVerify .. | .reopen .. | .recoveryWindowEnd .. | .partReset .. | .traceFlitSend .. | .traceRelay .. |
    .oemPartReset .. | .tmodeComplete .. | .lossOfFlitLock .. | .silentReceivePosition .. | .fmBind .. | .hbmTrainingEnd .. |
    .cblpwrOverload .. | .perstNRise .. | .doeDiscovery .. | .execEnd .. => .within fun h => of_decide_eq_true h
  | .nop .. | .dmaw .. | .endStream .. | .tsw .. | .tmode .. | .modCtxGrant .. | .pipRegion .. | .scrubDone .. | .streamRunStart .. |
    .gset .. | .gadd .. | .gmod .. | .gidx .. | .xfer .. | .sput .. | .waitso .. | .dependenceMarkRelease .. | .sigso .. | .agLoop .. |
    .agNop .. | .agEnd .. | .streamRunComplete .. | .hbmRead .. | .hbmWrite .. | .hbmIdle .. | .ref .. | .refreshInsert .. | .host .. |
    .hbmHot .. | .cxlMemRead .. | .cxlMemWrite .. | .hdmDecoderCommit .. | .temperatureReading .. | .monitorRead .. | .flitLock .. =>
    .within fun h => of_decide_eq_true (Bool.and_elim_left h)
  | .ldq .. | .stq .. | .msnd .. | .mrcv .. | .dma .. | .swap .. | .aop .. | .strmWait .. | .sigl .. | .loop .. | .brf .. | .lcset ..
    | .tdrn .. | .sop .. | .sld .. | .sst .. | .spush .. | .nttl .. | .nttx .. | .intx .. | .intl .. | .eadd .. | .esub .. | .emul .. |
    .mulc .. | .kmac .. | .auto .. | .tomont .. | .frommont .. | .kout .. | .meshFlitSend .. | .pendingRepair .. | .requestWord .. =>
    .within fun h => of_decide_eq_true (Bool.and_elim_left (Bool.and_elim_left h))
  | .counterLowRead .. | .dld .. | .strmStart .. | .tlw .. | .tmm .. | .ssum .. | .lrxset .. => .within fun h => of_decide_eq_true
    (Bool.and_elim_left (Bool.and_elim_left (Bool.and_elim_left h)))
  | .headLinkUp .. => .within fun h => of_decide_eq_true (Bool.and_elim_left (Bool.and_elim_left (Bool.and_elim_left
    (Bool.and_elim_left h))))
  | .modCtxSyncVal .. => .within fun h => of_decide_eq_true (Bool.and_elim_right h)
  | .cdcTimeout k => execCdcTimeout_answer k s

end Sys2Proof.Machine
end

section
open Sys2Proof Sys2Proof.Machine

/-- Settles O58: an answer is a next state or that of `within`, whose bound a well-formed command meets (`exec_answer`), and no
command's updates touch the queue (`exec_keepsQueue`). -/
theorem commandsAnswerAndKeepTheQueue : Obligations.CommandsAnswerAndKeepTheQueue := by
  unfold Obligations.CommandsAnswerAndKeepTheQueue
  intro c s
  refine ⟨(exec_answer c s).ne_refused, fun f hf => (exec_answer c s).of_fault hf, fun hw => ?_, (exec_keepsQueue c s).pending⟩
  exact Answer.exists_next (hw ▸ exec_answer c s)
end

/-! ## MOD_PART and TRANSIT_REENABLE (O26) -/

namespace Sys2Proof.Machine

theorem besideFields_enableFields (l : List Nat) (s : State) :
    (forAll l (fun f s => enableField s f) s).besideFields = s.besideFields :=
  forAll_keeps State.besideFields (fun _ _ => besideFields_enableField ..) l s

/-- A state that differs in the fields and in what is sent. -/
theorem eq_of_besideFields {s t : State} (h : t.besideFields = s.besideFields) : t = { s with fields := t.fields, out := t.out } :=
  congrArg (fun u : State => { u with fields := t.fields, out := t.out }) h

/-! ### The contexts of a partition -/

theorem Tab.mem_of_get_ne {α : Type} {d : α} {t : Tab α} {i : Nat} (h : Tab.get d t i ≠ d) : (i, Tab.get d t i) ∈ t := by
  induction t with
  | nil => exact absurd rfl h
  | cons e t ih =>
    simp only [Tab.get] at h ⊢
    split at h
    · next he => rw [if_pos he, he]; exact List.mem_cons_self
    · next he => rw [if_neg he]; exact List.mem_cons_of_mem _ (ih h)

theorem mem_ctxsOf {s : State} {c n : Nat} (hc : (ctxSt s c).created = true) (hp : (ctxSt s c).part = n + 1) : c ∈ ctxsOf s n := by
  have hne : ctxSt s c ≠ {} := fun h => by rw [h] at hc; cases hc
  exact List.mem_map.mpr ⟨_, List.mem_filter.mpr ⟨Tab.mem_of_get_ne hne, by simpa using ⟨hc, hp⟩⟩, rfl⟩

/-- A context that loses its partition keeps the rest, and so does every other context. -/
theorem ctxSt_unbind (c k h : Nat) (s : State) :
    ctxSt (hostEvent (modCtx s c fun x => { x with part := 0 }) h) k = if k = c then { ctxSt s k with part := 0 } else ctxSt s k := by
  have he (u : State) : ctxSt (hostEvent u h) k = ctxSt u k := by unfold hostEvent msix; split <;> rfl
  rw [he, modCtx_eq]
  split
  · next hk => rw [hk, ctxSt_setCtx_same]
  · next hk => exact ctxSt_setCtx_other _ _ hk

theorem part_unbindAll {s : State} {c n : Nat} (hc : (ctxSt s c).created = true) (hp : (ctxSt s c).part = n + 1) :
    (ctxSt (unbindAll s n) c).part = 0 := by
  refine forAll_reaches (J := fun _ => True) (P := fun c s => (ctxSt s c).part = 0) (fun _ _ _ => trivial)
    (fun c s _ => ?_) (fun c k s h => ?_) (ctxsOf s n) trivial c (mem_ctxsOf hc hp)
  · rw [ctxSt_unbind, if_pos rfl]
  · rw [ctxSt_unbind]
    split
    · rfl
    · exact h

/-- Unbinding changes no more of a context than its partition. -/
theorem ctxSt_unbindAll (s : State) (n c : Nat) :
    ctxSt (unbindAll s n) c = { ctxSt s c with part := (ctxSt (unbindAll s n) c).part } := by
  have h : { ctxSt (unbindAll s n) c with part := 0 } = { ctxSt s c with part := 0 } := by
    refine forAll_keeps (fun s => { ctxSt s c with part := 0 }) (fun k s => ?_) (ctxsOf s n) s
    dsimp only
    rw [ctxSt_unbind]
    split <;> rfl
  exact congrArg (fun x : CtxSt => { x with part := (ctxSt (unbindAll s n) c).part }) h

theorem partSt_unbindAll (s : State) (n k : Nat) : partSt (unbindAll s n) k = partSt s k :=
  (congrArg (partSt · k) (besideCtxs_unbindAll s n) :)

/-! ### MOD_PART -/

/-- What R134 ignores of a write of MOD_PARTn. -/
def partIgnored (s : State) (w : Writer) (n v : Nat) : Prop :=
  mgmtOnly s w = false ∨ s.boot.stage ≠ 5 ∨ (partSt s n).fenced = true ∨ (partSt s n).recovery ≠ .open_ ∨
    s.flt.mfenced = true ∨ s.jobs.any (·.part = n) = true ∨ partAllowed s n (partRect (partSt s n) v) = false

/-- The partition has the rectangle that was written and no plan, its contexts are unbound, and the routes are due. -/
def partWritten (s : State) (n v : Nat) : State :=
  let q := partRect (partSt s n) v
  let u := releasePlan (unbindAll s n) n
  let u := setPart u n { partSt u n with fx0 := q.fx0, fx1 := q.fx1, fy0 := q.fy0, fy1 := q.fy1, valid := q.valid }
  { u with mod := { u.mod with transitDue := true } }

theorem modPart_ignored {s : State} {w : Writer} {n v : Nat} (hn : n < 16) (h : partIgnored s w n v) :
    exec (.modPart w n v) s = .next s := by
  show execModPart w n v s = _
  unfold execModPart
  rw [within_lt _ hn]
  unfold partIgnored at h
  exact congrArg Host.Outcome.next (if_pos (by simpa only [Bool.not_eq_true', ne_eq] using h))

theorem modPart_written {s : State} {w : Writer} {n v : Nat} (hn : n < 16) (h : ¬partIgnored s w n v) :
    exec (.modPart w n v) s = .next (dropFields (forAll (fieldsOfPart (partWritten s n v) n) (fun f s => enableField s f)
      (partWritten s n v)) (fieldsOfPart s n)) := by
  show execModPart w n v s = _
  unfold execModPart
  rw [within_lt _ hn]
  unfold partIgnored at h
  exact congrArg Host.Outcome.next (if_neg (by simpa only [Bool.not_eq_true', ne_eq] using h))

theorem partSt_partWritten (s : State) (n v k : Nat) : partSt (partWritten s n v) k =
    if k = n then { partRect (partSt s n) v with hasPlan := false, plan := [], plog2 := 0, planFp := 0 } else partSt s k := by
  show partSt (setPart _ n _) k = _
  split
  · next hk => rw [hk, partSt_setPart_same]; unfold releasePlan; rw [modPart_eq, partSt_setPart_same, partSt_unbindAll]; rfl
  · next hk =>
    rw [partSt_setPart_other _ _ hk]
    unfold releasePlan
    rw [modPart_eq, partSt_setPart_other _ _ hk, partSt_unbindAll]

theorem partWritten_eq (s : State) (n v : Nat) : partWritten s n v =
    { s with parts := (partWritten s n v).parts, ctxs := (unbindAll s n).ctxs, out := (unbindAll s n).out,
             mod := { s.mod with transitDue := true } } := by
  unfold partWritten releasePlan
  rw [unbindAll_eq]
  rfl

/-! ### TRANSIT_REENABLE -/

/-- The routes that R119 allows are in force, and none is due. -/
def routesInForce (s : State) : State := { s with mod := { s.mod with transit := allowedRoutes s, transitDue := false } }

/-- The fields of the routes in force are enabled. -/
def routesEnabled (s : State) : State :=
  let u := routesInForce s
  forAll (((allowedRoutes s).flatMap (routeFields (resv u) u.mod.map)).eraseDups) (fun f s => enableField s f) u

theorem transitReenable_due {s : State} (hd : s.mod.transitDue = true) (hc : s.cycle % 4096 = 0) :
    exec .transitReenable s = .next (forAll
      ((List.range 64).filter fun f => mustF3 (routesEnabled s) f && (fieldSt (routesEnabled s) f).state = .f1)
      (fun f s => lowerField s f .f3) (routesEnabled s)) := by
  show execTransitReenable s = _
  unfold execTransitReenable
  exact congrArg Host.Outcome.next (if_neg (by simp [hd, hc]))

end Sys2Proof.Machine

section
open Sys2Proof Sys2Proof.Machine

/-- Settles O26: what MOD_PART ignores leaves the state; else the partition is written, and the fields that it gained and lost change
fields and messages alone, as do those of the routes at a frame boundary. -/
theorem partitionsAndRoutes : Obligations.PartitionsAndRoutes := by
  unfold Obligations.PartitionsAndRoutes
  intro s
  refine ⟨fun w n v hn => ⟨fun h => ⟨s, modPart_ignored hn h, rfl⟩, fun h => ⟨_, modPart_written hn h, ?_⟩⟩, fun hd hc => ?_⟩
  · generalize ht : dropFields _ (fieldsOfPart s n) = t
    have hframe : t.besideFields = (partWritten s n v).besideFields :=
      ht ▸ (besideFields_lowerFields ..).trans (besideFields_enableFields ..)
    have hpart (k : Nat) : partSt t k = partSt (partWritten s n v) k := (congrArg (partSt · k) hframe :)
    have hctx (c : Nat) : ctxSt t c = ctxSt (unbindAll s n) c := by
      rw [partWritten_eq] at hframe
      exact (congrArg (ctxSt · c) hframe :)
    have hmod : t.mod = { s.mod with transitDue := true } := by
      rw [partWritten_eq] at hframe
      exact (congrArg State.mod hframe :)
    refine ⟨?_, ?_, fun k hk => ?_, hmod, fun c hc hp => ?_, fun c => ?_⟩
    · rw [partWritten_eq] at hframe
      exact congrArg (fun u : State => { u with
        parts := t.parts, ctxs := t.ctxs, mod := t.mod, fields := t.fields, trc := t.trc, out := t.out }) hframe
    · rw [hpart, partSt_partWritten, if_pos rfl]
    · rw [hpart, partSt_partWritten, if_neg hk]
    · rw [hctx]; exact part_unbindAll hc hp
    · rw [hctx]; exact ctxSt_unbindAll s n c
  · exact ⟨_, transitReenable_due hd hc, eq_of_besideFields ((besideFields_lowerFields ..).trans (besideFields_enableFields ..))⟩

end

/-! ## Reads and writes of the scratchpad (O16, O18) -/

namespace Sys2Proof.Machine

/-! ### Runs -/

theorem getMany_append (d : Byte) (t : Tab Byte) (i m n : Nat) :
    Tab.getMany d t i (m + n) = Tab.getMany d t i m ++ Tab.getMany d t (i + m) n := by
  induction m generalizing i with
  | zero => simp [Tab.getMany]
  | succ m ih =>
    rw [Nat.succ_add]
    simp only [Tab.getMany, List.cons_append, ih]
    rw [show i + 1 + m = i + (m + 1) by omega]

theorem getMany_flatMap_words (t : Tab Byte) (w n : Nat) :
    (List.range n).flatMap (fun i => Tab.getMany 0 t (8 * (w + i)) 8) = Tab.getMany 0 t (8 * w) (8 * n) := by
  induction n with
  | zero => rfl
  | succ n ih =>
    rw [List.range_succ, List.flatMap_append, ih, Nat.mul_succ, getMany_append]
    simp [Nat.mul_add]

/-- A part of a run is a run. -/
theorem slice_getMany (t : Tab Byte) {i k n m : Nat} (h : k + n ≤ m) : slice (Tab.getMany 0 t i m) k n = Tab.getMany 0 t (i + k) n := by
  obtain ⟨r, rfl⟩ := Nat.exists_eq_add_of_le h
  unfold slice
  rw [getMany_append, getMany_append, List.append_assoc, List.drop_left' (length_getMany ..), List.take_left' (length_getMany ..)]

theorem setMany_append (t : Tab Byte) (i : Nat) (l m : List Byte) :
    Tab.setMany 0 t i (l ++ m) = Tab.setMany 0 (Tab.setMany 0 t i l) (i + l.length) m := by
  induction l generalizing t i with
  | nil => rfl
  | cons v l ih =>
    simp only [List.cons_append, Tab.setMany, List.length_cons, ih]
    rw [show i + 1 + l.length = i + (l.length + 1) by omega]

/-! ### Reads without errors -/

section
variable {q : PipSt} (hf : q.sp.flips = [])
include hf

/-- Where no bit is flipped a word reads as it is stored (R136). -/
theorem readCode_clean (w : Nat) : readCode q.sp w = ⟨storedWord q.sp w, false, false⟩ := by
  unfold readCode codeWord
  rw [hf, Tab.get_nil, show popCount 72 (0 : BitVec 72).toNat = 0 by decide]
  rfl

theorem readWords_clean (ws : List Nat) : readWords q ws = (ws.map (storedWord q.sp), done q) := by
  induction ws with
  | nil => rfl
  | cons w ws ih =>
    unfold readWords
    simp only [readCode_clean hf]
    show (_ :: (readWords q ws).1, _) = _
    simp [ih, noteRead, done, firstFail]

theorem mergeReads_clean (ws : List Nat) : mergeReads q ws = ([], done q) := by
  induction ws with
  | nil => rfl
  | cons w ws ih =>
    unfold mergeReads
    simp only [readCode_clean hf]
    simp [ih, noteRead, done, firstFail]

end

/-- The bytes of a word. -/
theorem toBytes_storedWord (sp : Scratch) (w : Nat) : toBytes 8 (storedWord sp w).toNat = Tab.getMany 0 sp.mem (8 * w) 8 := by
  have hlt := ofBytes_lt (Tab.getMany 0 sp.mem (8 * w) 8)
  have hrt := toBytes_ofBytes (Tab.getMany 0 sp.mem (8 * w) 8)
  rw [length_getMany] at hlt hrt
  unfold storedWord
  rw [BitVec.toNat_ofNat, Nat.mod_eq_of_lt (by omega), hrt]

/-- With g = 0 the words of a line lie in their order (R135). -/
theorem placeOf_zero (a : Nat) : placeOf 0 a = a / 8 := by
  unfold placeOf swzG
  simp only [if_true, Nat.xor_zero]
  omega

/-- A run without flipped bits reads as it is stored. -/
theorem spRead_clean {q : PipSt} (hf : q.sp.flips = []) (a n : Nat) : spRead q a n = (Tab.getMany 0 q.sp.mem a n, done q) := by
  have hplaces : placesOf 0 a n = (List.range ((a + n + 7) / 8 - a / 8)).map (a / 8 + ·) := by
    unfold placesOf
    exact List.map_congr_left fun i _ => by rw [placeOf_zero]; omega
  have hbytes : wordBytes ((placesOf 0 a n).map (storedWord q.sp)) =
      Tab.getMany 0 q.sp.mem (8 * (a / 8)) (8 * ((a + n + 7) / 8 - a / 8)) := by
    rw [hplaces, ← getMany_flatMap_words]
    unfold wordBytes
    simp only [List.flatMap_map, toBytes_storedWord]
  unfold spRead readAt
  rw [readWords_clean hf]
  dsimp only
  rw [hbytes, slice_getMany _ (by omega), Nat.div_add_mod]

/-! ### Words that a write stores -/

@[simp] theorem storeWords_nil (q : PipSt) : storeWords q [] = q := rfl
theorem storeWords_cons (q : PipSt) (x : PadWord) (ws : List PadWord) :
    storeWords q (x :: ws) = storeWords { q with sp := storeWord q.sp x } ws := rfl

/-- What a write of words leaves of a pip. -/
theorem storeWords_eq (q : PipSt) (ws : List PadWord) : storeWords q ws = { q with sp := (storeWords q ws).sp } := rfl

/-- Words of `n` bytes each that lie one after the other store their bytes as one run. -/
theorem storeWords_run {α : Type} {f : α × Nat → PadWord} {g : α → List Byte} {a n : Nat} {l : List α}
    (hw : ∀ x i, (f (x, i)).bs = g x ∧ 8 * (f (x, i)).w + (f (x, i)).off = a + n * i) (hn : ∀ x ∈ l, (g x).length = n)
    (q : PipSt) (k : Nat) :
    (storeWords q ((l.zipIdx k).map f)).sp.mem = Tab.setMany 0 q.sp.mem (a + n * k) (l.flatMap g) := by
  induction l generalizing q k with
  | nil => rfl
  | cons x l ih =>
    obtain ⟨hbs, hat⟩ := hw x k
    rw [List.zipIdx_cons, List.map_cons, storeWords_cons, ih (fun y hy => hn y (List.mem_cons_of_mem _ hy)), List.flatMap_cons,
      setMany_append, hn x List.mem_cons_self, Nat.mul_succ, Nat.add_assoc]
    show Tab.setMany 0 (Tab.setMany 0 q.sp.mem (8 * (f (x, k)).w + (f (x, k)).off) (f (x, k)).bs) _ _ = _
    rw [hat, hbs]

/-- Bytes written one by one from `a` on, without flipped bits: the words and nothing else (R136). -/
theorem mergeBytes_clean {q : PipSt} (hf : q.sp.flips = []) (w0 : Nat) (l : List (Nat × Byte)) :
    mergeBytes q w0 l = (l.map fun b => ⟨w0 + b.1 / 8, b.1 % 8, [b.2]⟩, done q) := by
  unfold mergeBytes
  dsimp only
  rw [mergeReads_clean hf]
  rfl

theorem flatten_groups {n : Nat} (hn : 0 < n) {fuel : Nat} {l : List Byte} (h : l.length ≤ fuel) : (groups n fuel l).flatten = l := by
  induction fuel generalizing l with
  | zero => simp [groups, List.length_eq_zero_iff.mp (Nat.le_zero.mp h)]
  | succ fuel ih =>
    cases l with
    | nil => rfl
    | cons b l =>
      unfold groups
      rw [List.flatten_cons, ih (by simp at h ⊢; omega), List.take_append_drop]

/-- Bytes that fill their groups. -/
theorem length_of_mem_groups {n fuel : Nat} {l : List Byte} (h : l.length % n = 0) : ∀ g ∈ groups n fuel l, g.length = n := by
  induction fuel generalizing l with
  | zero => simp [groups]
  | succ fuel ih =>
    cases l with
    | nil => simp [groups]
    | cons b l =>
      have hle : n ≤ (b :: l).length := Nat.le_of_dvd (by simp) (Nat.dvd_of_mod_eq_zero h)
      intro g hg
      rcases List.mem_cons.mp hg with rfl | hg
      · exact List.length_take_of_le hle
      · exact ih (by rw [List.length_drop, ← Nat.mod_eq_sub_mod hle, h]) g hg

/-- Whole words at a word-aligned address store their bytes from that address on (R135). -/
theorem storeWords_padWords_mem (q : PipSt) {a : Nat} {bs : List Byte} (ha : a % 8 = 0) (hl : bs.length % 8 = 0) :
    (storeWords q (padWords 0 a bs)).sp.mem = Tab.setMany 0 q.sp.mem a bs := by
  have h := storeWords_run (f := fun g : List Byte × Nat => ⟨placeOf 0 (a + 8 * g.2), 0, g.1⟩) (g := id) (a := a) (n := 8)
    (fun x i => ⟨rfl, by simp only [placeOf_zero]; omega⟩) (length_of_mem_groups (fuel := bs.length) hl) q 0
  rw [List.flatMap_id, flatten_groups (by decide) (Nat.le_refl _)] at h
  exact h

/-- Bytes that a write merges from `a` on are stored from there on, where no bit is flipped. -/
theorem storeWords_mergeBytes_mem {q : PipSt} (hf : q.sp.flips = []) (a : Nat) (bs : List Byte) :
    (storeWords q (mergeBytes q (a / 8) (bs.zipIdx.map fun x => (a % 8 + x.2, x.1))).1).sp.mem = Tab.setMany 0 q.sp.mem a bs := by
  have h := storeWords_run (f := fun x : Byte × Nat => ⟨a / 8 + (a % 8 + x.2) / 8, (a % 8 + x.2) % 8, [x.1]⟩) (g := fun b => [b])
    (a := a) (n := 1) (l := bs) (fun x i => ⟨rfl, by dsimp only; omega⟩) (fun _ _ => rfl) q 0
  rw [mergeBytes_clean hf, List.map_map]
  rw [List.flatMap_singleton'] at h
  exact h

end Sys2Proof.Machine

/-! ## Completions of a pip (O16) -/

namespace Sys2Proof.Machine

theorem dmaComplete_landed {s : State} {p : Nat} {ch : Bool} {o : DmaOp} (hp : p < 10240) (ho : dmaOf (pipOf s p) ch = some o)
    (hl : o.len ≤ o.landed) : exec (.dmaComplete p ch) s = .next (setPip s p (setDma (pipOf s p) ch none)) := by
  show execDmaComplete p ch s = _
  unfold execDmaComplete
  rw [within_lt _ hp, ho]
  exact congrArg Host.Outcome.next (if_neg (by omega))

theorem pipFinish_finishes {s : State} {p : Nat} {j : Job} (hp : p < 10240) (hj : jobOfPip s p = some j) (hr : j.phase = .running)
    (hl : jobLoaded s j = true) (ha : (pipOf s p).acc.ended = true) (hx : (pipOf s p).exe.ended = true) (hd : opsDone s p = true)
    (hf : (pipOf s p).finished = false) : exec (.pipFinish p) s = .next
      (let u := setPip s p { pipOf s p with finished := true }
       if (jobPips j).all fun k => (pipOf u k).finished then finishJob u j else u) := by
  show execPipFinish p s = _
  unfold execPipFinish
  rw [within_lt _ hp, hj]
  exact congrArg Host.Outcome.next (if_neg (by simp [hr, hl, ha, hx, hd, hf]))

/-- A job without another pod moves nothing as it completes. -/
theorem finishJob_plain (s : State) {j : Job} (h : j.extra = none) : finishJob s j = endJob s j eOk 0 := by
  unfold finishJob moveObject
  rw [h]

theorem jobWatchdog_expires {s : State} {p : Nat} {x : Bool} (hp : p < 10240) (h : ∃ e ∈ holdsOf (pipOf s p) x, 2 ^ 20 ≤ e.n) :
    exec (.jobWatchdog p x) s = .next (failPip s p eWatchdog false) := by
  have hs : stuck (pipOf s p) x = true := by
    obtain ⟨e, he, hn⟩ := h
    exact List.any_eq_true.mpr ⟨e, he, decide_eq_true hn⟩
  show execJobWatchdog p x s = _
  unfold execJobWatchdog
  rw [within_lt _ hp, if_pos hs]

theorem engineWatchdog_expires {s : State} {p e : Nat} (hp : p < 10240) (he : e < 5) (ha : (pipOf s p).acc.ended = true)
    (hx : (pipOf s p).exe.ended = true) (hr : (engOf (pipOf s p) e).running = true) (hc : (pipOf s p).endAt + 2 ^ 20 ≤ s.cycle) :
    exec (.engineWatchdog p) s = .next (failPip s p eWatchdog false) := by
  have hany : ((List.range 5).any fun e => (engOf (pipOf s p) e).running) = true :=
    List.any_eq_true.mpr ⟨e, List.mem_range.mpr he, hr⟩
  show execEngineWatchdog p s = _
  unfold execEngineWatchdog
  rw [within_lt _ hp]
  exact congrArg Host.Outcome.next (if_pos (by simp only [ha, hx, hany, hc, decide_true, Bool.and_self]))

/-! ### The run of a copy -/

theorem nth_pipsOfPod {d i : Nat} (hi : i < 16) :
    nth (pipsOfPod d) i 0 = pipAt (4 * pcxOf d + i % 4) (4 * pcyOf d + i / 4) := by
  unfold nth pipsOfPod
  rw [List.getD_eq_getElem _ _ (by simpa using hi)]
  simp

theorem pipX_pipAt {x : Nat} (hx : x < 160) (y : Nat) : pipX (pipAt x y) = x := by unfold pipX pipAt; omega
theorem pipY_pipAt {x : Nat} (hx : x < 160) (y : Nat) : pipY (pipAt x y) = y := by unfold pipY pipAt; omega

/-- Fields and pods that coordinates of a pip name (R6). -/
theorem podOfPip_pipAt {u v i j : Nat} (hu : u < 40) (hi : i < 4) (hj : j < 4) :
    podOfPip (pipAt (4 * u + i) (4 * v + j)) = (v / 2 * 8 + u / 5) * 10 + v % 2 * 5 + u % 5 := by
  have hx20 : (4 * u + i) / 20 = u / 5 := by omega
  have hx4 : (4 * u + i) % 20 / 4 = u % 5 := by omega
  have hy8 : (4 * v + j) / 8 = v / 2 := by omega
  have hy4 : (4 * v + j) % 8 / 4 = v % 2 := by omega
  unfold podOfPip fieldOfPip
  rw [pipX_pipAt (by omega), pipY_pipAt (by omega), hx20, hx4, hy8, hy4]

/-- A pip of a pod lies in it. -/
theorem podOfPip_nth {d i : Nat} (hi : i < 16) : podOfPip (nth (pipsOfPod d) i 0) = d := by
  obtain ⟨f, r, hr, rfl⟩ : ∃ f r, r < 10 ∧ d = 10 * f + r := ⟨d / 10, d % 10, by omega, by omega⟩
  have hf : (10 * f + r) / 10 = f := by omega
  have hd : (10 * f + r) % 10 = r := by omega
  have hx : pcxOf (10 * f + r) = f % 8 * 5 + r % 5 := by unfold pcxOf fieldOfPod; rw [hf, hd]
  have hy : pcyOf (10 * f + r) = f / 8 * 2 + r / 5 := by unfold pcyOf fieldOfPod; rw [hf, hd]
  have hx5 : (f % 8 * 5 + r % 5) / 5 = f % 8 := by omega
  have hxr : (f % 8 * 5 + r % 5) % 5 = r % 5 := by omega
  have hy2 : (f / 8 * 2 + r / 5) / 2 = f / 8 := by omega
  have hyr : (f / 8 * 2 + r / 5) % 2 = r / 5 := by omega
  rw [nth_pipsOfPod hi, podOfPip_pipAt (by omega) (by omega) (by omega), hx, hy, hx5, hxr, hy2, hyr]
  omega

/-- A run of a copy whose words have no flipped bits stands at its place in the other pip, and nothing else changes. -/
theorem moveRun_clean {s : State} {a b i k : Nat} (x y n : Nat)
    (hne : nth (pipsOfPod b) k 0 ≠ nth (pipsOfPod a) i 0)
    (ha : (pipOf s (nth (pipsOfPod a) i 0)).sp.flips = []) (hb : (pipOf s (nth (pipsOfPod b) k 0)).sp.flips = []) :
    let r := moveRun a b ((i, x, n), (k, y, n)) (s, none)
    r.2 = none ∧ (pipOf r.1 (nth (pipsOfPod b) k 0)).sp.mem = Tab.setMany 0 (pipOf s (nth (pipsOfPod b) k 0)).sp.mem y
      (Tab.getMany 0 (pipOf s (nth (pipsOfPod a) i 0)).sp.mem x n) := by
  have hq := pipOf_setPip_other s (pipOf s (nth (pipsOfPod a) i 0)) hne
  have hmem := storeWords_mergeBytes_mem hb y (Tab.getMany 0 (pipOf s (nth (pipsOfPod a) i 0)).sp.mem x n)
  rw [mergeBytes_clean hb] at hmem
  unfold moveRun
  simp only [spRead_clean ha, done, forAll, List.foldl_nil, hq, mergeBytes_clean hb, Option.isSome_none, Bool.false_eq_true, if_false,
    Option.or_self, pipOf_setPip_same, true_and]
  exact hmem

/-! ### SIGL_APPLY -/

/-- The short flit that takes an increment to the sync store of its object (R94, R117). -/
def siglFlit (s : State) (p : Nat) (g : SiglHeld) : ShortFlit :=
  { sx := pipX p, sy := pipY p, dx := pipX (syncPip g.obj), dy := pipY (syncPip g.obj), sync := true, addr := g.obj, add := g.add,
    ctx := (pipOf s p).st.context, ready := s.cycle }

theorem siglApply_enters {s : State} {p : Nat} {g : SiglHeld} {l : List SiglHeld} (hp : p < 10240)
    (hg : (pipOf s p).ops.sigls = g :: l) (hw : workDone s p g.upto = true) (hr : (pipOf s p).net.shortOut.length < 8) :
    exec (.siglApply p) s = .next (setPip s p { pipOf s p with
      ops := { (pipOf s p).ops with sigls := l }
      net := { (pipOf s p).net with shortOut := (pipOf s p).net.shortOut ++ [siglFlit s p g] } }) := by
  show execSiglApply p s = _
  unfold execSiglApply
  rw [within_lt _ hp]
  have hroom : shortRoom (pipOf s p) 1 = true := decide_eq_true hr
  simp only [hg, hw, hroom, Bool.and_self, Bool.not_true, Bool.false_eq_true, if_false]
  rfl

/-- Coordinates name their pip (R6). -/
theorem pipAt_coordinates (p : Nat) : pipAt (pipX p) (pipY p) = p := by
  unfold pipAt pipX pipY
  omega

end Sys2Proof.Machine

section
open Sys2Proof Sys2Proof.Machine

/-- Settles O16: each clause is one branch of its completion, whose guards the hypotheses decide; the run of a copy reads and writes
words without flipped bits in two pips, which differ as their pods do. -/
theorem pipCompletions : Obligations.PipCompletions := by
  unfold Obligations.PipCompletions
  intro s p hp
  refine ⟨fun ch o ho hl => ⟨_, dmaComplete_landed hp ho hl, rfl⟩,
    fun j hj hr hl ha hx hd hf => ⟨_, pipFinish_finishes hp hj hr hl ha hx hd hf, rfl⟩,
    fun u j hj => finishJob_plain u hj, fun u a b i k x y n _ _ hab hi hk hfa hfb => ?_,
    fun x h => ⟨_, jobWatchdog_expires hp h, rfl⟩,
    fun e he ha hx hr hc => ⟨_, engineWatchdog_expires hp he ha hx hr hc, rfl⟩,
    fun g l hg hw hr => ⟨_, siglApply_enters hp hg hw hr, rfl, fun k hk => pipOf_setPip_other _ _ hk, ?_⟩⟩
  · have hne : nth (pipsOfPod b) k 0 ≠ nth (pipsOfPod a) i 0 := fun h =>
      hab (by rw [← podOfPip_nth (d := a) hi, ← h, podOfPip_nth hk])
    obtain ⟨hnone, hmem⟩ := moveRun_clean x y n hne hfa hfb
    refine ⟨hnone, fun z => ?_⟩
    rw [hmem, Tab.get_setMany, length_getMany]
    split
    · next hz => exact getD_getMany _ _ _ _ _ (by omega)
    · rfl
  · simp only [pipOf_setPip_same, true_and]
    exact ⟨siglFlit s p g, rfl, rfl, rfl, rfl, pipAt_coordinates _, rfl⟩

end

/-! ## Flits and credits of the mesh (O17) -/

namespace Sys2Proof.Machine

/-! ### Credits and owed flits after an update -/

@[simp] theorem creditOf_setOwed (q : PipSt) (c k : Nat) (l : List (List Nat)) : creditOf (setOwed q c l) k = creditOf q k := rfl
@[simp] theorem owedOf_setCredit (q : PipSt) (c k v : Nat) : owedOf (setCredit q c v) k = owedOf q k := rfl
@[simp] theorem creditOf_setCredit_same (q : PipSt) (c v : Nat) : creditOf (setCredit q c v) c = v := Tab.get_set_same ..
@[simp] theorem owedOf_setOwed_same (q : PipSt) (c : Nat) (l : List (List Nat)) : owedOf (setOwed q c l) c = l := Tab.get_set_same ..
@[simp] theorem creditOf_notePop (q : PipSt) (k c : Nat) : creditOf (notePop q k) c = creditOf q c := rfl

/-! ### MESH_FLIT_SEND -/

/-- The slot of this position takes the flit at the head of an egress queue, which leaves or passes (R61, R106). -/
theorem meshFlitSend_takes {s : State} {p port cr ser : Nat} {data : Flit} {l : List (Nat × Flit)} (hp : p < 10240) (hport : port < 4)
    (hd : didWork (pipOf s p) (24 + port) = false) (hc : canPop (pipOf s p) (qEgress port) = true)
    (hs : sendSlot s p port (s.cycle % 4096) = some cr) (hq : Tab.get [] (pipOf s p).q.egr port = (ser, data) :: l) :
    exec (.meshFlitSend p port (s.cycle % 4096)) s = .next (leaveFlit s p port cr ser data l) := by
  show execMeshFlitSend p port (s.cycle % 4096) s = _
  unfold execMeshFlitSend
  rw [within_lt _ hp, if_neg (by simp [hd, hc, hport]), hs, hq]

theorem meshFlitSend_other_position {s : State} {p port pos : Nat} (hp : p < 10240) (h : pos ≠ s.cycle % 4096) :
    exec (.meshFlitSend p port pos) s = .next s := by
  show execMeshFlitSend p port pos s = _
  unfold execMeshFlitSend
  rw [within_lt _ hp, if_pos (.inr (.inl h))]

section
variable (s : State) (p port : Nat) {cr : Nat} (ser : Nat) (data : Flit) (l : List (Nat × Flit))

/-- Without a credit the slot passes and is counted. -/
theorem leaveFlit_passes (h : creditOf (pipOf s p) cr = 0) : leaveFlit s p port cr ser data l =
    (let q := notePop (pipOf s p) (24 + port)
     setPip s p { q with cnt := { q.cnt with defer_ := bump q.cnt.defer_ 1 } }) :=
  if_pos h

/-- The pip that a flit has left. -/
def flitLeft (s : State) (p port cr : Nat) (l : List (Nat × Flit)) : PipSt :=
  let q := notePop (pipOf s p) (24 + port)
  let q := notePop { q with q := { q.q with egr := Tab.set [] q.q.egr port l } } (qEgress port)
  setOwed (setCredit q cr (creditOf q cr - 1)) cr
    (owedOf q cr ++ [(flitPath s pathFuel p port (s.cycle % 4096) 0).map fun x => destNum x.1])

theorem leaveFlit_leaves (h : creditOf (pipOf s p) cr ≠ 0) : leaveFlit s p port cr ser data l =
    (let f : MFlit := { cls := 0, ser := ser, from_ := p, cr := cr, data := data }
     let ends := flitPath s pathFuel p port (s.cycle % 4096) 0
     setPip { s with flight := s.flight ++ ends.map (flyTo s.cycle f) } p (flitLeft s p port cr l)) :=
  if_neg h

end

/-! ### MESH_FLIT_ARRIVE -/

@[simp] theorem pipOf_landed (s : State) (k p : Nat) : pipOf (landed s k) p = pipOf s p := rfl

section
variable {s : State} {k p i u n due route : Nat} {h gran : Bool} {f : MFlit} {r : Req} {e : Line}

theorem meshFlitArrive_flit (ha : arriving s k = some (.flit p i due f)) (hl : (Tab.get [] (pipOf s p).q.ing i).length < 8) :
    exec (.meshFlitArrive k) s = .next (setPip (landed s k) p { pipOf s p with
      q := { (pipOf s p).q with ing := Tab.set [] (pipOf s p).q.ing i (Tab.get [] (pipOf s p).q.ing i ++ [f]) } }) := by
  show execMeshFlitArrive k s = _
  unfold execMeshFlitArrive
  rw [ha]
  exact congrArg Host.Outcome.next (if_neg (Nat.not_le.mpr hl))

theorem meshFlitArrive_line (ha : arriving s k = some (.line p u due route r)) :
    exec (.meshFlitArrive k) s = .next (lineIn (landed s k) p u route r) := by
  show execMeshFlitArrive k s = _
  unfold execMeshFlitArrive
  rw [ha]

/-- A line for a unit joins the DMA writer (R110). -/
theorem lineIn_writer (s : State) (p route : Nat) (r : Req) (hu : u ≠ 7) : lineIn s p u route r = setPip s p { pipOf s p with
    net := { (pipOf s p).net with
      writer := (pipOf s p).net.writer ++ [⟨u, r.sp, stackOf r.addr, route, r.hop, r.data⟩] } } :=
  if_neg hu

/-- A line of the job-start load (R468): its credit goes back at once. -/
theorem lineIn_load (s : State) (p route : Nat) (r : Req) : lineIn s p 7 route r =
    lineCredit (setPip s p { pipOf s p with ops := { (pipOf s p).ops with
      load := (pipOf s p).ops.load.map fun o => { o with got := o.got ++ [lineBytes r.data] } } }) (stackOf r.addr) route r.hop :=
  if_pos rfl

theorem meshFlitArrive_wline (ha : arriving s k = some (.wline n route due r)) (hm : isHbm r.addr = true)
    (hl : (Tab.get [] (stackSt s n).wbuf route).length < 8) :
    exec (.meshFlitArrive k) s = .next (setStack (landed s k) n { stackSt s n with
      wbuf := Tab.set [] (stackSt s n).wbuf route (Tab.get [] (stackSt s n).wbuf route ++ [r]) }) := by
  show execMeshFlitArrive k s = _
  unfold execMeshFlitArrive
  rw [ha]
  show Host.Outcome.next (wlineIn _ _ _ _ _) = _
  unfold wlineIn
  rw [if_neg (by simp [hm]), if_neg (Nat.not_le.mpr hl)]
  rfl

theorem meshFlitArrive_key (ha : arriving s k = some (.key p due h gran e)) :
    exec (.meshFlitArrive k) s = .next (keyIn s (landed s k) p h gran e) := by
  show execMeshFlitArrive k s = _
  unfold execMeshFlitArrive
  rw [ha]

/-- A key line at a pod that drains is discarded (R264). -/
theorem keyIn_draining (t : State) (hd : draining s (podOfPip p) = true) : keyIn s t p h gran e =
    setPod t (podOfPip p) { podSt t (podOfPip p) with kdrainCnt := bump (podSt t (podOfPip p)).kdrainCnt 2 } :=
  if_pos hd

theorem keyIn_header (t : State) (hd : draining s (podOfPip p) = false) : keyIn s t p true gran e =
    setPod t (podOfPip p) { podSt t (podOfPip p) with khdr := (podSt t (podOfPip p)).khdr ++ [(e, gran, s.cycle)] } := by
  unfold keyIn
  dsimp only
  rw [if_neg (by simp [hd]), if_pos rfl, modPod_eq]

theorem keyIn_entry (t : State) (hd : draining s (podOfPip p) = false) (ho : (pipOf s p).st.kopen = true)
    (hl : (pipOf s p).q.kq.length < 64) : keyIn s t p false gran e = takeKey t p e := by
  unfold keyIn
  dsimp only
  rw [if_neg (by simp [hd]), if_neg (by simp), if_neg]
  simpa [ho, depthKq] using hl

/-- An entry of the key queue: it is passed where a block that has passed still lacks entries (R263). -/
theorem takeKey_takes (t : State) (p : Nat) (e : Line) :
    pipOf (takeKey t p e) p = { pipOf t p with
      q := { (pipOf t p).q with
        kq := (pipOf t p).q.kq ++ [(e, decide (Tab.get 0 (podSt t (podOfPip p)).kallow (pipInPod p) ≠ 0))] } } ∧
    podSt (takeKey t p e) (podOfPip p) = { podSt t (podOfPip p) with
      kallow := (podSt (takeKey t p e) (podOfPip p)).kallow
      kentCnt := bump (podSt t (podOfPip p)).kentCnt 1 } := by
  unfold takeKey
  exact ⟨by simp, by simp⟩

end

/-! ### CREDIT_RETURN -/

theorem creditReturn_arrives {s : State} {k p cr d due : Nat} (hp : p < 10240) (ha : arriving s k = some (.credit p cr d due))
    (hj : (pipOf s p).job ≠ 0) : exec (.creditReturn k) s = .next (returnCredit (landed s k) p cr d) := by
  show execCreditReturn k s = _
  unfold execCreditReturn
  rw [ha]
  refine congrArg Host.Outcome.next (if_neg ?_)
  rintro (h | h)
  · omega
  · exact hj h

theorem pipOf_returnCredit (s : State) (p cr d : Nat) : pipOf (returnCredit s p cr d) p =
    (let r := takenBy d (owedOf (pipOf s p) cr)
     setOwed (setCredit (pipOf s p) cr (creditOf (pipOf s p) cr + b2n r.2)) cr r.1) :=
  pipOf_setPip_same ..

/-- The credit of the only destination that the oldest flit lacks completes it. -/
theorem takenBy_last (d : Nat) (l : List (List Nat)) : takenBy d ([d] :: l) = (l, true) := by simp [takenBy]

/-- The credit of one of several destinations of the oldest flit leaves it waiting for the others. -/
theorem takenBy_not_last {d : Nat} {f : List Nat} (l : List (List Nat)) (hf : f.contains d = true) (he : f.erase d ≠ []) :
    (takenBy d (f :: l)).2 = false := by
  unfold takenBy
  rw [if_pos hf, if_neg he]

end Sys2Proof.Machine

section
open Sys2Proof Sys2Proof.Machine

/-- Settles O17: each clause is one branch of MESH_FLIT_SEND, MESH_FLIT_ARRIVE or CREDIT_RETURN, whose guards the hypotheses decide. -/
theorem meshFlits : Obligations.MeshFlits := by
  unfold Obligations.MeshFlits
  intro s p hp
  refine ⟨fun port cr ser data l hport hd hc hs hq => ⟨fun h0 => ⟨_, meshFlitSend_takes hp hport hd hc hs hq, ?_⟩,
      fun h0 => ⟨_, meshFlitSend_takes hp hport hd hc hs hq, ?_⟩⟩,
    fun port pos h => ⟨s, meshFlitSend_other_position hp h, rfl⟩,
    fun k i due f ha hl => ⟨_, meshFlitArrive_flit ha hl, rfl, fun n hn => pipOf_setPip_other _ _ hn, pipOf_setPip_same ..⟩,
    fun k u due route r ha hu => ⟨_, meshFlitArrive_line ha, ?_⟩,
    fun k due route r op ha hop => ⟨_, meshFlitArrive_line ha, ?_⟩,
    fun k n route due r ha hm hl => ⟨_, meshFlitArrive_wline ha hm hl, rfl, fun m hm => stackSt_setStack_other _ _ hm,
      stackSt_setStack_same ..⟩,
    fun k due gran e ha hd => ⟨_, meshFlitArrive_key ha, ?_⟩,
    fun k due h gran e ha hd => ⟨_, meshFlitArrive_key ha, ?_⟩,
    fun k due gran e ha hd ho hl => ⟨_, meshFlitArrive_key ha, ?_⟩,
    fun k cr d due ha hj => ⟨_, creditReturn_arrives hp ha hj, rfl, fun n hn => pipOf_setPip_other _ _ hn, ?_⟩⟩
  · exact leaveFlit_passes s p port ser data l h0
  · rw [leaveFlit_leaves s p port ser data l h0]
    refine ⟨rfl, ?_, ?_, ?_, rfl, ?_, ?_, fun k hk => pipOf_setPip_other _ _ hk⟩
    · rw [pipOf_setPip_same]; exact Tab.get_set_same ..
    · rw [pipOf_setPip_same]; exact creditOf_setCredit_same ..
    · rw [pipOf_setPip_same]; exact owedOf_setOwed_same ..
    · rw [pipOf_setPip_same]; rfl
    · rw [pipOf_setPip_same]; rfl
  · rw [lineIn_writer _ _ _ _ hu]
    exact ⟨rfl, fun n hn => pipOf_setPip_other _ _ hn, pipOf_setPip_same ..⟩
  · rw [lineIn_load]
    refine ⟨rfl, fun n hn => pipOf_setPip_other _ _ hn, rfl, (pipOf_setPip_same ..).trans ?_⟩
    show ({ pipOf s p with ops := { (pipOf s p).ops with load := (pipOf s p).ops.load.map _ } } : PipSt) = _
    rw [hop]
    rfl
  · rw [keyIn_header _ hd]
    exact ⟨rfl, by rw [podSt_setPod_same]; rfl⟩
  · rw [keyIn_draining _ hd]
    exact ⟨rfl, by rw [podSt_setPod_same]; rfl⟩
  · rw [keyIn_entry _ hd ho hl]
    obtain ⟨hpip, hpod⟩ := takeKey_takes (landed s k) p e
    exact ⟨rfl, congrArg (·.q.kq) hpip, congrArg (·.kentCnt) hpod, congrArg (·.sp) hpip⟩
  · rw [pipOf_returnCredit, pipOf_landed]
    refine ⟨owedOf_setOwed_same .., fun l ho => ?_, fun f l ho hf he => ?_, rfl⟩
    · simp [ho, takenBy_last, b2n]
    · simp [ho, takenBy_not_last l hf he, b2n]

end

/-! ## The DMA writer and the short path (O18) -/

namespace Sys2Proof.Machine

/-- Taking over an effect on the pip alone. -/
theorem settle_done (s : State) (p : Nat) (q : PipSt) : settle s p (done q) = setPip s p q := rfl

/-! ### DMA_WRITER_WRITE -/

/-- The lines that the writer of a pip holds after one has left. -/
def writerLeft (q : PipSt) (l : List WLine) : PipSt := { q with net := { q.net with writer := l } }

section
variable {s : State} {p : Nat} {w : WLine} {l : List WLine} (hp : p < 10240) (hw : (pipOf s p).net.writer = w :: l)
include hp hw

theorem dmaWriterWrite_asleep (h : padAwake s p = false) :
    exec (.dmaWriterWrite p) s = .next (enableField s (fieldOfPip p)) := by
  show execDmaWriterWrite p s = _
  unfold execDmaWriterWrite
  rw [within_lt _ hp, hw]
  exact congrArg Host.Outcome.next (if_pos (by simp [h]))

theorem dmaWriterWrite_bank (ha : padAwake s p = true) (h : bankTaken (pipOf s p) w.sp = true) :
    exec (.dmaWriterWrite p) s = .next s := by
  show execDmaWriterWrite p s = _
  unfold execDmaWriterWrite
  rw [within_lt _ hp, hw]
  dsimp only
  rw [if_neg (by simp [ha]), if_pos h]

theorem dmaWriterWrite_writes (ha : padAwake s p = true) (hb : bankTaken (pipOf s p) w.sp = false) (hu : w.unit ≤ 6) :
    exec (.dmaWriterWrite p) s = .next (lineCredit
      (settle s p (writeLine (writerLeft (pipOf s p) l) s.cycle w)) w.stack w.route w.hop) := by
  show execDmaWriterWrite p s = _
  unfold execDmaWriterWrite onPip
  rw [within_lt _ hp, hw]
  dsimp only
  rw [if_neg (by simp [ha]), if_neg (by simp [hb]), if_pos hu]
  rfl

end

/-- The line of a unit, with the bank taken and its words on their way, under a descriptor where it has one (R18, R48). -/
def lineHeld (q : PipSt) (c : Nat) (w : WLine) (d : Option (BitVec 512)) (own : Nat) : PipSt :=
  holdWrite (takeBank q w.sp) c own (padWords ((d.map dSwz).getD 0) w.sp (lineBytes w.data))

/-- A line whose descriptor is valid and whose bytes pass the region check is written. -/
theorem writeLine_passes {q : PipSt} (c : Nat) {w : WLine} {d : Option (BitVec 512)} {own : Nat}
    (hl : lineDesc q w.unit = (d, own)) (hr : inRegion q.sp q.st.context w.sp 128 = true)
    (hd : ∀ x, d = some x → dValid x = true) : writeLine q c w = done (lineLanded (lineHeld q c w d own) w.unit) := by
  unfold writeLine lineHeld
  rw [hl]
  cases d with
  | none => simp [hr]
  | some d => simp [hr, hd d rfl]

/-- A line that has landed is counted at its engine or channel, and nothing else changes (R76). -/
theorem lineLanded_eq (q : PipSt) (u : Nat) : lineLanded q u =
    { q with
      ops := { q.ops with dma0 := (lineLanded q u).ops.dma0, dma1 := (lineLanded q u).ops.dma1 }
      cnt := (lineLanded q u).cnt, eng := (lineLanded q u).eng } := by
  unfold lineLanded
  split
  · cases hd : dmaOf q (u = 6) with
    | none => rfl
    | some o => unfold setDma; dsimp only; split <;> rfl
  · rfl

theorem dmaOf_lineLanded {q : PipSt} {o : DmaOp} (h : dmaOf q false = some o) :
    dmaOf (lineLanded q 5) false = some { o with landed := o.landed + 1 } := by
  unfold lineLanded
  rw [if_pos (.inl rfl)]
  simp [setDma, dmaOf, show q.ops.dma0 = some o from h]

/-! ### SHORT_FLIT_ENTER -/

section
variable {s : State} {p n : Nat} {f : ShortFlit} {l : List ShortFlit} (hp : p < 10240) (hf : (pipOf s p).net.shortOut = f :: l)
  (hd : legDir p f = some n) (hr : f.ready < s.cycle) (hpos : shortPos s.mod.map p n (s.cycle % 4096) = true)
include hp hf hd hr hpos

theorem shortFlitEnter_enters (h : shortHeld s p n s.cycle = false) : exec (.shortFlitEnter p) s = .next
    { setPip s p (popShort s.cycle (pipOf s p)) with flight := s.flight ++ [.short p (legEnd p f) s.cycle f] } := by
  show execShortFlitEnter p s = _
  unfold execShortFlitEnter
  rw [within_lt _ hp, hf]
  dsimp only
  rw [hd]
  dsimp only
  rw [if_neg (by simp [hpos, hr]), if_neg (by simp [h])]
  rfl

theorem shortFlitEnter_defers (h : shortHeld s p n s.cycle = true) : exec (.shortFlitEnter p) s = .next
    (setPip { s with mod := { s.mod with shortDefer := bump s.mod.shortDefer 1 } } p (deferShort s.cycle (pipOf s p))) := by
  show execShortFlitEnter p s = _
  unfold execShortFlitEnter
  rw [within_lt _ hp, hf]
  dsimp only
  rw [hd]
  dsimp only
  rw [if_neg (by simp [hpos, hr]), if_pos h]
  rfl

end

theorem popShort_length {q : PipSt} {f : ShortFlit} {l : List ShortFlit} (c : Nat) (h : q.net.shortOut = f :: l) :
    (popShort c q).net.shortOut.length = l.length := by
  unfold popShort
  rw [h]
  cases l <;> rfl

theorem deferShort_eq {q : PipSt} {f : ShortFlit} {l : List ShortFlit} (c : Nat) (h : q.net.shortOut = f :: l) :
    deferShort c q = { q with net := { q.net with shortOut := { f with ready := c } :: l } } := by
  unfold deferShort
  rw [h]

/-! ### SHORT_PATH_WRITE -/

section
variable {s : State} {p : Nat} {f : ShortFlit} {l : List ShortFlit} (hp : p < 10240) (hf : (pipOf s p).net.shortBuf = f :: l)
  (hd : didWork (pipOf s p) 28 = false)
include hp hf hd

/-- The flit has left the buffer of the short-path unit. -/
def shortTaken (q : PipSt) (l : List ShortFlit) : PipSt := { notePop q 28 with net := { q.net with shortBuf := l } }

theorem shortPathWrite_sync (hs : f.sync = true) (hr : syncReady s f.addr = true) : exec (.shortPathWrite p) s = .next
    (syncAdd (setPip s p (shortTaken (pipOf s p) l)) f.addr f.add) := by
  show execShortPathWrite p s = _
  unfold execShortPathWrite
  dsimp only
  rw [within_lt _ hp, hf]
  dsimp only
  rw [if_neg (by simp [hd]), if_pos hs, if_pos hr]
  rfl

theorem shortPathWrite_wide (hs : f.sync = false) (ha : padAwake s p = true)
    (hr : inRegion (pipOf s p).sp f.ctx f.addr f.data.length = true) (hb : bankTaken (pipOf s p) f.addr = false) :
    exec (.shortPathWrite p) s = .next (shortWrite (setPip s p (notePop (pipOf s p) 28)) p f) := by
  show execShortPathWrite p s = _
  unfold execShortPathWrite
  dsimp only
  rw [within_lt _ hp, hf]
  dsimp only
  rw [if_neg (by simp [hd]), if_neg (by simp [hs]), if_neg (by simp [ha]), if_neg (by simp [hr]), if_neg (by simp [hb])]
  rfl

end

/-- A flit of which nothing is left leaves the buffer. -/
theorem restShort_whole (f : ShortFlit) (q : PipSt) :
    restShort f f.data.length q = { q with net := { q.net with shortBuf := q.net.shortBuf.drop 1 } } := by
  unfold restShort
  rw [if_neg (Nat.lt_irrefl _)]
  rfl

/-- A flit whose bytes lie in one line, and which is not the last of its SPUT, is written whole and leaves the buffer. -/
theorem shortWrite_line (s : State) (p : Nat) {f : ShortFlit} (hl : f.last = false) (hn : f.data.length ≤ 128 - f.addr % 128) :
    shortWrite s p f = setPip s p
      (let q := { pipOf s p with net := { (pipOf s p).net with shortBuf := (pipOf s p).net.shortBuf.drop 1 } }
       holdWrite (takeBank q f.addr) s.cycle 0 (padWords 0 f.addr f.data)) := by
  unfold shortWrite putWritten
  dsimp only
  rw [Nat.min_eq_left hn, if_neg (Nat.lt_irrefl _), if_pos (by simp [hl]), List.take_length, modPip_eq, restShort_whole]

end Sys2Proof.Machine

section
open Sys2Proof Sys2Proof.Machine

/-- Settles O18: each clause of a unit is one branch of it, whose guards the hypotheses decide; whole words that a bank stores are
the run of their bytes. -/
theorem writerAndShortPath : Obligations.WriterAndShortPath := by
  unfold Obligations.WriterAndShortPath
  refine ⟨fun s p hp => ⟨fun w l d own hw ha hb hu hr hd hv => ⟨_, dmaWriterWrite_writes hp hw ha hb hu, ?_⟩,
      fun w l hw ha hb => ⟨s, dmaWriterWrite_bank hp hw ha hb, rfl⟩,
      fun w l hw ha => ⟨_, dmaWriterWrite_asleep hp hw ha, rfl⟩,
      fun f l n hf hd hr hpos => ⟨fun h => ⟨_, shortFlitEnter_enters hp hf hd hr hpos h, rfl, ?_⟩,
        fun h => ⟨_, shortFlitEnter_defers hp hf hd hr hpos h, ?_⟩⟩,
      fun f l hf hd hs hr => ⟨_, shortPathWrite_sync hp hf hd hs hr, ?_, ?_, ?_, fun i hi => ?_⟩,
      fun f l hf hd hs hl ha hn hr hb => ⟨_, shortPathWrite_wide hp hf hd hs ha hr hb, ?_⟩⟩,
    fun q a bs ha hl => ⟨rfl, rfl, fun b => ?_⟩⟩
  · rw [writeLine_passes (q := writerLeft (pipOf s p) l) s.cycle hd hr hv, settle_done]
    have hland := (pipOf_setPip_same s p _).trans (lineLanded_eq (lineHeld (writerLeft (pipOf s p) l) s.cycle w d own) w.unit)
    refine ⟨rfl, fun k hk => pipOf_setPip_other _ _ hk, (congrArg (·.net.writer) hland :), (congrArg (·.regs) hland :),
      (congrArg (·.sp) hland :), (congrArg (·.cyc.banks) hland :), (congrArg (·.ops.writes) hland :), fun o hu5 ho => ?_⟩
    refine (congrArg (dmaOf · false) (pipOf_setPip_same s p _)).trans ?_
    rw [hu5]
    exact dmaOf_lineLanded ho
  · exact (congrArg (fun q : PipSt => q.net.shortOut.length) (pipOf_setPip_same ..)).trans (popShort_length _ hf)
  · rw [deferShort_eq _ hf]
  · unfold syncAdd syncSet; rfl
  · exact congrArg (fun q : PipSt => q.net.shortBuf) (pipOf_setPip_same ..)
  · exact syncVal_syncSet_same ..
  · exact syncVal_syncSet_other _ _ hi
  · rw [shortWrite_line _ _ hl hn, pipOf_setPip_same]
    have hpip := pipOf_setPip_same (setPip s p (notePop (pipOf s p) 28)) p
    refine ⟨rfl, (congrArg (·.net.shortBuf) (hpip _)).trans (congrArg (List.drop 1) hf), (congrArg (·.regs) (hpip _) :),
      fun k hk => ?_, (congrArg (·.sp) (hpip _) :), (congrArg (·.ops.writes) (hpip _) :)⟩
    rw [pipOf_setPip_other _ _ hk, pipOf_setPip_other _ _ hk]
  · rw [storeWords_padWords_mem q ha hl, Tab.get_setMany]

end

/-! ## Instructions that are held, and instructions that end their job (O8) -/

namespace Sys2Proof.Machine

/-! ### While the programs load (R468) -/

/-- The instruction tries to issue as instruction of stream `x` of pip `p`, and does no more. -/
def IssuesBy (p : Nat) (x : Bool) (i : Instr) : Prop := ∀ s, ∃ act, exec i s = within 10240 p (issueBy s p x i act)

theorem decodeBoth_issuesBy {p w : Nat} {x : Bool} {i : Instr} (h : decodeBoth p x w = some i) : IssuesBy p x i := by
  unfold decodeBoth at h
  dsimp only at h
  split at h
  all_goals cases h
  all_goals exact fun s => ⟨_, rfl⟩

theorem issueRing_issuesBy {p rfn : Nat} {i : Instr} {o : GOp} (h : ∀ s, exec i s = within 10240 p (issueRing s p rfn i o)) :
    IssuesBy p true i := by
  intro s
  rw [h]
  unfold issueRing issue
  exact ⟨_, rfl⟩

theorem decodeRing_issuesBy {p w : Nat} {i : Instr} (h : decodeRing p w = some i) : IssuesBy p true i := by
  unfold decodeRing at h
  dsimp only at h
  split at h
  all_goals cases h
  all_goals exact issueRing_issuesBy fun s => rfl

/-- An instruction of the execute stream does no more than to try to issue; TMODE also draws free values. -/
theorem decodeExe_issuesBy {p w : Nat} {i : Instr} (h : decodeExe p w = some i) :
    IssuesBy p true i ∨ ∃ d m, i = .tmode p d m := by
  unfold decodeExe at h
  dsimp only at h
  split at h
  case h_5 => cases h; exact .inr ⟨_, _, rfl⟩
  case h_6 => exact .inl (decodeRing_issuesBy h)
  case h_13 => exact .inl (decodeBoth_issuesBy h)
  all_goals cases h
  all_goals exact .inl fun s => ⟨_, rfl⟩

/-- An instruction of the access stream does no more than to try to issue; STRM also has the job and the key tables to look at. -/
theorem decodeAcc_issuesBy {p w : Nat} {i : Instr} (h : decodeAcc p w = some i) :
    IssuesBy p false i ∨ (∃ d a e, i = .strmStart p d a e) ∨ ∃ d e, i = .strmWait p d e := by
  unfold decodeAcc at h
  dsimp only at h
  split at h
  case h_10 =>
    split at h <;> cases h
    · exact .inr (.inr ⟨_, _, rfl⟩)
    · exact .inr (.inl ⟨_, _, _, rfl⟩)
  case h_12 => exact .inl (decodeBoth_issuesBy h)
  all_goals cases h
  all_goals exact .inl fun s => ⟨_, rfl⟩

section
variable {s : State} {p : Nat} {x : Bool} {i : Instr}

/-- The next instruction of a stream is that of a running job. -/
theorem isNext_job (h : isNext s p x i = true) : ∃ j, jobOfPip s p = some j ∧ j.phase = .running := by
  unfold isNext streamDue at h
  cases hj : jobOfPip s p with
  | none => simp [hj] at h
  | some j =>
    simp only [hj, Bool.and_eq_true, decide_eq_true_eq] at h
    exact ⟨j, rfl, by tauto⟩

theorem isNext_decodes (h : isNext s p x i = true) : ∃ w, decodeWord p x w = some i := by
  unfold isNext readInstr at h
  cases hj : jobOfPip s p with
  | none => simp [hj] at h
  | some j =>
    simp only [hj, Bool.and_eq_true, decide_eq_true_eq] at h
    exact ⟨_, h.2⟩

/-- The stream is held by the load of its job's programs. -/
def loadHeld (s : State) (p : Nat) (x : Bool) : State := setPip s p (heldPip (pipOf s p) x [⟨causeBusy, 0⟩])

theorem issueBy_loading (h : isNext s p x i = true) (hc : canIssue s p = false) (act : PipSt → Attempt) :
    issueBy s p x i act = loadHeld s p x := by
  unfold issueBy
  rw [h, hc]
  rfl

/-- While the programs load, the next instruction is held, whichever it is. -/
theorem exec_loading (hp : p < 10240) (h : isNext s p x i = true) (hc : canIssue s p = false) :
    exec i s = .next (loadHeld s p x) := by
  have hplain (hi : IssuesBy p x i) : exec i s = .next (loadHeld s p x) := by
    obtain ⟨act, he⟩ := hi s
    rw [he, within_lt _ hp, issueBy_loading h hc]
  obtain ⟨j, hj, -⟩ := isNext_job h
  obtain ⟨w, hw⟩ := isNext_decodes h
  cases x with
  | true =>
    rcases decodeExe_issuesBy hw with hi | ⟨d, m, rfl⟩
    · exact hplain hi
    · show execTmode p d m s = _
      unfold execTmode issue
      rw [within_lt _ hp, issueBy_loading h hc]
      exact congrArg Host.Outcome.next (if_pos (congrArg (fun q : PipSt => q.ten.switchTo) (pipOf_setPip_same ..)))
  | false =>
    rcases decodeAcc_issuesBy hw with hi | ⟨d, a, e, rfl⟩ | ⟨d, e, rfl⟩
    · exact hplain hi
    · have heng : engOf (pipOf (loadHeld s p false) p) 4 = engOf (pipOf s p) 4 := by
        unfold loadHeld
        rw [pipOf_setPip_same]
        rfl
      show execStrmStart p d a e s = _
      unfold execStrmStart issue
      rw [within_lt _ hp, hj]
      dsimp only
      rw [issueBy_loading h hc, if_neg (by simp [heng])]
    · show execStrmWait p d e s = _
      unfold execStrmWait issue
      rw [within_lt _ hp, hj]
      exact congrArg Host.Outcome.next (issueBy_loading h hc _)

end

/-! ### Causes of a hold -/

theorem worst_cons (a : Bool × Stall) (l : List (Bool × Stall)) : worst (a :: l) ≠ none := by
  unfold worst
  split
  · simp
  · split <;> simp

theorem worst_eq_none {l : List (Bool × Stall)} : worst l = none ↔ l = [] := by
  cases l with
  | nil => simp [worst]
  | cons a l => simp [worst_cons]

/-- The stall that is recorded of a cycle is one of its stalls, and none has a lower cause (R45). -/
theorem worst_lowest {l : List (Bool × Stall)} {h : Bool × Stall} (hw : worst l = some h) :
    h ∈ l ∧ ∀ g ∈ l, h.2.cause % 16 ≤ g.2.cause % 16 := by
  induction l generalizing h with
  | nil => cases hw
  | cons a l ih =>
    unfold worst at hw
    cases hb : worst l with
    | none =>
      rw [hb] at hw
      cases hw
      simp [worst_eq_none.mp hb]
    | some b =>
      obtain ⟨hmem, hlow⟩ := ih hb
      rw [hb] at hw
      dsimp only at hw
      split at hw
      · next hba =>
        cases hw
        have hle : h.2.cause % 16 ≤ a.2.cause % 16 := by
          simp only [Stall.before, Bool.or_eq_true, Bool.and_eq_true, decide_eq_true_eq] at hba
          omega
        exact ⟨List.mem_cons_of_mem _ hmem, List.forall_mem_cons.mpr ⟨hle, hlow⟩⟩
      · next hba =>
        cases hw
        have hle : a.2.cause % 16 ≤ b.2.cause % 16 := by
          simp only [Stall.before, Bool.or_eq_true, decide_eq_true_eq] at hba
          omega
        exact ⟨List.mem_cons_self, List.forall_mem_cons.mpr ⟨Nat.le_refl _, fun g hg => hle.trans (hlow g hg)⟩⟩

/-- The end of a cycle counts each stream that was held and records the lowest cause (R45). -/
theorem account_records (q : PipSt) (hne : q.cyc.holds ≠ []) :
    ∃ h ∈ q.cyc.holds, (account q).st.cause = h.2.cause % 16 ∧ (account q).st.stream = h.1 ∧
      ∀ g ∈ q.cyc.holds, h.2.cause % 16 ≤ g.2.cause % 16 := by
  obtain ⟨h, hw⟩ := Option.ne_none_iff_exists'.mp (mt worst_eq_none.mp hne)
  obtain ⟨hmem, hlow⟩ := worst_lowest hw
  refine ⟨h, hmem, ?_, ?_, hlow⟩
  all_goals
    unfold account
    dsimp only
    rw [hw]

theorem account_idle (q : PipSt) (h : q.cyc.holds = []) : (account q).st = q.st := by
  unfold account
  dsimp only
  rw [h]
  rfl

theorem regWait_canRead {s : State} {p : Nat} {rs : List Nat} (h : CanRead s p rs) : regWait (pipOf s p) s.cycle rs = [] := by
  unfold regWait
  rw [if_neg]
  simpa [CanRead] using h

end Sys2Proof.Machine

/-! ### The pips of a job that ends (R46) -/

namespace Sys2Proof.Machine

/-- What the end of a job settles of a pip. -/
def PipSt.work (q : PipSt) : Nat × Byte × PipOps × Tab Engine × PipQ := (q.job, q.st.lastCode, q.ops, q.eng, q.q)

/-- The pip has no job, no operation in progress and idle engines, and reports the code; with a code other than E_OK its queues are
empty. -/
def EndedWith (code : Byte) (w : Nat × Byte × PipOps × Tab Engine × PipQ) : Prop :=
  w.1 = 0 ∧ w.2.1 = code ∧ w.2.2.1 = {} ∧ w.2.2.2.1 = [] ∧ (code ≠ eOk → w.2.2.2.2 = {})

/-- An update of pips that leaves what the end of a job settles. -/
theorem work_modPip {f : PipSt → PipSt} (h : ∀ q, (f q).work = q.work) (s : State) (p k : Nat) :
    (pipOf (modPip s p f) k).work = (pipOf s k).work := by
  rw [modPip_eq]
  by_cases hk : k = p
  · rw [hk, pipOf_setPip_same, h]
  · rw [pipOf_setPip_other _ _ hk]

theorem work_undefBytes (s : State) (p a n k : Nat) : (pipOf (undefBytes s p a n) k).work = (pipOf s k).work := by
  show (pipOf (modPip s p fun q => { q with sp := { q.sp with mem := Tab.setMany 0 q.sp.mem a (freeBytes s n) } }) k).work = _
  refine work_modPip ?_ s p k
  exact fun _ => rfl

theorem work_undefRun (p : Nat) (r : Int × Nat) (k : Nat) (s : State) : (pipOf (undefRun p r s) k).work = (pipOf s k).work := by
  unfold undefRun
  dsimp only
  split
  · exact work_undefBytes ..
  · rfl

theorem clearPip_ended (code : Byte) (q : PipSt) : EndedWith code (clearPip code q).work :=
  ⟨rfl, rfl, rfl, rfl, fun h => if_neg h⟩

theorem endPip_ended (code : Byte) (p : Nat) (s : State) : EndedWith code (pipOf (endPip code p s) p).work := by
  unfold endPip
  dsimp only
  rw [modPip_eq, pipOf_setPip_same]
  exact clearPip_ended ..

theorem work_endPip_other (code : Byte) {p k : Nat} (hk : k ≠ p) (s : State) :
    (pipOf (endPip code p s) k).work = (pipOf s k).work := by
  unfold endPip
  dsimp only
  rw [modPip_eq, pipOf_setPip_other _ _ hk]
  have h : pipOf (modPip s p (commitWrites (s.cycle + 2))) k = pipOf s k := pipOf_setPip_other _ _ hk
  split
  · rw [h]
  · exact (forAll_keeps (fun s => (pipOf s k).work) (fun r s => work_undefRun p r k s) _ _).trans (congrArg PipSt.work h)

/-- Every pip of a job has ended. -/
theorem endPips_ended (code : Byte) (l : List Nat) (s : State) :
    ∀ k ∈ l, EndedWith code (pipOf (forAll l (endPip code) s) k).work :=
  forAll_reaches (J := fun _ => True) (P := fun k s => EndedWith code (pipOf s k).work) (fun _ _ _ => trivial)
    (fun p s _ => endPip_ended code p s)
    (fun p k s h => by
      by_cases hk : k = p
      · rw [hk]; exact endPip_ended ..
      · rw [work_endPip_other code hk]; exact h) l trivial

/-! What follows in the end of a job leaves that. -/

theorem pips_endChecker (d : Nat) (s : State) : (endChecker d s).pips = s.pips := rfl

theorem pips_dropWork (l : List Nat) (keys : Bool) (s : State) : (dropWork l keys s).pips = s.pips := by
  unfold dropWork
  dsimp only
  refine (forAll_keeps State.pips (fun _ _ => ?_) (List.range 12) _).trans rfl
  rfl

theorem work_dropShort (l : List Nat) (p k : Nat) (s : State) : (pipOf (dropShort l p s) k).work = (pipOf s k).work := by
  refine work_modPip ?_ s p k
  exact fun _ => rfl

theorem pips_fabricRecord (s : State) (r : TraceRec) : (fabricRecord s r).pips = s.pips := by rw [fabricRecord_eq]

theorem work_undefDest (d : Nat × Nat) (k : Nat) (s : State) : (pipOf (undefDest d s) k).work = (pipOf s k).work := by
  unfold undefDest undefObject
  exact forAll_keeps (fun s => (pipOf s k).work) (fun r s => work_undefBytes ..) _ _

theorem pips_returnVrun (s : State) (f : Nat) : (returnVrun s f).pips = s.pips := by
  unfold returnVrun
  dsimp only
  split <;> rfl

theorem pips_dropStep (s : State) (j f : Nat) : (dropStep s j f).pips = s.pips := by
  unfold dropStep
  split
  · rw [pips_returnVrun]; rfl
  · rfl

theorem pips_leavePods (j : Job) (code : Byte) (s : State) : (leavePods j code s).pips = s.pips := by
  unfold leavePods
  dsimp only
  refine (forAll_keeps State.pips (fun f s => ?_) _ _).trans ?_
  · rw [modField_eq]; exact pips_dropStep ..
  refine (forAll_keeps State.pips (fun d s => ?_) _ _).trans ?_
  · exact pips_fabricRecord ..
  refine (forAll_keeps State.pips (fun d s => ?_) _ _).trans rfl
  rfl

/-- The discards that follow the end of pips leave what it settled. -/
theorem work_discards (l pips : List Nat) (keys : Bool) (k : Nat) (s : State) :
    (pipOf (forAll l (dropShort pips) (dropWork pips keys s)) k).work = (pipOf s k).work := by
  refine (forAll_keeps (fun s => (pipOf s k).work) (fun p s => work_dropShort pips p k s) _ _).trans ?_
  unfold pipOf
  rw [pips_dropWork]

/-- Every pip of a job that ends while it runs has ended with its code. -/
theorem endJob_ended (s : State) {j : Job} {code : Byte} (site : Nat) (hr : j.phase = .running) (hc : code ≠ eKeyset) :
    ∀ k ∈ jobPips j, EndedWith code (pipOf (endJob s j code site) k).work := by
  intro k hk
  have hof {t u : State} (h : t.pips = u.pips) : (pipOf t k).work = (pipOf u k).work := by unfold pipOf; rw [h]
  unfold endJob
  rw [if_neg (by simp [hr])]
  extract_lets pips live drain t1 t2 t3 t4
  have hlive : live := .inr hr
  have h1 : EndedWith code (pipOf t1 k).work := by
    have he : t1.pips = (forAll pips (endPip code) s).pips := by
      show State.pips (if live then _ else _) = _
      rw [if_pos hlive]
      exact forAll_keeps State.pips (fun d s => pips_endChecker d s) _ _
    rw [hof he]
    exact endPips_ended code pips s k hk
  have h2 : (pipOf t2 k).work = (pipOf t1 k).work := by
    show (pipOf (if _ then _ else _) k).work = _
    rw [if_pos (.inl hlive)]
    exact work_discards ..
  have h3 : (pipOf t3 k).work = (pipOf t2 k).work := by
    show (pipOf (if _ then _ else _) k).work = _
    split
    · rfl
    · exact hof (forAll_keeps State.pips (fun d s => pips_fabricRecord ..) _ _)
  have h4 : (pipOf t4 k).work = (pipOf t3 k).work := by
    show (pipOf (if _ then _ else _) k).work = _
    split
    · rfl
    · exact forAll_keeps (fun s => (pipOf s k).work) (fun d s => work_undefDest d k s) _ _
  rw [if_neg fun h : drain => hc h.1, hof (pips_leavePods ..)]
  show EndedWith code (pipOf t4 k).work
  rw [h4, h3, h2]
  exact h1

/-- A pip in the rectangle of a job is one of its pips. -/
theorem mem_jobPips {p : Nat} {j : Job} (h : inJob p j = true) : p ∈ jobPips j := by
  have hspan {lo hi n : Nat} (h1 : lo ≤ n) (h2 : n ≤ hi) : n ∈ span lo hi :=
    List.mem_map.mpr ⟨n - lo, List.mem_range.mpr (by omega), by omega⟩
  simp only [inJob, Bool.and_eq_true, decide_eq_true_eq] at h
  obtain ⟨⟨⟨hx0, hx1⟩, hy0⟩, hy1⟩ := h
  exact List.mem_flatMap.mpr ⟨pipY p, hspan hy0 hy1, List.mem_map.mpr ⟨pipX p, hspan hx0 hx1, pipAt_coordinates p⟩⟩

/-! ### The end of the job of a pip -/

theorem applyFx_pips_jobs (p : Nat) (f : Fx) (s : State) : (applyFx p f s).pips = s.pips ∧ (applyFx p f s).jobs = s.jobs := by
  cases f with
  | spUe a =>
    show (noteSite s p a).pips = _ ∧ (noteSite s p a).jobs = _
    unfold noteSite
    dsimp only
    split
    · exact ⟨rfl, rfl⟩
    · split <;> exact ⟨rfl, rfl⟩
  | stallEnd x h =>
    show (if _ then pipRecord s p _ else s).pips = _ ∧ (if _ then pipRecord s p _ else s).jobs = _
    split
    · rw [pipRecord_eq]; exact ⟨rfl, rfl⟩
    · exact ⟨rfl, rfl⟩
  | _ => exact ⟨rfl, rfl⟩

theorem applyFxs_pips_jobs (p : Nat) (l : List Fx) (s : State) :
    (forAll l (applyFx p) s).pips = s.pips ∧ (forAll l (applyFx p) s).jobs = s.jobs :=
  Prod.mk.inj (forAll_keeps (fun s : State => (s.pips, s.jobs)) (fun f s => Prod.ext (applyFx_pips_jobs p f s).1 (applyFx_pips_jobs p f s).2) l s)

/-- An operation that fails on a pip whose job runs ends that job: the pip has no job and no operation, and reports the code. -/
theorem settle_fails {s : State} {p : Nat} {j : Job} {q : PipSt} {c : Byte} {fx : List Fx} (hj : jobOfPip s p = some j)
    (hr : j.phase = .running) (hq : q.job = (pipOf s p).job) (hc : c ≠ eKeyset) (hu : fx.any isUe = false) :
    EndedWith c (pipOf (settle s p ⟨q, some c, fx⟩) p).work := by
  obtain ⟨hpips, hjobs⟩ := applyFxs_pips_jobs p fx (setPip s p q)
  have hpip : pipOf (forAll fx (applyFx p) (setPip s p q)) p = q := by
    unfold pipOf
    rw [hpips]
    exact pipOf_setPip_same ..
  have hjob : jobOfPip (forAll fx (applyFx p) (setPip s p q)) p = some j := by
    unfold jobOfPip jobOf at hj ⊢
    rw [hpip, hjobs, hq]
    exact hj
  have hin : inJob p j = true := by
    unfold jobOfPip at hj
    split at hj
    · cases hj
    · exact (Option.filter_eq_some_iff.mp hj).2
  unfold settle failPip
  dsimp only
  rw [hjob]
  dsimp only
  rw [hu, if_neg (by simp)]
  exact endJob_ended _ _ hr hc p (mem_jobPips hin)

end Sys2Proof.Machine

/-! ### Transfers stay on the job of their pip -/

namespace Sys2Proof.Machine

section
variable (q : PipSt)

@[simp] theorem takeBank_job (a : Int) : (takeBank q a).job = q.job := rfl
@[simp] theorem addHold_job (x : Bool) (w : Stall) : (addHold q x w).job = q.job := rfl
@[simp] theorem padWrite_job (c id : Nat) (ws : List PadWord) : (padWrite q c id ws).job = q.job := rfl
@[simp] theorem fillLater_job (c k : Nat) (e : LqEntry) : (fillLater q c k e).job = q.job := rfl
@[simp] theorem sendLater_job (c id port : Nat) (l : List Flit) : (sendLater q c id port l).job = q.job := rfl
@[simp] theorem popSq_job (i : Nat) : (popSq q i).job = q.job := rfl
@[simp] theorem popIngress_job (i : Nat) : (popIngress q i).job = q.job := rfl
@[simp] theorem addWatch_job (h z s n : Nat) : (addWatch q h z s n).job = q.job := rfl
@[simp] theorem watchBatch_job (x : Xfer) (b : Batch) : (watchBatch q x b).job = q.job := rfl
@[simp] theorem pushDest_job (k : Nat) (e : LqEntry) : (pushDest q k e).job = q.job := by
  unfold pushDest enterDest
  split <;> rfl
@[simp] theorem popIdx_job (x : Xfer) : (popIdx q x).job = q.job := by
  unfold popIdx
  split <;> rfl

@[simp] theorem noteRead_job (w : Nat) (r : WordRead) : (noteRead q w r).p.job = q.job := by
  unfold noteRead
  split
  · rfl
  · split <;> rfl

end

@[simp] theorem readWords_job (ws : List Nat) (q : PipSt) : (readWords q ws).2.p.job = q.job := by
  induction ws generalizing q with
  | nil => rfl
  | cons w ws ih => exact (ih _).trans (noteRead_job ..)

@[simp] theorem readAt_job (q : PipSt) (g a n : Nat) : (readAt q g a n).2.p.job = q.job := readWords_job ..
@[simp] theorem spRead_job (q : PipSt) (a n : Nat) : (spRead q a n).2.p.job = q.job := readWords_job ..

@[simp] theorem mergeReads_job (ws : List Nat) (q : PipSt) : (mergeReads q ws).2.p.job = q.job := by
  induction ws generalizing q with
  | nil => rfl
  | cons w ws ih => exact (ih _).trans (noteRead_job ..)

@[simp] theorem mergeBytes_job (q : PipSt) (w : Nat) (l : List (Nat × Byte)) : (mergeBytes q w l).2.p.job = q.job := mergeReads_job ..

@[simp] theorem storeBytes_job (q : PipSt) (c id g : Nat) (a : Int) (bs : List Byte) : (storeBytes q c id g a bs).p.job = q.job := by
  unfold storeBytes
  split <;> rfl

theorem liftX_job (r : PRes) (x : Xfer) : (liftX r x).p.job = r.p.job := rfl

theorem andThen_job {f : PipSt → PRes} (h : ∀ q, (f q).p.job = q.job) (r : PRes) : (r.andThen f).p.job = r.p.job := by
  unfold PRes.andThen
  split
  · rfl
  · exact h _

theorem watchBatches_job {α : Type} (x : Xfer) (b : α → Batch) (l : List α) (q : PipSt) :
    (l.foldl (fun p e => watchBatch p x (b e)) q).job = q.job := by
  induction l generalizing q with
  | nil => rfl
  | cons e l ih => exact ih _

@[simp] theorem watchPred_job (q : PipSt) (x : Xfer) (b : Batch) (bad : Bool) : (watchPred q x b bad).1.job = q.job := by
  unfold watchPred
  dsimp only
  split
  · rfl
  · split <;> rfl

@[simp] theorem endPred_job (q : PipSt) (x : Xfer) (n : Int) : (endPred q x n).1.job = q.job := by
  unfold endPred
  dsimp only
  split
  · rfl
  · dsimp only
    split <;> rfl

theorem endPredIf_job (b : Prop) [Decidable b] (q : PipSt) (x y : Xfer) (n : Int) :
    (if b then (q, x) else endPred q y n).1.job = q.job := by
  split
  · rfl
  · exact endPred_job ..

@[simp] theorem storeSlot_job (q : PipSt) (c : Nat) (x : Xfer) (la : Int) (n : Nat) (vs : List Word32) :
    (storeSlot q c x la n vs).p.job = q.job := by
  unfold storeSlot
  dsimp only
  split
  · exact storeBytes_job ..
  · split
    · exact (andThen_job (fun q => rfl) _).trans (storeBytes_job ..)
    · split
      · exact (andThen_job (fun q => watchBatches_job ..) _).trans (storeBytes_job ..)
      · split
        · exact storeBytes_job ..
        · exact (endPredIf_job ..).trans ((watchPred_job ..).trans (storeBytes_job ..))

@[simp] theorem bufStep_job (q : PipSt) (c : Nat) (x : Xfer) (a : BufAct) : (bufStep q c x a).p.job = q.job := by
  cases a <;> unfold bufStep <;> dsimp only <;> split <;> simp

@[simp] theorem readWide_job (q : PipSt) (x : Xfer) (w : Wide) : (readWide q x w).2.p.job = q.job := by
  cases w with
  | outside => rfl
  | line a => exact readAt_job ..
  | words l => exact readWords_job ..

theorem wideRead_job {f : PipSt → Xfer → List Byte → XRes} (hf : ∀ q x bs, (f q x bs).p.job = q.job) (q : PipSt) (x : Xfer) (w : Wide) :
    (wideRead q x w f).p.job = q.job := by
  have htook : (takeBank (if x.cyc = 0 then q else addHold q false ⟨causeBank, 0⟩) (wideFirst w)).job = q.job := by
    split <;> rfl
  unfold wideRead
  split
  · rfl
  · dsimp only
    split
    · exact htook
    · split
      · exact (readWide_job ..).trans htook
      · exact (hf ..).trans ((readWide_job ..).trans htook)

/-- What an access that is made leaves of its pip: the job. -/
def XTry.KeepsJob (q : PipSt) : XTry → Prop
  | .moved r => r.p.job = q.job
  | _ => True

theorem keepsJob_unless {q : PipSt} (ws : List Stall) {r : XRes} (h : r.p.job = q.job) : (unless_ ws r).KeepsJob q := by
  unfold unless_
  split
  · exact h
  · trivial

theorem keepsJob_bufTry (q : PipSt) (c : Nat) (x : Xfer) (a : BufAct) : (bufTry q c x a).KeepsJob q := keepsJob_unless _ (bufStep_job ..)

theorem keepsJob_slotTry {q : PipSt} (c : Nat) (x : Xfer) (ws : List Stall) (n : Nat) {f : Int → XRes} (h : ∀ a, (f a).p.job = q.job) :
    (slotTry q c x ws n f).KeepsJob q := by
  unfold slotTry
  split
  · exact keepsJob_unless _ rfl
  · split
    · exact keepsJob_bufTry ..
    · exact keepsJob_unless _ (h _)

theorem keepsJob_ldqStep (q : PipSt) (c : Nat) (x : Xfer) : (ldqStep q c x).KeepsJob q := by
  unfold ldqStep
  dsimp only
  split
  · exact keepsJob_unless _ rfl
  · split
    · exact keepsJob_unless _ (by simp)
    · split
      · exact keepsJob_bufTry ..
      · exact keepsJob_unless _ (wideRead_job (fun q x bs => by simp) ..)

/-- An access of STQ takes the head of its store queue and of its index entry. -/
theorem popEntry_job (q : PipSt) (x : Xfer) (i : Nat) : (popIdx (popSq q i) x).job = q.job := popIdx_job ..

theorem keepsJob_stqStep (q : PipSt) (c : Nat) (x : Xfer) : (stqStep q c x).KeepsJob q := by
  unfold stqStep
  dsimp only
  split
  · split
    · exact keepsJob_bufTry ..
    · trivial
  · split
    · exact keepsJob_unless _ rfl
    · split
      · exact keepsJob_unless _ ((liftX_job ..).trans ((storeBytes_job ..).trans (popEntry_job ..)))
      · split
        · split
          · exact keepsJob_bufTry ..
          · refine keepsJob_unless _ ?_
            split
            · exact popEntry_job ..
            · exact popEntry_job ..
        · split
          · trivial
          · exact keepsJob_slotTry _ _ _ _ fun a => (storeSlot_job ..).trans (popEntry_job ..)

theorem keepsJob_msndStep (q : PipSt) (c : Nat) (x : Xfer) : (msndStep q c x).KeepsJob q := by
  unfold msndStep
  dsimp only
  split
  · exact keepsJob_unless _ (by simp)
  · split
    · exact keepsJob_unless _ rfl
    · split
      · exact keepsJob_unless _ (by simp)
      · exact keepsJob_unless _ (wideRead_job (fun q x bs => by simp) ..)

theorem keepsJob_mrcvStep (q : PipSt) (c : Nat) (x : Xfer) : (mrcvStep q c x).KeepsJob q := by
  unfold mrcvStep
  dsimp only
  split
  · exact keepsJob_unless _ rfl
  · split
    · exact keepsJob_unless _ (by simp [liftX, done])
    · split
      · exact keepsJob_unless _ rfl
      · split
        · exact keepsJob_unless _ rfl
        · exact keepsJob_unless _ rfl
        · exact keepsJob_unless _ (by simp [liftX])

theorem keepsJob_xferStep (q : PipSt) (c : Nat) (x : Xfer) : (xferStep q c x).KeepsJob q := by
  unfold xferStep
  split
  · trivial
  · split
    · split
      · trivial
      · exact keepsJob_ldqStep ..
    · exact keepsJob_stqStep ..
    · split
      · trivial
      · exact keepsJob_msndStep ..
    · split
      · trivial
      · exact keepsJob_mrcvStep ..

end Sys2Proof.Machine

/-! ### Attempts that fail -/

namespace Sys2Proof.Machine

theorem stallFx_noUe (q : PipSt) (x : Bool) (fx : List Fx) : (stallFx q x ++ fx).any isUe = fx.any isUe := by
  unfold stallFx
  split <;> simp [isUe]

section
variable {s : State} {p : Nat} {x ok : Bool} {i : Instr} {f : PipSt → Attempt} {r : PRes} {c : Byte}

/-- An instruction that acts and fails does not issue: its code and its effects are what the pip settles. -/
theorem issue_fails (hr : Ready s p x i) (hok : ok = true) (hf : f (pipOf s p) = .acts r) (hn : r.fail = some c) :
    issue s p x i ok f = settle s p ⟨r.p, some c, stallFx (pipOf s p) x ++ r.fx⟩ := by
  unfold issue
  rw [issueBy_ready hr, hok]
  simp [hf, PRes.andThen, hn]

theorem issue_failWith (hr : Ready s p x i) (hok : ok = true) (hf : f (pipOf s p) = .acts (failWith (pipOf s p) c)) :
    issue s p x i ok f = settle s p ⟨pipOf s p, some c, stallFx (pipOf s p) x⟩ := by
  rw [issue_fails hr hok hf rfl]
  exact congrArg (fun fx => settle s p ⟨pipOf s p, some c, fx⟩) (List.append_nil _)

end

/-! ### The four transfers as one (R71, R73) -/

/-- The transfer of a kind. -/
def transferInstr (k : XKind) (p d : Nat) (o : QOp) : Instr :=
  match k with
  | .ldq => .ldq p d o
  | .stq => .stq p d o
  | .msnd => .msnd p d o
  | .mrcv => .mrcv p d o

/-- Its operands are in range. -/
def transferOk (k : XKind) (o : QOp) : Bool :=
  match k with
  | .ldq => ldqOk o
  | .stq => stqOk o
  | .msnd => msndOk o
  | .mrcv => mrcvOk o

section
variable {s : State} {p d : Nat} {k : XKind} {o : QOp}

theorem exec_transferInstr (hp : p < 10240) :
    exec (transferInstr k p d o) s =
      .next (issue s p false (transferInstr k p d o) (transferOk k o) (startXfer k o s.cycle)) := by
  rw [← within_lt (n := 10240) (i := p) _ hp]
  cases k <;> rfl

theorem transferOk_count (h : transferOk k o = true) : 1 ≤ o.count := by
  have hq (f : Nat → Bool) (h : qOk f o = true) : 1 ≤ o.count := by
    simp only [qOk, Bool.and_eq_true, decide_eq_true_eq] at h
    tauto
  unfold transferOk at h
  cases k
  all_goals exact hq _ h

/-- A transfer with operands out of range ends its job. -/
theorem transferInstr_refused (hok : transferOk k o = false) (hr : Ready s p false (transferInstr k p d o)) :
    Answers (transferInstr k p d o) s fun t => t = settle s p ⟨pipOf s p, some eDesc, stallFx (pipOf s p) false⟩ :=
  ⟨_, exec_transferInstr hr.1, issue_refused hr hok⟩

/-- A transfer that breaks a rule of its descriptor at issue ends its job. -/
theorem transferInstr_breaksRule (hok : transferOk k o = true) (hbusy : xferBusy (pipOf s p) (xferOf (pipOf s p) s.cycle k o) = [])
    (hrule : issueRules (xferOf (pipOf s p) s.cycle k o) = false) (hr : Ready s p false (transferInstr k p d o)) :
    Answers (transferInstr k p d o) s fun t => t = settle s p ⟨pipOf s p, some eDesc, stallFx (pipOf s p) false⟩ := by
  refine ⟨_, exec_transferInstr hr.1, issue_failWith hr hok ?_⟩
  unfold startXfer
  dsimp only
  rw [hrule, hbusy]
  rfl

theorem listXfer_job (r : XRes) : (listXfer k o r).p.job = r.p.job := by
  unfold listXfer
  dsimp only
  split <;> rfl

/-- A transfer whose first access fails ends its job with the code of that access. -/
theorem transferInstr_fails {r : XRes} {c : Byte} (hok : transferOk k o = true)
    (hrule : issueRules (xferOf (pipOf s p) s.cycle k o) = true) (hbusy : xferBusy (pipOf s p) (xferOf (pipOf s p) s.cycle k o) = [])
    (hstep : xferStep (pipOf s p) s.cycle (xferOf (pipOf s p) s.cycle k o) = .moved r) (hf : r.fail = some c) (hc : c ≠ eKeyset)
    (hu : r.fx.any isUe = false) (hr : Ready s p false (transferInstr k p d o)) :
    Answers (transferInstr k p d o) s fun t =>
      (pipOf t p).job = 0 ∧ (pipOf t p).st.lastCode = c ∧ (pipOf t p).ops = {} ∧ t.lasting = s.lasting := by
  have hacts : startXfer k o s.cycle (pipOf s p) = .acts (listXfer k o r) := by
    unfold startXfer
    dsimp only
    rw [hrule, hbusy, hstep]
    rfl
  have hjob : (listXfer k o r).p.job = (pipOf s p).job := by
    have h := keepsJob_xferStep (pipOf s p) s.cycle (xferOf (pipOf s p) s.cycle k o)
    rw [hstep] at h
    exact (listXfer_job r).trans h
  obtain ⟨j, hj, hrun⟩ := isNext_job hr.2.1
  refine ⟨_, exec_transferInstr hr.1, ?_⟩
  rw [issue_fails hr hok hacts hf]
  obtain ⟨hjob', hcode, hops, -, -⟩ := settle_fails hj hrun hjob hc ((stallFx_noUe ..).trans hu)
  exact ⟨hjob', hcode, hops, settle_lasting ..⟩

end

/-! ### A descriptor that is not marked valid -/

/-- The access can fail with that code only. -/
def XTry.FailsOnly (c : Byte) : XTry → Prop
  | .moved r => ∀ e, r.fail = some e → e = c
  | _ => True

theorem failsOnly_unless {c : Byte} (ws : List Stall) {r : XRes} (h : ∀ e, r.fail = some e → e = c) :
    (unless_ ws r).FailsOnly c := by
  unfold unless_
  split
  · exact h
  · trivial

theorem failsOnly_unless_fail (ws : List Stall) (q : PipSt) (x : Xfer) (c : Byte) (fx : List Fx) :
    (unless_ ws ⟨q, x, some c, fx⟩).FailsOnly c :=
  failsOnly_unless ws fun _ h => (Option.some.inj h).symm

/-- Of a transfer that uses the scratchpad against the rules of its descriptor, the first access fails with E_DESC (R71, R73). -/
theorem xferStep_breaksRules (q : PipSt) (c : Nat) {x : Xfer} (hcount : x.done < x.count) (hpad : usesPad x = true)
    (hrule : accessRules x = false) : (xferStep q c x).FailsOnly eDesc := by
  have hgo : ¬ x.count ≤ x.done := by omega
  unfold xferStep
  split
  · trivial
  · split
    case h_1 =>
      unfold ldqStep
      rw [hrule]
      exact failsOnly_unless_fail ..
    case h_2 =>
      unfold stqStep
      rw [hrule, if_neg hgo]
      exact failsOnly_unless_fail ..
    case h_3 hk =>
      have h5 : x.qsel = 5 := by simpa [usesPad, hk] using hpad
      unfold msndStep
      rw [hrule, if_neg (not_not.mpr h5)]
      exact failsOnly_unless_fail ..
    case h_4 hk =>
      have h5 : x.qsel = 5 := by simpa [usesPad, hk] using hpad
      unfold mrcvStep
      dsimp only
      split
      · exact failsOnly_unless _ fun e h => nomatch h
      · rw [hrule, if_neg (not_not.mpr h5)]
        exact failsOnly_unless_fail ..

/-- The first access of a transfer through a descriptor that is not marked valid fails with E_DESC. -/
theorem xferStep_invalidDesc {q : PipSt} {c : Nat} {k : XKind} {o : QOp} {r : XRes} {e : Byte} (hok : transferOk k o = true)
    (hstep : xferStep q c (xferOf q c k o) = .moved r) (hf : r.fail = some e) (hpad : usesPad (xferOf q c k o) = true)
    (hraw : o.raw = false) (hv : dValid (descOf q o.handle) = false) : e = eDesc := by
  have hrule : accessRules (xferOf q c k o) = false := by
    have hraw' : (xferOf q c k o).raw = false := hraw
    have hv' : dValid (xferOf q c k o).desc = false := hv
    simp [accessRules, hpad, hraw', hv']
  have h := xferStep_breaksRules q c (x := xferOf q c k o) (transferOk_count hok) hpad hrule
  rw [hstep] at h
  exact h e hf

/-! ### Narrow accesses whose check fails (R73, R75, R150) -/

section
variable {q : PipSt} {o : NOp} {c : Byte}

theorem narrowCheck_code (h : narrowCheck q o = some c) : c = eDesc ∨ c = eBounds := by
  unfold narrowCheck at h
  dsimp only at h
  split at h
  · exact .inl (Option.some.inj h).symm
  split at h
  · exact .inl (Option.some.inj h).symm
  split at h
  · exact .inr (Option.some.inj h).symm
  split at h
  · exact .inr (Option.some.inj h).symm
  · cases h

/-- The first check that a raw access can fail is that of its alignment. -/
theorem narrowCheck_misaligned (h : narrowCheck q o = some c) (hraw : o.raw = true)
    (ha : narrowAddr q o % (2 ^ o.size : Nat) ≠ 0) : c = eDesc := by
  unfold narrowCheck at h
  dsimp only at h
  rw [hraw, if_neg (by simp), if_pos ha] at h
  exact (Option.some.inj h).symm

theorem attempt_narrow_fails (h : narrowCheck q o = some c) {ws : List Stall} (hw : ws = []) (f : PipSt → Nat → PRes) :
    attempt ws (narrow q o f) = .acts (failWith q c) := by
  rw [hw, attempt_nil]
  unfold narrow
  rw [h]

end

end Sys2Proof.Machine

section
open Sys2Proof Sys2Proof.Machine

/-- Settles O8: an attempt to issue is held by what stalls it, whichever instruction it is while the programs load; an attempt
that fails settles its code on the pip, whose running job the code then ends. The four transfers share one argument. -/
theorem instructionsHeldOrRefused : Obligations.InstructionsHeldOrRefused := by
  refine ⟨fun s p d => ⟨?_, ?_, ?_, ?_, ?_, ?_, ?_, ?_⟩, fun q => ⟨rfl, rfl, rfl, account_idle q, account_records q⟩⟩
  · intro x i hp hnext hload
    exact ⟨_, exec_loading hp hnext hload, by simp, rfl⟩
  · intro sa hsa hread hfull hr
    refine ⟨_, within_lt _ hr.1, issue_held hr (decide_eq_true hsa) ?_ (List.cons_ne_nil _ _)⟩
    dsimp only
    rw [regWait_canRead hread, hfull]
    rfl
  · intro sd which hsd hwhich hbusy hr
    refine ⟨_, within_lt _ hr.1, issue_held hr (by simp [hsd, hwhich]) ?_ (List.cons_ne_nil _ _)⟩
    rw [if_pos hbusy]
    rfl
  · intro ch hbusy hr
    refine ⟨_, within_lt _ hr.1, issue_held hr rfl ?_ (List.cons_ne_nil _ _)⟩
    rw [hbusy]
    rfl
  · intro k o hok hr
    have h := transferInstr_refused (s := s) (p := p) (d := d) (k := k) (o := o)
    cases k
    all_goals exact h hok hr
  · intro k o hok hbusy hrule hr
    have h := transferInstr_breaksRule (s := s) (p := p) (d := d) (k := k) (o := o)
    cases k
    all_goals exact h hok hbusy hrule hr
  · intro k o r c hok hrule hbusy hstep hf hc hu hr
    have hvalid := fun hok' => xferStep_invalidDesc (k := k) (o := o) hok' hstep hf
    have h := fun hok' => transferInstr_fails (d := d) hok' hrule hbusy hstep hf hc hu
    cases k
    all_goals exact ⟨hvalid hok, h hok hr⟩
  · intro o c hok hcheck
    refine ⟨narrowCheck_code hcheck, narrowCheck_misaligned hcheck, fun hw hr => ?_, fun hw hr => ?_⟩
    all_goals exact ⟨_, within_lt _ hr.1, issue_failWith hr hok (attempt_narrow_fails hcheck hw _)⟩

end

/-! ## Instructions that only write registers and the SCQ (O1) -/

namespace Sys2Proof.Machine

theorem scqStall_pop {q : PipSt} (h : canPop q qScq = true) : scqStall q = [] := by
  unfold scqStall
  rw [h]
  rfl

end Sys2Proof.Machine

section
open Sys2Proof Sys2Proof.Machine

/-- Settles O1: nothing stalls any of the eight in this cycle, so each passes issue with the effect that its meaning names. -/
theorem registerInstructions : Obligations.RegisterInstructions := by
  intro s p d
  refine ⟨?_, ?_, ?_, ?_, ?_, ?_, ?_, ?_⟩
  · intro x hr
    exact ⟨_, within_lt _ hr.1, issue_effect hr rfl rfl⟩
  · intro h hh hin hr
    refine ⟨_, within_lt _ hr.1, issue_effect hr (decide_eq_true hh) ?_⟩
    unfold descWait
    rw [hin]
    rfl
  · intro o hok hscq hr
    refine ⟨_, within_lt _ hr.1, issue_effect hr hok ?_⟩
    have hw : (if o.fn = 3 then scqStall (pipOf s p) else []) = [] := by
      split
      · next h3 => exact scqStall_pop (hscq h3)
      · rfl
    rw [hw, attempt_nil]
  · intro x lc src reg imm hok hscq hread hr
    refine ⟨_, within_lt _ hr.1, issue_effect hr hok ?_⟩
    have hw : (if src = 2 then scqStall (pipOf s p) else if x && src = 1 then regWait (pipOf s p) s.cycle [reg] else []) = [] := by
      split
      · next h2 => exact scqStall_pop (hscq h2)
      · split
        · next h1 =>
          obtain ⟨hx, h1⟩ := Bool.and_eq_true_iff.mp h1
          exact regWait_canRead (hread hx (of_decide_eq_true h1))
        · rfl
    rw [hw, attempt_nil]
  · intro o hok hread hr
    refine ⟨_, within_lt _ hr.1, issue_effect hr hok ?_⟩
    dsimp only
    rw [regWait_canRead hread, attempt_nil]
  · intro sd which hsd hwhich hat hr
    refine ⟨_, within_lt _ hr.1, issue_effect hr (by simp [hsd, hwhich]) ?_⟩
    rw [if_neg (Nat.not_lt.mpr hat), attempt_nil]
  · intro idx sa hidx hsa hread hr
    refine ⟨_, within_lt _ hr.1, issue_effect hr (by simp [hidx, hsa]) ?_⟩
    dsimp only
    rw [regWait_canRead hread, attempt_nil]
  · intro sa hsa hread hput hr
    refine ⟨_, within_lt _ hr.1, issue_effect hr (decide_eq_true hsa) ?_⟩
    dsimp only
    rw [regWait_canRead hread, hput]
    rfl

end

/-! ## What transfers store (O9) -/

namespace Sys2Proof.Machine

/-- A load that holds a block on its way out of the exchange network, as only a transposing store comes to. -/
def loadWithBlock : Xfer := { kind := .ldq, count := 1, done := 1, out := [{ rows := [[0]] }] }

/-- A pip with that load alone, whose context owns the first granule of the scratchpad. -/
def pipWithBlock : PipSt :=
  { ops := { xfers := [loadWithBlock] }, sp := { regions := [(0, { valid := true })] } }

/-- The exit write of a block asks for no store, so the load writes the scratchpad. -/
theorem accessMoves_pipWithBlock : (accessMoves 0 pipWithBlock).p.ops.writes ≠ pipWithBlock.ops.writes := by decide +kernel

end Sys2Proof.Machine

section
open Sys2Proof Sys2Proof.Machine

/-- Refutes O9: its first clause takes a transfer that holds a block on its way out of the exchange network and is no STQ for one
that does not write, and the exit write of the block is made whatever the kind of its transfer. No program comes to such a
transfer; the clause is about every pip. -/
theorem not_storesOfTransfers : ¬ Obligations.StoresOfTransfers := by
  unfold Obligations.StoresOfTransfers
  intro h
  have hload : ∀ x ∈ pipWithBlock.ops.xfers, xferWrites x = false := by decide
  exact accessMoves_pipWithBlock ((h.1 pipWithBlock 0 0).1 hload).2.1

end

/-! ## The end of a job (O15, O32) -/

namespace Sys2Proof.Machine

/-! ### What the end of a job leaves of jobs, commands, memory and key gates -/

/-- Jobs, commands, HBM and staging buffers, and the key gate of each pod with the headers that wait at it. -/
structure Board where
  jobs : List Job
  cmds : List Cmd
  hbm : Tab Byte
  staging : Tab Byte
  gate : Nat → Nat × List (Line × Bool × Nat)

def PodSt.gate (v : PodSt) : Nat × List (Line × Bool × Nat) := (v.kstate, v.khdr)

def State.board (s : State) : Board := ⟨s.jobs, s.cmds, s.hbm, s.staging, fun d => (podSt s d).gate⟩

/-- An update of a pod changes its gate alone. -/
theorem board_modPod (s : State) (d : Nat) (f : PodSt → PodSt) :
    (modPod s d f).board = { s.board with gate := fun k => if k = d then (f (podSt s d)).gate else s.board.gate k } := by
  refine congrArg (Board.mk s.jobs s.cmds s.hbm s.staging) (funext fun k => ?_)
  rw [modPod_eq]
  split
  · next hk => rw [hk, podSt_setPod_same]
  · next hk => exact congrArg PodSt.gate (podSt_setPod_other _ _ hk)

theorem board_modPod_keeps {f : PodSt → PodSt} (h : ∀ v, (f v).gate = v.gate) (s : State) (d : Nat) :
    (modPod s d f).board = s.board := by
  rw [board_modPod]
  refine congrArg (Board.mk s.jobs s.cmds s.hbm s.staging) (funext fun k => ?_)
  split
  · next hk => rw [hk, h]
  · rfl

theorem board_undefBytes (s : State) (p a n : Nat) : (undefBytes s p a n).board = s.board := rfl

theorem board_undefRun (p : Nat) (r : Int × Nat) (s : State) : (undefRun p r s).board = s.board := by
  unfold undefRun
  dsimp only
  split <;> rfl

theorem board_modPip (s : State) (p : Nat) (f : PipSt → PipSt) : (modPip s p f).board = s.board := rfl

theorem board_endPip (code : Byte) (p : Nat) (s : State) : (endPip code p s).board = s.board := by
  unfold endPip
  dsimp only
  rw [board_modPip]
  split
  · exact board_modPip ..
  · exact (forAll_keeps State.board (fun r s => board_undefRun p r s) _ _).trans (board_modPip ..)

theorem board_endChecker (d : Nat) (s : State) : (endChecker d s).board = s.board := by
  refine board_modPod_keeps ?_ s d
  exact fun _ => rfl

theorem board_dropWork (l : List Nat) (keys : Bool) (s : State) : (dropWork l keys s).board = s.board := by
  unfold dropWork
  dsimp only
  refine (forAll_keeps State.board (fun _ _ => ?_) (List.range 12) _).trans rfl
  rfl

theorem board_dropShort (l : List Nat) (p : Nat) (s : State) : (dropShort l p s).board = s.board := rfl

theorem board_fabricRecord (s : State) (r : TraceRec) : (fabricRecord s r).board = s.board := by rw [fabricRecord_eq]; rfl

theorem board_undefDest (d : Nat × Nat) (s : State) : (undefDest d s).board = s.board := by
  unfold undefDest undefObject
  refine (forAll_keeps State.board (fun r s => board_undefBytes ..) _ _).trans (board_modPod_keeps ?_ s d.1)
  exact fun _ => rfl

theorem board_modField (s : State) (k : Nat) (f : FieldSt → FieldSt) : (modField s k f).board = s.board := rfl

theorem board_returnVrun (s : State) (f : Nat) : (returnVrun s f).board = s.board := by
  unfold returnVrun
  dsimp only
  split
  · rfl
  · rfl

theorem board_dropStep (s : State) (j f : Nat) : (dropStep s j f).board = s.board := by
  unfold dropStep
  split
  · exact (board_returnVrun ..).trans (board_modField ..)
  · rfl

/-- A gate that closes is idle and has no header. -/
theorem board_closeGates (l : List Nat) (s : State) : (forAll l closeGate s).board =
    { s.board with gate := fun d => if d ∈ l then (0, []) else s.board.gate d } := by
  induction l generalizing s with
  | nil => simp [forAll]
  | cons k l ih =>
    show (forAll l closeGate (closeGate k s)).board = _
    rw [ih]
    unfold closeGate
    rw [board_modPod]
    refine congrArg (Board.mk s.jobs s.cmds s.hbm s.staging) (funext fun d => ?_)
    by_cases hl : d ∈ l <;> by_cases hk : d = k <;> simp [hl, hk, PodSt.gate]

/-- The board without a job, whose gates are closed. -/
def Board.left (b : Board) (j : Job) : Board :=
  { b with jobs := b.jobs.filter (·.id ≠ j.id), gate := fun d => if d ∈ heldPods j then (0, []) else b.gate d }

theorem board_leavePods (j : Job) (code : Byte) (s : State) : (leavePods j code s).board = s.board.left j := by
  refine Eq.trans ?_ (board_closeGates (heldPods j) { s with jobs := s.jobs.filter (·.id ≠ j.id) })
  unfold leavePods
  dsimp only
  refine (forAll_keeps State.board (fun f s => ?_) _ _).trans (forAll_keeps State.board (fun d s => board_fabricRecord ..) _ _)
  rw [modField_eq]
  exact board_dropStep ..

theorem Board.left_jobs (b : Board) (j : Job) : ∀ k ∈ (b.left j).jobs, k.id ≠ j.id := fun _ hk =>
  of_decide_eq_true (List.mem_filter.mp hk).2

/-- The status of a command is decided alike in states with one board. -/
theorem board_decideCmd {s t : State} (h : t.board = s.board) (n site : Nat) (code : Byte) :
    (decideCmd t n code site).board = (decideCmd s n code site).board :=
  congrArg (fun b : Board => { b with cmds := b.cmds.map fun m : Cmd =>
    if m.id = n && m.code = none then { m with code := some code, site := site } else m }) h

/-! ### A running job that ends -/

/-- A running job that has ended on its pips with a code, before it drains or leaves its pods. -/
def jobStopped (s : State) (j : Job) (code : Byte) : State :=
  let s := forAll (jobPods j) endChecker (forAll (jobPips j) (endPip code) s)
  let s := forAll (jobPips j) (dropShort (jobPips j)) (dropWork (jobPips j) (code ≠ eKeyset) s)
  let s := if code = eOk then s else forAll (jobPods j) (fun d s => errorRecord s 1 1 d j.ctx code) s
  if code = eOk then s else forAll j.dests undefDest s

/-- After its pips a running job drains, if its code is E_KEYSET, or leaves its pods with its command decided (R46, R264). -/
theorem endJob_running (s : State) {j : Job} (code : Byte) (site : Nat) (hr : j.phase = .running) : endJob s j code site =
    if code = eKeyset then setJob (jobStopped s j code) { j with phase := .draining }
    else leavePods j code (decideCmd (jobStopped s j code) j.cmd code site) := by
  unfold endJob jobStopped
  simp [hr]

section
variable (s : State) (j : Job) (code : Byte)

theorem board_jobStopped : (jobStopped s j code).board = s.board := by
  unfold jobStopped
  extract_lets t1 t2 t3
  have h1 : t1.board = s.board := (forAll_keeps State.board board_endChecker _ _).trans (forAll_keeps State.board (board_endPip code) _ _)
  have h2 : t2.board = t1.board := (forAll_keeps State.board (board_dropShort _) _ _).trans (board_dropWork ..)
  have h3 : t3.board = t2.board := by
    show State.board (if _ then _ else _) = _
    split
    · rfl
    · exact forAll_keeps State.board (fun d s => board_fabricRecord ..) _ _
  refine Eq.trans ?_ (h3.trans (h2.trans h1))
  split
  · rfl
  · exact forAll_keeps State.board board_undefDest _ _

/-- Every pip of the job has ended with the code. -/
theorem jobStopped_ended : ∀ k ∈ jobPips j, EndedWith code (pipOf (jobStopped s j code) k).work := by
  intro k hk
  have hof {t u : State} (h : t.pips = u.pips) : (pipOf t k).work = (pipOf u k).work := by unfold pipOf; rw [h]
  unfold jobStopped
  extract_lets t1 t2 t3
  have h1 : EndedWith code (pipOf t1 k).work := by
    rw [hof (forAll_keeps State.pips pips_endChecker _ _)]
    exact endPips_ended code (jobPips j) s k hk
  have h2 : (pipOf t2 k).work = (pipOf t1 k).work := work_discards ..
  have h3 : (pipOf t3 k).work = (pipOf t2 k).work := by
    show (pipOf (if _ then _ else _) k).work = _
    split
    · rfl
    · exact hof (forAll_keeps State.pips (fun d s => pips_fabricRecord ..) _ _)
  have h4 : (pipOf (if code = eOk then t3 else forAll j.dests undefDest t3) k).work = (pipOf t3 k).work := by
    split
    · rfl
    · exact forAll_keeps (fun s => (pipOf s k).work) (fun d s => work_undefDest d k s) _ _
  rw [h4, h3, h2]
  exact h1

end

/-- A running job that ends with a code other than E_KEYSET is no longer among the jobs, its gates are closed, and its command is
decided. -/
theorem board_endJob (s : State) {j : Job} {code : Byte} (site : Nat) (hr : j.phase = .running) (hc : code ≠ eKeyset) :
    (endJob s j code site).board = (decideCmd s j.cmd code site).board.left j := by
  rw [endJob_running s code site hr, if_neg hc, board_leavePods, board_decideCmd (board_jobStopped s j code)]

/-! ### Commands whose status is decided -/

/-- A command whose status is open gets the code (R13). -/
theorem decideCmd_decides {s : State} {n site : Nat} {code : Byte} {m : Cmd} (hm : m ∈ s.cmds) (hid : m.id = n) (hopen : m.code = none) :
    { m with code := some code, site := site } ∈ (decideCmd s n code site).cmds :=
  List.mem_map.mpr ⟨m, hm, by simp [hid, hopen]⟩

theorem decideCmd_keeps {s : State} {n site : Nat} {code : Byte} {m : Cmd} (hm : m ∈ s.cmds) (hid : m.id ≠ n) :
    m ∈ (decideCmd s n code site).cmds :=
  List.mem_map.mpr ⟨m, hm, by simp [hid]⟩

end Sys2Proof.Machine

section
open Sys2Proof Sys2Proof.Machine

/-- Settles O15: the pips end first; what follows discards work of the job, records it, decides its command, and takes it off its
pods. -/
theorem jobEnds : Obligations.JobEnds := by
  intro s j code site hr hc
  have hends := endJob_ends s j code site
  have hpips := endJob_ended s site hr hc
  have hboard := board_endJob s site hr hc
  have hjobs : (endJob s j code site).jobs = ((decideCmd s j.cmd code site).board.left j).jobs := congrArg Board.jobs hboard
  have hcmds : (endJob s j code site).cmds = (decideCmd s j.cmd code site).cmds := congrArg Board.cmds hboard
  refine ⟨fun k hk => ?_, hends.regs, fun k hk => ?_, fun m hm hid hopen => ?_, fun m hm hid => ?_, hends.lasting,
    congrArg Board.hbm hboard, congrArg Board.staging hboard⟩
  · obtain ⟨hjob, hcode, hops, heng, hq⟩ := hpips k hk
    exact ⟨hjob, hcode, hops, heng, hq⟩
  · exact Board.left_jobs _ j k (hjobs ▸ hk)
  · exact hcmds ▸ decideCmd_decides hm hid hopen
  · exact hcmds ▸ decideCmd_keeps hm hid

end

/-! ## Key gates (O32) -/

namespace Sys2Proof.Machine

/-! ### The oldest header at a gate -/

/-- The gate has noted that its oldest header fails. -/
def headerNoted (s : State) (pod : Nat) (h : List Byte) (f : Nat) : State :=
  if (podSt s pod).kbad then s else modPod s pod (recordFail h f)

/-- What a gate does with its oldest header: nothing for two cycles after it came, then its comparison, and two cycles later the
block passes or the job ends (R263, R264). -/
def headerChecked (s : State) (j : Job) (pod c : Nat) (h : List Byte) (f : Nat) : State :=
  if s.cycle < c + 2 then s
  else if f = 0 && !(podSt s pod).kbad then
    (if s.cycle < c + 4 then s
     else if j.phase = .draining then modPod s pod fun v => { v with khdr := v.khdr.drop 1 }
     else passBlock s pod h)
  else if (headerNoted s pod h f).cycle < c + 4 then headerNoted s pod h f
  else failBlock (headerNoted s pod h f) j pod

section
variable {s : State} {pod c f : Nat} {j : Job} {h : List Byte}

theorem keyHeaderCheck_oldest {x : Line} {gran : Bool} {l : List (Line × Bool × Nat)} (hpod : pod < 640)
    (hh : (podSt s pod).khdr = (x, gran, c) :: l) (hj : podJob s pod = some j) : exec (.keyHeaderCheck pod) s =
      .next (headerChecked s j pod c (lineBytes x) (keyFail (lineBytes x) (gateWant s j pod gran))) := by
  show execKeyHeaderCheck pod s = _
  unfold execKeyHeaderCheck
  rw [within_lt _ hpod, hh, hj]
  unfold headerChecked headerNoted
  rfl

theorem headerNoted_cycle : (headerNoted s pod h f).cycle = s.cycle := by
  unfold headerNoted
  split <;> rfl

theorem headerNoted_first (hbad : (podSt s pod).kbad = false) : headerNoted s pod h f = modPod s pod (recordFail h f) := by
  unfold headerNoted
  rw [if_neg (by simp [hbad])]

theorem headerChecked_early (hc : s.cycle < c + 2) : headerChecked s j pod c h f = s := if_pos hc

theorem headerChecked_passes (hf : f = 0) (hbad : (podSt s pod).kbad = false) (hc : c + 4 ≤ s.cycle) (hr : j.phase = .running) :
    headerChecked s j pod c h f = passBlock s pod h := by
  unfold headerChecked
  rw [if_neg (by omega), if_pos (by simp [hf, hbad]), if_neg (by omega), if_neg (by simp [hr])]

theorem headerChecked_notes (hf : f ≠ 0) (h2 : c + 2 ≤ s.cycle) (h4 : s.cycle < c + 4) :
    headerChecked s j pod c h f = headerNoted s pod h f := by
  unfold headerChecked
  rw [if_neg (by omega), if_neg (by simp [hf]), headerNoted_cycle, if_pos h4]

theorem headerChecked_fails (hf : f ≠ 0 ∨ (podSt s pod).kbad = true) (hc : c + 4 ≤ s.cycle) :
    headerChecked s j pod c h f = failBlock (headerNoted s pod h f) j pod := by
  unfold headerChecked
  rw [if_neg (by omega), if_neg (by rcases hf with hf | hf <;> simp [hf]), headerNoted_cycle, if_neg (by omega)]

/-- The job of a gate runs or drains on the pod of the gate. -/
theorem podJob_pods (h : podJob s pod = some j) : pod ∈ jobPods j := by
  have hj := List.find?_some h
  simp only [Bool.and_eq_true, List.contains_iff_mem] at hj
  exact hj.2

end

/-! ### A block that passes -/

theorem nodup_pipsOfPod (d : Nat) : (pipsOfPod d).Nodup := by
  refine List.Nodup.map_on (fun i hi k hk h => ?_) List.nodup_range
  simp only [List.mem_range] at hi hk
  unfold pipAt pcxOf fieldOfPod at h
  omega

/-- The key queue of a pip after `n` entries have passed. -/
def keysPassed (n : Nat) (q : PipSt) : PipSt := { q with q := { q.q with kq := (passEntries n q.q.kq).1 } }

/-- `n` entries pass at a pip of a pod; those of them still to come are allowed. -/
def passAt (n pod p : Nat) (s : State) : State :=
  modPip (modPod s pod fun v => { v with
    kallow := Tab.set 0 v.kallow (pipInPod p) (Tab.get 0 v.kallow (pipInPod p) + (passEntries n (pipOf s p).q.kq).2) }) p
    fun q => { q with q := { q.q with kq := (passEntries n (pipOf s p).q.kq).1 } }

theorem pipOf_passAt (n pod p k : Nat) (s : State) :
    pipOf (passAt n pod p s) k = if k = p then keysPassed n (pipOf s p) else pipOf s k := by
  unfold passAt
  rw [modPip_eq]
  split
  · next hk => rw [hk, pipOf_setPip_same]; rfl
  · next hk => rw [pipOf_setPip_other _ _ hk]; rfl

/-- Entries pass at each pip of a list once. -/
theorem pipOf_passAll (n pod : Nat) {l : List Nat} (hl : l.Nodup) (s : State) (k : Nat) :
    pipOf (forAll l (passAt n pod) s) k = if k ∈ l then keysPassed n (pipOf s k) else pipOf s k := by
  induction l generalizing s with
  | nil => simp [forAll]
  | cons p l ih =>
    obtain ⟨hp, hl⟩ := List.nodup_cons.mp hl
    show pipOf (forAll l (passAt n pod) (passAt n pod p s)) k = _
    rw [ih hl, pipOf_passAt]
    by_cases hk : k = p
    · subst hk; simp [hp]
    · simp [hk]

def State.besidePodsPips (s : State) : State := { s with pods := [], pips := [] }

theorem eq_of_besidePodsPips {s t : State} (h : t.besidePodsPips = s.besidePodsPips) : t = { s with pods := t.pods, pips := t.pips } :=
  congrArg (fun u : State => { u with pods := t.pods, pips := t.pips }) h

/-- The state beside pods and pips, and of a pod all but what its gate allows, stay as entries pass. -/
theorem besidePodsPips_passAll (n pod : Nat) (l : List Nat) (s : State) :
    (forAll l (passAt n pod) s).besidePodsPips = s.besidePodsPips := by
  refine forAll_keeps State.besidePodsPips (fun p s => ?_) l s
  rfl

theorem podSt_passAll (n pod : Nat) (l : List Nat) (s : State) :
    { podSt (forAll l (passAt n pod) s) pod with kallow := [] } = { podSt s pod with kallow := [] } := by
  refine forAll_keeps (fun s => { podSt s pod with kallow := [] }) (fun p s => ?_) l s
  unfold passAt
  rw [modPip_eq, podSt_setPip, modPod_eq, podSt_setPod_same]

/-- The gate after a block with header `h`. -/
def gatePassed (h : List Byte) (v : PodSt) : PodSt :=
  let last := decide (khIndex h + 1 = khNblk h)
  { v with kblkCnt := bump v.kblkCnt 1, khdr := v.khdr.drop 1
           knext := if last then 0 else khIndex h + 1, knblk := if last then 0 else khNblk h
           kcount := if last then v.kcount + 1 else v.kcount }

theorem passBlock_eq (s : State) (pod : Nat) (h : List Byte) :
    passBlock s pod h = forAll (pipsOfPod pod) (passAt (khPlen h / 2048) pod) (modPod s pod (gatePassed h)) := rfl

/-- What a block that passes its gate leaves (R263). -/
theorem passBlock_passes (s : State) (pod : Nat) (h : List Byte) :
    passBlock s pod h = { s with pods := (passBlock s pod h).pods, pips := (passBlock s pod h).pips } ∧
    { podSt (passBlock s pod h) pod with kallow := [] } = { gatePassed h (podSt s pod) with kallow := [] } ∧
    ∀ k, pipOf (passBlock s pod h) k = if k ∈ pipsOfPod pod then keysPassed (khPlen h / 2048) (pipOf s k) else pipOf s k := by
  refine ⟨?_, ?_, fun k => ?_⟩
  · refine eq_of_besidePodsPips ?_
    rw [passBlock_eq, besidePodsPips_passAll]
    rfl
  · rw [passBlock_eq, podSt_passAll, modPod_eq, podSt_setPod_same]
  · rw [passBlock_eq, pipOf_passAll _ _ (nodup_pipsOfPod pod)]
    rfl

/-! ### A block that fails -/

/-- The gates of a job whose key stream drains. -/
def gatesDrain (l : List Nat) (s : State) : State := forAll l (fun d s => modPod s d fun v => { v with kstate := 2 }) s

theorem gatesDrain_ends (l : List Nat) (s : State) : Ends s (gatesDrain l s) := by
  refine Ends.forAll l (fun d s => Ends.modPod s d _ ?_) s
  exact fun _ => rfl

theorem board_gatesDrain (l : List Nat) (s : State) : (gatesDrain l s).board =
    { s.board with gate := fun d => if d ∈ l then (2, (podSt s d).khdr) else s.board.gate d } := by
  induction l generalizing s with
  | nil => simp [gatesDrain, forAll]
  | cons k l ih =>
    show (gatesDrain l (modPod s k fun v => { v with kstate := 2 })).board = _
    rw [ih, board_modPod]
    refine congrArg (Board.mk s.jobs s.cmds s.hbm s.staging) (funext fun d => ?_)
    by_cases hk : d = k
    · subst hk; simp [PodSt.gate]
    · by_cases hl : d ∈ l <;> simp [hl, hk, podSt_setPod_other _ _ hk]

theorem pips_gatesDrain (l : List Nat) (s : State) : (gatesDrain l s).pips = s.pips :=
  forAll_keeps (f := fun d s => modPod s d fun v => { v with kstate := 2 }) State.pips (fun _ _ => rfl) l s

/-- The gate whose oldest header has failed goes on to its next. -/
def headerLeft (s : State) (pod : Nat) : State := modPod s pod fun v => { v with khdr := v.khdr.drop 1, kbad := false }

theorem failBlock_draining (s : State) {j : Job} (pod : Nat) (hd : j.phase = .draining) : failBlock s j pod = headerLeft s pod :=
  if_pos hd

theorem failBlock_running (s : State) {j : Job} (pod : Nat) (hr : j.phase = .running) :
    failBlock s j pod = gatesDrain (jobPods j) (setJob (jobStopped (headerLeft s pod) j eKeyset) { j with phase := .draining }) := by
  show (if j.phase = .draining then _ else gatesDrain _ (endJob (headerLeft s pod) j eKeyset 0)) = _
  rw [if_neg (by simp [hr]), endJob_running _ _ _ hr, if_pos rfl]

section
variable (s : State) {j : Job} {pod : Nat} (hr : j.phase = .running)
include hr

theorem failBlock_ends : Ends (headerLeft s pod) (failBlock s j pod) := by
  show Ends _ (if j.phase = .draining then _ else gatesDrain _ (endJob (headerLeft s pod) j eKeyset 0))
  rw [if_neg (by simp [hr])]
  exact (endJob_ends ..).trans (gatesDrain_ends ..)

/-- The board after a block that fails: the job drains, and so do its gates. -/
theorem board_failBlock : (failBlock s j pod).board = { (headerLeft s pod).board with
    jobs := s.jobs.map fun k => if k.id = j.id then { j with phase := .draining } else k
    gate := fun d => if d ∈ jobPods j then (2, (podSt (headerLeft s pod) d).khdr) else (headerLeft s pod).board.gate d } := by
  have hstop := board_jobStopped (headerLeft s pod) j eKeyset
  rw [failBlock_running s pod hr, board_gatesDrain]
  exact congrArg (fun b : Board => { b with
    jobs := b.jobs.map fun k : Job => if k.id = j.id then { j with phase := .draining } else k
    gate := fun d => if d ∈ jobPods j then (2, (b.gate d).2) else b.gate d }) hstop

theorem failBlock_ended : ∀ k ∈ jobPips j, EndedWith eKeyset (pipOf (failBlock s j pod) k).work := by
  intro k hk
  rw [failBlock_running s pod hr]
  unfold pipOf
  rw [pips_gatesDrain]
  exact jobStopped_ended (headerLeft s pod) j eKeyset k hk

end

/-! ### A gate whose header fails -/

section
variable (s : State) (pod f : Nat) (h : List Byte)

/-- The gate that has noted a header and goes on to its next. -/
theorem podSt_headerLeft : podSt (headerLeft (headerNoted s pod h f) pod) pod =
    { (if (podSt s pod).kbad then podSt s pod else recordFail h f (podSt s pod)) with khdr := (podSt s pod).khdr.drop 1, kbad := false } := by
  unfold headerLeft headerNoted
  rw [modPod_eq, podSt_setPod_same]
  split
  · rfl
  · rw [modPod_eq, podSt_setPod_same]
    rfl

theorem headerLeft_pods : headerLeft (headerNoted s pod h f) pod = { s with pods := (headerLeft (headerNoted s pod h f) pod).pods } := by
  unfold headerLeft headerNoted
  split <;> rfl

end

/-- Once its header has failed the gate drains, and so does its job, which is over on its pips; nothing else is decided (R264). -/
theorem failBlock_fails (s : State) {j : Job} {pod : Nat} (h : List Byte) (f : Nat) (hr : j.phase = .running) (hmem : pod ∈ jobPods j) :
    let t := failBlock (headerNoted s pod h f) j pod
    ((podSt s pod).kbad = false → (podSt t pod).kfail = (podSt s pod).kfail ||| BitVec.ofNat 8 f ∧
      (podSt t pod).kfailIndex = khIndex h % 2 ^ 24) ∧
    (podSt t pod).kstate = 2 ∧ (podSt t pod).khdr = (podSt s pod).khdr.drop 1 ∧
    (∀ k ∈ t.jobs, k.id = j.id → k.phase = .draining) ∧
    (∀ p ∈ jobPips j, (pipOf t p).job = 0 ∧ (pipOf t p).st.lastCode = eKeyset) ∧
    (∀ p, (pipOf t p).regs = (pipOf s p).regs) ∧ t.cmds = s.cmds ∧ t.lasting = s.lasting ∧ t.hbm = s.hbm := by
  have hleft := headerLeft_pods s pod f h
  have hgate := podSt_headerLeft s pod f h
  have hends := failBlock_ends (headerNoted s pod h f) (pod := pod) hr
  have hboard := board_failBlock (headerNoted s pod h f) (pod := pod) hr
  have hended := failBlock_ended (headerNoted s pod h f) (pod := pod) hr
  dsimp only
  generalize failBlock (headerNoted s pod h f) j pod = t at hends hboard hended ⊢
  generalize headerLeft (headerNoted s pod h f) pod = u at hleft hgate hends hboard
  have hstate : (podSt t pod).gate = (2, (podSt u pod).khdr) := (congrFun (congrArg Board.gate hboard) pod).trans (if_pos hmem)
  obtain ⟨hdrain, hhdr⟩ := Prod.mk.inj hstate
  have hjobs : t.jobs = _ := congrArg Board.jobs hboard
  refine ⟨fun hbad => ?_, hdrain, ?_, fun k hk hid => ?_, fun p hp => ?_, fun p => ?_,
    (congrArg Board.cmds hboard).trans (congrArg State.cmds hleft :), hends.lasting.trans (congrArg State.lasting hleft :),
    (congrArg Board.hbm hboard).trans (congrArg State.hbm hleft :)⟩
  · rw [hbad] at hgate
    exact ⟨(congrArg PodSt.kfail (hends.pods pod) :).trans (congrArg PodSt.kfail hgate :),
      (congrArg PodSt.kfailIndex (hends.pods pod) :).trans (congrArg PodSt.kfailIndex hgate :)⟩
  · rw [hhdr, hgate]
  · rw [hjobs] at hk
    obtain ⟨m, -, rfl⟩ := List.mem_map.mp hk
    by_cases hm : m.id = j.id
    · rw [if_pos hm]
    · rw [if_neg hm] at hid
      contradiction
  · obtain ⟨hjob, hcode, -⟩ := hended p hp
    exact ⟨hjob, hcode⟩
  · rw [hends.regs, hleft]
    rfl

/-! ### The end of a drain -/

theorem beside_dropShort (l : List Nat) (p k : Nat) (s : State) :
    { pipOf (dropShort l p s) k with net := {} } = { pipOf s k with net := {} } := by
  unfold dropShort
  dsimp only
  rw [modPip_eq]
  by_cases hk : k = p
  · rw [hk, pipOf_setPip_same]
  · rw [pipOf_setPip_other _ _ hk]

/-- The drain of a job's key stream leaves of each pip all but its attachments. -/
theorem endDrain_pips (s : State) (j : Job) (k : Nat) : pipOf (endDrain s j) k = { pipOf s k with net := (pipOf (endDrain s j) k).net } := by
  have h : { pipOf (endDrain s j) k with net := {} } = { pipOf s k with net := {} } := by
    unfold endDrain
    split
    · dsimp only
      unfold pipOf
      rw [pips_leavePods]
      refine (forAll_keeps (fun s => { pipOf s k with net := {} }) (fun p s => beside_dropShort _ p k s) _ _).trans ?_
      unfold pipOf
      rw [pips_dropWork]
    · rfl
  exact congrArg (fun q : PipSt => { q with net := (pipOf (endDrain s j) k).net }) h

theorem board_endDrain {s : State} {j : Job} (hd : j.phase = .draining) :
    (endDrain s j).board = (decideCmd s j.cmd eKeyset 0).board.left j := by
  unfold endDrain
  rw [if_pos hd, board_leavePods]
  exact congrArg (Board.left · j) (board_decideCmd ((forAll_keeps State.board (board_dropShort _) _ _).trans (board_dropWork ..)) ..)

end Sys2Proof.Machine

section
open Sys2Proof Sys2Proof.Machine

/-- Settles O32: what a gate does with its oldest header depends on its comparison and the cycle; a header that fails ends the job
as its code ends any job, but for its gates, which drain, and its pods, which it leaves when the drain ends. -/
theorem keyGates : Obligations.KeyGates := by
  intro s pod hpod
  refine ⟨fun x gran c l j hh hj => ?_, fun n j hj hd hm => ?_⟩
  · intro h f last
    have hex : exec (.keyHeaderCheck pod) s = .next (headerChecked s j pod c h f) := keyHeaderCheck_oldest hpod hh hj
    clear_value f h
    refine ⟨fun hc => ⟨_, hex, headerChecked_early hc⟩, fun hf hbad hc hr => ?_, fun hf hbad h2 h4 => ?_, fun hf hc hr => ?_,
      fun hf hc hd => ?_⟩
    · rw [headerChecked_passes hf hbad hc hr] at hex
      obtain ⟨hbeside, hgate, hpips⟩ := passBlock_passes s pod h
      generalize passBlock s pod h = t at hex hbeside hgate hpips
      refine ⟨_, hex, hbeside, (congrArg PodSt.kblkCnt hgate :), ?_, ?_, ?_, ?_, fun p hp => ?_, fun p hp => ?_⟩
      · exact (congrArg PodSt.khdr hgate :).trans (congrArg (List.drop 1) hh)
      · exact (congrArg PodSt.knext hgate :).trans (by simp [gatePassed, last])
      · exact (congrArg PodSt.knblk hgate :).trans (by simp [gatePassed, last])
      · exact (congrArg PodSt.kcount hgate :).trans (by simp [gatePassed, last])
      · rw [hpips, if_pos hp]
        exact ⟨rfl, rfl, rfl⟩
      · rw [hpips, if_neg hp]
    · rw [headerChecked_notes hf h2 h4, headerNoted_first hbad] at hex
      exact ⟨_, hex, rfl⟩
    · rw [headerChecked_fails hf hc] at hex
      obtain ⟨hfail, hdrain, hhdr, hjobs, hended, hregs, hrest⟩ := failBlock_fails s h f hr (podJob_pods hj)
      exact ⟨_, hex, hfail, hdrain, hhdr.trans (congrArg (List.drop 1) hh), hjobs, hended, hregs, hrest⟩
    · rw [headerChecked_fails hf hc, failBlock_draining _ _ hd] at hex
      have hgate := podSt_headerLeft s pod f h
      exact ⟨_, hex, headerLeft_pods .., (congrArg PodSt.khdr hgate).trans (congrArg (List.drop 1) hh), congrArg PodSt.kbad hgate⟩
  · have ht : exec (.keyDrainEnd n) s = .next (endDrain s j) := by
      show execKeyDrainEnd n s = _
      unfold execKeyDrainEnd
      rw [hj]
      dsimp only
      rw [if_neg (by simp [hd, hm])]
    have hid : j.id = n := of_decide_eq_true (List.find?_some (p := fun k : Job => decide (k.id = n)) hj)
    have hboard := board_endDrain (s := s) hd
    have hjobs : (endDrain s j).jobs = _ := congrArg Board.jobs hboard
    have hcmds : (endDrain s j).cmds = (decideCmd s j.cmd eKeyset 0).cmds := congrArg Board.cmds hboard
    refine ⟨_, ht, fun k hk => ?_, fun m hm hid hopen => hcmds ▸ decideCmd_decides hm hid hopen, fun d hd => ?_,
      endDrain_pips s j, congrArg Board.hbm hboard⟩
    · rw [← hid]
      exact Board.left_jobs _ j k (hjobs ▸ hk)
    · have hgate : (podSt (endDrain s j) d).gate = _ := congrFun (congrArg Board.gate hboard) d
      have h0 : (podSt (endDrain s j) d).gate = (0, []) := hgate.trans (if_pos hd)
      exact Prod.mk.inj h0

end

/-! ### The status of the pips of a job that ends -/

namespace Sys2Proof.Machine

/-- The status registers of a pip but for the last code and the key queue. -/
def PipSt.stat (q : PipSt) : PipStat := { q.st with lastCode := 0, kopen := false }

theorem stat_modPip {f : PipSt → PipSt} (h : ∀ q, (f q).stat = q.stat) (s : State) (p k : Nat) :
    (pipOf (modPip s p f) k).stat = (pipOf s k).stat := by
  rw [modPip_eq]
  by_cases hk : k = p
  · rw [hk, pipOf_setPip_same, h]
  · rw [pipOf_setPip_other _ _ hk]

theorem stat_undefBytes (s : State) (p a n k : Nat) : (pipOf (undefBytes s p a n) k).stat = (pipOf s k).stat := by
  show (pipOf (modPip s p fun q => { q with sp := { q.sp with mem := Tab.setMany 0 q.sp.mem a (freeBytes s n) } }) k).stat = _
  refine stat_modPip ?_ s p k
  exact fun _ => rfl

theorem stat_undefRun (p : Nat) (r : Int × Nat) (k : Nat) (s : State) : (pipOf (undefRun p r s) k).stat = (pipOf s k).stat := by
  unfold undefRun
  dsimp only
  split
  · exact stat_undefBytes ..
  · rfl

theorem commitWrites_st (c : Nat) (q : PipSt) : (commitWrites c q).st = q.st := by
  have h (l : List PadWrite) (q : PipSt) : (l.foldl (fun q x => storeWords q x.words) q).st = q.st := by
    induction l generalizing q with
    | nil => rfl
    | cons x l ih => exact (ih _).trans rfl
  exact h _ q

theorem stat_endPip (code : Byte) (p k : Nat) (s : State) : (pipOf (endPip code p s) k).stat = (pipOf s k).stat := by
  unfold endPip
  dsimp only
  have hwrites : (pipOf (modPip s p (commitWrites (s.cycle + 2))) k).stat = (pipOf s k).stat :=
    stat_modPip (fun q => congrArg (fun t : PipStat => { t with lastCode := 0, kopen := false }) (commitWrites_st _ q)) s p k
  refine (stat_modPip (f := clearPip code) (fun _ => rfl) _ p k).trans ?_
  split
  · exact hwrites
  · exact (forAll_keeps (fun s => (pipOf s k).stat) (fun r s => stat_undefRun p r k s) _ _).trans hwrites

theorem stat_undefDest (d : Nat × Nat) (k : Nat) (s : State) : (pipOf (undefDest d s) k).stat = (pipOf s k).stat := by
  unfold undefDest undefObject
  exact forAll_keeps (fun s => (pipOf s k).stat) (fun r s => stat_undefBytes ..) _ _

theorem stat_dropShort (l : List Nat) (p k : Nat) (s : State) : (pipOf (dropShort l p s) k).stat = (pipOf s k).stat := by
  refine stat_modPip ?_ s p k
  exact fun _ => rfl

theorem stat_of_pips {s t : State} (h : t.pips = s.pips) (k : Nat) : (pipOf t k).stat = (pipOf s k).stat := by unfold pipOf; rw [h]

theorem stat_jobStopped (s : State) (j : Job) (code : Byte) (k : Nat) : (pipOf (jobStopped s j code) k).stat = (pipOf s k).stat := by
  unfold jobStopped
  extract_lets t1 t2 t3
  have h1 : (pipOf t1 k).stat = (pipOf s k).stat :=
    (stat_of_pips (forAll_keeps State.pips pips_endChecker _ _) k).trans
      (forAll_keeps (fun s => (pipOf s k).stat) (fun p s => stat_endPip code p k s) _ _)
  have h2 : (pipOf t2 k).stat = (pipOf t1 k).stat :=
    (forAll_keeps (fun s => (pipOf s k).stat) (fun p s => stat_dropShort _ p k s) _ _).trans (stat_of_pips (pips_dropWork ..) k)
  have h3 : (pipOf t3 k).stat = (pipOf t2 k).stat := by
    show (pipOf (if _ then _ else _) k).stat = _
    split
    · rfl
    · exact stat_of_pips (forAll_keeps State.pips (fun d s => pips_fabricRecord ..) _ _) k
  refine Eq.trans ?_ (h3.trans (h2.trans h1))
  split
  · rfl
  · exact forAll_keeps (fun s => (pipOf s k).stat) (fun d s => stat_undefDest d k s) _ _

/-- An operation that fails on a pip of a running job leaves it the other status that the operation gave it. -/
theorem settle_fails_stat {s : State} {p : Nat} {j : Job} {q : PipSt} {c : Byte} {fx : List Fx} (hj : jobOfPip s p = some j)
    (hr : j.phase = .running) (hq : q.job = (pipOf s p).job) (hc : c ≠ eKeyset) (hu : fx.any isUe = false) :
    (pipOf (settle s p ⟨q, some c, fx⟩) p).stat = q.stat := by
  obtain ⟨hpips, hjobs⟩ := applyFxs_pips_jobs p fx (setPip s p q)
  have hpip : pipOf (forAll fx (applyFx p) (setPip s p q)) p = q := by
    unfold pipOf
    rw [hpips]
    exact pipOf_setPip_same ..
  have hjob : jobOfPip (forAll fx (applyFx p) (setPip s p q)) p = some j := by
    unfold jobOfPip jobOf at hj ⊢
    rw [hpip, hjobs, hq]
    exact hj
  unfold settle failPip
  dsimp only
  rw [hjob]
  dsimp only
  rw [hu, if_neg (by simp), endJob_running _ _ _ hr, if_neg hc]
  refine (stat_of_pips (pips_leavePods ..) p).trans ((stat_jobStopped _ _ _ p).trans ?_)
  rw [hpip]

end Sys2Proof.Machine

/-! ### Instructions whose act ends the job -/

namespace Sys2Proof.Machine

/-- An instruction whose act fails leaves its pip without a job, with the code, and with the registers and the status of the act. -/
theorem issue_fails_pip {s : State} {p : Nat} {x ok : Bool} {i : Instr} {f : PipSt → Attempt} {q : PipSt} {c : Byte}
    (hr : Ready s p x i) (hok : ok = true) (hf : f (pipOf s p) = .acts (failWith q c)) (hq : q.job = (pipOf s p).job) (hc : c ≠ eKeyset) :
    (pipOf (issue s p x i ok f) p).job = 0 ∧ (pipOf (issue s p x i ok f) p).st.lastCode = c ∧
    (pipOf (issue s p x i ok f) p).regs = q.regs ∧ (pipOf (issue s p x i ok f) p).stat = q.stat := by
  obtain ⟨j, hj, hrun⟩ := isNext_job hr.2.1
  have hu : (stallFx (pipOf s p) x ++ []).any isUe = false := stallFx_noUe ..
  rw [issue_fails hr hok hf rfl]
  obtain ⟨hjob, hcode, -⟩ := settle_fails hj hrun hq hc hu
  refine ⟨hjob, hcode, ?_, settle_fails_stat hj hrun hq hc hu⟩
  exact ((settle_ends ..).regs p).trans (congrArg PipSt.regs (pipOf_setPip_same ..))

end Sys2Proof.Machine

/-! ### What an instruction that has passed issue leaves -/

namespace Sys2Proof.Machine

section
variable {s t : State} {p : Nat} {x : Bool} {r : PipSt} (h : Effect s t p x r)
include h

theorem Effect.regs : (pipOf t p).regs = r.regs := by rw [h.1, issued_regs]
theorem Effect.q : (pipOf t p).q = r.q := by rw [h.1, issued_q]
theorem Effect.ops : (pipOf t p).ops = r.ops := by rw [h.1, issued_ops]
theorem Effect.sp : (pipOf t p).sp = r.sp := by rw [h.1, issued_sp]
theorem Effect.ten : (pipOf t p).ten = r.ten := by rw [h.1]; cases x <;> rfl

end

end Sys2Proof.Machine

/-! ## Weight sets and modes (O10) -/

namespace Sys2Proof.Machine

/-! ### TLW (R52) -/

section
variable {q : PipSt} {c : Nat} {op : TlwOp}

theorem tlwStall_pop (h : canPop q 1 = true) : tlwStall q = [] := if_pos h

theorem tlwMove_pops (hop : q.ops.tlw = some op) (hdue : op.due ≤ c) (hpop : canPop q 1 = true) :
    (tlwMove c q).p = tlwPop q c op ∧ (tlwMove c q).fail = none := by
  unfold tlwMove unitMove
  rw [hop]
  dsimp only
  rw [if_neg (by omega), tlwStall_pop hpop]
  dsimp only
  split
  · exact ⟨rfl, rfl⟩
  · exact ⟨rfl, rfl⟩

theorem tlwMove_held (hop : q.ops.tlw = some op) (hdue : op.due ≤ c) (hpop : canPop q 1 = false) :
    (tlwMove c q).p.ten = q.ten ∧ (tlwMove c q).p.q = q.q ∧ (tlwMove c q).p.cyc.holds = q.cyc.holds ++ [(true, ⟨causeLq, 1⟩)] := by
  unfold tlwMove tlwStall unitMove
  rw [hop]
  dsimp only
  rw [if_neg (by omega), hpop]
  exact ⟨rfl, rfl, rfl⟩

end

/-! ### TSW (R52, R223) -/

/-- The weight sets exchanged, and the next TLW at position 0. -/
def exchanged (q : PipSt) : PipSt := { q with ten := { q.ten with active := q.ten.shadow, shadow := q.ten.active, fill := 0 } }

theorem exchange_passes {q : PipSt} (h : q.ten.tmode = true → modSetOk q.ten.shadow = true) : exchange q = done (exchanged q) := by
  refine if_neg ?_
  simpa using h

theorem exchange_fails {q : PipSt} (hm : q.ten.tmode = true) (h : modSetOk q.ten.shadow = false) :
    exchange q = failWith (exchanged q) eDesc := by
  refine if_pos ?_
  simp [hm, h]

/-! ### TMODE (R55) -/

/-- The issue of a TMODE, before the draw of the contents that it leaves undefined. -/
def tmodeIssued (s : State) (p d : Nat) (mode : Bool) : State :=
  issue s p true (.tmode p d mode) true fun q =>
    attempt (busyIf (switches q s.cycle || q.ops.tmms.any (tmmLive s.cycle) || chainBusy q || q.ops.tlw.isSome))
      (done (switchMode mode s.free s.cycle q))

end Sys2Proof.Machine

section
open Sys2Proof Sys2Proof.Machine

/-- Settles O10: what each of the instructions waits for is not there, so it acts; a TLW, once started, goes on by its own cycles. -/
theorem weightAndModeInstructions : Obligations.WeightAndModeInstructions := by
  intro s p d
  refine ⟨fun n h1 h16 hsw hidle hset hpop hr => ?_, fun q c op hop => ?_, fun hsw hrows hidle hr => ⟨fun hset => ?_, fun hm hset => ?_⟩,
    fun m hsw hlive hchain hidle hr => ?_, fun q c => ⟨rfl, ?_⟩, fun hp hsw => ⟨_, within_lt _ hp, if_neg (Nat.not_lt.mpr hsw)⟩⟩
  · have hacts : Answers (.tlw p d n) s fun t => Effect s t p true (tlwPop (pipOf s p) s.cycle ⟨n, s.cycle, {}⟩) := by
      refine ⟨_, within_lt _ hr.1, issue_effect hr (by simp [h1, h16]) ?_⟩
      have hmode : ¬ ((pipOf s p).ten.tmode && n ≠ 3) = true := by simpa using hset
      rw [hsw, hidle, tlwStall_pop hpop, if_neg hmode]
      rfl
    obtain ⟨t, hex, heff⟩ := hacts
    exact ⟨t, hex, heff, heff.regs⟩
  · exact ⟨Tab.get_set_same .., Tab.get_set_same .., rfl, rfl, rfl, rfl, rfl, tlwMove_pops hop, tlwMove_held hop⟩
  · refine ⟨_, within_lt _ hr.1, issue_effect hr rfl ?_⟩
    rw [hsw, hrows, hidle, exchange_passes hset]
    rfl
  · obtain ⟨hjob, hcode, hregs, -⟩ := issue_fails_pip (q := exchanged (pipOf s p)) (c := eDesc) hr (ok := true) rfl
      (f := fun q => attempt (busyIf (switches q s.cycle || rowsToEnter q || q.ops.tlw.isSome)) (exchange q))
      (by rw [hsw, hrows, hidle, exchange_fails hm hset]; rfl) rfl (by decide)
    exact ⟨_, within_lt _ hr.1, hjob, hcode, hregs⟩
  · have heff : Effect s (tmodeIssued s p d m) p true (switchMode m s.free s.cycle (pipOf s p)) := by
      refine issue_effect hr rfl ?_
      rw [hsw, hlive, hchain, hidle]
      rfl
    have hto : (pipOf (tmodeIssued s p d m) p).ten.switchTo = s.cycle + 8 := by rw [heff.ten]; rfl
    have hnew : (pipOf (tmodeIssued s p d m) p).ten.switchTo ≠ (pipOf s p).ten.switchTo := by
      unfold switches at hsw
      simp only [decide_eq_false_iff_not] at hsw
      omega
    have hmode : (pipOf (tmodeIssued s p d m) p).ten.tmode = m := by rw [heff.ten]; rfl
    have hfill : (pipOf (tmodeIssued s p d m) p).ten.fill = 0 := by rw [heff.ten]; rfl
    have ⟨hpip, hrest, hothers⟩ := heff
    exact ⟨_, (within_lt _ hr.1).trans (congrArg Host.Outcome.next (if_neg hnew)), hpip, hmode, hto, hfill, heff.q, heff.sp, heff.regs,
      congrArg (fun t : State => { t with free := t.free + 96 }) hrest, hothers⟩
  · unfold switchMove
    split <;> rfl

end

/-! ## Drains (O12) -/

namespace Sys2Proof.Machine

/-! ### TDRN (R191) -/

theorem freeChain_eq (q : PipSt) : freeChain q = { q with ops := (freeChain q).ops, cnt := (freeChain q).cnt } := by
  unfold freeChain
  split <;> rfl

theorem freeChain_chn (q : PipSt) : (freeChain q).chn = q.chn := by rw [freeChain_eq]

section
variable (q : PipSt) (c : Nat) (acc sq : Bool) (chain : Nat)

/-- The start of a drain changes the statistics' state and the drain in progress. -/
theorem drainStart_eq : drainStart q c acc sq chain =
    { q with chn := (drainStart q c acc sq chain).chn, ops := (drainStart q c acc sq chain).ops } := rfl

theorem drainStart_op : ∃ o, (drainStart q c acc sq chain).ops.drain = some o ∧ o.acc = acc ∧ o.chain = chain ∧ o.sq = sq ∧
    o.cfg = cfgOf q.chn chain ∧ o.t = 0 ∧ o.due = c :=
  ⟨_, rfl, rfl, rfl, rfl, rfl, rfl, rfl⟩

end

/-! ### What a drain pushes (R186, R196, R200) -/

/-- Pushes into store queues append to each its own. -/
theorem pushes_sq (l : List (Bool × Line)) (q : PipSt) (x : Bool) :
    Tab.get [] (l.foldl (fun q e => pushSq q e.1 e.2) q).q.sq (b2n x) =
      Tab.get [] q.q.sq (b2n x) ++ ((l.filter fun e => e.1 = x).map (·.2)) := by
  induction l generalizing q with
  | nil => simp
  | cons e l ih =>
    have hpush : Tab.get [] (pushSq q e.1 e.2).q.sq (b2n x) = Tab.get [] q.q.sq (b2n x) ++ (if e.1 = x then [e.2] else []) := by
      show Tab.get [] (Tab.set [] q.q.sq (b2n e.1) _) (b2n x) = _
      rw [Tab.get_set]
      have hb : b2n x = b2n e.1 ↔ e.1 = x := by cases x <;> cases e.1 <;> simp [b2n]
      by_cases h : e.1 = x
      · simp [h]
      · simp [hb, h]
    rw [List.foldl_cons, ih, hpush, List.filter_cons]
    by_cases h : e.1 = x <;> simp [h]

/-- They leave all but the store queues and what the cycle notes of them. -/
theorem pushes_eq (l : List (Bool × Line)) (q : PipSt) : l.foldl (fun q e => pushSq q e.1 e.2) q =
    { q with q := { q.q with sq := (l.foldl (fun q e => pushSq q e.1 e.2) q).q.sq },
             cyc := (l.foldl (fun q e => pushSq q e.1 e.2) q).cyc } := by
  induction l generalizing q with
  | nil => rfl
  | cons e l ih =>
    rw [List.foldl_cons]
    conv_lhs => rw [ih]
    rfl

/-! ### One cycle of a drain -/

/-- The drain after its push of this cycle. -/
def pipeMoved (op : DrainOp) : DrainOp := if (dataAt op op.t).isSome then { op with pipe := op.pipe.drop 1 } else op

/-- The read of an entry pops load queues and changes the statistics; of its pip nothing else. -/
theorem drainRead_eq (q : PipSt) (op : DrainOp) : (drainRead q op).1 =
    { q with q := { q.q with lq := (drainRead q op).1.q.lq }, cyc := (drainRead q op).1.cyc, chn := (drainRead q op).1.chn } := by
  unfold drainRead
  dsimp only
  split <;> split <;> split <;> rfl

theorem drainRead_t (q : PipSt) (op : DrainOp) : (drainRead q op).2.t = op.t := by
  unfold drainRead
  dsimp only
  split
  · rfl
  · dsimp only
    split <;> rfl

/-- The read of this cycle, if an entry is left to read. -/
def entryRead (q : PipSt) (op : DrainOp) : PipSt × DrainOp := if op.t < op.len then drainRead q op else (q, op)

theorem entryRead_eq (q : PipSt) (op : DrainOp) : (entryRead q op).1 =
    { q with q := { q.q with lq := (entryRead q op).1.q.lq }, cyc := (entryRead q op).1.cyc, chn := (entryRead q op).1.chn } := by
  unfold entryRead
  split
  · exact drainRead_eq ..
  · rfl

theorem entryRead_t (q : PipSt) (op : DrainOp) : (entryRead q op).2.t = op.t := by
  unfold entryRead
  split
  · exact drainRead_t ..
  · rfl

theorem drainSums_eq (q : PipSt) (c : Nat) (op : DrainOp) : drainSums q c op = { q with chn := (drainSums q c op).chn } := by
  unfold drainSums
  by_cases h : op.t ≠ (if cStload op.cfg then 2 else dataEnd op)
  · rw [if_pos h]
  · rw [if_neg h]

/-- The summaries of a drain, in the cycle of its last data push (R197, R198). -/
theorem drainSums_last (q : PipSt) (c : Nat) {op : DrainOp} (hs : cStload op.cfg = false) (ht : op.t = dataEnd op) :
    (drainSums q c op).chn = { q.chn with
      count := op.cnt, vmax := (op.best.getD (0, 0)).1, argmax := (op.best.getD (0, 0)).2, readyAt := c + 2
      open_ := if cRstat op.cfg = 3 then false else q.chn.open_, complete := if cRstat op.cfg = 3 then true else q.chn.complete } := by
  unfold drainSums
  rw [if_neg (by simp [hs, ht])]

section
variable (q : PipSt) (c : Nat) (op : DrainOp)

/-- The pip after the pushes of this cycle. -/
def pushed : PipSt := (drainPushes q.chn op).foldl (fun q e => pushSq q e.1 e.2) q

theorem drainCycle_eq : drainCycle q c op =
    { drainSums (entryRead (pushed q op) (pipeMoved op)).1 c (entryRead (pushed q op) (pipeMoved op)).2 with
      ops := { q.ops with drain := some { (entryRead (pushed q op) (pipeMoved op)).2 with
        t := (entryRead (pushed q op) (pipeMoved op)).2.t + 1, due := c + 1, hold := {} } } } := by
  have hops : (entryRead (pushed q op) (pipeMoved op)).1.ops = q.ops := by
    rw [entryRead_eq]
    show (pushed q op).ops = q.ops
    unfold pushed
    rw [pushes_eq]
  rw [← hops]
  rfl

theorem pipeMoved_t : (pipeMoved op).t = op.t := by
  unfold pipeMoved
  split <;> rfl

/-- A cycle of a drain leaves registers and scratchpad, appends its pushes to the store queues, and is counted. -/
theorem drainCycle_keeps : (drainCycle q c op).regs = q.regs ∧ (drainCycle q c op).sp = q.sp ∧
    (∀ x, Tab.get [] (drainCycle q c op).q.sq (b2n x) =
      Tab.get [] q.q.sq (b2n x) ++ ((drainPushes q.chn op).filter fun e => e.1 = x).map (·.2)) ∧
    ∃ o, (drainCycle q c op).ops.drain = some o ∧ o.t = op.t + 1 := by
  rw [drainCycle_eq, drainSums_eq, entryRead_eq]
  refine ⟨?_, ?_, fun x => pushes_sq _ q x, _, rfl, ?_⟩
  · show (pushed q op).regs = _
    unfold pushed
    rw [pushes_eq]
  · show (pushed q op).sp = _
    unfold pushed
    rw [pushes_eq]
  · show (entryRead _ _).2.t + 1 = _
    rw [entryRead_t, pipeMoved_t]

variable {op}

/-- In the cycle of its last data push a drain leaves its summaries, and ends the statistics that it finishes. -/
theorem drainCycle_last (hs : cStload op.cfg = false) (ht : op.t = dataEnd op) : (drainCycle q c op).chn = { q.chn with
    count := op.cnt, vmax := (op.best.getD (0, 0)).1, argmax := (op.best.getD (0, 0)).2, readyAt := c + 2
    open_ := if cRstat op.cfg = 3 then false else q.chn.open_, complete := if cRstat op.cfg = 3 then true else q.chn.complete } := by
  have hmoved : pipeMoved op = { op with pipe := (pipeMoved op).pipe } := by
    unfold pipeMoved
    split <;> rfl
  have hread : entryRead (pushed q op) (pipeMoved op) = (pushed q op, pipeMoved op) := by
    refine if_neg ?_
    rw [hmoved]
    show ¬ op.t < op.len
    unfold dataEnd at ht
    omega
  have hchn : (pushed q op).chn = q.chn := by
    unfold pushed
    rw [pushes_eq]
  rw [drainCycle_eq, hread]
  show (drainSums (pushed q op) c (pipeMoved op)).chn = _
  rw [hmoved, drainSums_last (pushed q op) c (op := { op with pipe := (pipeMoved op).pipe }) hs ht, hchn]

end

/-! ### The cycles of a drain in their unit (R56, R186) -/

section
variable {q : PipSt} {c : Nat} {op : DrainOp} (hop : q.ops.drain = some op) (hdue : op.due ≤ c) (hlast : op.t ≤ drainLast op)
include hop hdue hlast

theorem drainMove_moves (hfree : drainStall q op = []) : (drainMove c q).p = drainCycle q c op ∧ (drainMove c q).fail = none := by
  unfold drainMove drainStep unitMove
  rw [hop]
  dsimp only
  rw [if_neg (by omega), hfree]
  dsimp only
  split
  · exact ⟨rfl, rfl⟩
  · exact ⟨rfl, rfl⟩

theorem drainMove_held (hheld : drainStall q op ≠ []) : (drainMove c q).p.q = q.q ∧ (drainMove c q).p.chn = q.chn ∧
    (drainMove c q).p.ten = q.ten ∧ (drainMove c q).p.cnt.drainStall = bump q.cnt.drainStall 1 := by
  unfold drainMove drainStep unitMove
  rw [hop]
  dsimp only
  rw [if_neg (by omega)]
  cases hw : drainStall q op with
  | nil => contradiction
  | cons w ws => exact ⟨rfl, rfl, rfl, rfl⟩

end

/-! ### The end of a drain (R187) -/

theorem drainEnd_frees {s : State} {p : Nat} {o : DrainOp} (hp : p < 10240) (ho : (pipOf s p).ops.drain = some o) (hlast : drainLast o < o.t) :
    exec (.drainEnd p) s = .next (setPip s p (drainFinish (pipOf s p))) := by
  have hbusy : ¬ chainBusy (pipOf s p) = true := by
    unfold chainBusy
    rw [ho]
    simp [hlast]
  refine (within_lt _ hp).trans (congrArg Host.Outcome.next ?_)
  rw [if_neg hbusy, modPip_eq]
  unfold freeChain
  rw [ho]
  rfl

end Sys2Proof.Machine

section
open Sys2Proof Sys2Proof.Machine

/-- Settles O12: a TDRN starts its drain or names the check that fails; a cycle of the drain pushes, reads and counts, or is held. -/
theorem drains : Obligations.Drains := by
  intro s p d
  refine ⟨fun acc chain sq hchain hin hfree hacc hr => ⟨fun hcfg => ?_, fun hcfg => ?_⟩, fun q c op hop hdue hlast => ⟨fun hfree => ?_, ?_⟩,
    fun o ho hlast hp => ⟨_, drainEnd_frees hp ho hlast, rfl⟩⟩
  · have hacts : Answers (.tdrn p d acc chain sq) s fun t => Effect s t p true (drainStart (freeChain (pipOf s p)) s.cycle acc sq chain) := by
      refine ⟨_, within_lt _ hr.1, issue_effect hr (by simp [hchain]) ?_⟩
      dsimp only
      rw [hin, hfree, hacc, hcfg]
      rfl
    obtain ⟨t, hex, heff⟩ := hacts
    refine ⟨t, hex, heff, heff.regs.trans ?_, heff.q.trans ?_, heff.sp.trans ?_, ?_⟩
    · rw [drainStart_eq, freeChain_eq]
    · rw [drainStart_eq, freeChain_eq]
    · rw [drainStart_eq, freeChain_eq]
    · rw [heff.ops, ← freeChain_chn]
      exact drainStart_op ..
  · obtain ⟨hjob, hcode, hregs, hstat⟩ := issue_fails_pip (i := .tdrn p d acc chain sq) (c := eDesc)
      (q := (refuseDrain (pipOf s p) chain (cfgFail (pipOf s p).chn (cfgOf (pipOf s p).chn chain))).p) hr
      (ok := decide (chain < 16)) (by simp [hchain])
      (f := fun q => attempt (busyIf (!q.chainIn || chainBusy q) ++ (if accPending q s.cycle acc (cfgOf q.chn chain) then [⟨causeAcc, 0⟩] else []))
        (if cfgFail q.chn (cfgOf q.chn chain) ≠ 0 then refuseDrain q chain (cfgFail q.chn (cfgOf q.chn chain))
          else done (drainStart (freeChain q) s.cycle acc sq chain)))
      (by rw [hin, hfree, hacc, if_pos hcfg]; rfl) rfl (by decide)
    exact ⟨_, within_lt _ hr.1, hregs, hjob, hcode, (congrArg PipStat.refused hstat :), (congrArg PipStat.chain hstat :),
      (congrArg PipStat.check hstat :)⟩
  · obtain ⟨hmove, hnone⟩ := drainMove_moves hop hdue hlast hfree
    rw [hmove]
    obtain ⟨hregs, hsp, hsq, hnext⟩ := drainCycle_keeps q c op
    refine ⟨hnone, hregs, hsp, hsq, hnext, fun hs ht => ?_⟩
    rw [drainCycle_last q c hs ht]
    exact ⟨rfl, rfl, rfl, rfl, rfl, fun h3 => ⟨if_pos h3, if_pos h3⟩⟩
  · exact drainMove_held hop hdue hlast

end

/-! ## Narrow accesses (O7) -/

namespace Sys2Proof.Machine

/-! ### Bytes of a number (R4) -/

theorem toBytes_drop (n k w : Nat) : (toBytes n w).drop k = toBytes (n - k) (w / 256 ^ k) := by
  induction k generalizing n w with
  | zero => simp
  | succ k ih =>
    cases n with
    | zero => simp [toBytes]
    | succ n => rw [toBytes, List.drop_succ_cons, ih, Nat.succ_sub_succ, Nat.div_div_eq_div_mul, ← Nat.pow_succ']

theorem toBytes_take {n k : Nat} (h : k ≤ n) (w : Nat) : (toBytes n w).take k = toBytes k w := by
  induction k generalizing n w with
  | zero => rfl
  | succ k ih =>
    obtain ⟨n, rfl⟩ := Nat.exists_eq_add_of_le' h
    rw [← Nat.add_assoc, toBytes, List.take_succ_cons, ih (by omega), toBytes]

theorem slice_toBytes {n i k : Nat} (h : i + k ≤ n) (w : Nat) : slice (toBytes n w) i k = toBytes k (w / 256 ^ i) := by
  unfold slice
  rw [toBytes_drop, toBytes_take (by omega)]

theorem ofBytes_toBytes (n w : Nat) : ofBytes (toBytes n w) = w % 256 ^ n := by
  induction n generalizing w with
  | zero => simp [toBytes, ofBytes, Nat.mod_one]
  | succ n ih =>
    rw [toBytes, ofBytes, ih, BitVec.toNat_ofNat, Nat.pow_succ' (n := n)]
    exact Nat.mod_mul.symm

theorem getD_toBytes {n i : Nat} (h : i < n) (w : Nat) : (toBytes n w).getD i 0 = BitVec.ofNat 8 (w / 256 ^ i) := by
  induction i generalizing n w with
  | zero =>
    cases n with
    | zero => omega
    | succ n => simp [toBytes]
  | succ i ih =>
    cases n with
    | zero => omega
    | succ n => rw [toBytes, List.getD_cons_succ, ih (by omega), Nat.div_div_eq_div_mul, ← Nat.pow_succ']

theorem two_pow_eight_mul (k : Nat) : 2 ^ (8 * k) = 256 ^ k := Nat.pow_mul 2 8 k

/-! ### Reads of one word (R136) -/

/-- A read that detects no error goes on. -/
theorem noteRead_goes (q : PipSt) (w : Nat) {r : WordRead} (h : r.ue = false) :
    noteRead q w r = done (noteRead q w r).p ∧ (noteRead q w r).p = { q with cnt := (noteRead q w r).p.cnt } := by
  unfold noteRead
  rw [h, if_neg (by simp)]
  split <;> exact ⟨rfl, rfl⟩

/-- A word with at most one bit in error reads as it is stored. -/
theorem codeWord_corrects (v : Word64) {f : BitVec 72} (h : popCount 72 f.toNat ≤ 1) : (codeWord v f).word = v ∧ (codeWord v f).ue = false := by
  have hcases : popCount 72 f.toNat = 0 ∨ popCount 72 f.toNat = 1 := by omega
  unfold codeWord
  rcases hcases with h | h
  all_goals
    rw [h]
    exact ⟨rfl, rfl⟩

section
variable {a n : Nat} (hn : 0 < n) (hw : a % 8 + n ≤ 8)
include hn hw

/-- Bytes that lie in one word lie in one place. -/
theorem placesOf_word (g : Nat) : placesOf g a n = [placeOf g a] := by
  have hplace : placeOf g (8 * (a / 8)) = placeOf g a := by
    unfold placeOf
    rw [show 8 * (a / 8) / 128 = a / 128 by omega, show 8 * (a / 8) / 8 = a / 8 by omega]
  unfold placesOf
  rw [show (a + n + 7) / 8 - a / 8 = 1 by omega]
  simp [hplace]

/-- What a read of bytes of one word gives: those bytes of the word that the code delivers. -/
theorem readAt_word (q : PipSt) (g : Nat) (hue : (readCode q.sp (placeOf g a)).ue = false) : readAt q g a n =
    (toBytes n ((readCode q.sp (placeOf g a)).word.toNat / 256 ^ (a % 8)),
      done (noteRead q (placeOf g a) (readCode q.sp (placeOf g a))).p) := by
  unfold readAt
  rw [placesOf_word hn hw]
  unfold readWords readWords
  dsimp only
  rw [(noteRead_goes q (placeOf g a) hue).1]
  unfold wordBytes
  simp only [List.flatMap_cons, List.flatMap_nil, List.append_nil, slice_toBytes hw, done, firstFail]

end

/-! ### Bytes of one word that a write stores -/

/-- Words that are read for a merge and have at most one bit in error stay as they are. -/
theorem mergeReads_corrects (ws : List Nat) (q : PipSt) (h : ∀ w ∈ ws, popCount 72 (Tab.get 0 q.sp.flips w).toNat ≤ 1) :
    (mergeReads q ws).1 = [] ∧ (mergeReads q ws).2 = done (mergeReads q ws).2.p ∧
    (mergeReads q ws).2.p = { q with cnt := (mergeReads q ws).2.p.cnt } := by
  induction ws generalizing q with
  | nil => exact ⟨rfl, rfl, rfl⟩
  | cons w ws ih =>
    obtain ⟨hword, hue⟩ : (readCode q.sp w).word = storedWord q.sp w ∧ (readCode q.sp w).ue = false :=
      codeWord_corrects _ (h w List.mem_cons_self)
    obtain ⟨hgoes, hp⟩ := noteRead_goes q w hue
    have hrest (v : Nat) (hv : v ∈ ws) : popCount 72 (Tab.get 0 (noteRead q w (readCode q.sp w)).p.sp.flips v).toNat ≤ 1 := by
      rw [hp]
      exact h v (List.mem_cons_of_mem _ hv)
    obtain ⟨hl, hr, hq⟩ := ih (noteRead q w (readCode q.sp w)).p hrest
    unfold mergeReads
    dsimp only
    rw [if_pos hword, hgoes]
    refine ⟨hl, ?_, ?_⟩
    · dsimp only [done]
      rw [hr]
      rfl
    · dsimp only [done]
      rw [hq, hp]

/-- A write of bytes of one word that has at most one bit in error stores those bytes and nothing else (R136). -/
theorem mergeBytes_word {q : PipSt} {w : Nat} {l : List (Nat × Byte)} (hl : ∀ b ∈ l, b.1 < 8)
    (hw : popCount 72 (Tab.get 0 q.sp.flips w).toNat ≤ 1) :
    mergeBytes q w l = (l.map fun b => ⟨w + b.1 / 8, b.1 % 8, [b.2]⟩, done (mergeBytes q w l).2.p) ∧
    (mergeBytes q w l).2.p = { q with cnt := (mergeBytes q w l).2.p.cnt } := by
  unfold mergeBytes
  extract_lets words part
  have hpart (v : Nat) (hv : v ∈ part.map (w + ·)) : popCount 72 (Tab.get 0 q.sp.flips v).toNat ≤ 1 := by
    obtain ⟨k, hk, rfl⟩ := List.mem_map.mp hv
    obtain ⟨b, hb, rfl⟩ := List.mem_map.mp (List.mem_dedup.mp (List.mem_filter.mp hk).1)
    rw [Nat.div_eq_of_lt (hl b hb)]
    exact hw
  obtain ⟨hnone, hdone, hp⟩ := mergeReads_corrects (part.map (w + ·)) q hpart
  refine ⟨?_, hp⟩
  dsimp only
  rw [hnone, hdone]
  rfl

/-- Bytes stored one by one from offset `k` of word `w` on. -/
theorem storeWords_bytes (q : PipSt) (w k : Nat) (bs : List Byte) :
    (storeWords q ((bs.zipIdx.map fun x => (k + x.2, x.1)).map fun b => ⟨w + b.1 / 8, b.1 % 8, [b.2]⟩)).sp.mem =
      Tab.setMany 0 q.sp.mem (8 * w + k) bs := by
  have h := storeWords_run (f := fun x : Byte × Nat => ⟨w + (k + x.2) / 8, (k + x.2) % 8, [x.1]⟩) (g := fun b => [b])
    (a := 8 * w + k) (n := 1) (l := bs) (fun x i => ⟨rfl, by dsimp only; omega⟩) (fun _ _ => rfl) q 0
  rw [List.map_map]
  rw [List.flatMap_singleton'] at h
  exact h

/-! ### SLD and SST (R50, R150) -/

/-- The bytes that an SST writes, by their offset from the word that its address lies in. -/
def sstBytes (q : PipSt) (o : NOp) : List (Nat × Byte) :=
  (toBytes (2 ^ o.size) (sReg q o.sd).toNat).zipIdx.map fun b => ((narrowAddr q o).toNat % 8 + b.2, b.1)

/-- The pieces in which the bank of word `w` stores them. -/
def sstWords (w : Nat) (q : PipSt) (o : NOp) : List PadWord := (sstBytes q o).map fun b => ⟨w + b.1 / 8, b.1 % 8, [b.2]⟩

/-- The bytes of an SST that lies in one word lie in the word of its address. -/
theorem sstBytes_lt {q : PipSt} {o : NOp} (hword : (narrowAddr q o).toNat % 8 + 2 ^ o.size ≤ 8) (b : Nat × Byte) (hb : b ∈ sstBytes q o) :
    b.1 < 8 := by
  obtain ⟨⟨v, i⟩, hi, rfl⟩ := List.mem_map.mp hb
  have hlt := List.snd_lt_of_mem_zipIdx hi
  rw [length_toBytes] at hlt
  dsimp only at hlt ⊢
  omega

/-- What the scratchpad holds once the pieces are stored: the bytes from the address on (R150). -/
theorem storeWords_sst (w : Nat) (q : PipSt) (o : NOp) : (storeWords q (sstWords w q o)).sp.mem =
    Tab.setMany 0 q.sp.mem (8 * w + (narrowAddr q o).toNat % 8) (toBytes (2 ^ o.size) (sReg q o.sd).toNat) := storeWords_bytes ..

section
variable {q : PipSt} {o : NOp} (hok : nOk o = true) (hcheck : narrowCheck q o = none)
include hcheck

/-- A narrow access that passes its checks is made at its address in its bank. -/
theorem narrow_passes (f : PipSt → Nat → PRes) : narrow q o f = f (takeBank q (narrowAddr q o)) (narrowAddr q o).toNat := by
  unfold narrow
  rw [hcheck]

include hok

/-- It lies in one word (R73, R150). -/
theorem narrowAddr_word : (narrowAddr q o).toNat % 8 + 2 ^ o.size ≤ 8 := by
  have hsize : o.size < 4 := by
    simp only [nOk, Bool.and_eq_true, decide_eq_true_eq] at hok
    tauto
  have halign : narrowAddr q o % (2 ^ o.size : Nat) = 0 := by
    by_contra h
    unfold narrowCheck at hcheck
    dsimp only at hcheck
    rw [if_pos h] at hcheck
    split at hcheck
    · cases hcheck
    · cases hcheck
  interval_cases o.size
  all_goals omega

end

end Sys2Proof.Machine

section
open Sys2Proof Sys2Proof.Machine

/-- Settles O7: a narrow access that passes its checks lies in one word, which it reads as the code delivers it, or writes in part. -/
theorem narrowAccesses : Obligations.NarrowAccesses := by
  intro s p d o hok hcheck q a w n
  have hword : a.toNat % 8 + n ≤ 8 := narrowAddr_word hok hcheck
  have hn : 0 < n := Nat.two_pow_pos _
  refine ⟨fun hwait hue hr => ?_, fun hwait hflips hr => ?_⟩
  · have hread := readAt_word hn hword (takeBank q a) (narrowSwz q o) hue
    have hvalue : ofBytes (toBytes n ((readCode q.sp w).word.toNat / 256 ^ (a.toNat % 8))) =
        (readCode q.sp w).word.toNat / 2 ^ (8 * (a.toNat % 8)) % 2 ^ (8 * n) := by
      rw [ofBytes_toBytes, two_pow_eight_mul, two_pow_eight_mul]
    have hacts : Answers (.sld p d o) s fun t => Effect s t p true
        (setSAt (noteRead (takeBank q a) w (readCode q.sp w)).p o.sd
          (BitVec.ofNat 64 ((readCode q.sp w).word.toNat / 2 ^ (8 * (a.toNat % 8)) % 2 ^ (8 * n))) (s.cycle + 3)) := by
      refine ⟨_, within_lt _ hr.1, issue_effect hr hok ?_⟩
      rw [hwait, attempt_nil, narrow_passes hcheck]
      dsimp only
      rw [hread, ← hvalue]
      rfl
    obtain ⟨t, hex, heff⟩ := hacts
    exact ⟨t, hex, heff, heff.sp.trans (congrArg PipSt.sp (noteRead_goes (takeBank q a) w hue).2 :)⟩
  · obtain ⟨hmerge, hp⟩ := mergeBytes_word (q := takeBank q a) (w := w) (sstBytes_lt hword) hflips
    have hacts : Answers (.sst p d o) s fun t => Effect s t p true
        (holdWrite (mergeBytes (takeBank q a) w (sstBytes q o)).2.p s.cycle 0 (sstWords w q o)) := by
      refine ⟨_, within_lt _ hr.1, issue_effect hr hok ?_⟩
      rw [hwait, attempt_nil, narrow_passes hcheck]
      dsimp only
      exact congrArg (fun m : List PadWord × PRes => Attempt.acts { m.2 with p := holdWrite m.2.p s.cycle 0 m.1 }) hmerge
    obtain ⟨t, hex, heff⟩ := hacts
    rw [hp] at heff
    refine ⟨t, hex, heff.2, heff.regs, heff.sp, ?_, ?_, _, heff.ops, fun i hi => ?_, fun b hb => ?_⟩
    · exact (congrArg PipSt.acc heff.1).trans (issued_other _ true _)
    · exact (congrArg PipSt.exe heff.1).trans (issued_stream _ true _)
    · rw [storeWords_sst, Tab.get_setMany, length_toBytes, if_pos (by omega), Nat.add_sub_cancel_left, getD_toBytes hi,
        two_pow_eight_mul]
    · rw [storeWords_sst, Tab.get_setMany, length_toBytes, if_neg (by omega)]

end

/-! ## Transfers that start (O5)

An access of a transfer moves data of queues, writes held for a bank, counters and the bank table of its cycle; it leaves the rest
of its pip and what the transfer latched, and outside the pip it sends credits and records stalls, while the job goes on. -/

namespace Sys2Proof.Machine

/-! ### What accesses leave -/

/-- What no access of a transfer changes. -/
def PipSt.kept (q : PipSt) : PipRegs × StreamSt × StreamSt × Scratch × Tensor × Ring × Chain × Nat × List Xfer × Nat :=
  (q.regs, q.acc, q.exe, q.sp, q.ten, q.rng, q.chn, q.job, q.ops.xfers, q.ops.seq)

/-- What a transfer latches at issue and keeps (R74). -/
def Xfer.latched (x : Xfer) : Nat × XKind × Nat × BitVec 512 × Nat := (x.id, x.kind, x.base, x.desc, x.count)

/-- A credit, or the record of a stall. -/
def isMild : Fx → Bool
  | .credit .. | .stallEnd .. => true
  | _ => false

/-- The part of an operation keeps what accesses keep, and its effects outside the pip are mild while the job goes on. -/
def PRes.Keeps (q : PipSt) (r : PRes) : Prop := r.p.kept = q.kept ∧ (r.fail = none → ∀ f ∈ r.fx, isMild f = true)

/-- So does an access, which keeps what its transfer latched. -/
def XRes.Keeps (q : PipSt) (x : Xfer) (r : XRes) : Prop := r.x.latched = x.latched ∧ PRes.Keeps q ⟨r.p, r.fail, r.fx⟩

/-- So does a try, if the access is made. -/
def XTry.Keeps (q : PipSt) (x : Xfer) : XTry → Prop
  | .moved r => r.Keeps q x
  | _ => True

section
variable (q : PipSt)

theorem popSq_kept (i : Nat) : (popSq q i).kept = q.kept := rfl
theorem popIngress_kept (i : Nat) : (popIngress q i).kept = q.kept := rfl
theorem padWrite_kept (c id : Nat) (ws : List PadWord) : (padWrite q c id ws).kept = q.kept := rfl
theorem fillLater_kept (c k : Nat) (e : LqEntry) : (fillLater q c k e).kept = q.kept := rfl
theorem sendLater_kept (c id port : Nat) (l : List Flit) : (sendLater q c id port l).kept = q.kept := rfl
theorem watchBatch_kept (x : Xfer) (b : Batch) : (watchBatch q x b).kept = q.kept := rfl

theorem pushDest_kept (k : Nat) (e : LqEntry) : (pushDest q k e).kept = q.kept := by
  unfold pushDest enterDest
  split <;> rfl

theorem popIdx_kept (x : Xfer) : (popIdx q x).kept = q.kept := by
  unfold popIdx
  split <;> rfl

theorem watchBatches_kept {α : Type} (x : Xfer) (b : α → Batch) (l : List α) :
    (l.foldl (fun p e => watchBatch p x (b e)) q).kept = q.kept := by
  induction l generalizing q with
  | nil => rfl
  | cons e l ih => exact ih _

theorem watchPred_keeps (x : Xfer) (b : Batch) (bad : Bool) :
    (watchPred q x b bad).1.kept = q.kept ∧ (watchPred q x b bad).2.latched = x.latched := by
  unfold watchPred
  dsimp only
  split
  · exact ⟨rfl, rfl⟩
  · split <;> exact ⟨rfl, rfl⟩

theorem endPred_keeps (x : Xfer) (n : Int) : (endPred q x n).1.kept = q.kept ∧ (endPred q x n).2.latched = x.latched := by
  unfold endPred
  dsimp only
  split
  · exact ⟨rfl, rfl⟩
  · dsimp only
    split <;> exact ⟨rfl, rfl⟩

theorem endPredIf_keeps (b : Prop) [Decidable b] (x : Xfer) (n : Int) :
    (if b then (q, x) else endPred q x n).1.kept = q.kept ∧ (if b then (q, x) else endPred q x n).2.latched = x.latched := by
  split
  · exact ⟨rfl, rfl⟩
  · exact endPred_keeps ..

end

theorem putScales_latched {α : Type} (n : α → Int) (v : α → Byte) (l : List α) (x : Xfer) :
    (l.foldl (fun x b => putScale x (n b) (v b)) x).latched = x.latched := by
  induction l generalizing x with
  | nil => rfl
  | cons e l ih => exact ih _

/-! ### How parts and accesses compose -/

section
variable {p q : PipSt} {r r' : PRes} {f : PipSt → PRes} {x : Xfer}

theorem PRes.Keeps.trans (h : r.Keeps p) (hp : p.kept = q.kept) : r.Keeps q := ⟨h.1.trans hp, h.2⟩

theorem keeps_done (h : p.kept = q.kept) : (done p).Keeps q := ⟨h, fun _ => by simp [done]⟩

theorem keeps_fail (h : p.kept = q.kept) (c : Byte) (fx : List Fx) : PRes.Keeps q ⟨p, some c, fx⟩ := ⟨h, fun h => by cases h⟩

theorem keeps_andThen (h : r.Keeps q) (hf : ∀ p, (f p).Keeps p) : (r.andThen f).Keeps q := by
  unfold PRes.andThen
  split
  · exact h
  · next hgoes =>
    refine ⟨(hf _).1.trans h.1, fun hn => ?_⟩
    exact List.forall_mem_append.mpr ⟨h.2 hgoes, (hf _).2 hn⟩

/-- Two parts, the second made even if the first ends the job. -/
theorem keeps_both (h : r.Keeps q) (h' : r'.Keeps r.p) : PRes.Keeps q ⟨r'.p, firstFail r.fail r'.fail, r.fx ++ r'.fx⟩ := by
  refine ⟨h'.1.trans h.1, fun hn => ?_⟩
  have hfirst : r.fail = none := by
    cases hf : r.fail with
    | none => rfl
    | some c => rw [hf] at hn; cases hn
  rw [hfirst] at hn
  exact List.forall_mem_append.mpr ⟨h.2 hfirst, h'.2 hn⟩

theorem keeps_goes {y : Xfer} (hy : y.latched = x.latched) (h : p.kept = q.kept) : XRes.Keeps q x ⟨p, y, none, []⟩ := ⟨hy, keeps_done h⟩

theorem keeps_fails (h : p.kept = q.kept) (c : Byte) : XRes.Keeps q x ⟨p, x, some c, []⟩ := ⟨rfl, keeps_fail h c []⟩

theorem keeps_liftX {y : Xfer} (hy : y.latched = x.latched) (h : r.Keeps q) : (liftX r y).Keeps q x := ⟨hy, h⟩

theorem keeps_unless (ws : List Stall) {r : XRes} (h : r.Keeps q x) : (unless_ ws r).Keeps q x := by
  unfold unless_
  split
  · exact h
  · trivial

end

/-! ### Reads and writes of the scratchpad -/

theorem noteRead_keeps (q : PipSt) (w : Nat) (r : WordRead) : (noteRead q w r).Keeps q := by
  unfold noteRead
  split
  · exact keeps_fail rfl ..
  · split <;> exact keeps_done rfl

theorem readWords_keeps (ws : List Nat) (q : PipSt) : (readWords q ws).2.Keeps q := by
  induction ws generalizing q with
  | nil => exact keeps_done rfl
  | cons w ws ih => exact keeps_both (noteRead_keeps ..) (ih _)

theorem readAt_keeps (q : PipSt) (g a n : Nat) : (readAt q g a n).2.Keeps q := readWords_keeps ..

theorem mergeReads_keeps (ws : List Nat) (q : PipSt) : (mergeReads q ws).2.Keeps q := by
  induction ws generalizing q with
  | nil => exact keeps_done rfl
  | cons w ws ih => exact keeps_both (noteRead_keeps ..) (ih _)

theorem storeBytes_keeps {p q : PipSt} (h : p.kept = q.kept) (c id g : Nat) (a : Int) (bs : List Byte) :
    (storeBytes p c id g a bs).Keeps q := by
  unfold storeBytes
  split
  · exact keeps_done h
  · exact keeps_fail h ..

/-! ### Accesses -/

theorem storeSlot_keeps {p q : PipSt} {x y : Xfer} (hx : x.latched = y.latched) (h : p.kept = q.kept) (c : Nat) (la : Int) (n : Nat)
    (vs : List Word32) : (storeSlot p c x la n vs).Keeps q y := by
  unfold storeSlot
  extract_lets d f a store _ _ _ _ _ _ _ _ _ _ r
  have hstore (bs : List Byte) : (store bs).Keeps q := storeBytes_keeps h ..
  have hlast : r.Keeps q := hstore _
  clear_value r store
  split
  · exact ⟨hx, hstore _⟩
  · split
    · exact ⟨hx, keeps_andThen (hstore _) fun p => keeps_done (watchBatch_kept ..)⟩
    · split
      · exact ⟨(putScales_latched ..).trans hx, keeps_andThen (hstore _) fun p => keeps_done (watchBatches_kept ..)⟩
      · obtain ⟨hkept, hmild⟩ := hlast
        split
        · next hs => exact ⟨hx, hkept, fun hn => by rw [hs] at hn; cases hn⟩
        · next hs =>
          exact ⟨(endPredIf_keeps ..).2.trans ((watchPred_keeps ..).2.trans hx),
            (endPredIf_keeps ..).1.trans ((watchPred_keeps ..).1.trans hkept), fun _ => hmild hs⟩

theorem bufStep_keeps (q : PipSt) (c : Nat) (x : Xfer) (a : BufAct) : (bufStep q c x a).Keeps q x := by
  unfold bufStep
  cases a with
  | scaleRead l =>
    dsimp only
    split
    · exact keeps_fails rfl _
    · exact ⟨rfl, (readAt_keeps ..).trans rfl⟩
  | scaleWrite b =>
    dsimp only
    split
    · exact keeps_fails rfl _
    · obtain ⟨hkept, hmild⟩ := mergeReads_keeps _ (takeBank q (BufAct.scaleWrite b).line)
      exact ⟨rfl, (padWrite_kept ..).trans hkept, hmild⟩
  | auxRead l =>
    dsimp only
    split
    · exact keeps_fails rfl _
    · exact ⟨rfl, (readAt_keeps ..).trans rfl⟩
  | auxWrite b =>
    dsimp only
    split
    · exact keeps_fails rfl _
    · exact keeps_goes rfl rfl

theorem readWide_keeps (q : PipSt) (x : Xfer) (w : Wide) : (readWide q x w).2.Keeps q := by
  cases w with
  | outside => exact keeps_done rfl
  | line a => exact readAt_keeps ..
  | words l => exact readWords_keeps ..

/-- A wide read keeps what its continuation keeps. -/
theorem wideRead_keeps {f : PipSt → Xfer → List Byte → XRes} (hf : ∀ q x bs, (f q x bs).Keeps q x) (q : PipSt) (x : Xfer) (w : Wide) :
    (wideRead q x w f).Keeps q x := by
  have htook : (takeBank (if x.cyc = 0 then q else addHold q false ⟨causeBank, 0⟩) (wideFirst w)).kept = q.kept := by
    split <;> rfl
  have hread := fun p => readWide_keeps p x w
  unfold wideRead
  split
  · exact keeps_fails rfl _
  · dsimp only
    split
    · exact keeps_goes rfl htook
    · split
      · exact ⟨rfl, keeps_fail ((hread _).1.trans htook) ..⟩
      · next hgoes =>
        obtain ⟨hx, hkept, hmild⟩ := hf (readWide (takeBank (if x.cyc = 0 then q else addHold q false ⟨causeBank, 0⟩) (wideFirst w)) x w).2.p
          { x with cyc := 0 } (readWide (takeBank (if x.cyc = 0 then q else addHold q false ⟨causeBank, 0⟩) (wideFirst w)) x w).1
        refine ⟨hx, hkept.trans ((hread _).1.trans htook), fun hn => ?_⟩
        refine List.forall_mem_append.mpr ⟨List.forall_mem_append.mpr ⟨(hread _).2 hgoes, ?_⟩, hmild hn⟩
        split <;> simp [isMild]

section
variable (q : PipSt) (c : Nat) (x : Xfer)

theorem bufTry_keeps (a : BufAct) : (bufTry q c x a).Keeps q x := keeps_unless _ (bufStep_keeps ..)

theorem slotTry_keeps (ws : List Stall) (n : Nat) {f : Int → XRes} (h : ∀ a, (f a).Keeps q x) : (slotTry q c x ws n f).Keeps q x := by
  unfold slotTry
  split
  · exact keeps_unless _ (keeps_fails rfl _)
  · split
    · exact bufTry_keeps ..
    · exact keeps_unless _ (h _)

theorem ldqStep_keeps : (ldqStep q c x).Keeps q x := by
  unfold ldqStep
  dsimp only
  split
  · exact keeps_unless _ (keeps_fails rfl _)
  · split
    · exact keeps_unless _ (keeps_goes rfl ((fillLater_kept ..).trans (popIdx_kept ..)))
    · split
      · exact bufTry_keeps ..
      · refine keeps_unless _ (wideRead_keeps (fun q x bs => ?_) ..)
        exact keeps_goes rfl ((fillLater_kept ..).trans (popIdx_kept ..))

theorem stqStep_keeps : (stqStep q c x).Keeps q x := by
  have hpop : (popIdx (popSq q (x.qsel - 8)) x).kept = q.kept := (popIdx_kept ..).trans (popSq_kept ..)
  unfold stqStep
  dsimp only
  split
  · split
    · exact bufTry_keeps ..
    · trivial
  · split
    · exact keeps_unless _ (keeps_fails rfl _)
    · split
      · exact keeps_unless _ (keeps_liftX rfl (storeBytes_keeps hpop ..))
      · split
        · split
          · exact bufTry_keeps ..
          · refine keeps_unless _ ?_
            split
            · exact keeps_goes rfl hpop
            · exact keeps_goes rfl hpop
        · split
          · trivial
          · exact slotTry_keeps _ _ _ _ _ fun a => storeSlot_keeps rfl hpop ..

theorem msndStep_keeps : (msndStep q c x).Keeps q x := by
  unfold msndStep
  dsimp only
  split
  · exact keeps_unless _ (keeps_goes rfl rfl)
  · split
    · exact keeps_unless _ (keeps_fails rfl _)
    · split
      · exact keeps_unless _ (keeps_goes rfl ((sendLater_kept ..).trans (popIdx_kept ..)))
      · refine keeps_unless _ (wideRead_keeps (fun q x bs => ?_) ..)
        exact keeps_goes rfl ((sendLater_kept ..).trans (popIdx_kept ..))

theorem mrcvStep_keeps : (mrcvStep q c x).Keeps q x := by
  unfold mrcvStep
  dsimp only
  split
  · exact keeps_unless _ ⟨rfl, rfl, fun _ => by simp [isMild]⟩
  · split
    · exact keeps_unless _ ⟨rfl, pushDest_kept .., fun _ => by simp [isMild]⟩
    · split
      · exact keeps_unless _ (keeps_fails rfl _)
      · split
        · exact keeps_unless _ (keeps_fails rfl _)
        · exact keeps_unless _ (keeps_fails rfl _)
        · obtain ⟨hkept, hmild⟩ := storeBytes_keeps (q := q) ((popIdx_kept (popIngress q x.port) x).trans (popIngress_kept ..)) c x.id (xferSwz x) _ _
          exact keeps_unless _ ⟨rfl, hkept, fun hn => List.forall_mem_cons.mpr ⟨rfl, hmild hn⟩⟩

theorem xferStep_keeps : (xferStep q c x).Keeps q x := by
  unfold xferStep
  split
  · trivial
  · split
    · split
      · trivial
      · exact ldqStep_keeps ..
    · exact stqStep_keeps ..
    · split
      · trivial
      · exact msndStep_keeps ..
    · split
      · trivial
      · exact mrcvStep_keeps ..

end

end Sys2Proof.Machine

/-! ### Settling mild effects -/

namespace Sys2Proof.Machine

/-- The state beside its pips, its trace and what travels in the mesh. -/
def State.besideTraffic (s : State) : State := { s with pips := [], trc := {}, flight := [] }

theorem eq_of_besideTraffic {s t : State} (h : t.besideTraffic = s.besideTraffic) :
    t = { s with pips := t.pips, trc := t.trc, flight := t.flight } :=
  congrArg (fun u : State => { u with pips := t.pips, trc := t.trc, flight := t.flight }) h

theorem applyFx_mild {f : Fx} (h : isMild f = true) (p : Nat) (s : State) : (applyFx p f s).besideTraffic = s.besideTraffic := by
  cases f with
  | credit src cr sto hop => rfl
  | stallEnd exe h =>
    unfold applyFx
    dsimp only
    split
    · rw [pipRecord_eq]
      rfl
    · rfl
  | _ => cases h

theorem not_isQueued_of_isMild {f : Fx} (h : isMild f = true) : isQueued f = false := by
  cases f with
  | credit src cr sto hop => rfl
  | stallEnd exe h => rfl
  | _ => cases h

/-- What a pip settles that goes on with mild effects: its pip, credits and records. -/
theorem settle_mild (s : State) (p : Nat) (q : PipSt) {fx : List Fx} (h : ∀ f ∈ fx, isMild f = true) :
    pipOf (settle s p ⟨q, none, fx⟩) p = q ∧ (∀ k, k ≠ p → pipOf (settle s p ⟨q, none, fx⟩) k = pipOf s k) ∧
    (settle s p ⟨q, none, fx⟩).besideTraffic = s.besideTraffic := by
  have hqueued : fx.any isQueued = false := by
    rw [List.any_eq_false]
    intro f hf
    simp [not_isQueued_of_isMild (h f hf)]
  have hsettle : settle s p ⟨q, none, fx⟩ = forAll fx (applyFx p) (setPip s p q) := by
    unfold settle
    dsimp only
    rw [hqueued]
    rfl
  have hpip (k : Nat) : pipOf (settle s p ⟨q, none, fx⟩) k = pipOf (setPip s p q) k := by
    unfold pipOf
    rw [hsettle, (applyFxs_pips_jobs p fx _).1]
  refine ⟨(hpip p).trans (pipOf_setPip_same ..), fun k hk => (hpip k).trans (pipOf_setPip_other _ _ hk), ?_⟩
  rw [hsettle]
  exact forAll_keeps_mem State.besideTraffic fx (fun f hf s => applyFx_mild (h f hf) p s) _

theorem stallFx_mild (q : PipSt) (x : Bool) : ∀ f ∈ stallFx q x, isMild f = true := by
  unfold stallFx
  split <;> simp [isMild]

/-! ### The start of a transfer (R74, R76, R78) -/

section
variable {s : State} {p d : Nat} {k : XKind} {o : QOp} {r : XRes}

/-- What a transfer leaves whose first access is made: itself among the transfers, and AREG advanced. -/
theorem listXfer_kept {q : PipSt} (h : r.Keeps q (xferOf q s.cycle k o)) :
    (listXfer k o r).p.kept =
      ((if o.post then setA q o.areg (aReg q o.areg + BitVec.ofNat 64 (postBy k o)) else q).regs, q.acc, q.exe, q.sp, q.ten, q.rng, q.chn,
        q.job, q.ops.xfers ++ [r.x], q.ops.seq + 1) := by
  obtain ⟨-, hkept, -⟩ := h
  simp only [PipSt.kept, Prod.mk.injEq] at hkept
  obtain ⟨hregs, hacc, hexe, hsp, hten, hrng, hchn, hjob, hxfers, hseq⟩ := hkept
  unfold listXfer
  dsimp only
  split
  · simp only [PipSt.kept, setA, aReg, hregs, hacc, hexe, hsp, hten, hrng, hchn, hjob, hxfers, hseq]
  · simp only [PipSt.kept, hregs, hacc, hexe, hsp, hten, hrng, hchn, hjob, hxfers, hseq]

theorem postBy_eq (k : XKind) (o : QOp) :
    postBy k o = (if o.raw then 128 else 1) * match k with | .ldq | .stq => o.count | .msnd | .mrcv => (o.count + 1) / 2 := by
  unfold postBy
  cases k <;> cases o.raw <;> simp

/-- A transfer whose first access is made passes issue with what it leaves, and mild effects only. -/
theorem transferInstr_starts (hok : transferOk k o = true) (hrule : issueRules (xferOf (pipOf s p) s.cycle k o) = true)
    (hbusy : xferBusy (pipOf s p) (xferOf (pipOf s p) s.cycle k o) = [])
    (hstep : xferStep (pipOf s p) s.cycle (xferOf (pipOf s p) s.cycle k o) = .moved r) (hf : r.fail = none)
    (hr : Ready s p false (transferInstr k p d o)) :
    r.Keeps (pipOf s p) (xferOf (pipOf s p) s.cycle k o) ∧
    Answers (transferInstr k p d o) s fun t =>
      pipOf t p = issued (listXfer k o r).p false s.cycle ∧ (∀ n, n ≠ p → pipOf t n = pipOf s n) ∧ t.besideTraffic = s.besideTraffic := by
  have hkeeps : r.Keeps (pipOf s p) (xferOf (pipOf s p) s.cycle k o) := by
    have h := xferStep_keeps (pipOf s p) s.cycle (xferOf (pipOf s p) s.cycle k o)
    rw [hstep] at h
    exact h
  have hacts : startXfer k o s.cycle (pipOf s p) = .acts (listXfer k o r) := by
    unfold startXfer
    dsimp only
    rw [hrule, hbusy, hstep]
    rfl
  refine ⟨hkeeps, _, exec_transferInstr hr.1, ?_⟩
  rw [issue_settles hr hok hacts hf]
  obtain ⟨-, -, hmild⟩ := hkeeps
  exact settle_mild s p _ (List.forall_mem_append.mpr ⟨stallFx_mild _ _, hmild hf⟩)

/-- What the issue of an access instruction leaves of the rest. -/
theorem issued_access_kept (q : PipSt) (c : Nat) : (issued q false c).kept =
    (q.regs, nextInstr (issueAt q.acc c), q.exe, q.sp, q.ten, q.rng, q.chn, q.job, q.ops.xfers, q.ops.seq) := rfl

end

end Sys2Proof.Machine

section
open Sys2Proof Sys2Proof.Machine

/-- Settles O5: the first access keeps the registers, the scratchpad and what its transfer latched, and its effects outside the pip
are credits and records of stalls. -/
theorem transferInstructions : Obligations.TransferInstructions := by
  intro s p d k o r hok hrule hbusy hstep hf hr
  have h := fun hok' => transferInstr_starts (d := d) (k := k) hok' hrule hbusy hstep hf
  have hstarts : r.Keeps (pipOf s p) (xferOf (pipOf s p) s.cycle k o) ∧ Answers (transferInstr k p d o) s fun t =>
      pipOf t p = issued (listXfer k o r).p false s.cycle ∧ (∀ n, n ≠ p → pipOf t n = pipOf s n) ∧ t.besideTraffic = s.besideTraffic := by
    cases k
    all_goals exact h hok hr
  obtain ⟨hkeeps, t, hex, hpip, hother, hrest⟩ := hstarts
  have hkept := (congrArg PipSt.kept hpip).trans (issued_access_kept ..)
  have hlist := listXfer_kept hkeeps
  rw [postBy_eq] at hlist
  simp only [PipSt.kept, Prod.mk.injEq] at hkept hlist
  obtain ⟨hregs, hacc, hexe, hsp, hten, hrng, hchn, hjob, hxfers, -⟩ := hkept
  obtain ⟨lregs, lacc, lexe, lsp, lten, lrng, lchn, ljob, lxfers, -⟩ := hlist
  obtain ⟨hlatched, -⟩ := hkeeps
  simp only [Xfer.latched, Prod.mk.injEq] at hlatched
  obtain ⟨hid, hkind, hbase, hdesc, hcount⟩ := hlatched
  refine ⟨t, ?_, hregs.trans lregs, ?_, hexe.trans lexe, hsp.trans lsp, hten.trans lten, hrng.trans lrng, hchn.trans lchn, hjob.trans ljob,
    ⟨r.x, hxfers.trans lxfers, hid, hkind, hbase, hdesc, hcount⟩, eq_of_besideTraffic hrest, hother⟩
  · cases k
    all_goals exact hex
  · rw [hacc, lacc]

end

/-! ## Instruction words (O4) -/

namespace Sys2Proof.Machine

/-! ### Fields of a word -/

theorem b2n_lt (b : Bool) : b2n b < 2 := by cases b <;> decide

/-- The bit that shows a Bool reads back as it. -/
theorem bit_of_b2n {w i : Nat} {b : Bool} (h : w / 2 ^ i % 2 = b2n b) : bit w i = b := by
  unfold bit
  rw [h]
  cases b <;> rfl

section
variable {d op v : Nat}

theorem wDelta_mkWord (hd : d < 2 ^ 10) (hop : op < 2 ^ 6) (hv : v < 2 ^ 48) : wDelta (mkWord d op v) = d := by
  unfold wDelta bits mkWord
  omega

theorem wOp_mkWord (hop : op < 2 ^ 6) (hv : v < 2 ^ 48) : wOp (mkWord d op v) = op := by
  unfold wOp bits mkWord
  omega

theorem mkWord_lt (hd : d < 2 ^ 10) (hop : op < 2 ^ 6) (hv : v < 2 ^ 48) : mkWord d op v < 2 ^ 64 := by
  unfold mkWord
  omega

end

/-! ### The operand formats -/

/-- The operand bits of a format stay below OP, and its decoder reads the operands back from a word that holds them. -/
def Reads {α : Type} (dec : Nat → α) (enc : Nat) (o : α) : Prop := enc < 2 ^ 48 ∧ ∀ d op, dec (mkWord d op enc) = o

theorem encQ_reads {sel : Nat → Bool} {o : QOp} (h : qOk sel o = true) (hs : ∀ q, sel q = true → q < 16) : Reads decQ (encQ o) o := by
  obtain ⟨qsel, handle, areg, count, post, idx, port, raw⟩ := o
  simp only [qOk, Bool.and_eq_true, decide_eq_true_eq] at h
  obtain ⟨⟨⟨⟨⟨⟨hsel, hh⟩, ha⟩, -⟩, hc⟩, hp⟩, -⟩ := h
  have hq := hs _ hsel
  have hpost := b2n_lt post
  have hidx := b2n_lt idx
  have hraw := b2n_lt raw
  refine ⟨by simp only [encQ]; omega, fun d op => ?_⟩
  simp only [decQ, encQ, mkWord, bits, QOp.mk.injEq]
  refine ⟨?_, ?_, ?_, ?_, bit_of_b2n ?_, bit_of_b2n ?_, ?_, bit_of_b2n ?_⟩
  all_goals omega

theorem encD_reads {o : DOp} (h : dOk o = true) : Reads decD (encD o) o := by
  obtain ⟨ch, dir, ahbm, asp, handle, len, raw⟩ := o
  simp only [dOk, Bool.and_eq_true, decide_eq_true_eq] at h
  obtain ⟨⟨⟨⟨hm, hs⟩, hh⟩, -⟩, hl⟩ := h
  have hch := b2n_lt ch
  have hdir := b2n_lt dir
  have hraw := b2n_lt raw
  refine ⟨by simp only [encD]; omega, fun d op => ?_⟩
  simp only [decD, encD, mkWord, bits, DOp.mk.injEq]
  refine ⟨bit_of_b2n ?_, bit_of_b2n ?_, ?_, ?_, ?_, ?_, bit_of_b2n ?_⟩
  all_goals omega

theorem encA_reads {o : AOp} (h : aOk o = true) : Reads decA (encA o) o := by
  obtain ⟨ad, as_, fn, imm⟩ := o
  simp only [aOk, Bool.and_eq_true, decide_eq_true_eq] at h
  obtain ⟨⟨⟨hd, hs⟩, hf⟩, hi⟩ := h
  refine ⟨by simp only [encA]; omega, fun d op => ?_⟩
  simp only [decA, encA, mkWord, bits, AOp.mk.injEq]
  refine ⟨?_, ?_, ?_, ?_⟩
  all_goals omega

theorem encS_reads {o : SOp} (h : sOk o = true) : Reads decS (encS o) o := by
  obtain ⟨sd, sa, sb, fn, immsel, imm⟩ := o
  simp only [sOk, Bool.and_eq_true, decide_eq_true_eq] at h
  obtain ⟨⟨⟨⟨hd, ha⟩, hb⟩, hf⟩, hi⟩ := h
  have hsel := b2n_lt immsel
  refine ⟨by simp only [encS]; omega, fun d op => ?_⟩
  simp only [decS, encS, mkWord, bits, SOp.mk.injEq]
  refine ⟨?_, ?_, ?_, ?_, bit_of_b2n ?_, ?_⟩
  all_goals omega

theorem encN_reads {o : NOp} (h : nOk o = true) : Reads decN (encN o) o := by
  obtain ⟨sd, sa, handle, size, raw, imm⟩ := o
  simp only [nOk, Bool.and_eq_true, decide_eq_true_eq] at h
  obtain ⟨⟨⟨⟨hd, ha⟩, hh⟩, hs⟩, hi⟩ := h
  have hraw := b2n_lt raw
  refine ⟨by simp only [encN]; omega, fun d op => ?_⟩
  simp only [decN, encN, mkWord, bits, NOp.mk.injEq]
  refine ⟨?_, ?_, ?_, ?_, bit_of_b2n ?_, ?_⟩
  all_goals omega

theorem encB_reads {x : Bool} {o : BOp} (h : bOk x o = true) : Reads decB (encB o) o := by
  obtain ⟨cond, test, na, nb, pad⟩ := o
  simp only [bOk, Bool.and_eq_true, decide_eq_true_eq] at h
  obtain ⟨⟨⟨⟨⟨⟨hc, -⟩, ht⟩, ha⟩, hb⟩, -⟩, hp⟩ := h
  refine ⟨by simp only [encB]; omega, fun d op => ?_⟩
  simp only [decB, encB, mkWord, bits, BOp.mk.injEq]
  refine ⟨?_, ?_, ?_, ?_, ?_⟩
  all_goals omega

/-- Format G, with RFN above the operands (Table 8.4). -/
theorem encG_reads {rfn : Nat} {o : GOp} (hr : rfn < 16) (h : gOk o = true) :
    Reads (fun w => (bits w 47 44, decG w)) (encG rfn o) (rfn, o) := by
  obtain ⟨rslot, count, sq⟩ := o
  simp only [gOk, Bool.and_eq_true, decide_eq_true_eq] at h
  obtain ⟨⟨hs, -⟩, hc⟩ := h
  have hsq := b2n_lt sq
  refine ⟨by simp only [encG]; omega, fun d op => ?_⟩
  simp only [decG, encG, mkWord, bits, Prod.mk.injEq, GOp.mk.injEq]
  refine ⟨?_, ?_, ?_, bit_of_b2n ?_⟩
  all_goals omega

/-! ### Single operands -/

theorem dmaw_reads (ch : Bool) : Reads (bit · 47) (b2n ch * 2 ^ 47) ch := by
  have hch := b2n_lt ch
  refine ⟨by omega, fun d op => ?_⟩
  simp only [mkWord]
  exact bit_of_b2n (by omega)

theorem swap_reads {h : Nat} (hh : h < 256) : Reads (bits · 43 36) (h * 2 ^ 36) h := by
  refine ⟨by omega, fun d op => ?_⟩
  simp only [mkWord, bits]
  omega

theorem dld_reads {h a : Nat} (hh : h < 256) (ha : a < 16) :
    Reads (fun w => (bits w 43 36, bits w 35 32)) (h * 2 ^ 36 + a * 2 ^ 32 + 2 ^ 11) (h, a) := by
  refine ⟨by omega, fun d op => ?_⟩
  simp only [mkWord, bits, Prod.mk.injEq]
  constructor
  all_goals omega

theorem strmStart_reads {a e : Nat} (ha : a < 16) (he : e < 5) :
    Reads (fun w => (bit w 3, bits w 43 40, bits w 2 0)) (a * 2 ^ 40 + e) (false, a, e) := by
  refine ⟨by omega, fun d op => ?_⟩
  simp only [mkWord, bits, Prod.mk.injEq]
  refine ⟨bit_of_b2n (b := false) (show _ = 0 by omega), ?_, ?_⟩
  all_goals omega

theorem strmWait_reads {e : Nat} (he : e < 5) : Reads (fun w => (bit w 3, bits w 43 40, bits w 2 0)) (8 + e) (true, 0, e) := by
  refine ⟨by omega, fun d op => ?_⟩
  simp only [mkWord, bits, Prod.mk.injEq]
  refine ⟨bit_of_b2n (b := true) (show _ = 1 by omega), ?_, ?_⟩
  all_goals omega

theorem sigl_reads {obj add : Nat} (h : siglOk obj add = true) :
    Reads (fun w => (bits w 47 34, bits w 33 18)) (obj * 2 ^ 34 + add * 2 ^ 18) (obj, add) := by
  simp only [siglOk, Bool.and_eq_true, decide_eq_true_eq] at h
  obtain ⟨⟨ho, -⟩, ha⟩ := h
  refine ⟨by omega, fun d op => ?_⟩
  simp only [mkWord, bits, Prod.mk.injEq]
  constructor
  all_goals omega

theorem loop_reads {level body : Nat} (h : loopOk level body = true) :
    Reads (fun w => (bits w 47 46, bits w 45 33)) (level * 2 ^ 46 + body * 2 ^ 33) (level, body) := by
  simp only [loopOk, Bool.and_eq_true, decide_eq_true_eq] at h
  obtain ⟨⟨hl, -⟩, hb⟩ := h
  refine ⟨by omega, fun d op => ?_⟩
  simp only [mkWord, bits, Prod.mk.injEq]
  constructor
  all_goals omega

theorem lcset_reads {x : Bool} {lc src reg imm : Nat} (h : lcsetOk x lc src reg imm = true) :
    Reads (fun w => (bits w 47 46, bits w 45 44, bits w 43 39, bits w 15 0)) (lc * 2 ^ 46 + src * 2 ^ 44 + reg * 2 ^ 39 + imm)
      (lc, src, reg, imm) := by
  simp only [lcsetOk, Bool.and_eq_true, decide_eq_true_eq] at h
  obtain ⟨⟨⟨⟨hl, hs⟩, hr⟩, -⟩, hi⟩ := h
  have hs : src ≤ 2 := hs.trans (by split <;> decide)
  refine ⟨by omega, fun d op => ?_⟩
  simp only [mkWord, bits, Prod.mk.injEq]
  refine ⟨?_, ?_, ?_, ?_⟩
  all_goals omega

theorem tlw_reads {n : Nat} (hn : n ≤ 16) : Reads (bits · 45 41) (n * 2 ^ 41) n := by
  refine ⟨by omega, fun d op => ?_⟩
  simp only [mkWord, bits]
  omega

theorem tmm_reads {fa fw : Nat} (acc clr : Bool) (ha : fa < 16) (hw : fw < 16) :
    Reads (fun w => (bit w 47, bit w 46, bits w 45 42, bits w 41 38))
      (b2n acc * 2 ^ 47 + b2n clr * 2 ^ 46 + fa * 2 ^ 42 + fw * 2 ^ 38) (acc, clr, fa, fw) := by
  have hacc := b2n_lt acc
  have hclr := b2n_lt clr
  refine ⟨by omega, fun d op => ?_⟩
  simp only [mkWord, bits, Prod.mk.injEq]
  refine ⟨bit_of_b2n ?_, bit_of_b2n ?_, ?_, ?_⟩
  all_goals omega

theorem tdrn_reads {chain : Nat} (acc sq : Bool) (hc : chain < 16) :
    Reads (fun w => (bit w 47, bits w 37 34, bit w 33)) (b2n acc * 2 ^ 47 + chain * 2 ^ 34 + b2n sq * 2 ^ 33) (acc, chain, sq) := by
  have hacc := b2n_lt acc
  have hsq := b2n_lt sq
  refine ⟨by omega, fun d op => ?_⟩
  simp only [mkWord, bits, Prod.mk.injEq]
  refine ⟨bit_of_b2n ?_, ?_, bit_of_b2n ?_⟩
  all_goals omega

theorem tmode_reads (m : Bool) : Reads (bit · 46) (b2n m * 2 ^ 46) m := by
  have hm := b2n_lt m
  refine ⟨by omega, fun d op => ?_⟩
  simp only [mkWord]
  exact bit_of_b2n (by omega)

theorem spush_reads {sa : Nat} (ha : sa < 32) : Reads (bits · 42 38) (sa * 2 ^ 38) sa := by
  refine ⟨by omega, fun d op => ?_⟩
  simp only [mkWord, bits]
  omega

theorem ssum_reads {sd which : Nat} (hd : sd < 32) (hw : which < 4) :
    Reads (fun w => (bits w 47 43, bits w 1 0)) (sd * 2 ^ 43 + which) (sd, which) := by
  refine ⟨by omega, fun d op => ?_⟩
  simp only [mkWord, bits, Prod.mk.injEq]
  constructor
  all_goals omega

theorem lrxset_reads {idx sa : Nat} (hi : idx < 64) (ha : sa < 32) :
    Reads (fun w => (bits w 5 0, bits w 42 38)) (sa * 2 ^ 38 + idx) (idx, sa) := by
  refine ⟨by omega, fun d op => ?_⟩
  simp only [mkWord, bits, Prod.mk.injEq]
  constructor
  all_goals omega

theorem reads_nothing : Reads (fun _ => ()) 0 () := ⟨by decide, fun _ _ => rfl⟩

/-! ### Words of the two streams -/

/-- The word `w` of stream `x` has 64 bits and is instruction `i` (R67). -/
def Spells (i : Instr) (x : Bool) (w : Nat) : Prop := w < 2 ^ 64 ∧ ∃ p, p < 10240 ∧ decodeWord p x w = some i

theorem pip_delta_lt {p d : Nat} (h : (pipNum p && deltaOk d) = true) : p < 10240 ∧ d < 2 ^ 10 := by
  simp only [pipNum, deltaOk, Bool.and_eq_true, decide_eq_true_eq] at h
  omega

section
variable {α : Type} {p d enc : Nat} {x : Bool} {dec : Nat → α} {o : α} (h : (pipNum p && deltaOk d) = true)
include h

/-- A word of DELTA, OP and operand bits spells what words of this OP decode to, at this DELTA and these operands. -/
theorem spells_mkWord {op : Nat} (mk : Nat → α → Instr) (hr : Reads dec enc o)
    (hdec : ∀ w, wOp w = op → decodeWord p x w = some (mk (wDelta w) (dec w))) (hop : op < 2 ^ 6 := by decide) :
    Spells (mk d o) x (mkWord d op enc) := by
  obtain ⟨hp, hd⟩ := pip_delta_lt h
  obtain ⟨henc, hread⟩ := hr
  refine ⟨mkWord_lt hd hop henc, p, hp, ?_⟩
  rw [hdec _ (wOp_mkWord hop henc), wDelta_mkWord hd hop henc, hread]

/-- The ring functions have OP 6 and a word of format G (Table 8.4). -/
theorem spells_ring {rfn : Nat} {o : GOp} (mk : Nat → GOp → Instr) (ho : gOk o = true) (hr : rfn < 16)
    (hdec : ∀ w, bits w 47 44 = rfn → decodeRing p w = some (mk (wDelta w) (decG w))) :
    Spells (mk d o) true (mkWord d 0x06 (encG rfn o)) := by
  obtain ⟨hp, hd⟩ := pip_delta_lt h
  obtain ⟨henc, hread⟩ := encG_reads hr ho
  obtain ⟨hrfn, ho⟩ := Prod.mk.inj (hread d 0x06)
  refine ⟨mkWord_lt hd (by decide) henc, p, hp, ?_⟩
  have hring : decodeWord p true (mkWord d 0x06 (encG rfn o)) = decodeRing p (mkWord d 0x06 (encG rfn o)) := by
    simp only [decodeWord, decodeExe, wOp_mkWord (by decide : 0x06 < 2 ^ 6) henc, if_true]
  rw [hring, hdec _ hrfn, wDelta_mkWord hd (by decide) henc, ho]

end

/-- Both streams read NOP, LOOP, BRF, LCSET and END alike (Table 3.5). -/
theorem decodeWord_both {p w : Nat} {x : Bool} (h : wOp w = 0 ∨ wOp w = 0x3C ∨ wOp w = 0x3D ∨ wOp w = 0x3E ∨ wOp w = 0x3F) :
    decodeWord p x w = decodeBoth p x w := by
  cases x
  all_goals
    rcases h with h | h | h | h | h
    all_goals simp [decodeWord, decodeAcc, decodeExe, h]

theorem ldq_queue {q : Nat} (h : decide (q ≤ 4) = true) : q < 16 := by simp at h; omega
theorem stq_queue {q : Nat} (h : (decide (q = 8) || decide (q = 9)) = true) : q < 16 := by simp at h; omega
theorem msnd_queue {q : Nat} (h : (decide (q = 5) || decide (q = 8) || decide (q = 9)) = true) : q < 16 := by simp at h; omega
theorem mrcv_queue {q : Nat} (h : decide (q ≤ 5) = true) : q < 16 := by simp at h; omega

/-- Bit 3 of a STRM word tells a wait from a start (Table 3.1). -/
theorem spells_strmStart {p d a e : Nat} (h : (pipNum p && deltaOk d) = true) (ha : a < 16) (he : e < 5) :
    Spells (.strmStart p d a e) false (mkWord d 0x0A (a * 2 ^ 40 + e)) := by
  have hs := spells_mkWord (x := false) (op := 0x0A) h (fun d o => if o.1 then .strmWait p d o.2.2 else .strmStart p d o.2.1 o.2.2)
    (strmStart_reads ha he) fun w hop => by simp [decodeWord, decodeAcc, hop]
  simpa using hs

theorem spells_strmWait {p d e : Nat} (h : (pipNum p && deltaOk d) = true) (he : e < 5) :
    Spells (.strmWait p d e) false (mkWord d 0x0A (8 + e)) := by
  have hs := spells_mkWord (x := false) (op := 0x0A) h (fun d o => if o.1 then .strmWait p d o.2.2 else .strmStart p d o.2.1 o.2.2)
    (strmWait_reads he) fun w hop => by simp [decodeWord, decodeAcc, hop]
  simpa using hs

/-- Each instruction of either stream is what its word spells: a case for each row of Tables 3.2, 3.3, 3.5 and 8.4. -/
theorem spells_encodeInstr {i : Instr} {x : Bool} {w : Nat} (hwf : i.wellFormed = true) (henc : encodeInstr i = some (x, w)) :
    Spells i x w := by
  unfold encodeInstr at henc
  split at henc
  all_goals cases henc
  · next p d =>
    exact spells_mkWord hwf (fun d _ => .nop p x d) reads_nothing fun w hop => by simp [decodeWord_both, decodeBoth, hop]
  · next p d o =>
    obtain ⟨h, ho⟩ := Bool.and_eq_true_iff.mp hwf
    exact spells_mkWord h (.ldq p) (encQ_reads ho fun _ => ldq_queue) fun w hop => by simp [decodeWord, decodeAcc, hop]
  · next p d o =>
    obtain ⟨h, ho⟩ := Bool.and_eq_true_iff.mp hwf
    exact spells_mkWord h (.stq p) (encQ_reads ho fun _ => stq_queue) fun w hop => by simp [decodeWord, decodeAcc, hop]
  · next p d o =>
    obtain ⟨h, ho⟩ := Bool.and_eq_true_iff.mp hwf
    exact spells_mkWord h (.msnd p) (encQ_reads ho fun _ => msnd_queue) fun w hop => by simp [decodeWord, decodeAcc, hop]
  · next p d o =>
    obtain ⟨h, ho⟩ := Bool.and_eq_true_iff.mp hwf
    exact spells_mkWord h (.mrcv p) (encQ_reads ho fun _ => mrcv_queue) fun w hop => by simp [decodeWord, decodeAcc, hop]
  · next p d o =>
    obtain ⟨h, ho⟩ := Bool.and_eq_true_iff.mp hwf
    exact spells_mkWord h (.dma p) (encD_reads ho) fun w hop => by simp [decodeWord, decodeAcc, hop]
  · next p d ch =>
    exact spells_mkWord hwf (.dmaw p) (dmaw_reads ch) fun w hop => by simp [decodeWord, decodeAcc, hop]
  · next p d handle =>
    obtain ⟨h, ho⟩ := Bool.and_eq_true_iff.mp hwf
    exact spells_mkWord h (.swap p) (swap_reads (of_decide_eq_true ho)) fun w hop => by simp [decodeWord, decodeAcc, hop]
  · next p d handle areg =>
    obtain ⟨h, ho⟩ := Bool.and_eq_true_iff.mp hwf
    obtain ⟨h, ho'⟩ := Bool.and_eq_true_iff.mp h
    exact spells_mkWord (x := false) (op := 0x08) h (fun d o => .dld p d o.1 o.2) (dld_reads (of_decide_eq_true ho') (of_decide_eq_true ho))
      fun w hop => by simp [decodeWord, decodeAcc, hop]
  · next p d o =>
    obtain ⟨h, ho⟩ := Bool.and_eq_true_iff.mp hwf
    exact spells_mkWord h (.aop p) (encA_reads ho) fun w hop => by simp [decodeWord, decodeAcc, hop]
  · next p d areg e =>
    obtain ⟨h, ho⟩ := Bool.and_eq_true_iff.mp hwf
    obtain ⟨h, ho'⟩ := Bool.and_eq_true_iff.mp h
    exact spells_strmStart h (of_decide_eq_true ho') (of_decide_eq_true ho)
  · next p d e =>
    obtain ⟨h, ho⟩ := Bool.and_eq_true_iff.mp hwf
    exact spells_strmWait h (of_decide_eq_true ho)
  · next p d obj add =>
    obtain ⟨h, ho⟩ := Bool.and_eq_true_iff.mp hwf
    exact spells_mkWord (x := false) (op := 0x0B) h (fun d o => .sigl p d o.1 o.2) (sigl_reads ho)
      fun w hop => by simp [decodeWord, decodeAcc, hop]
  · next p d level body =>
    obtain ⟨h, ho⟩ := Bool.and_eq_true_iff.mp hwf
    exact spells_mkWord (x := x) (op := 0x3C) h (fun d o => .loop p x d o.1 o.2) (loop_reads ho)
      fun w hop => by simp [decodeWord_both, decodeBoth, hop]
  · next p d o =>
    obtain ⟨h, ho⟩ := Bool.and_eq_true_iff.mp hwf
    exact spells_mkWord h (.brf p x) (encB_reads ho) fun w hop => by simp [decodeWord_both, decodeBoth, hop]
  · next p d lc src reg imm =>
    obtain ⟨h, ho⟩ := Bool.and_eq_true_iff.mp hwf
    exact spells_mkWord (x := x) (op := 0x3E) h (fun d o => .lcset p x d o.1 o.2.1 o.2.2.1 o.2.2.2) (lcset_reads ho)
      fun w hop => by simp [decodeWord_both, decodeBoth, hop]
  · next p d =>
    exact spells_mkWord hwf (fun d _ => .endStream p x d) reads_nothing fun w hop => by simp [decodeWord_both, decodeBoth, hop]
  · next p d n =>
    obtain ⟨h, ho⟩ := Bool.and_eq_true_iff.mp hwf
    obtain ⟨h, -⟩ := Bool.and_eq_true_iff.mp h
    exact spells_mkWord h (.tlw p) (tlw_reads (of_decide_eq_true ho)) fun w hop => by simp [decodeWord, decodeExe, hop]
  · next p d =>
    exact spells_mkWord hwf (fun d _ => .tsw p d) reads_nothing fun w hop => by simp [decodeWord, decodeExe, hop]
  · next p d acc clr fa fw =>
    obtain ⟨h, ho⟩ := Bool.and_eq_true_iff.mp hwf
    obtain ⟨h, ho'⟩ := Bool.and_eq_true_iff.mp h
    exact spells_mkWord (x := true) (op := 0x03) h (fun d o => .tmm p d o.1 o.2.1 o.2.2.1 o.2.2.2)
      (tmm_reads acc clr (of_decide_eq_true ho') (of_decide_eq_true ho))
      fun w hop => by simp [decodeWord, decodeExe, hop]
  · next p d acc chain sq =>
    obtain ⟨h, ho⟩ := Bool.and_eq_true_iff.mp hwf
    exact spells_mkWord (x := true) (op := 0x04) h (fun d o => .tdrn p d o.1 o.2.1 o.2.2) (tdrn_reads acc sq (of_decide_eq_true ho))
      fun w hop => by simp [decodeWord, decodeExe, hop]
  · next p d m =>
    exact spells_mkWord hwf (.tmode p) (tmode_reads m) fun w hop => by simp [decodeWord, decodeExe, hop]
  · next p d o =>
    obtain ⟨h, ho⟩ := Bool.and_eq_true_iff.mp hwf
    exact spells_ring h (.nttl p) ho (by decide) fun w hr => by simp [decodeRing, hr]
  · next p d o =>
    obtain ⟨h, ho⟩ := Bool.and_eq_true_iff.mp hwf
    exact spells_ring h (.nttx p) ho (by decide) fun w hr => by simp [decodeRing, hr]
  · next p d o =>
    obtain ⟨h, ho⟩ := Bool.and_eq_true_iff.mp hwf
    exact spells_ring h (.intx p) ho (by decide) fun w hr => by simp [decodeRing, hr]
  · next p d o =>
    obtain ⟨h, ho⟩ := Bool.and_eq_true_iff.mp hwf
    exact spells_ring h (.intl p) ho (by decide) fun w hr => by simp [decodeRing, hr]
  · next p d o =>
    obtain ⟨h, ho⟩ := Bool.and_eq_true_iff.mp hwf
    exact spells_ring h (.eadd p) ho (by decide) fun w hr => by simp [decodeRing, hr]
  · next p d o =>
    obtain ⟨h, ho⟩ := Bool.and_eq_true_iff.mp hwf
    exact spells_ring h (.esub p) ho (by decide) fun w hr => by simp [decodeRing, hr]
  · next p d o =>
    obtain ⟨h, ho⟩ := Bool.and_eq_true_iff.mp hwf
    exact spells_ring h (.emul p) ho (by decide) fun w hr => by simp [decodeRing, hr]
  · next p d o =>
    obtain ⟨h, ho⟩ := Bool.and_eq_true_iff.mp hwf
    exact spells_ring h (.mulc p) ho (by decide) fun w hr => by simp [decodeRing, hr]
  · next p d o =>
    obtain ⟨h, ho⟩ := Bool.and_eq_true_iff.mp hwf
    exact spells_ring h (.kmac p) ho (by decide) fun w hr => by simp [decodeRing, hr]
  · next p d o =>
    obtain ⟨h, ho⟩ := Bool.and_eq_true_iff.mp hwf
    exact spells_ring h (.auto p) ho (by decide) fun w hr => by simp [decodeRing, hr]
  · next p d o =>
    obtain ⟨h, ho⟩ := Bool.and_eq_true_iff.mp hwf
    exact spells_ring h (.tomont p) ho (by decide) fun w hr => by simp [decodeRing, hr]
  · next p d o =>
    obtain ⟨h, ho⟩ := Bool.and_eq_true_iff.mp hwf
    exact spells_ring h (.frommont p) ho (by decide) fun w hr => by simp [decodeRing, hr]
  · next p d o =>
    obtain ⟨h, ho⟩ := Bool.and_eq_true_iff.mp hwf
    exact spells_ring h (.kout p) ho (by decide) fun w hr => by simp [decodeRing, hr]
  · next p d o =>
    obtain ⟨h, ho⟩ := Bool.and_eq_true_iff.mp hwf
    exact spells_mkWord h (.sop p) (encS_reads ho) fun w hop => by simp [decodeWord, decodeExe, hop]
  · next p d o =>
    obtain ⟨h, ho⟩ := Bool.and_eq_true_iff.mp hwf
    exact spells_mkWord h (.sld p) (encN_reads ho) fun w hop => by simp [decodeWord, decodeExe, hop]
  · next p d o =>
    obtain ⟨h, ho⟩ := Bool.and_eq_true_iff.mp hwf
    exact spells_mkWord h (.sst p) (encN_reads ho) fun w hop => by simp [decodeWord, decodeExe, hop]
  · next p d sa =>
    obtain ⟨h, ho⟩ := Bool.and_eq_true_iff.mp hwf
    exact spells_mkWord h (.spush p) (spush_reads (of_decide_eq_true ho)) fun w hop => by simp [decodeWord, decodeExe, hop]
  · next p d sd which =>
    obtain ⟨h, ho⟩ := Bool.and_eq_true_iff.mp hwf
    obtain ⟨h, ho'⟩ := Bool.and_eq_true_iff.mp h
    exact spells_mkWord (x := true) (op := 0x0B) h (fun d o => .ssum p d o.1 o.2)
      (ssum_reads (of_decide_eq_true ho') (of_decide_eq_true ho))
      fun w hop => by simp [decodeWord, decodeExe, hop]
  · next p d idx sa =>
    obtain ⟨h, ho⟩ := Bool.and_eq_true_iff.mp hwf
    obtain ⟨h, ho'⟩ := Bool.and_eq_true_iff.mp h
    exact spells_mkWord (x := true) (op := 0x0C) h (fun d o => .lrxset p d o.1 o.2)
      (lrxset_reads (of_decide_eq_true ho') (of_decide_eq_true ho))
      fun w hop => by simp [decodeWord, decodeExe, hop]

end Sys2Proof.Machine

section
open Sys2Proof Sys2Proof.Machine

/-- Settles O4: every operand format reads back from a word of any DELTA and OP, and OP names the decoder's row. -/
theorem instructionWords : Obligations.InstructionWords := by
  intro i x w hwf henc
  exact spells_encodeInstr hwf henc

end

/-! ## Results of SOP and targets of LOOP and BRF (O3) -/

namespace Sys2Proof.Machine

/-! ### SOP (Table 3.3) -/

/-- A signed minimum picks the operand that the signed order puts first; a maximum the other. -/
theorem toInt_slt_min (v w : Word64) : (if v.slt w then v else w).toInt = min v.toInt w.toInt := by
  rw [BitVec.slt_eq_decide]
  by_cases h : v.toInt < w.toInt
  · simp [h, min_eq_left h.le]
  · simp [h, min_eq_right (not_lt.mp h)]

theorem toInt_slt_max (v w : Word64) : (if v.slt w then w else v).toInt = max v.toInt w.toInt := by
  rw [BitVec.slt_eq_decide]
  by_cases h : v.toInt < w.toInt
  · simp [h, max_eq_right h.le]
  · simp [h, max_eq_left (not_lt.mp h)]

theorem toNat_ult_min (v w : Word64) : (if v.ult w then v else w).toNat = min v.toNat w.toNat := by
  rw [BitVec.ult_eq_decide]
  by_cases h : v.toNat < w.toNat
  · simp [h, min_eq_left h.le]
  · simp [h, min_eq_right (not_lt.mp h)]

theorem toNat_ult_max (v w : Word64) : (if v.ult w then w else v).toNat = max v.toNat w.toNat := by
  rw [BitVec.ult_eq_decide]
  by_cases h : v.toNat < w.toNat
  · simp [h, max_eq_right h.le]
  · simp [h, max_eq_left (not_lt.mp h)]

/-- An arithmetic shift divides the signed value, rounding down. -/
theorem toInt_sshiftRight_div (v : Word64) (n : Nat) : (v.sshiftRight n).toInt = v.toInt / 2 ^ n := by
  rw [BitVec.toInt_sshiftRight, Int.shiftRight_eq_div_pow]
  norm_cast

/-! ### LOOP and BRF (R82, R85) -/

section
variable {u : StreamSt} (h : u.loops = [])
include h

/-- Outside every loop control goes on after the part that ends at `last`. -/
theorem goAfter_noLoops (last : Nat) : goAfter u last = { u with pc := last + 1 } := by
  unfold goAfter
  rw [h]
  simp [afterLast, ← h]

theorem enterLoop_skips (level body : Nat) : enterLoop u level body 0 = { u with pc := u.pc + body + 1 } := by
  unfold enterLoop
  rw [if_pos rfl, goAfter_noLoops h]

theorem enterArm_empty {taken : Bool} {na nb : Nat} (hn : (if taken then na else nb) = 0) (pad : Nat) :
    enterArm u taken na nb pad = { u with pc := u.pc + 1 + na + nb, base := u.base + pad } := by
  unfold enterArm
  dsimp only
  rw [if_pos hn, goAfter_noLoops (by exact h)]
  congr 1
  omega

end

theorem enterArm_runs {u : StreamSt} {taken : Bool} {na nb : Nat} (hn : (if taken then na else nb) ≠ 0) (pad : Nat) :
    (enterArm u taken na nb pad).pc = (if taken then u.pc + 1 else u.pc + 1 + na) ∧ (enterArm u taken na nb pad).base = u.base := by
  unfold enterArm
  dsimp only
  rw [if_neg hn]
  exact ⟨rfl, rfl⟩

end Sys2Proof.Machine

section
open Sys2Proof Sys2Proof.Machine

/-- Settles O3: each function of SOP is its operation on words, and outside every loop control passes on by one. -/
theorem scalarResults : Obligations.ScalarResults := by
  refine ⟨fun o v w z => ?_, fun u hu => ⟨fun level body count => ⟨?_, fun hc => ?_⟩, fun taken na nb pad =>
    ⟨fun hn => ?_, fun hn => ?_⟩⟩⟩
  · refine ⟨?_, ?_, ?_, ?_, ?_, ?_, ?_, ?_, ?_, ?_, ?_, ?_, ?_, ?_, ?_, ?_, ?_, ?_⟩
    all_goals
      intro hfn
      simp only [sopResult, hfn]
    · exact BitVec.toNat_add v w
    · rw [BitVec.toNat_sub]
      congr 1
      omega
    · exact BitVec.toNat_mul v w
    · exact fun i => BitVec.getLsbD_and
    · exact fun i => BitVec.getLsbD_or
    · exact fun i => BitVec.getLsbD_xor
    · rw [BitVec.toNat_shiftLeft, Nat.shiftLeft_eq]
    · rw [BitVec.toNat_ushiftRight, Nat.shiftRight_eq_div_pow]
    · exact toInt_sshiftRight_div v _
    · exact toInt_slt_min v w
    · exact toInt_slt_max v w
    · exact toNat_ult_min v w
    · exact toNat_ult_max v w
    · simp only [decide_eq_true_eq]
    · simp only [BitVec.slt_eq_decide, decide_eq_true_eq]
    · simp only [BitVec.ult_eq_decide, decide_eq_true_eq]
    · rw [BitVec.toNat_ofNat]
      omega
  · rintro rfl
    rw [enterLoop_skips hu]
    exact ⟨rfl, hu⟩
  · unfold enterLoop
    rw [if_neg hc, hu]
    exact ⟨rfl, rfl⟩
  · rw [enterArm_empty hu hn]
    exact ⟨rfl, rfl⟩
  · exact enterArm_runs hn pad

end

/-! ## LOOP, BRF and END (O2) -/

namespace Sys2Proof.Machine

/-- Taking the front of the SCQ leaves the streams. -/
@[simp] theorem streamOf_popScq (q : PipSt) (x : Bool) : streamOf (popScq q) x = streamOf q x := by cases x <;> rfl

/-- Nothing stalls a BRF whose condition is readable, or stands at the front of the SCQ. -/
theorem brf_waits_nothing {s : State} {p : Nat} {x : Bool} {o : BOp} (hscq : brfPops x o = true → canPop (pipOf s p) qScq = true)
    (hread : x = true → CanRead s p [o.cond]) :
    (if brfPops x o then scqStall (pipOf s p) else if x then regWait (pipOf s p) s.cycle [o.cond] else []) = [] := by
  split
  · next hpops => exact scqStall_pop (hscq hpops)
  · split
    · next hx => exact regWait_canRead (hread hx)
    · rfl

end Sys2Proof.Machine

section
open Sys2Proof Sys2Proof.Machine

/-- Settles O2: nothing stalls any of the three, so control goes where its meaning says. -/
theorem controlInstructions : Obligations.ControlInstructions := by
  intro s p d x
  refine ⟨fun level body hok hr => ?_, fun o hok hscq hread hr => ?_, fun hr => ?_⟩
  · exact ⟨_, within_lt _ hr.1, issueJump_jumps hr hok rfl⟩
  · refine ⟨_, within_lt _ hr.1, ?_⟩
    have hjump := issueJump_jumps (hold := fun q => if brfPops x o then scqStall q else if x then regWait q s.cycle [o.cond] else [])
      (pre := fun q => if brfPops x o then popScq q else q)
      (g := fun q t => enterArm t (brfTest o.test (brfValue q x o)) o.na o.nb o.pad) hr hok (brf_waits_nothing hscq hread)
    have hstream : streamOf (if brfPops x o then popScq (pipOf s p) else pipOf s p) x = streamOf (pipOf s p) x := by
      split
      · exact streamOf_popScq _ _
      · rfl
    simpa only [hstream] using hjump
  · refine ⟨_, within_lt _ hr.1, ?_⟩
    have hjump := issueJump_jumps (hold := fun _ => [])
      (pre := fun q => if (streamOf q (!x)).ended then { q with endAt := s.cycle } else q)
      (g := fun _ t => { t with ended := true }) hr rfl rfl
    have hstream : streamOf (if (streamOf (pipOf s p) (!x)).ended then { pipOf s p with endAt := s.cycle } else pipOf s p) x =
        streamOf (pipOf s p) x := by
      split
      · cases x <;> rfl
      · rfl
    simpa only [hstream] using hjump

end

/-! ## DMA, DMAW, DLD, SIGL and STRM (O6) -/

namespace Sys2Proof.Machine

/-! ### Reads of a line -/

/-- A pip beside the counters and the status that a read notes. -/
def PipSt.besideNotes (q : PipSt) : PipSt := { q with cnt := {}, st := {} }

/-- A read changes counters and status alone, and has no effect outside its pip while the job goes on. -/
def PRes.OnlyNotes (q : PipSt) (r : PRes) : Prop := r.p.besideNotes = q.besideNotes ∧ (r.fail = none → r.fx = [])

theorem noteRead_onlyNotes (q : PipSt) (w : Nat) (r : WordRead) : (noteRead q w r).OnlyNotes q := by
  unfold noteRead
  split
  · exact ⟨rfl, fun h => by cases h⟩
  · split <;> exact ⟨rfl, fun _ => rfl⟩

theorem readWords_onlyNotes (ws : List Nat) (q : PipSt) : (readWords q ws).2.OnlyNotes q := by
  induction ws generalizing q with
  | nil => exact ⟨rfl, fun _ => rfl⟩
  | cons w ws ih =>
    obtain ⟨hp, hfx⟩ := noteRead_onlyNotes q w (readCode q.sp w)
    obtain ⟨hp', hfx'⟩ := ih (noteRead q w (readCode q.sp w)).p
    refine ⟨hp'.trans hp, fun hn => ?_⟩
    change firstFail _ _ = none at hn
    have hfirst : (noteRead q w (readCode q.sp w)).fail = none := by
      cases hf : (noteRead q w (readCode q.sp w)).fail with
      | none => rfl
      | some c => rw [hf] at hn; cases hn
    rw [hfirst] at hn
    exact List.append_eq_nil_iff.mpr ⟨hfx hfirst, hfx' hn⟩

/-- The pip once the line at an address has been read. -/
def lineRead (q : PipSt) (a : Nat) : PipSt := (spRead (takeBank q a) a 128).2.p

/-- The read of a line whose address is aligned and passes R137, and which delivers no uncorrected word, goes on with its bytes. -/
theorem readLine_passes {q : PipSt} {a : Nat} (ha : a % 128 = 0) (hin : inRegion q.sp q.st.context a 128 = true)
    (hgood : (spRead (takeBank q a) a 128).2.fail = none) (f : PipSt → List Byte → PRes) :
    readLine q a f = f (lineRead q a) (spRead (takeBank q a) a 128).1 := by
  obtain ⟨-, hfx⟩ := readWords_onlyNotes (placesOf 0 a 128) (takeBank q a)
  have hnone : (spRead (takeBank q a) a 128).2.fx = [] := hfx hgood
  unfold readLine
  rw [if_neg (by simp [ha]), if_neg (by simp [hin])]
  unfold PRes.andThen
  dsimp only
  rw [hgood, hnone]
  rfl

theorem lineRead_eq (q : PipSt) (a : Nat) : lineRead q a =
    { q with cyc := (takeBank q a).cyc, cnt := (lineRead q a).cnt, st := (lineRead q a).st } :=
  congrArg (fun r : PipSt => { r with cnt := (lineRead q a).cnt, st := (lineRead q a).st })
    (readWords_onlyNotes (placesOf 0 a 128) (takeBank q a)).1

theorem lineRead_regs (q : PipSt) (a : Nat) : (lineRead q a).regs = q.regs := by rw [lineRead_eq]
theorem lineRead_dlds (q : PipSt) (a : Nat) : (lineRead q a).ops.dlds = q.ops.dlds := by rw [lineRead_eq]

/-- No use of a descriptor waits once the descriptor table has been loaded (R468). -/
theorem descWait_in {q : PipSt} (h : q.descIn = true) (raw : Bool) : descWait q raw = [] := by
  unfold descWait
  rw [h]
  cases raw <;> rfl

/-! ### DMA -/

/-- A channel holds what its DMA latched (R76). -/
def dmaHeld (q : PipSt) (o : DOp) : PipSt :=
  let r := setDma q o.ch (some ⟨q.ops.seq, o.dir, (aReg q o.ahbm).toNat, (aReg q o.asp).toNat, o.raw, descOf q o.handle, o.len, 0, 0⟩)
  { r with ops := { r.ops with seq := r.ops.seq + 1 } }

theorem dmaOf_dmaHeld_other (q : PipSt) (o : DOp) : dmaOf (dmaHeld q o) (!o.ch) = dmaOf q (!o.ch) := by
  unfold dmaHeld setDma dmaOf
  cases o.ch <;> rfl

theorem startDma_starts {q : PipSt} {o : DOp} (hidle : dmaBusy q o.ch = false) (hdesc : o.raw = true ∨ q.descIn = true)
    (hhbm : (aReg q o.ahbm).toNat % 128 = 0)
    (hsp : if o.raw then (aReg q o.asp).toNat % 128 = 0
      else dValid (descOf q o.handle) = true → dWord (descOf q o.handle) = false ∧ dEbc (descOf q o.handle) = false) :
    startDma o q = .acts (done (dmaHeld q o)) := by
  have hwait : descWait q o.raw = [] := by
    rcases hdesc with h | h
    · rw [h]; rfl
    · exact descWait_in h _
  unfold startDma
  dsimp only
  rw [hidle, hwait, if_neg (fun hbad => ?_)]
  · rfl
  · rw [Bool.or_eq_true, decide_eq_true_eq] at hbad
    rcases hbad with hbad | hbad
    · exact hbad hhbm
    · cases hraw : o.raw with
      | true => simp [hraw] at hsp hbad; exact hbad hsp
      | false =>
        simp [hraw] at hsp hbad
        simp [hsp hbad.1] at hbad

theorem Effect.dma {s t : State} {p : Nat} {x : Bool} {q : PipSt} (h : Effect s t p x q) {ch : Bool} :
    dmaOf (pipOf t p) ch = dmaOf q ch := by
  unfold dmaOf
  rw [h.ops]

/-! ### DLD -/

section
variable {q : PipSt} {x : DldOp} {c : Nat} (h : q.ops.dlds = [x])
include h

theorem applyDlds_early (hc : c < x.due) : applyDlds c q = q := by
  have hnone : q.ops.dlds.filter (fun x => decide (x.due ≤ c)) = [] := by simp [h, hc]
  have hall : q.ops.dlds.filter (fun x => !decide (x.due ≤ c)) = q.ops.dlds := by simp [h, hc]
  unfold applyDlds
  rw [hnone, hall]
  rfl

/-- A due descriptor is in force, and the watch counters of its handle are zero (R145, R183). -/
theorem applyDlds_due (hc : x.due ≤ c) : applyDlds c q =
    { setDesc q x.handle x.desc with watch := Tab.set {} q.watch x.handle {}, ops := { q.ops with dlds := [] } } := by
  have hall : q.ops.dlds.filter (fun x => decide (x.due ≤ c)) = [x] := by simp [h, hc]
  have hnone : q.ops.dlds.filter (fun x => !decide (x.due ≤ c)) = [] := by simp [h, hc]
  unfold applyDlds
  rw [hall, hnone]
  rfl

end

/-! ### Engines -/

@[simp] theorem engOf_setEng_same (q : PipSt) (e : Nat) (v : Engine) : engOf (setEng q e v) e = v := Tab.get_set_same ..

/-- An instruction's effect keeps its pip's engines, status and queues as it names them. -/
theorem Effect.eng {s t : State} {p : Nat} {x : Bool} {q : PipSt} (h : Effect s t p x q) (e : Nat) : engOf (pipOf t p) e = engOf q e := by
  rw [h.1]; cases x <;> rfl

theorem Effect.st {s t : State} {p : Nat} {x : Bool} {q : PipSt} (h : Effect s t p x q) : (pipOf t p).st = q.st := by
  rw [h.1]; cases x <;> rfl

/-- The read of its record does not touch the descriptors that an engine starts with. -/
theorem startedEngine_lineRead (q : PipSt) (a b c : Nat) (g : Tab Word64) (r : List Byte) :
    startedEngine (lineRead q a) b c g r = startedEngine q b c g r := by
  unfold startedEngine
  rw [lineRead_regs]

/-- A start waits for its engine (R39). -/
theorem startWait_idle {q : PipSt} {a e : Nat} (h : startWait q a e = []) : (engOf q e).running = false := by
  unfold startWait at h
  simp only [List.append_eq_nil_iff] at h
  obtain ⟨⟨⟨-, hbusy⟩, -⟩, -⟩ := h
  cases hr : (engOf q e).running with
  | false => rfl
  | true => rw [hr] at hbusy; cases hbusy

/-! ### The start of the key reader (R47, R261) -/

/-- The key queues of the job's pips hold nothing. -/
def keysEmptied (j : Job) (s : State) : State :=
  forAll (jobPips j) (fun k s => modPip s k fun q => { q with q := { q.q with kq := [] } }) s

/-- The start opens the gates of the pods after that. -/
theorem pipOf_clearKeys (j : Job) (s : State) (k : Nat) : pipOf (clearKeys j s) k = pipOf (keysEmptied j s) k := by
  refine forAll_keeps (pipOf · k) (fun _ _ => ?_) (jobPods j) (keysEmptied j s)
  rfl

def PipSt.besideQueues (q : PipSt) : PipSt := { q with q := {} }

theorem besideQueues_clearKeys (j : Job) (s : State) (k : Nat) :
    (pipOf (clearKeys j s) k).besideQueues = (pipOf s k).besideQueues := by
  rw [pipOf_clearKeys]
  refine forAll_keeps (fun s => (pipOf s k).besideQueues) (fun a s => ?_) (jobPips j) s
  by_cases h : k = a
  · rw [h, modPip_eq, pipOf_setPip_same]; rfl
  · rw [modPip_eq, pipOf_setPip_other _ _ h]

theorem clearKeys_kq {j : Job} {k : Nat} (hk : k ∈ jobPips j) (s : State) : (pipOf (clearKeys j s) k).q.kq = [] := by
  rw [pipOf_clearKeys]
  refine forAll_reaches (J := fun _ => True) (P := fun k s => (pipOf s k).q.kq = []) (fun _ _ _ => trivial) (fun a s _ => by simp)
    (fun a b s h => ?_) (jobPips j) trivial k hk
  by_cases hab : b = a
  · rw [hab, modPip_eq, pipOf_setPip_same]
  · rw [modPip_eq, pipOf_setPip_other _ _ hab]; exact h

/-- The gate of a pod of a command whose key reader starts. -/
def gateOpens (j : Job) (k : Nat) (v : PodSt) : Prop :=
  v.kstate = 1 ∧ v.khdr = [] ∧ v.knext = 0 ∧ v.klead = decide (k = leadPod j)

theorem clearKeys_gate {j : Job} {k : Nat} (hk : k ∈ jobPods j) (s : State) : gateOpens j k (podSt (clearKeys j s) k) := by
  unfold clearKeys
  refine forAll_reaches (J := fun _ => True) (P := fun k s => gateOpens j k (podSt s k)) (fun _ _ _ => trivial)
    (fun a s _ => by simp [gateOpens]) (fun a b s h => ?_) (jobPods j) trivial k hk
  by_cases hab : b = a
  · rw [hab, modPod_eq, podSt_setPod_same]; exact ⟨rfl, rfl, rfl, rfl⟩
  · rw [modPod_eq, podSt_setPod_other _ _ hab]; exact h

/-! ### STRM -/

theorem strmAct_keys {j : Job} (hkind : (jobKind j).isSome = true) (p areg c : Nat) (q : PipSt) :
    strmAct j p areg 4 c q = startKeys j p (aReg q areg).toNat c q := by
  unfold strmAct
  rw [if_neg (by decide), if_neg (by simp [Option.isNone_eq_false_iff.mpr hkind])]

/-- The pip whose key reader has started on the record at an address, G0 the key address of the command (R261). -/
def keysStarted (j : Job) (q : PipSt) (a c : Nat) : PipSt :=
  openKeys (setEng (lineRead q a) 4
    (startedEngine (lineRead q a) a c (Tab.set 0 [] 0 (BitVec.ofNat 64 (ctKaddr j.payload))) (spRead (takeBank q a) a 128).1))

theorem engOf_keysStarted (j : Job) (q : PipSt) (a c : Nat) : engOf (keysStarted j q a c) 4 =
    startedEngine q a c (Tab.set 0 [] 0 (BitVec.ofNat 64 (ctKaddr j.payload))) (spRead (takeBank q a) a 128).1 := by
  unfold keysStarted
  rw [startedEngine_lineRead]
  exact engOf_setEng_same (lineRead q a) 4 (startedEngine q a c _ _)

section
variable {s : State} {p d areg e : Nat} {j : Job} (hj : jobOfPip s p = some j)
include hj

/-- The issue of a STRM that starts an engine. -/
def strmIssued (s : State) (p d areg e : Nat) (j : Job) : State :=
  issue s p false (.strmStart p d areg e) (decide (e ≤ 4) && decide (areg < 16)) (strmAct j p areg e s.cycle)

theorem exec_strmStart (hp : p < 10240) : exec (.strmStart p d areg e) s = .next
    (if e = 4 && !(engOf (pipOf s p) 4).running && (engOf (pipOf (strmIssued s p d areg e j) p) 4).running
      then clearKeys j (strmIssued s p d areg e j) else strmIssued s p d areg e j) := by
  show execStrmStart p d areg e s = _
  unfold execStrmStart
  rw [within_lt _ hp, hj]
  rfl

theorem exec_strmWait (hp : p < 10240) : exec (.strmWait p d e) s = .next
    (issue s p false (.strmWait p d e) (decide (e ≤ 4)) fun q =>
      if e < 4 then attempt (busyIf (engOf q e).running) (done q)
      else if (jobKind j).isNone then refuseKeys q
      else attempt (busyIf (keysComing s j)) (done q)) := by
  show execStrmWait p d e s = _
  unfold execStrmWait
  rw [within_lt _ hp, hj]

end

end Sys2Proof.Machine

section
open Sys2Proof Sys2Proof.Machine

/-- Settles O6: nothing holds or refuses any of the instructions, so each has the effect that its meaning names; the start of the key
reader then empties the queues and opens the gates of its job. -/
theorem dmaAndDescriptorInstructions : Obligations.DmaAndDescriptorInstructions := by
  intro s p d
  refine ⟨?_, ?_, ?_, ?_, ?_, ?_, ?_, ?_, ?_, ?_⟩
  · intro o hok hidle hdesc hhbm hsp hr
    have heff : Effect s _ p false (dmaHeld (pipOf s p) o) := issue_effect hr hok (startDma_starts hidle hdesc hhbm hsp)
    exact ⟨_, within_lt _ hr.1, heff, heff.dma.trans (dmaOf_dmaHeld_other ..)⟩
  · intro ch hidle hr
    refine ⟨_, within_lt _ hr.1, issue_effect hr rfl ?_⟩
    rw [hidle]
    rfl
  · intro h areg hh ha hin hwait a r hal hreg hgood hr
    refine ⟨_, within_lt _ hr.1, ?_⟩
    suffices heff : Effect s _ p false _ from ⟨heff, heff.regs.trans (lineRead_regs ..)⟩
    refine issue_effect hr (by simp [hh, ha]) ?_
    dsimp only
    rw [descWait_in hin, hwait, readLine_passes hal hreg hgood, lineRead_dlds]
    rfl
  · intro q x c hq
    exact ⟨applyDlds_early hq, fun hdue => by
      rw [applyDlds_due hq hdue]
      exact ⟨rfl, Tab.get_set_same {} q.watch x.handle {}, rfl⟩⟩
  · intro obj add hok hown hr
    refine ⟨_, within_lt _ hr.1, issue_effect hr hok ?_⟩
    rw [hown]
    rfl
  · intro areg e ha he hwait a r hal hreg hgood hr
    obtain ⟨j, hj, -⟩ := isNext_job hr.2.1
    have heff : Effect s (strmIssued s p d areg e j) p false
        (setEng r.2.p e (startedEngine (pipOf s p) a s.cycle (engOf (pipOf s p) e).g r.1)) :=
      issue_effect hr (by simp [ha]; omega) (by
        unfold strmAct startEngine
        dsimp only
        rw [if_pos (by omega), hwait, readLine_passes hal hreg hgood, startedEngine_lineRead]
        rfl)
    refine ⟨_, (exec_strmStart hj hr.1).trans (congrArg Host.Outcome.next (if_neg (by simp; omega))), heff,
      heff.regs.trans (lineRead_regs ..), ?_⟩
    rw [heff.eng, engOf_setEng_same]
    exact ⟨rfl, rfl, rfl⟩
  · intro areg j ha hj hkind hp hr
    have heff : Effect s (strmIssued s p d areg 4 j) p false (openKeys (pipOf s p)) :=
      issue_effect hr (by simp [ha]) (by rw [strmAct_keys hkind, startKeys, if_pos hp])
    have hsame : (engOf (pipOf (strmIssued s p d areg 4 j) p) 4).running = (engOf (pipOf s p) 4).running :=
      congrArg Engine.running (heff.eng 4)
    refine ⟨_, (exec_strmStart hj hr.1).trans (congrArg Host.Outcome.next (if_neg (by rw [hsame]; simp))), heff, ?_⟩
    rw [heff.st]
    rfl
  · intro areg j ha hj hkind hp hwait al hal hreg hgood hr
    have heff : Effect s (strmIssued s p d areg 4 j) p false (keysStarted j (pipOf s p) al s.cycle) :=
      issue_effect hr (by simp [ha]) (by
        rw [strmAct_keys hkind, startKeys, if_neg (by simp [hp])]
        rw [hwait, readLine_passes hal hreg hgood]
        rfl)
    have hrun : (engOf (pipOf (strmIssued s p d areg 4 j) p) 4).running = true := by rw [heff.eng, engOf_keysStarted]; rfl
    have hbeside := besideQueues_clearKeys j (strmIssued s p d areg 4 j)
    refine ⟨_, (exec_strmStart hj hr.1).trans (congrArg Host.Outcome.next
      (if_pos (by rw [startWait_idle hwait, hrun]; rfl))), ?_, ?_, ?_, fun k => ?_,
      fun k hk => clearKeys_kq hk _, fun k hk => clearKeys_gate hk _⟩
    · exact (congrArg (fun q : PipSt => (engOf q 4).running) (hbeside p)).trans hrun
    · refine (congrArg (fun q : PipSt => gReg (engOf q 4) 0) (hbeside p)).trans ?_
      change gReg (engOf (pipOf (strmIssued s p d areg 4 j) p) 4) 0 = _
      rw [heff.eng, engOf_keysStarted]
      exact Tab.get_set_same ..
    · refine (congrArg (fun q : PipSt => q.st.kopen) (hbeside p)).trans ?_
      change (pipOf (strmIssued s p d areg 4 j) p).st.kopen = true
      rw [heff.st]
      rfl
    · refine (congrArg PipSt.regs (hbeside k)).trans ?_
      change (pipOf (strmIssued s p d areg 4 j) k).regs = _
      by_cases hk : k = p
      · rw [hk, heff.regs]
        exact lineRead_regs ..
      · rw [heff.2.2 k hk]
  · intro e he hidle hr
    obtain ⟨j, hj, -⟩ := isNext_job hr.2.1
    refine ⟨_, exec_strmWait hj hr.1, issue_effect hr (by simp; omega) ?_⟩
    rw [if_pos (by omega), hidle]
    rfl
  · intro j hj hkind hcoming hr
    refine ⟨_, exec_strmWait hj hr.1, issue_effect hr rfl ?_⟩
    rw [if_neg (by decide), if_neg (by simp [Option.isNone_eq_false_iff.mpr hkind]), hcoming]
    rfl

end

/-! ## DOORBELL, RESUME, FLUSH, MOD_CTX_GRANT and MOD_CTX_SYNC_VAL (O19) -/

namespace Sys2Proof.Machine

section
variable {s : State} {w : Writer} {c : Nat} (hc : c < 10240)
include hc

/-- A context that is not created, or whose page the writer does not own, keeps its registers (R355, R360). -/
theorem ctxWrites_ignored (v : Nat) (hown : ownsPage s w c = false) :
    Answers (.doorbell w c v) s (· = s) ∧ Answers (.resume w c) s (· = s) ∧ Answers (.flush w c) s (· = s) ∧
      ∀ n, Answers (.modCtxGrant w c n v) s (· = s) :=
  ⟨⟨_, within_lt _ hc, by simp [hown]⟩, ⟨_, within_lt _ hc, by simp [hown]⟩, ⟨_, within_lt _ hc, by simp [hown]⟩,
    fun _ => ⟨_, within_lt _ hc, by simp [hown]⟩⟩

variable (hown : ownsPage s w c = true) (hcre : (ctxSt s c).created = true)
include hown hcre

/-- A doorbell moves TAIL where the queue has room for the commands up to it, and else sets DB_ERR (R92, R95). -/
theorem doorbell_owned (v : Nat) : Answers (.doorbell w c v) s fun t =>
    t = setCtx s c (if (v % 65536 + 65536 - (ctxSt s c).tail) % 65536 ≤ 256 - ((ctxSt s c).tail + 65536 - (ctxSt s c).head) % 65536
      then { ctxSt s c with tail := v % 65536 } else { ctxSt s c with dbErr := true }) := by
  refine ⟨_, within_lt _ hc, ?_⟩
  dsimp only
  rw [if_neg (by simp [hown, hcre])]
  split <;> rfl

theorem resume_owned : Answers (.resume w c) s fun t => t = setCtx s c { ctxSt s c with halted := false } :=
  ⟨_, within_lt _ hc, by simp [hown, hcre]⟩

theorem flush_owned : Answers (.flush w c) s fun t =>
    t = setCtx s c { ctxSt s c with halted := false, ahead := [], readyAt := 0, head := (ctxSt s c).tail } :=
  ⟨_, within_lt _ hc, by simp [hown, hcre]⟩

/-- A grant to a context that exists, or one taken back, is written by the host of its context (R105). -/
theorem grant_owned {n v : Nat} (hn : n < 8) (hw : w = .host (ctxSt s c).host)
    (hv : bit v 15 = true → bits v 13 0 < 10240 ∧ (ctxSt s (bits v 13 0)).created = true) :
    exec (.modCtxGrant w c n v) s = .next
      (setCtx s c { ctxSt s c with grants := Tab.set {} (ctxSt s c).grants n ⟨bits v 13 0, bit v 14, bit v 15⟩ }) := by
  refine (within_lt _ hc).trans (congrArg _ ?_)
  dsimp only
  rw [if_neg (by simp [hown, hcre, hn]), if_neg (by simp [hw]), if_neg (fun hbad => ?_)]
  rw [Bool.and_eq_true, Bool.not_eq_true', Bool.and_eq_false_iff, decide_eq_false_iff_not] at hbad
  obtain ⟨hvalid, hbad⟩ := hbad
  obtain ⟨hlt, hex⟩ := hv hvalid
  rcases hbad with hbad | hbad
  · exact hbad hlt
  · rw [hex] at hbad
    cases hbad

end

end Sys2Proof.Machine

section
open Sys2Proof Sys2Proof.Machine

/-- Settles O19, register by register: the checks of each pass for the owner of a created context, and fail for every other writer. -/
theorem contextRegisters : Obligations.ContextRegisters := by
  intro s w c hc
  refine ⟨fun v hown hcre => doorbell_owned hc hown hcre v, resume_owned hc, flush_owned hc, fun n v hown hcre hn hw hv => ?_,
    fun h hown hcre => ⟨fun hname hready => ?_, fun hname => ?_⟩, ctxWrites_ignored hc⟩
  · refine ⟨_, grant_owned hc hown hcre hn hw hv, ?_⟩
    simp only [ctxSt_setCtx_same]
    exact ⟨trivial, Tab.get_set_same .., fun k hk => Tab.get_set_other _ _ _ hk⟩
  · refine ⟨_, within_lt _ hc, ?_⟩
    unfold readSyncVal
    simp [hown, hcre, hname, hready, send]
  · refine ⟨_, within_lt _ hc, ?_⟩
    unfold readSyncVal
    rw [if_neg (by simp [hown, hcre]), if_pos (by simp [hname])]
    exact ⟨congrArg CtxSt.syncErr (ctxSt_setCtx_same s c _), rfl⟩

end

/-! ## SIGNAL, SIGL, SYNCSET and WAIT on a sync object (O22) -/

namespace Sys2Proof.Machine

section
variable (s : State) (i k : Nat)

/-- A store changes its sync object alone (R89). -/
theorem syncVal_syncSet (v : Word32) : syncVal (syncSet s i v) k = if k = i then v else syncVal s k := by
  split
  · next h => rw [h]; exact syncVal_syncSet_same ..
  · next h => exact syncVal_syncSet_other _ _ h

/-- An add changes its sync object alone, modulo 2^32 (R89). -/
theorem syncVal_syncAdd (w : Nat) :
    syncVal (syncAdd s i w) k = if k = i then syncVal s k + BitVec.ofNat 32 w else syncVal s k := by
  refine (syncVal_syncSet s i k _).trans ?_
  split
  · next h => rw [h]
  · rfl

end

section
variable {s : State} {c : Nat} {b : List Byte} (hready : syncReady s (objOf b) = true)
include hready

/-- A command on a sync object whose field is awake and whose checks pass acts as its opcode says. -/
theorem issueSync_mayIssue {opc : Nat} {form bounds : List Byte → Bool} (act : List Byte → State)
    (h : MayIssue s c opc b (form b) (bounds b) eOk) :
    within 10240 c (issueSync s c opc form bounds act) = .next (act b) := by
  rw [within_lt _ h.1]
  unfold issueSync
  rw [issueCmd_mayIssue _ h]
  exact congrArg _ (if_pos hready)

theorem exec_signal (h : MayIssue s c 3 b (objForm b) (mayName s c (objOf b) true) eOk) :
    exec (.signal c) s = .next (atIssue (syncAdd s (objOf b) (objWord b)) c b eOk) :=
  issueSync_mayIssue hready (fun b => atIssue (syncAdd s (objOf b) (objWord b)) c b eOk) h

theorem exec_syncset (h : MayIssue s c 4 b (objForm b) (ownsSync s c (objOf b)) eOk) : exec (.syncset c) s = .next
    (atIssue (syncSet s (objOf b) (BitVec.ofNat 32 (objWord b) + Tab.get 0 s.adds (objOf b))) c b eOk) :=
  issueSync_mayIssue hready (fun b => atIssue (syncSet s (objOf b) (BitVec.ofNat 32 (objWord b) + Tab.get 0 s.adds (objOf b))) c b eOk) h

theorem exec_wait (h : MayIssue s c 2 b (objForm b) (mayName s c (objOf b) false) eOk) :
    exec (.wait c) s = .next (accept s c b fun k => { k with waiting := true }) :=
  issueSync_mayIssue hready (fun b => accept s c b fun k => { k with waiting := true }) h

end

/-- A command that completes at issue changes its context and the commands. -/
theorem atIssue_only (s : State) (c : Nat) (b : List Byte) (code : Byte) : atIssue s c b code =
    { s with ctxs := (atIssue s c b code).ctxs, cmds := (atIssue s c b code).cmds, nextId := (atIssue s c b code).nextId } := rfl

/-- The test at the end of a cycle, command by command (R90). -/
theorem mem_testWaits {s : State} {k : Cmd} (hk : k ∈ s.cmds) (hw : k.waiting = true) :
    { k with met := syncReady s (objOf k.bytes) &&
        satisfied (syncVal s (objOf k.bytes)) (BitVec.ofNat 32 (objWord k.bytes)) } ∈ (testWaits s).cmds :=
  List.mem_map.mpr ⟨k, hk, if_pos hw⟩

section
variable {s : State} {c : Nat} {k : Cmd} (hfind : (s.cmds.find? fun k => k.ctx = c && k.waiting) = some k)
include hfind

/-- A WAIT that is met is released (R90). -/
theorem exec_waitRelease_met (hc : c < 10240) (hmet : k.met = true) :
    exec (.waitRelease c) s = .next (setCmd s { k with waiting := false, met := false, code := some eOk }) := by
  show execWaitRelease c s = _
  unfold execWaitRelease
  rw [within_lt _ hc, hfind]
  exact congrArg _ (if_pos hmet)

/-- A WAIT that is not met waits on while its field is awake (R90). -/
theorem exec_waitRelease_unmet (hc : c < 10240) (hmet : k.met = false) (hready : syncReady s (objOf k.bytes) = true) :
    exec (.waitRelease c) s = .next s := by
  show execWaitRelease c s = _
  unfold execWaitRelease
  rw [within_lt _ hc, hfind]
  simp [hmet, hready]

end

theorem mem_setCmd {s : State} {m k : Cmd} (hm : m ∈ s.cmds) (hid : m.id = k.id) : k ∈ (setCmd s k).cmds :=
  List.mem_map.mpr ⟨m, hm, if_pos hid⟩

end Sys2Proof.Machine

section
open Sys2Proof Sys2Proof.Machine

/-- Settles O22: each command reaches its action, and what a store or an add leaves in the sync objects is read off once for both. -/
theorem syncCommands : Obligations.SyncCommands := by
  intro s c b
  refine ⟨fun hmay hready => ?_, fun p f l hp hbuf hdid hsync hready => ?_, fun hmay hready => ?_, fun hmay hready => ?_,
    fun k hk hw => mem_testWaits hk hw, fun k hfind hc => ⟨fun hmet => ?_, fun hmet hready => ?_⟩⟩
  · exact ⟨_, exec_signal hready hmay, atIssue_issued .., fun i => syncVal_syncAdd s (objOf b) i (objWord b),
      atIssue_only ..⟩
  · exact ⟨_, shortPathWrite_sync hp hbuf hdid hsync hready, rfl, fun i => syncVal_syncAdd _ f.addr i f.add⟩
  · exact ⟨_, exec_syncset hready hmay, atIssue_issued .., fun i => syncVal_syncSet s (objOf b) i _, atIssue_only ..⟩
  · obtain ⟨-, hctx, hother⟩ := accept_issued s c b fun k => { k with waiting := true }
    exact ⟨_, exec_wait hready hmay, ⟨rfl, rfl, hctx, hother⟩, rfl⟩
  · exact ⟨_, exec_waitRelease_met hfind hc hmet, rfl, mem_setCmd (List.mem_of_find?_eq_some hfind) rfl⟩
  · exact ⟨_, exec_waitRelease_unmet hfind hc hmet hready, rfl⟩

end

/-! ## Completion of a command (O21) -/

namespace Sys2Proof.Machine

/-! ### What the bytes of memory depend on -/

/-- The parts of the state that a byte of memory is read from. -/
def State.memory (s : State) : State :=
  { hbm := s.hbm, hbmFlips := s.hbmFlips, granules := s.granules, staging := s.staging, stgFlips := s.stgFlips }

theorem byteAt_memory (s : State) (x : Nat) : byteAt s.memory x = byteAt s x := by
  rw [byteAt_eq, byteAt_eq]
  have hline (l : Nat) : hbmLine s.memory l = hbmLine s l := hbmLine_congr rfl rfl rfl
  have hword (w : Nat) : stgWord s.memory w = stgWord s w := stgWord_congr rfl rfl
  rw [hline, hword]

/-! ### The stages of a completion (R103) -/

section
variable (s : State) (k : Cmd) (code : Byte)

/-- The descriptors and counters of encrypted-data commands, before the record (R231, R236). -/
def completeTables : State :=
  let s := if code = eOk then
      forAll k.dests (fun d s => setCtDesc s d.1 d.2 (cSetValid (ctDesc s d.1 d.2) true)) s else s
  let mine (d : Nat) : Bool := (ctxSt s k.ctx).part ≠ 0 && inPart s ((ctxSt s k.ctx).part - 1) (fieldOfPod d)
  if isCt k.bytes then forAll ((rectPods k.bytes).filter mine) (noteCt k.bytes code) s else s

/-- The state once the record is written. -/
def recorded : State := writeRecord (completeTables s k code) k code

/-- The state once the sync object of the command is signalled. -/
def signalled : State := if code = eOk && cmdFlag k.bytes 0 then lateAdd s (cmdSigObj k.bytes) (cmdSigAdd k.bytes) else s

/-- The state once the interrupt is raised. -/
def interrupted : State := if cmdFlag k.bytes 3 then msix s (ctxSt s k.ctx).host (ctxSt s k.ctx).vec else s

/-- The registers of the context once it has counted the command. -/
def countedCtx (c : CtxSt) : CtxSt :=
  { c with doneCnt := bump c.doneCnt 1, lastCode := code,
           haltTag := if code ≠ eOk && !c.halted then cmdTag k.bytes else c.haltTag,
           halted := c.halted || decide (code ≠ eOk) }

/-- The state once the command has left. -/
def left : State := modCtx { s with cmds := s.cmds.filter (·.id ≠ k.id) } k.ctx (countedCtx k code)

theorem completeCmd_eq : completeCmd s k code = left (interrupted (signalled (recorded s k code) k code) k) k code := rfl

theorem besidePods_completeTables : (completeTables s k code).besidePods = s.besidePods := by
  have hnote (l : List Nat) (t : State) : (forAll l (noteCt k.bytes code) t).besidePods = t.besidePods := by
    refine forAll_keeps State.besidePods (fun _ _ => ?_) l t
    rfl
  have hdescs (l : List (Nat × Nat)) (t : State) :
      (forAll l (fun d s => setCtDesc s d.1 d.2 (cSetValid (ctDesc s d.1 d.2) true)) t).besidePods = t.besidePods := by
    refine forAll_keeps State.besidePods (fun _ _ => ?_) l t
    rfl
  have hfirst : (if code = eOk then forAll k.dests (fun d s => setCtDesc s d.1 d.2 (cSetValid (ctDesc s d.1 d.2) true)) s
      else s).besidePods = s.besidePods := by
    split
    · exact hdescs ..
    · rfl
  unfold completeTables
  dsimp only
  split
  · rw [hnote, hfirst]
  · exact hfirst

theorem completeTables_eq : completeTables s k code = { s with pods := (completeTables s k code).pods } :=
  congrArg (fun t : State => { t with pods := (completeTables s k code).pods }) (besidePods_completeTables s k code)

/-- The record stands in memory that is one with it, and nothing else but descriptors and counters has changed. -/
theorem recorded_eq : recorded s k code =
    { s with pods := (recorded s k code).pods, hbm := (recorded s k code).hbm,
             hbmFlips := (recorded s k code).hbmFlips, staging := (recorded s k code).staging,
             stgFlips := (recorded s k code).stgFlips } := by
  have htab := completeTables_eq s k code
  have hmem : MemOnly (completeTables s k code) (recorded s k code) := by
    unfold recorded writeRecord
    split
    · exact memWrite_memOnly ..
    · exact .refl _
  obtain ⟨a, b, c, d, h⟩ := hmem
  rw [h, htab]

theorem recorded_none (hrec : cmdFlag k.bytes 1 = false) : recorded s k code = completeTables s k code := by
  unfold recorded writeRecord
  simp [hrec]

theorem recordBytes_eq : recordBytes s k.bytes code k.site = toBytes 1 code.toNat ++ toBytes 1 (cmdOpc k.bytes) ++
    toBytes 2 (cmdTag k.bytes) ++ toBytes 4 k.site ++ toBytes 8 (huskTime s) := by
  unfold recordBytes
  simp [toBytes]

/-- Memory of a context is HBM or staging memory throughout. -/
theorem oneMemory_of_ctxMem {s : State} {c a n : Nat} (hn : 0 < n) (h : ctxMem s c a n = true) : OneMemory a n := by
  unfold ctxMem at h
  unfold OneMemory
  simp only [Bool.or_eq_true, Bool.and_eq_true, decide_eq_true_eq] at h
  rcases h with h | ⟨h, -⟩
  · omega
  · exact h

theorem recorded_writes (hrec : cmdFlag k.bytes 1 = true) (hmem : ctxMem s k.ctx (cmdRec k.bytes) 16 = true) :
    Writes s (recorded s k code) (cmdRec k.bytes) (recordBytes s k.bytes code k.site) := by
  have hlen : (recordBytes s k.bytes code k.site).length = 16 := rfl
  have hown : ctxMem (completeTables s k code) k.ctx (cmdRec k.bytes) 16 = true := by
    rw [completeTables_eq]; exact hmem
  have hbytes : recordBytes (completeTables s k code) k.bytes code k.site = recordBytes s k.bytes code k.site := by
    rw [completeTables_eq]; rfl
  have hsame (x : Nat) : byteAt (completeTables s k code) x = byteAt s x := by
    rw [completeTables_eq, ← byteAt_memory, ← byteAt_memory s]
    rfl
  have hw := memWrite_writes (completeTables s k code) (cmdRec k.bytes) (recordBytes s k.bytes code k.site) (by simp [recordBytes])
    (hlen ▸ oneMemory_of_ctxMem (by decide) hmem)
  intro x
  rw [← hsame x, ← hw x]
  unfold recorded writeRecord
  rw [hrec, hown, hbytes]
  rfl

/-- A completion whose sync object can take its add changes no other object, and keeps memory. -/
theorem signalled_eq (hready : code = eOk → cmdFlag k.bytes 0 = true → syncReady s (cmdSigObj k.bytes) = true) :
    signalled s k code = if code = eOk ∧ cmdFlag k.bytes 0 = true then syncAdd s (cmdSigObj k.bytes) (cmdSigAdd k.bytes) else s := by
  unfold signalled lateAdd
  by_cases h : code = eOk ∧ cmdFlag k.bytes 0 = true
  · rw [if_pos h, if_pos (by simp [h]), if_pos (hready h.1 h.2)]
  · rw [if_neg h, if_neg (by simpa using h)]

/-- The interrupt of a command goes to the host of its context, if that is attached. -/
def irqOf : List OutMsg :=
  if cmdFlag k.bytes 3 = true ∧ (hostSt s (ctxSt s k.ctx).host).state = 1
    then [.msix (ctxSt s k.ctx).host (ctxSt s k.ctx).vec] else []

theorem interrupted_eq : interrupted s k = { s with out := s.out ++ irqOf s k } := by
  unfold interrupted msix irqOf
  cases hirq : cmdFlag k.bytes 3 with
  | false => simp
  | true =>
    by_cases hatt : (hostSt s (ctxSt s k.ctx).host).state = 1
    · simp [hatt, send]
    · simp [hatt]

theorem syncVal_left (i : Nat) : syncVal (left (interrupted s k) k code) i = syncVal s i := by
  rw [interrupted_eq]
  rfl

/-- What a completion leaves alone once the record is written. -/
def State.besideCompletion : State := { s with syncs := [], adds := [], out := [], cmds := [], ctxs := [] }

section
variable {s k code} (hready : code = eOk → cmdFlag k.bytes 0 = true → syncReady s (cmdSigObj k.bytes) = true)
include hready

theorem signalled_only : signalled s k code = { s with syncs := (signalled s k code).syncs, adds := (signalled s k code).adds } := by
  rw [signalled_eq s k code hready]
  split <;> rfl

theorem syncVal_signalled (i : Nat) : syncVal (signalled s k code) i =
    if code = eOk ∧ cmdFlag k.bytes 0 = true ∧ i = cmdSigObj k.bytes then syncVal s i + BitVec.ofNat 32 (cmdSigAdd k.bytes)
    else syncVal s i := by
  rw [signalled_eq s k code hready]
  by_cases h : code = eOk ∧ cmdFlag k.bytes 0 = true
  · rw [if_pos h, syncVal_syncAdd]
    simp [h]
  · rw [if_neg h, if_neg (fun hall => h ⟨hall.1, hall.2.1⟩)]

theorem besideCompletion_left :
    (left (interrupted (signalled s k code) k) k code).besideCompletion = s.besideCompletion := by
  rw [interrupted_eq, signalled_only hready]
  rfl

theorem out_left : (left (interrupted (signalled s k code) k) k code).out = s.out ++ irqOf s k := by
  rw [interrupted_eq, signalled_only hready]
  rfl

theorem ctxSt_interrupted (c : Nat) : ctxSt (interrupted (signalled s k code) k) c = ctxSt s c := by
  rw [interrupted_eq, signalled_only hready]
  rfl

theorem ctxSt_left_same : ctxSt (left (interrupted (signalled s k code) k) k code) k.ctx = countedCtx k code (ctxSt s k.ctx) :=
  (ctxSt_setCtx_same ..).trans (congrArg (countedCtx k code) (ctxSt_interrupted hready k.ctx))

theorem ctxSt_left_other {c : Nat} (h : c ≠ k.ctx) :
    ctxSt (left (interrupted (signalled s k code) k) k code) c = ctxSt s c :=
  (ctxSt_setCtx_other _ _ h).trans (ctxSt_interrupted hready c)

end

theorem cmds_left {x : Cmd} (hx : x ∈ (left s k code).cmds) : x.id ≠ k.id := by
  simpa using (List.mem_filter.mp hx).2

end

end Sys2Proof.Machine

section
open Sys2Proof Sys2Proof.Machine

/-- Settles O21, stage by stage: the tables and the record, the sync object, the interrupt, the context. -/
theorem commandCompletes : Obligations.CommandCompletes := by
  intro s n m code hcmd hcode hsig hrec
  have hr := recorded_eq s m code
  have hready : code = eOk → cmdFlag m.bytes 0 = true → syncReady (recorded s m code) (cmdSigObj m.bytes) = true := by
    rw [hr]; exact hsig
  have hctx (c : Nat) : ctxSt (recorded s m code) c = ctxSt s c := (congrArg (ctxSt · c) hr :)
  have hhost (h : Nat) : hostSt (recorded s m code) h = hostSt s h := (congrArg (hostSt · h) hr :)
  have hsync (i : Nat) : syncVal (recorded s m code) i = syncVal s i := (congrArg (syncVal · i) hr :)
  have hbeside := besideCompletion_left hready
  have hexec : exec (.commandComplete n) s = .next (completeCmd s m code) := by
    show execCommandComplete n s = _
    unfold execCommandComplete
    simp only [hcmd, hcode]
    rw [if_neg fun h => ?_]
    simp only [Bool.and_eq_true, decide_eq_true_eq, Bool.not_eq_true'] at h
    obtain ⟨⟨hok, hflag⟩, hno⟩ := h
    rw [hsig hok hflag] at hno
    cases hno
  refine ⟨_, hexec, ?_⟩
  dsimp only
  rw [completeCmd_eq, ctxSt_left_same hready, out_left hready, irqOf, hctx, hhost]
  refine ⟨fun hflag => ?_, fun hflag => ?_, fun i => ?_, ?_, rfl, rfl, rfl, fun hne hh => ?_,
    fun c hc => (ctxSt_left_other hready hc).trans (hctx c), fun x hx => cmds_left _ m code hx, ?_, ?_⟩
  · rw [← recordBytes_eq]
    intro x
    rw [← recorded_writes s m code hflag (hrec hflag) x, ← byteAt_memory, ← byteAt_memory (recorded s m code)]
    exact (congrArg (fun t : State => byteAt t.memory x) hbeside :)
  · have hpods : recorded s m code = { s with pods := (completeTables s m code).pods } :=
      (recorded_none s m code hflag).trans (completeTables_eq s m code)
    exact ⟨(congrArg State.hbm hbeside :).trans (congrArg State.hbm hpods :),
      (congrArg State.staging hbeside :).trans (congrArg State.staging hpods :)⟩
  · rw [syncVal_left, syncVal_signalled hready, hsync]
  · rw [hr]
  · simp [countedCtx, hne, hh]
  · exact (congrArg State.jobs hbeside :).trans (congrArg State.jobs hr :)
  · exact (congrArg State.pips hbeside :).trans (congrArg State.pips hr :)

end

/-! ## Field transitions (O51) -/

namespace Sys2Proof.Machine

/-- Two jobs of one identifier, the first draining and the second running, and a rise of field 0 for the identifier that the regulator has
not acknowledged in 50,000 ns. A fault of that class is counted at the field already, so that no partition closes (R431). -/
def twoJobsOneId : State :=
  { cycle := 100001, jobs := [{ id := 0, phase := .draining }, { id := 0, phase := .running }],
    fields := [(0, { req := .raise 0 0 })], flt := { recent := [⟨5, 0, 0, 100001⟩] } }

/-- The jobs that an outcome leaves. -/
def jobsAfter : Host.Outcome State Fault Refusal → List Job
  | .next t => t.jobs
  | _ => []

/-- The rise fails: the job found by the identifier drains already and stays, and so does the running one (R404, R431). -/
theorem jobsAfter_vrNack_twoJobsOneId : jobsAfter (exec (.vrNack 0) twoJobsOneId) = twoJobsOneId.jobs := by decide +kernel

end Sys2Proof.Machine

section
open Sys2Proof Sys2Proof.Machine

/-- Refutes O51: the failed answer to a rise ends the job of the rise, and the statement has every job of that identifier draining
afterwards, but nothing in it excludes a state whose list of jobs holds the identifier twice. Of `twoJobsOneId` the first job found
drains already, so that nothing ends, and the second one runs on. -/
theorem not_fieldTransitions : ¬ Obligations.FieldTransitions := by
  intro h
  obtain ⟨-, -, -, -, -, -, -, -, -, -, -, -, -, -, -, -, -, -, -, hnack, -⟩ := h twoJobsOneId 0 (by decide)
  obtain ⟨t, hexec, -, -, -, -, -, hdrain⟩ := hnack (by decide) (by decide)
  have hjobs : t.jobs = twoJobsOneId.jobs := by
    rw [← jobsAfter_vrNack_twoJobsOneId, hexec]
    rfl
  have hphase : JobPhase.running = .draining :=
    hdrain 0 0 (by decide) { id := 0, phase := .running } (by rw [hjobs]; decide) rfl
  cases hphase

end

/-! ## CT_PSET, CT_BIND and CT_FREE (O33) -/

namespace Sys2Proof.Machine

/-! ### The VALID bit of a descriptor (Table 9.6) -/

theorem cValid_eq (d : BitVec 512) : cValid d = decide (d.toNat % 128 / 64 = 1) := by
  unfold cValid dbits bits
  congr 1
  simp only [Nat.reduceMul, Nat.reduceAdd, Nat.reduceSub]
  rw [show d.toNat / 2 ^ 6 % 2 ^ 1 = d.toNat % 128 / 64 by omega]

theorem cValid_ofNat (n : Nat) : cValid (BitVec.ofNat 512 n) = decide (n % 128 / 64 = 1) := by
  rw [cValid_eq, BitVec.toNat_ofNat, show 128 = 2 ^ 7 from rfl, Nat.mod_mod_of_dvd n (Nat.pow_dvd_pow 2 (by decide))]

theorem cValid_cSetValid_false (d : BitVec 512) : cValid (cSetValid d false) = false := by
  unfold cSetValid dput dbits bits
  rw [cValid_ofNat, decide_eq_false_iff_not]
  simp only [b2n, Bool.false_eq_true, if_false, Nat.reduceMul, Nat.reduceAdd, Nat.reduceSub]
  omega

/-- The noise of a descriptor lies beside its VALID bit. -/
theorem cValid_putNoise (d : BitVec 512) (v : Nat) : cValid (dput d 0 47 32 v) = cValid d := by
  unfold dput dbits bits
  rw [cValid_ofNat, cValid_eq, decide_eq_decide]
  simp only [Nat.reduceMul, Nat.reduceAdd, Nat.reduceSub]
  omega

theorem cValid_bindDesc (s : State) (c : Nat) (b : List Byte) (d : Nat) : cValid (bindDesc s c b d) = false := by
  unfold bindDesc
  dsimp only
  split
  · exact cValid_cSetValid_false _
  · split
    · rw [cValid_putNoise, cValid_cSetValid_false]
    · exact cValid_cSetValid_false _

/-! ### Checks and completion at issue (R99, R103) -/

section
variable {s : State} {c opc : Nat} {b : List Byte} {code : List Byte → Byte} (act : List Byte → State)
  (hmay : MayIssue s c opc b (ctForm b) (ctBounds s c b) eOk) (hact : mayAct s b = true)
include hmay hact

/-- A command of the tables whose checks pass acts. -/
theorem issueTable_passes (hok : code b = eOk) : within 10240 c (issueTable s c opc code act) = .next (act b) := by
  rw [within_lt _ hmay.1]
  unfold issueTable
  rw [issueCmd_mayIssue _ hmay]
  simp [hact, hok]

/-- A command of the tables that a check fails completes with its code, counted where the code is one that is. -/
theorem issueTable_refuses (hno : code b ≠ eOk) : within 10240 c (issueTable s c opc code act) =
    .next (atIssue (countRefusal b s (code b) s) c b (code b)) := by
  rw [within_lt _ hmay.1]
  unfold issueTable
  rw [issueCmd_mayIssue _ hmay]
  simp [hact, hno]

end

/-- The pods change, and what the issue of a command changes. -/
def PodsAndIssue (s t : State) : Prop := t = { s with pods := t.pods, cmds := t.cmds, nextId := t.nextId, ctxs := t.ctxs }

theorem eq_of_besidePods {s t : State} (h : t.besidePods = s.besidePods) : t = { s with pods := t.pods } :=
  congrArg (fun u : State => { u with pods := t.pods }) h

section
variable {s u : State} (h : u = { s with pods := u.pods }) (c : Nat) (b : List Byte)
include h

theorem issued_afterPods (code : Byte) : Issued s (atIssue u c b code) c b (some code) false ∧ PodsAndIssue s (atIssue u c b code) := by
  rw [h]
  exact ⟨atIssue_issued .., rfl⟩

theorem podsAndIssue_accept (k : Cmd → Cmd) : PodsAndIssue s (accept u c b k) ∧
    (accept u c b k).cmds = s.cmds ++ [k { id := s.nextId, ctx := c, bytes := b }] := by
  rw [h]
  exact ⟨rfl, rfl⟩

end

/-- A refused command of the tables leaves its code, and every entry and descriptor as it was. -/
theorem refusedTable (s : State) (c : Nat) (b : List Byte) (code : Byte) :
    let t := atIssue (countRefusal b s code s) c b code
    Issued s t c b (some code) false ∧ PodsAndIssue s t ∧
      ∀ d, (podSt t d).descs = (podSt s d).descs ∧ (podSt t d).psets = (podSt s d).psets := by
  obtain ⟨hissued, honly⟩ := issued_afterPods (countRefusal_eq b s code s) c b code
  exact ⟨hissued, honly, countRefusal_tables b s code s⟩

/-! ### Parameter entries (R231) -/

/-- One entry is written in every pod of a list. -/
def psetsWritten (l : List Nat) (i : Nat) (e : PSet) (s : State) : State :=
  forAll l (fun d s => modPod s d fun v => { v with psets := Tab.set {} v.psets i e }) s

section
variable (l : List Nat) (i : Nat) (e : PSet) (s : State) (d : Nat)

theorem besidePods_psetsWritten : (psetsWritten l i e s).besidePods = s.besidePods := by
  refine forAll_keeps State.besidePods (fun _ _ => ?_) l s
  rfl

theorem descs_psetsWritten : (podSt (psetsWritten l i e s) d).descs = (podSt s d).descs := by
  refine forAll_keeps (fun s => (podSt s d).descs) (fun a s => ?_) l s
  by_cases h : d = a
  · rw [h, modPod_eq, podSt_setPod_same]
  · rw [modPod_eq, podSt_setPod_other _ _ h]

theorem psets_modPod (a k : Nat) : Tab.get {} (podSt (modPod s a fun v => { v with psets := Tab.set {} v.psets i e }) d).psets k =
    if d = a ∧ k = i then e else Tab.get {} (podSt s d).psets k := by
  by_cases h : d = a
  · rw [h, modPod_eq, podSt_setPod_same, Tab.get_set]
    simp only [true_and]
  · rw [modPod_eq, podSt_setPod_other _ _ h, if_neg fun hall => h hall.1]

theorem psets_psetsWritten_mem (hd : d ∈ l) : Tab.get {} (podSt (psetsWritten l i e s) d).psets i = e := by
  refine forAll_reaches (J := fun _ => True) (P := fun d s => Tab.get {} (podSt s d).psets i = e) (fun _ _ _ => trivial)
    (fun a s _ => ?_) (fun a b s h => ?_) l trivial d hd
  · rw [psets_modPod, if_pos ⟨rfl, rfl⟩]
  · rw [psets_modPod, h, ite_self]

theorem psets_psetsWritten_other {k : Nat} (h : d ∉ l ∨ k ≠ i) :
    Tab.get {} (podSt (psetsWritten l i e s) d).psets k = Tab.get {} (podSt s d).psets k := by
  refine forAll_keeps_mem (fun s => Tab.get {} (podSt s d).psets k) l (fun a ha s => ?_) s
  rw [psets_modPod, if_neg]
  rintro ⟨rfl, rfl⟩
  rcases h with h | h
  · exact h ha
  · exact h rfl

end

/-! ### Descriptors (R232, R234) -/

theorem psets_setCtDesc (s : State) (p i q : Nat) (d : BitVec 512) : (podSt (setCtDesc s p i d) q).psets = (podSt s q).psets := by
  unfold setCtDesc
  by_cases h : q = p
  · rw [h, modPod_eq, podSt_setPod_same]
  · rw [modPod_eq, podSt_setPod_other _ _ h]

/-- One descriptor is written in every pod of a list, to each its own. -/
def bound (l : List Nat) (h : Nat) (v : Nat → BitVec 512) (s : State) : State := forAll l (fun d t => setCtDesc t d h (v d)) s

section
variable (l : List Nat) (h : Nat) (v : Nat → BitVec 512) (s : State) (d : Nat)

theorem besidePods_bound : (bound l h v s).besidePods = s.besidePods := by
  refine forAll_keeps State.besidePods (fun _ _ => ?_) l s
  rfl

theorem psets_bound : (podSt (bound l h v s) d).psets = (podSt s d).psets :=
  forAll_keeps (fun s => (podSt s d).psets) (fun _ _ => psets_setCtDesc ..) l s

theorem ctDesc_bound_mem (hd : d ∈ l) : ctDesc (bound l h v s) d h = v d := by
  refine forAll_reaches (J := fun _ => True) (P := fun d s => ctDesc s d h = v d) (fun _ _ _ => trivial)
    (fun a s _ => ?_) (fun a b s hb => ?_) l trivial d hd
  · rw [ctDesc_setCtDesc, if_pos ⟨rfl, rfl⟩]
  · rw [ctDesc_setCtDesc]
    split
    · next hab => rw [hab.1]
    · exact hb

theorem ctDesc_bound_other {k : Nat} (hk : d ∉ l ∨ k ≠ h) : ctDesc (bound l h v s) d k = ctDesc s d k := by
  refine forAll_keeps_mem (fun s => ctDesc s d k) l (fun a ha s => ?_) s
  rw [ctDesc_setCtDesc, if_neg]
  rintro ⟨rfl, rfl⟩
  rcases hk with hk | hk
  · exact hk ha
  · exact hk rfl

end

/-- The descriptors of some handles of a pod lose VALID. -/
def podFreed (hs : List Nat) (d : Nat) (s : State) : State :=
  forAll hs (fun h s => setCtDesc s d h (cSetValid (ctDesc s d h) false)) s

/-- The descriptors of some handles lose VALID in every pod of a list. -/
def freed (l hs : List Nat) (s : State) : State := forAll l (podFreed hs) s

section
variable (l hs : List Nat) (s : State) (d : Nat)

theorem besidePods_freed : (freed l hs s).besidePods = s.besidePods := by
  refine forAll_keeps State.besidePods (fun a s => ?_) l s
  refine forAll_keeps State.besidePods (fun _ _ => ?_) hs s
  rfl

theorem psets_freed : (podSt (freed l hs s) d).psets = (podSt s d).psets :=
  forAll_keeps (fun s => (podSt s d).psets) (fun _ s => forAll_keeps (fun s => (podSt s d).psets) (fun _ _ => psets_setCtDesc ..) hs s) l s

/-- A descriptor that is not VALID stays so. -/
theorem cValid_free {s : State} {d h : Nat} (hv : cValid (ctDesc s d h) = false) (a k : Nat) :
    cValid (ctDesc (setCtDesc s a k (cSetValid (ctDesc s a k) false)) d h) = false := by
  rw [ctDesc_setCtDesc]
  split
  · exact cValid_cSetValid_false _
  · exact hv

theorem cValid_freed {h : Nat} (hd : d ∈ l) (hh : h ∈ hs) : cValid (ctDesc (freed l hs s) d h) = false := by
  refine forAll_reaches (J := fun _ => True) (P := fun d s => cValid (ctDesc s d h) = false) (fun _ _ _ => trivial)
    (fun a s _ => ?_) (fun a b s hb => ?_) l trivial d hd
  · refine forAll_reaches (J := fun _ => True) (P := fun h s => cValid (ctDesc s a h) = false) (fun _ _ _ => trivial)
      (fun k s _ => ?_) (fun k _ _ hv => cValid_free hv a k) hs trivial h hh
    rw [ctDesc_setCtDesc, if_pos ⟨rfl, rfl⟩, cValid_cSetValid_false]
  · exact forAll_invariant (J := fun s => cValid (ctDesc s b h) = false) (fun k _ hv => cValid_free hv a k) hs hb

theorem ctDesc_freed_other {k : Nat} (hk : d ∉ l ∨ k ∉ hs) : ctDesc (freed l hs s) d k = ctDesc s d k := by
  refine forAll_keeps_mem (fun s => ctDesc s d k) l (fun a ha s => ?_) s
  refine forAll_keeps_mem (fun s => ctDesc s d k) hs (fun h hh s => ?_) s
  rw [ctDesc_setCtDesc, if_neg]
  rintro ⟨rfl, rfl⟩
  rcases hk with hk | hk
  · exact hk ha
  · exact hk hh

end

end Sys2Proof.Machine

section
open Sys2Proof Sys2Proof.Machine

/-- Settles O33: the checks of each command are one code, and what it writes where they pass is a loop over its pods. -/
theorem encryptedTables : Obligations.EncryptedTables := by
  intro s c b hact
  refine ⟨fun hmay => ⟨fun hok => ?_, fun hno => ⟨_, issueTable_refuses _ hmay hact hno, refusedTable s c b _⟩⟩,
    fun hmay => ⟨fun hok => ?_, fun hno => ⟨_, issueTable_refuses _ hmay hact hno, refusedTable s c b _⟩⟩,
    fun hmay => ⟨fun hok => ?_, fun hno => ⟨_, issueTable_refuses _ hmay hact hno, refusedTable s c b _⟩⟩⟩
  · obtain ⟨hissued, honly⟩ := issued_afterPods (eq_of_besidePods (besidePods_psetsWritten (rectPods b) (ctArg b % 16)
      ⟨memRead s (ctPaddr b) 512, memRead s (ctKaddr b) 2048, c, true⟩ s)) c b eOk
    exact ⟨_, issueTable_passes _ hmay hact hok, hissued, honly, fun d hd => psets_psetsWritten_mem _ _ _ s d hd,
      fun d i h => psets_psetsWritten_other _ _ _ s d h, fun d => descs_psetsWritten _ _ _ s d⟩
  · obtain ⟨honly, hcmds⟩ := podsAndIssue_accept (eq_of_besidePods (besidePods_bound (rectPods b) (ctDst b) (bindDesc s c b) s)) c b
      fun k => { k with code := some eOk, dests := if bindPlace b then [] else (rectPods b).map fun d => (d, ctDst b) }
    refine ⟨_, issueTable_passes _ hmay hact hok, honly, ⟨_, hcmds, rfl, rfl, rfl, rfl, rfl⟩, fun d hd => ?_,
      fun d h hother => ctDesc_bound_other _ _ _ s d hother, fun d => psets_bound _ _ _ s d⟩
    have hdesc := ctDesc_bound_mem (rectPods b) (ctDst b) (bindDesc s c b) s d hd
    exact ⟨hdesc, (congrArg cValid hdesc).trans (cValid_bindDesc s c b d)⟩
  · obtain ⟨hissued, honly⟩ := issued_afterPods (eq_of_besidePods (besidePods_freed (rectPods b) (ctDsts b) s)) c b eOk
    exact ⟨_, issueTable_passes _ hmay hact hok, hissued, honly, fun d hd h hh => cValid_freed _ _ s d hd hh,
      fun d h hother => ctDesc_freed_other _ _ s d hother, fun d => psets_freed _ _ s d⟩

end

/-! ## Admission of images (O25) -/

namespace Sys2Proof.Machine

/-- A partition that has taken the plan of a directory entry in place of its own (R126). -/
def PartSt.withPlan (p d : PartSt) : PartSt :=
  { p with plan := d.plan, hasPlan := true, plog2 := d.plog2, planFp := d.planFp }

theorem PartSt.withPlan_withPlan (p d e : PartSt) : (p.withPlan d).withPlan e = p.withPlan e := rfl

/-- The base plan of an image and the plans of its first `n` directory entries are loaded. -/
def plansLoaded (im : Image) (n : Nat) (s : State) : State := forAll (List.range n) (loadPlan im) (loadBase im s)

/-- The image is loaded, with a record where it has no partition plan. -/
def imageLoaded (im : Image) (s : State) : State :=
  if im.npart = 0 then moduleRecord (plansLoaded im im.npart s) 3 0 else plansLoaded im im.npart s

theorem admitImage_latches {s : State} (w : Writer) (hrun : s.mod.imgState ≠ 1) (hstage : s.boot.stage = 5) (ht : s.mgt.testEn = false) :
    exec (.admitImage w) s = .next { s with mod := { s.mod with
      imgState := 1, imgAt := s.mod.imgAddr, imgBy := match w with | .acorn => 0 | .host h => h + 1 } } :=
  congrArg Host.Outcome.next (if_neg (by simp [hrun, hstage, ht]))

theorem admitImage_ignored {s : State} (w : Writer) (h : s.mod.imgState = 1 ∨ s.boot.stage ≠ 5 ∨ s.mgt.testEn = true) :
    exec (.admitImage w) s = .next s :=
  congrArg Host.Outcome.next (if_pos h)

theorem admissionDone_refused {s : State} (hi : s.mod.imgState = 1) (ht : s.mgt.testEn = false)
    (hc : admitCode (admitView s) (imgWriter s) ≠ eOk) : exec .admissionDone s = .next { s with
      mod := { s.mod with imgState := 3, imgCode := admitCode (admitView s) (imgWriter s), nplan := 0, imgBase := false } } := by
  show execAdmissionDone s = _
  unfold execAdmissionDone
  simp [hi, ht, hc]

theorem admissionDone_loads {s : State} (hi : s.mod.imgState = 1) (ht : s.mgt.testEn = false)
    (hc : admitCode (admitView s) (imgWriter s) = eOk) : exec .admissionDone s = .next
      (let im := readImage s s.mod.imgAt.toNat
       let t := imageLoaded im s
       { t with mod := { t.mod with imgState := 2, imgCode := eOk, nplan := im.npart, imgBase := im.hasBase, agDis := false } }) := by
  show execAdmissionDone s = _
  unfold execAdmissionDone
  rw [if_neg (by simp [hi])]
  simp only [ht, hc]
  rfl

/-! ### What the plans and their records leave alone -/

/-- All but the partitions and the trace. -/
def State.besidePlans (s : State) : State := { s with parts := [], trc := {} }

theorem besidePlans_moduleRecord (s : State) (e : Nat) (fp : Word64) : (moduleRecord s e fp).besidePlans = s.besidePlans := by
  rw [moduleRecord_eq]; rfl

theorem besidePlans_loadPlan (im : Image) (i : Nat) (s : State) : (loadPlan im i s).besidePlans = s.besidePlans := by
  unfold loadPlan
  dsimp only
  split
  · rfl
  · rw [besidePlans_moduleRecord]; rfl

theorem besidePlans_imageLoaded (im : Image) (s : State) : (imageLoaded im s).besidePlans = (loadBase im s).besidePlans := by
  have h : (plansLoaded im im.npart s).besidePlans = (loadBase im s).besidePlans :=
    forAll_keeps State.besidePlans (besidePlans_loadPlan im) _ _
  unfold imageLoaded
  split
  · rw [besidePlans_moduleRecord, h]
  · exact h

theorem imageLoaded_mod (im : Image) (s : State) : (imageLoaded im s).mod = (loadBase im s).mod :=
  (congrArg State.mod (besidePlans_imageLoaded im s) :)
theorem imageLoaded_lnk (im : Image) (s : State) : (imageLoaded im s).lnk = (loadBase im s).lnk :=
  (congrArg State.lnk (besidePlans_imageLoaded im s) :)
theorem imageLoaded_hstacks (im : Image) (s : State) : (imageLoaded im s).hstacks = (loadBase im s).hstacks :=
  (congrArg State.hstacks (besidePlans_imageLoaded im s) :)

/-! ### The base plan -/

/-- The boot schedule of every stack of the module changes, and nothing else of a stack. -/
theorem stackSt_setBoot (b : Bool) (s : State) (k : Nat) :
    stackSt (setBoot b s) k = if k < 12 then { stackSt s k with boot := b } else stackSt s k := by
  have h (l : List Nat) (t : State) : stackSt (forAll l (fun k s => modStack s k fun v => { v with boot := b }) t) k =
      if k ∈ l then { stackSt t k with boot := b } else stackSt t k := by
    induction l generalizing t with
    | nil => rfl
    | cons a l ih =>
      refine (ih _).trans ?_
      by_cases ha : k = a
      · subst ha; simp
      · simp [ha, stackSt_setStack_other _ _ ha]
  exact (h (List.range 12) s).trans (by simp only [List.mem_range])

/-- A base plan with its reservations and fingerprints is in force: transit routes hold on where the reservations are the same. -/
def baseInForce (base : List Byte) (resv : Rsv) (fp reserveFp : Word64) (s : State) : State :=
  { setBoot false s with
    mod := { s.mod with base := base, resv := resv, baseFp := fp, reserveFp := reserveFp
                        transit := if decide (reserveFp = s.mod.reserveFp) then s.mod.transit else []
                        transitDue := s.mod.transitDue || !decide (reserveFp = s.mod.reserveFp) }
    lnk := { s.lnk with pendTables := true } }

theorem baseInForce_fields (base : List Byte) (resv : Rsv) (fp reserveFp : Word64) (s : State) :
    (baseInForce base resv fp reserveFp s).mod.base = base ∧ (baseInForce base resv fp reserveFp s).mod.resv = resv ∧
    (baseInForce base resv fp reserveFp s).mod.baseFp = fp ∧ (baseInForce base resv fp reserveFp s).mod.reserveFp = reserveFp ∧
    (baseInForce base resv fp reserveFp s).lnk = { s.lnk with pendTables := true } ∧
    (baseInForce base resv fp reserveFp s).hstacks = (setBoot false s).hstacks := by
  refine ⟨rfl, rfl, rfl, rfl, rfl, ?_⟩
  unfold baseInForce
  with_reducible rfl

theorem loadBase_none {im : Image} (h : im.hasBase = false) (s : State) : loadBase im s = s := if_pos (by rw [h]; rfl)

theorem loadBase_some {im : Image} (h : im.hasBase = true) (s : State) : loadBase im s =
    baseInForce im.base (parseRsv (rsvOf im.base)) (fingerprint im.base) (fingerprint (rsvOf im.base)) s :=
  if_neg (by rw [h]; simp)

/-- What neither a base plan's registers nor its stacks hold, a base plan leaves. -/
theorem loadBase_keeps {β : Type} (g : State → β) (hset : ∀ s k v, g (setStack s k v) = g s)
    (hput : ∀ s m l, g { s with mod := m, lnk := l } = g s) (im : Image) (s : State) : g (loadBase im s) = g s := by
  cases h : im.hasBase with
  | false => rw [loadBase_none h]
  | true =>
    rw [loadBase_some h]
    exact (hput ..).trans (setBoot_keeps g hset false s)

theorem partSt_loadBase (im : Image) (s : State) (n : Nat) : partSt (loadBase im s) n = partSt s n :=
  loadBase_keeps (partSt · n) (fun _ _ _ => rfl) (fun _ _ _ => rfl) im s

/-- All but what an image changes. -/
def State.besideImage (s : State) : State := { s with mod := {}, parts := [], lnk := {}, trc := {}, hstacks := [] }

theorem imageLoaded_eq (im : Image) (s : State) : imageLoaded im s = { s with
    mod := (imageLoaded im s).mod, parts := (imageLoaded im s).parts, lnk := (imageLoaded im s).lnk, trc := (imageLoaded im s).trc
    hstacks := (imageLoaded im s).hstacks } := by
  have h : (imageLoaded im s).besideImage = s.besideImage :=
    (congrArg State.besideImage (besidePlans_imageLoaded im s) :).trans
      (loadBase_keeps State.besideImage (fun _ _ _ => rfl) (fun _ _ _ => rfl) im s)
  exact congrArg (fun t : State => { t with
    mod := (imageLoaded im s).mod, parts := (imageLoaded im s).parts, lnk := (imageLoaded im s).lnk, trc := (imageLoaded im s).trc
    hstacks := (imageLoaded im s).hstacks }) h

/-! ### The partition plans -/

theorem partSt_loadPlan (im : Image) (i n : Nat) (s : State) : partSt (loadPlan im i s) n =
    if dirPart s (dirEntry im.bytes i).1 = some n then (partSt s n).withPlan (dirEntry im.bytes i).1 else partSt s n := by
  unfold loadPlan
  dsimp only
  split
  · next h => rw [h]; rfl
  · next m h =>
    rw [partSt_moduleRecord, modPart_eq, h]
    by_cases hm : n = m
    · subst hm; simp [PartSt.withPlan]
    · rw [partSt_setPart_other _ _ hm, if_neg fun e => hm (Option.some.inj e).symm]

/-- Plans leave the rectangles, so an entry names the same partition before and after. -/
theorem dirPart_loadPlan (im : Image) (i : Nat) (s : State) (d : PartSt) : dirPart (loadPlan im i s) d = dirPart s d := by
  refine congrArg (fun f => (List.range 16).find? f) (funext fun n => ?_)
  rw [partSt_loadPlan]
  split <;> rfl

theorem dirPart_plansLoaded (im : Image) (m : Nat) (s : State) (d : PartSt) : dirPart (plansLoaded im m s) d = dirPart s d := by
  refine (forAll_keeps (dirPart · d) (fun i s => dirPart_loadPlan im i s d) (List.range m) (loadBase im s)).trans ?_
  exact congrArg (fun f => (List.range 16).find? f) (funext fun n => by rw [partSt_loadBase])

theorem partSt_imageLoaded (im : Image) (s : State) (n : Nat) :
    partSt (imageLoaded im s) n = partSt (plansLoaded im im.npart s) n := by
  unfold imageLoaded
  split
  · exact partSt_moduleRecord ..
  · rfl

/-- The next entry gives its plan to the partition that it names. -/
theorem partSt_plansLoaded_succ (im : Image) (m n : Nat) (s : State) : partSt (plansLoaded im (m + 1) s) n =
    if dirPart s (dirEntry im.bytes m).1 = some n then (partSt (plansLoaded im m s) n).withPlan (dirEntry im.bytes m).1
    else partSt (plansLoaded im m s) n := by
  have h : plansLoaded im (m + 1) s = loadPlan im m (plansLoaded im m s) := by
    unfold plansLoaded
    rw [List.range_succ]
    exact List.foldl_append
  rw [h, partSt_loadPlan, dirPart_plansLoaded]

/-- Whatever plans a partition got, the next plan in their place is as if they had not been. -/
theorem withPlan_plansLoaded (im : Image) (m n : Nat) (s : State) (e : PartSt) :
    (partSt (plansLoaded im m s) n).withPlan e = (partSt s n).withPlan e := by
  induction m with
  | zero => exact congrArg (·.withPlan e) (partSt_loadBase im s n)
  | succ m ih =>
    rw [partSt_plansLoaded_succ]
    split
    · rw [PartSt.withPlan_withPlan, ih]
    · exact ih

theorem partSt_plansLoaded_unnamed {im : Image} {m n : Nat} {s : State}
    (h : ∀ i, i < m → dirPart s (dirEntry im.bytes i).1 ≠ some n) : partSt (plansLoaded im m s) n = partSt s n := by
  induction m with
  | zero => exact partSt_loadBase im s n
  | succ m ih =>
    rw [partSt_plansLoaded_succ, if_neg (h m (Nat.lt_succ_self m)), ih fun i hi => h i (Nat.lt_succ_of_lt hi)]

/-- A partition has the plan of the last entry that names it. -/
theorem partSt_plansLoaded_last {im : Image} {m n i : Nat} {s : State} (hi : i < m)
    (hn : dirPart s (dirEntry im.bytes i).1 = some n)
    (hlast : ∀ k, i < k → k < m → dirPart s (dirEntry im.bytes k).1 ≠ some n) :
    partSt (plansLoaded im m s) n = (partSt s n).withPlan (dirEntry im.bytes i).1 := by
  induction m with
  | zero => exact absurd hi (Nat.not_lt_zero i)
  | succ m ih =>
    rw [partSt_plansLoaded_succ]
    rcases Nat.lt_succ_iff_lt_or_eq.mp hi with h | rfl
    · rw [if_neg (hlast m h (Nat.lt_succ_self m)), ih h fun k hk hkm => hlast k hk (Nat.lt_succ_of_lt hkm)]
    · rw [if_pos hn, withPlan_plansLoaded]

end Sys2Proof.Machine

section
open Sys2Proof Sys2Proof.Machine

/-- Settles O25: the plans change partitions and trace alone, so that all else is what the base plan leaves; a partition has the
plan of the last entry that names it. -/
theorem imageAdmission : Obligations.ImageAdmission := by
  unfold Obligations.ImageAdmission
  intro s
  refine ⟨fun w hrun hstage htest => ⟨_, admitImage_latches w hrun hstage htest, rfl⟩,
    fun w hno => ⟨_, admitImage_ignored w hno, rfl⟩,
    fun hrun htest => ?_⟩
  by_cases hcode : admitCode (admitView s) (imgWriter s) = eOk
  · refine ⟨_, admissionDone_loads hrun htest hcode, fun hne => absurd hcode hne, fun _ => ?_⟩
    generalize readImage s s.mod.imgAt.toNat = im
    have hparts (n : Nat) : partSt (imageLoaded im s) n = partSt (plansLoaded im im.npart s) n := partSt_imageLoaded im s n
    have hmod := imageLoaded_mod im s
    have hlnk := imageLoaded_lnk im s
    have hstacks := imageLoaded_hstacks im s
    refine ⟨?_, rfl, rfl, rfl, rfl, rfl, fun hbase => ?_, fun hbase => ?_, fun n hn => ?_, fun i n hi hn hlast => ?_⟩
    · exact congrArg (fun t : State => { t with mod := { (imageLoaded im s).mod with
        imgState := 2, imgCode := eOk, nplan := im.npart, imgBase := im.hasBase, agDis := false } }) (imageLoaded_eq im s)
    · rw [loadBase_some hbase] at hmod hlnk hstacks
      obtain ⟨hb, hr, hfp, hrfp, hl, hs⟩ := baseInForce_fields im.base (parseRsv (rsvOf im.base)) (fingerprint im.base)
        (fingerprint (rsvOf im.base)) s
      refine ⟨(congrArg ModRegs.base hmod :).trans hb, (congrArg ModRegs.resv hmod :).trans hr,
        (congrArg ModRegs.baseFp hmod :).trans hfp, (congrArg ModRegs.reserveFp hmod :).trans hrfp, hlnk.trans hl, fun k => ?_⟩
      exact (congrArg (fun t => Tab.get {} t k) (hstacks.trans hs) :).trans (stackSt_setBoot false s k)
    · rw [loadBase_none hbase] at hmod hlnk hstacks
      exact ⟨(congrArg ModRegs.base hmod :), (congrArg ModRegs.transit hmod :), hlnk, hstacks⟩
    · exact (hparts n).trans (partSt_plansLoaded_unnamed hn)
    · exact (hparts n).trans (partSt_plansLoaded_last hi hn hlast)
  · exact ⟨_, admissionDone_refused hrun htest hcode, fun _ => rfl, fun hok => absurd hok hcode⟩

end

/-! ## Line requests (O36) -/

namespace Sys2Proof.Machine

/-! ### Requests (R253, R255, R273, R281) -/

/-- The request that a unit makes for a line: its bytes where it writes. -/
def askReq (p u : Nat) (j : Job) (a : LineAsk) (x : Nat) (bs : List Byte) : Req :=
  { src := .unit p u, write := a.write, addr := a.hbm.toNat, ctx := j.ctx, sp := x, data := ofLineBytes bs, bytes := bs }

section
variable {s : State} {p u k route tp : Nat} {j : Job} {a : LineAsk}
  (hp : p < 10240) (hj : jobOfPip s p = some j) (ha : unitAsk s p u j = some a) (ht : stackEnd s route k = some tp)
include hp hj ha ht

theorem requestWord_outOfBounds (hno : askOk s j.ctx u a = false ∨ a.sp = none ∨ ∃ x, a.sp = some x ∧ x < 0) :
    exec (.requestWord p u k route) s = .next (failPip s p eBounds false) := by
  show execRequestWord p u k route s = _
  unfold execRequestWord
  rw [within_lt _ hp, hj]
  dsimp only
  rw [ha, ht]
  dsimp only
  cases hok : askOk s j.ctx u a with
  | false => rfl
  | true =>
    rcases hno with hf | hn | ⟨x, hx, hneg⟩
    · exact absurd hok (by simp [hf])
    · rw [hn]; rfl
    · rw [hx]
      simp [hneg]

theorem requestWord_asks {x : Int} (hok : askOk s j.ctx u a = true) (hx : a.sp = some x) (h0 : 0 ≤ x) (hk : stackOf a.hbm.toNat = k)
    (hroom : routeRoom s k route a = true)
    (hw : a.write = true → inRegion (pipOf s p).sp (pipOf s p).st.context x 128 = true ∧ bankTaken (pipOf s p) x = false) :
    exec (.requestWord p u k route) s = .next (makeAsk s p u k route tp j a x.toNat) := by
  have hneg : ¬x < 0 := Int.not_lt.mpr h0
  show execRequestWord p u k route s = _
  unfold execRequestWord
  rw [within_lt _ hp, hj]
  dsimp only
  rw [ha, ht]
  dsimp only
  rw [hx]
  cases hwr : a.write with
  | false => simp [hok, hneg, hk, hroom]
  | true =>
    obtain ⟨hreg, hbank⟩ := hw hwr
    simp [hok, hneg, hk, hroom, hreg, hbank]

end

/-- A request whose line is read without a failing check is made. -/
theorem makeAsk_passes {s : State} {p u k route tp x : Nat} {j : Job} {a : LineAsk} {bs : List Byte} {r : PRes}
    (h : (if a.write then askData (pipOf s p) u x else ([], done (pipOf s p))) = (bs, r)) (hf : r.fail = none) (hfx : r.fx = []) :
    makeAsk s p u k route tp j a x =
      placeReq (setPip s p (unitAsked u s.cycle r.p)) p k route tp (askReq p u j a x bs) := by
  unfold makeAsk onPip PRes.andThen
  rw [h]
  dsimp only
  rw [hf, hfx, if_neg (by simp)]
  exact congrArg (fun t => placeReq t p k route tp (askReq p u j a x bs)) (settle_done s p _)

/-- The request on a route that ends at the attachment pip `tp` of stack `k`. -/
def Req.onRoute (r : Req) (k route tp : Nat) : Req := { r with att := attOf k tp, route := route }

/-- A request has joined the FIFO of a route. -/
def joinFifo (s : State) (k route : Nat) (r : Req) : State :=
  setStack s k { stackSt s k with fifo := Tab.set [] (stackSt s k).fifo route (Tab.get [] (stackSt s k).fifo route ++ [r]) }

/-- A request stands in the FIFO of its route where it is one of HBM, and travels as flits where it brings a line or goes to a staging
buffer. -/
theorem placeReq_eq (s : State) (p k route tp : Nat) (r : Req) :
    placeReq s p k route tp r =
      { (if isHbm r.addr then
          joinFifo s k route { r.onRoute k route tp with ready := slotAt s (s.cycle + meshCycles s.mod.map p tp) + 64 } else s) with
        flight := s.flight ++ if r.write || !isHbm r.addr then
          [.wline k route (s.cycle + meshCycles s.mod.map p tp) (r.onRoute k route tp)] else [] } := by
  show (if isHbm r.addr = true then if r.write = true then _ else _ else _) = _
  by_cases hh : isHbm r.addr = true
  · rw [if_pos hh, if_pos hh]
    by_cases hw : r.write = true
    · rw [if_pos hw, if_pos (by simp [hw])]; rfl
    · rw [if_neg hw, if_neg (by simp [hw, hh]), List.append_nil]; rfl
  · rw [if_neg hh, if_neg hh, if_pos (by simp [hh])]; rfl

theorem fifo_joinFifo (s : State) (k route : Nat) (r : Req) :
    Tab.get [] (stackSt (joinFifo s k route r) k).fifo route = Tab.get [] (stackSt s k).fifo route ++ [r] := by simp [joinFifo]

/-! ### Lines that leave (R111, R262, R281) -/

/-- A flit of route `route` has left the attachment pip of stack `k` in this cycle, and these lines wait there. -/
def flitOut (s : State) (k route : Nat) (rest : List Req) : State :=
  setStack s k { stackSt s k with
    lines := Tab.set [] (stackSt s k).lines route rest, outAt := Tab.set 0 (stackSt s k).outAt route (s.cycle + 1) }

section
variable {s : State} {k route : Nat} {r : Req} {l : List Req} {to_ : List (Nat × Nat)}

theorem readLineReady_leaves (hk : k < 12) (hl : Tab.get [] (stackSt s k).lines route = r :: l) (hr : r.ready ≤ slotNow s)
    (ho : Tab.get 0 (stackSt s k).outAt route ≠ s.cycle + 1) (he : (stackEnd s route k).isSome = true)
    (hi : routeIn (resv s) s.mod.map route k r.att (s.cycle % 4096) = true)
    (hto : (linePips s k route r).bind (travelAll s k r.att) = some to_) :
    exec (.readLineReady k route) s = .next
      (if r.sent = 0 then flitOut s k route ({ r with sent := 1 } :: l) else departLine (flitOut s k route l) route r to_) := by
  have hend : (stackEnd s route k).isNone = false := by rw [← Option.not_isSome, he]; rfl
  show execReadLineReady k route s = _
  unfold execReadLineReady
  rw [within_lt _ hk, hl]
  dsimp only
  rw [if_neg (by simp [hr, ho, hend, hi]), hto]
  rfl

/-- The block of a key line is known as before the line leaves. -/
theorem keyOf_flitOut (s : State) (k route p : Nat) (l : List Req) (r : Req) : keyOf (flitOut s k route l) p r = keyOf s p r := rfl

theorem departLine_unit {p u : Nat} (hsrc : r.src = .unit p u) (hu : u ≠ 4) (s : State) : departLine s route r to_ =
    { s with flight := s.flight ++ to_.map fun d => .line d.1 u (s.cycle + d.2) route { r with hop := d.2 } } := by
  unfold departLine
  rw [hsrc]
  exact if_neg hu

theorem departLine_key {p : Nat} (hsrc : r.src = .unit p 4) (s : State) : departLine s route r to_ = sendKey s p r to_ := by
  unfold departLine
  rw [hsrc]
  exact if_pos rfl

/-- A key line is on its way to its pips, and of the module only the engine of its reader knows. -/
theorem sendKey_flies {p i : Nat} {y : KeyRun} (h : keyOf s p r = some (y, i)) : ∃ g, sendKey s p r to_ =
    { setPip s p (setEng (pipOf s p) 4 g) with
      flight := s.flight ++ to_.map fun d => .key d.1 (s.cycle + d.2) (decide (i = 0))
        (decide (i = 0) && keyCorrected s y.addr (khPlen (lineBytes r.data))) r.data } := by
  unfold sendKey
  rw [h]
  dsimp only
  by_cases hi : i = 0
  · exact ⟨_, by rw [if_pos hi]; simp [hi]; rfl⟩
  · exact ⟨_, by rw [if_neg hi]; simp [hi]; rfl⟩

end

/-! ### Staging moves (R289, R336, R340) -/

theorem length_flatMap_of_length {α β : Type} {f : α → List β} {n : Nat} (h : ∀ a, (f a).length = n) (l : List α) :
    (l.flatMap f).length = n * l.length := by
  induction l with
  | nil => rfl
  | cons a l ih => simp [h, ih, Nat.mul_add, Nat.add_comm]

@[simp] theorem length_memRead (s : State) (a n : Nat) : (memRead s a n).length = n := by
  have hl : (linesOf a n).length = (a + n + 127) / 128 - a / 128 := by simp [linesOf]
  have hw : (wordsIn (a - stgBase) n).length = (a - stgBase + n + 7) / 8 - (a - stgBase) / 8 := by simp [wordsIn]
  unfold memRead
  split
  · split
    · exact length_getMany ..
    · rw [slice, List.length_take, List.length_drop, length_flatMap_of_length (length_hbmLine s), hl]
      omega
  · split
    · dsimp only
      split
      · exact length_getMany ..
      · rw [slice, List.length_take, List.length_drop, length_flatMap_of_length fun w => length_toBytes 8 _, hw]
        omega
    · exact List.length_replicate

@[simp] theorem length_lineBytes (e : Line) : (lineBytes e).length = 128 := length_toBytes 128 _

section
variable {s : State} {k route ch : Nat} {t : ChanSt → Bool} {c : ChanSt} {b : List Byte}

/-- The channel that moves lines is one of the state. -/
theorem movesChan_chanSt (h : movesChan s k route t = some (ch, c, b)) : c = chanSt s ch := by
  unfold movesChan at h
  obtain ⟨m, -, hm⟩ := Option.bind_eq_some_iff.mp h
  obtain ⟨r, -, hr⟩ := Option.map_eq_some_iff.mp hm
  cases hr
  rfl

end

/-- What moves a line of a channel leaves alone. -/
def State.besideMove (s : State) : State :=
  { s with hbm := [], hbmFlips := [], staging := [], stgFlips := [], hstacks := [] }

theorem besideMove_memWrite (s : State) (a : Nat) (bs : List Byte) : (memWrite s a bs).besideMove = s.besideMove := by
  obtain ⟨_, _, _, _, h⟩ := memWrite_memOnly s a bs
  rw [h]; rfl

theorem besideMove_modStack (s : State) (k : Nat) (f : StackSt → StackSt) : (modStack s k f).besideMove = s.besideMove := rfl

theorem besideMove_noteMem (s : State) (a n : Nat) : (noteMem s a n).besideMove = s.besideMove := by rw [noteMem_eq]; rfl

/-- A channel that goes on over such a state has nothing else changed. -/
theorem setChan_moved {s t : State} (h : t.besideMove = s.besideMove) (ch : Nat) (v : ChanSt) :
    WorkAsBefore s (setChan t ch v) ∧ (setChan t ch v).pips = s.pips ∧ chanSt (setChan t ch v) ch = v ∧
    ∀ n, n ≠ ch → chanSt (setChan t ch v) n = chanSt s n := by
  refine ⟨⟨(congrArg State.jobs h :), (congrArg State.cmds h :), (congrArg State.ctxs h :), (congrArg State.syncs h :), fun k => ?_⟩,
    (congrArg State.pips h :), chanSt_setChan_same .., fun n hn => ?_⟩
  · exact (congrArg (fun t => (pipOf t k).regs) h :)
  · rw [chanSt_setChan_other _ _ hn]
    exact (congrArg (chanSt · n) h :)

theorem modChan_moved {s t : State} {ch : Nat} {c : ChanSt} (h : t.besideMove = s.besideMove) (hc : c = chanSt s ch) (f : ChanSt → ChanSt) :
    modChan t ch f = setChan t ch (f c) := by
  have hch : chanSt t ch = chanSt s ch := (congrArg (chanSt · ch) h :)
  rw [modChan_eq, hch, hc]

theorem byteAt_congr {s t : State} (h : t.memory = s.memory) (x : Nat) : byteAt t x = byteAt s x := by
  rw [← byteAt_memory t, h, byteAt_memory]

theorem byteAt_setChan (s : State) (ch : Nat) (v : ChanSt) (x : Nat) : byteAt (setChan s ch v) x = byteAt s x := byteAt_congr rfl x

theorem memory_noteMem (s : State) (a n : Nat) : (noteMem s a n).memory = s.memory := by rw [noteMem_eq]; rfl

/-- Bytes written after others stand over them. -/
theorem Writes.twice {s t u : State} {a w : Nat} {bs cs : List Byte} (h : Writes s t w bs) (g : Writes t u a cs) (x : Nat) :
    byteAt u x = if a ≤ x ∧ x < a + cs.length then cs.getD (x - a) 0
      else if w ≤ x ∧ x < w + bs.length then bs.getD (x - w) 0 else byteAt s x := by
  rw [g x, h x]

/-- The residual line that STAGE_IN moves next, and the one that STAGE_OUT stores next. -/
def residIn (c : ChanSt) (b : List Byte) : Nat := residHalf b (clSeq b % 2) + 128 * (c.resIn % residLines b)
def residOut (c : ChanSt) (b : List Byte) : Nat := residHalf b ((clSeq b + 1) % 2) + 128 * c.resNext

section
variable {s : State} {k route g ch : Nat} {c : ChanSt} {b : List Byte} (hk : k < 12)
include hk

/-- STAGE_IN with a line to move changes its channel, the window, and stacks. -/
theorem stageIn_moves (hg : stageGroup s k route 5 = some g) (hm : movesChan s k route wantsResid = some (ch, c, b))
    (hgroup : groupOf (residIn c b) = g) (hctx : ctxMem s c.ctx (residIn c b) 128 = true) (hue : memUe s (residIn c b) 128 = false) :
    ∃ t : State, t.memory = s.memory ∧ t.besideMove = s.besideMove ∧ exec (.stageIn k route) s =
      .next (setChan (memWrite t (windowLine c c.resIn) (memRead s (residIn c b) 128)) ch { c with resIn := c.resIn + 1 }) := by
  have hbeside (f : StackSt → StackSt) : (modStack (noteMem s (residIn c b) 128) k f).besideMove = s.besideMove :=
    (besideMove_modStack ..).trans (besideMove_noteMem ..)
  refine ⟨modStack (noteMem s (residIn c b) 128) k fun v =>
    takeStage (windowLine c c.resIn) (markServed s g (serveBank (slotNow s) g (chipBank (residIn c b)) v)),
    memory_noteMem s (residIn c b) 128, hbeside _, ?_⟩
  rw [← modChan_moved ((besideMove_memWrite ..).trans (hbeside _)) (movesChan_chanSt hm) fun c => { c with resIn := c.resIn + 1 }]
  unfold residIn at *
  show execStageIn k route s = _
  unfold execStageIn
  rw [within_lt _ hk, hg]
  dsimp only
  rw [hm]
  dsimp only
  rw [if_neg (by simp [hgroup]), if_neg (by simp [hctx]), if_neg (by simp [hue])]

/-- STAGE_OUT with a line to store changes its channel, the window, the residual half, and stacks. -/
theorem stageOut_moves {y : Line} {ys : List Line} (hg : stageGroup s k route 6 = some g)
    (hm : movesChan s k route (fun c => c.resOut ≠ []) = some (ch, c, b)) (hy : c.resOut = y :: ys)
    (hgroup : groupOf (residOut c b) = g) (hctx : ctxMem s c.ctx (residOut c b) 128 = true) :
    ∃ t : State, t.memory = (memWrite (memWrite s (windowLine c c.resNext) (lineBytes y)) (residOut c b) (lineBytes y)).memory ∧
      t.besideMove = s.besideMove ∧ exec (.stageOut k route) s =
      .next (setChan t ch { c with resOut := ys, resNext := c.resNext + 1 }) := by
  have hbeside (f : StackSt → StackSt) :
      (modStack (memWrite (memWrite s (windowLine c c.resNext) (lineBytes y)) (residOut c b) (lineBytes y)) k f).besideMove =
        s.besideMove :=
    (besideMove_modStack ..).trans ((besideMove_memWrite ..).trans (besideMove_memWrite ..))
  refine ⟨modStack (memWrite (memWrite s (windowLine c c.resNext) (lineBytes y)) (residOut c b) (lineBytes y)) k fun v =>
    takeStage (windowLine c c.resNext) (markServed s g (serveBank (slotNow s) g (chipBank (residOut c b)) v)),
    rfl, hbeside _, ?_⟩
  have hchan := modChan_moved (hbeside fun v =>
    takeStage (windowLine c c.resNext) (markServed s g (serveBank (slotNow s) g (chipBank (residOut c b)) v)))
    (movesChan_chanSt hm) fun c => { c with resOut := c.resOut.drop 1, resNext := c.resNext + 1 }
  rw [hy] at hchan
  refine Eq.trans ?_ (congrArg Host.Outcome.next hchan)
  unfold residOut at *
  show execStageOut k route s = _
  unfold execStageOut
  rw [within_lt _ hk, hg]
  dsimp only
  rw [hm]
  dsimp only
  rw [if_neg (by simp [hgroup]), if_neg (by simp [hctx]), hy]
  rfl

theorem stageIn_idle (hg : stageGroup s k route 5 = some g) (hm : movesChan s k route wantsResid = none) :
    exec (.stageIn k route) s = .next (passIdle s k g) := by
  show execStageIn k route s = _
  unfold execStageIn
  rw [within_lt _ hk, hg]
  dsimp only
  rw [hm]

theorem stageIn_none (hg : stageGroup s k route 5 = none) : exec (.stageIn k route) s = .next s := by
  show execStageIn k route s = _
  unfold execStageIn
  rw [within_lt _ hk, hg]

theorem stageOut_none (hg : stageGroup s k route 6 = none) : exec (.stageOut k route) s = .next s := by
  show execStageOut k route s = _
  unfold execStageOut
  rw [within_lt _ hk, hg]

end

end Sys2Proof.Machine

section
open Sys2Proof Sys2Proof.Machine

/-- Settles O36: each clause is one branch of its command, whose guards the hypotheses decide; a move of a residual line is one or two
writes of memory, which read as written. -/
theorem lineRequests : Obligations.LineRequests := by
  unfold Obligations.LineRequests
  intro s
  refine ⟨fun p u k route j tp a bs r x hp hj ha ht hok hx h0 hk hroom hw hdata hf hfx => ?_,
    fun p u k route j tp a hp hj ha ht hno => ⟨_, requestWord_outOfBounds hp hj ha ht hno, rfl⟩,
    fun k route r l to_ hk hl hr ho he hi hto => ?_, fun k route g ch c b hk hg hm hgroup hctx hue hw => ?_,
    fun k route g ch c b y ys hk hg hm hy hgroup hctx ha hw => ?_,
    fun k route hk => ⟨fun h => ⟨_, stageIn_none hk h, rfl⟩, fun h => ⟨_, stageOut_none hk h, rfl⟩,
      fun g hg hm => ⟨_, stageIn_idle hk hg hm, ?_, rfl⟩⟩⟩
  · refine ⟨_, (requestWord_asks hp hj ha ht hok hx h0 hk hroom hw).trans
      (congrArg Host.Outcome.next ((makeAsk_passes hdata hf hfx).trans (placeReq_eq ..))), ?_⟩
    by_cases hh : isHbm a.hbm.toNat = true
    · rw [if_pos (show isHbm (askReq p u j a x.toNat bs).addr = true from hh)]
      refine ⟨rfl, rfl, fun n hn => stackSt_setStack_other _ _ hn, fun n hn => pipOf_setPip_other s _ hn, pipOf_setPip_same .., ?_⟩
      rw [if_pos hh]
      exact fifo_joinFifo ..
    · rw [if_neg (show ¬isHbm (askReq p u j a x.toNat bs).addr = true from hh)]
      refine ⟨rfl, rfl, fun n hn => rfl, fun n hn => pipOf_setPip_other s _ hn, pipOf_setPip_same .., ?_⟩
      rw [if_neg hh, List.append_nil]
      rfl
  · have hexec := readLineReady_leaves hk hl hr ho he hi hto
    refine ⟨fun h0 => ⟨_, hexec, by rw [if_pos h0]; rfl⟩, fun p u h0 hsrc hu => ⟨_, hexec, ?_⟩, fun p y i h0 hsrc hkey => ⟨_, hexec, ?_⟩⟩
    · rw [if_neg h0, departLine_unit hsrc hu]
      rfl
    · obtain ⟨e, hsend⟩ := sendKey_flies (to_ := to_) ((keyOf_flitOut s k route p l r).trans hkey)
      rw [if_neg h0, departLine_key hsrc, hsend]
      have hsame := pipOf_setPip_same (flitOut s k route l) p (setEng (pipOf (flitOut s k route l) p) 4 e)
      refine ⟨rfl, fun n hn => pipOf_setPip_other _ _ hn, (congrArg PipSt.regs hsame :), (congrArg PipSt.sp hsame :), fun hi0 => ?_, fun hi0 => ?_⟩
      · simp only [hi0, decide_true, Bool.true_and]
        rfl
      · simp only [hi0, decide_false, Bool.false_and]
        rfl
  · obtain ⟨t, hmem, hbeside, hexec⟩ := stageIn_moves hk hg hm hgroup hctx hue
    refine ⟨_, hexec, fun x => ?_, setChan_moved ((besideMove_memWrite ..).trans hbeside) ch _⟩
    have hwrites := memWrite_writes t (windowLine c c.resIn) (memRead s (residIn c b) 128)
      (List.ne_nil_of_length_pos (by simp)) (by rwa [length_memRead]) x
    rw [byteAt_congr hmem] at hwrites
    exact (byteAt_setChan ..).trans hwrites
  · obtain ⟨t, hmem, hbeside, hexec⟩ := stageOut_moves hk hg hm hy hgroup hctx
    have hne : lineBytes y ≠ [] := List.ne_nil_of_length_pos (by simp)
    have hwrites := (memWrite_writes s (windowLine c c.resNext) (lineBytes y) hne (by rwa [length_lineBytes])).twice
      (memWrite_writes _ (residOut c b) (lineBytes y) hne (by rwa [length_lineBytes]))
    rw [length_lineBytes] at hwrites
    exact ⟨_, hexec, fun x => (byteAt_setChan ..).trans ((byteAt_congr hmem x).trans (hwrites x)), setChan_moved hbeside ch _⟩
  · simp [passIdle, markServed, easeSlip]
end

/-! ## A step runs the front command, or a cycle passes (O57) -/

section
/-!
SUPPORT. What happens of itself in a pip cycle leaves the clock alone, which goes on at the end of the cycle.
-/
namespace Sys2Proof.Machine

@[simp] theorem cycle_ite {c : Prop} [Decidable c] (s t : State) : (if c then s else t).cycle = if c then s.cycle else t.cycle :=
  apply_ite ..

/-- What ends work leaves the clock alone, as it lasts. -/
theorem Ends.cycle {s t : State} (h : Ends s t) : t.cycle = s.cycle := (congrArg State.cycle h.lasting :)

theorem foldl_cycle {α β : Type} {f : State × β → α → State × β} (h : ∀ acc a, (f acc a).1.cycle = acc.1.cycle) (l : List α)
    (acc : State × β) : (l.foldl f acc).1.cycle = acc.1.cycle := by
  induction l generalizing acc with
  | nil => rfl
  | cons a l ih => exact (ih _).trans (h acc a)

/-! ### Updates of the state -/

/-- An operation over a list keeps the clock where each of its steps does. -/
@[simp] theorem forAll_cycle {α : Type} {f : α → State → State} (h : ∀ a s, (f a s).cycle = s.cycle) (l : List α) (s : State) :
    (forAll l f s).cycle = s.cycle :=
  forAll_keeps (f := f) State.cycle h l s

theorem modPip_cycle (s : State) (k : Nat) (f : PipSt → PipSt) : (modPip s k f).cycle = s.cycle := rfl
theorem modPod_cycle (s : State) (k : Nat) (f : PodSt → PodSt) : (modPod s k f).cycle = s.cycle := rfl
theorem modField_cycle (s : State) (k : Nat) (f : FieldSt → FieldSt) : (modField s k f).cycle = s.cycle := rfl
theorem modStack_cycle (s : State) (k : Nat) (f : StackSt → StackSt) : (modStack s k f).cycle = s.cycle := rfl
theorem modLink_cycle (s : State) (k : Nat) (f : LinkSt → LinkSt) : (modLink s k f).cycle = s.cycle := rfl
theorem modChan_cycle (s : State) (k : Nat) (f : ChanSt → ChanSt) : (modChan s k f).cycle = s.cycle := rfl

/-! ### Updates of Machine/Module -/

@[simp] theorem setGran_cycle (s : State) (staging : Bool) (g : Nat) (v : Granule) : (setGran s staging g v).cycle = s.cycle := by
  simp [setGran]

@[simp] theorem decideCmd_cycle (s : State) (k : Nat) (code : Byte) (site : Nat) : (decideCmd s k code site).cycle = s.cycle :=
  (decideCmd_ends ..).cycle

@[simp] theorem drew_cycle (s : State) (n : Nat) : (drew s n).cycle = s.cycle := (drew_ends ..).cycle
@[simp] theorem memWrite_cycle (s : State) (a : Nat) (bs : List Byte) : (memWrite s a bs).cycle = s.cycle :=
  (memWrite_ends ..).cycle

@[simp] theorem fabricRecord_cycle (s : State) (r : TraceRec) : (fabricRecord s r).cycle = s.cycle := (fabricRecord_ends ..).cycle
@[simp] theorem powerRecord_cycle (s : State) (field : Option Nat) (event arg1 : Nat) (code : Byte) :
    (powerRecord s field event arg1 code).cycle = s.cycle :=
  (powerRecord_ends ..).cycle

@[simp] theorem fieldTo_cycle (s : State) (f : Nat) (st : FState) : (fieldTo s f st).cycle = s.cycle := (fieldTo_ends ..).cycle
@[simp] theorem enableField_cycle (s : State) (f : Nat) : (enableField s f).cycle = s.cycle := (enableField_ends ..).cycle
@[simp] theorem syncAdd_cycle (s : State) (i add : Nat) : (syncAdd s i add).cycle = s.cycle := rfl

/-! ### Updates of Machine/Ending -/

@[simp] theorem avsVolt_cycle (s : State) (f mv : Nat) : (avsVolt s f mv).cycle = s.cycle := (avsVolt_ends ..).cycle
@[simp] theorem startOff_cycle (s : State) (f : Nat) : (startOff s f).cycle = s.cycle := (startOff_ends ..).cycle
@[simp] theorem lowerField_cycle (s : State) (f : Nat) (want : FState) : (lowerField s f want).cycle = s.cycle :=
  (lowerField_ends ..).cycle

@[simp] theorem schedRecord_cycle (s : State) (pod event ctx : Nat) (progId : Word64) (code : Byte) :
    (schedRecord s pod event ctx progId code).cycle = s.cycle :=
  (schedRecord_ends ..).cycle

@[simp] theorem errorRecord_cycle (s : State) (event kind index arg1 : Nat) (code : Byte) :
    (errorRecord s event kind index arg1 code).cycle = s.cycle :=
  (errorRecord_ends ..).cycle

@[simp] theorem dropWork_cycle (pips : List Nat) (keys : Bool) (s : State) : (dropWork pips keys s).cycle = s.cycle :=
  (dropWork_ends ..).cycle

@[simp] theorem dropShort_cycle (pips : List Nat) (p : Nat) (s : State) : (dropShort pips p s).cycle = s.cycle :=
  (dropShort_ends ..).cycle

@[simp] theorem leavePods_cycle (j : Job) (code : Byte) (s : State) : (leavePods j code s).cycle = s.cycle :=
  (leavePods_ends ..).cycle

@[simp] theorem endDrain_cycle (s : State) (j : Job) : (endDrain s j).cycle = s.cycle := by simp [endDrain]
@[simp] theorem endJob_cycle (s : State) (j : Job) (code : Byte) (site : Nat) : (endJob s j code site).cycle = s.cycle :=
  (endJob_ends ..).cycle

@[simp] theorem endJobs_cycle (s : State) (code : Byte) (test : Job → Bool) : (endJobs s code test).cycle = s.cycle :=
  (endJobs_ends ..).cycle

@[simp] theorem chanAdvance_cycle (s : State) (ch : Nat) : (chanAdvance s ch).cycle = s.cycle := (chanAdvance_ends ..).cycle
@[simp] theorem chanFail_cycle (s : State) (ch : Nat) (code : Byte) : (chanFail s ch code).cycle = s.cycle :=
  (chanFail_ends ..).cycle

@[simp] theorem endRecovery_cycle (s : State) (n : Nat) : (endRecovery s n).cycle = s.cycle := (endRecovery_ends ..).cycle
@[simp] theorem raiseFault_cycle (s : State) (cls : Nat) (ps : List Nat) (loc : Nat) (code : Byte) :
    (raiseFault s cls ps loc code).cycle = s.cycle :=
  (raiseFault_ends ..).cycle

@[simp] theorem noteSite_cycle (s : State) (p addr : Nat) : (noteSite s p addr).cycle = s.cycle := (noteSite_ends ..).cycle

/-! ### Updates of Machine/Lift -/

@[simp] theorem applyFx_cycle (p : Nat) (fx : Fx) (s : State) : (applyFx p fx s).cycle = s.cycle := (applyFx_ends ..).cycle
@[simp] theorem failPip_cycle (s : State) (p : Nat) (code : Byte) (ue : Bool) : (failPip s p code ue).cycle = s.cycle :=
  (failPip_ends ..).cycle

@[simp] theorem settle_cycle (s : State) (p : Nat) (r : PRes) : (settle s p r).cycle = s.cycle := (settle_ends ..).cycle
@[simp] theorem onPip_cycle (s : State) (p : Nat) (f : PipSt → PRes) : (onPip s p f).cycle = s.cycle := by simp [onPip]
@[simp] theorem issueBy_cycle (s : State) (p : Nat) (exe : Bool) (i : Instr) (act : PipSt → Attempt) :
    (issueBy s p exe i act).cycle = s.cycle := by
  unfold issueBy
  split
  · rfl
  · split
    · rfl
    · split
      · rfl
      · exact settle_cycle ..

@[simp] theorem issue_cycle (s : State) (p : Nat) (exe : Bool) (i : Instr) (ok : Bool) (f : PipSt → Attempt) :
    (issue s p exe i ok f).cycle = s.cycle := by
  simp [issue]

/-! ### Updates of Machine/Access -/

@[simp] theorem clearKeys_cycle (j : Job) (s : State) : (clearKeys j s).cycle = s.cycle := by
  rw [clearKeys, forAll_cycle, forAll_cycle] <;> exact fun _ _ => rfl

/-! ### Updates of Machine/HbmOps -/

@[simp] theorem noteError_cycle (s : State) (k a : Nat) (ce ue : Bool) : (noteError s k a ce ue).cycle = s.cycle := by
  simp [noteError]

@[simp] theorem noteLine_cycle (line : Nat) (s : State) : (noteLine line s).cycle = s.cycle := by simp [noteLine]
@[simp] theorem noteStg_cycle (w : Nat) (s : State) : (noteStg w s).cycle = s.cycle := by simp [noteStg]
@[simp] theorem noteMem_cycle (s : State) (a n : Nat) : (noteMem s a n).cycle = s.cycle := by simp [noteMem]
@[simp] theorem noteSites_cycle (p : Nat) (fx : List Fx) (s : State) : (noteSites p fx s).cycle = s.cycle := by
  refine forAll_cycle (fun f s => ?_) fx s
  split <;> simp

@[simp] theorem failReq_cycle (s : State) (r : Req) (code : Byte) : (failReq s r code).cycle = s.cycle := by
  unfold failReq
  split <;> simp

@[simp] theorem ueReq_cycle (s : State) (r : Req) : (ueReq s r).cycle = s.cycle := by
  unfold ueReq
  split <;> simp

@[simp] theorem hullGot_cycle (s : State) (ch : Nat) (bs : List Byte) : (hullGot s ch bs).cycle = s.cycle := rfl
@[simp] theorem answerHost_cycle (s : State) (a : HostAcc) (bs : List Byte) : (answerHost s a bs).cycle = s.cycle := by
  simp [answerHost]

@[simp] theorem rejectAcc_cycle (s : State) (a : HostAcc) : (rejectAcc s a).cycle = s.cycle := by simp [rejectAcc]

/-! ### Updates of Machine/Issue -/

@[simp] theorem atIssue_cycle (s : State) (c : Nat) (b : List Byte) (code : Byte) : (atIssue s c b code).cycle = s.cycle := (rfl)

/-! ### Updates of Machine/LinkOps -/

@[simp] theorem linkCode_cycle (s : State) (l route : Nat) (code : Byte) : (linkCode s l route code).cycle = s.cycle := by
  simp only [linkCode]
  split <;> simp

@[simp] theorem failBurst_cycle (s : State) (l route : Nat) (code : Byte) : (failBurst s l route code).cycle = s.cycle := by
  unfold failBurst
  split <;> simp

@[simp] theorem linkDown_cycle (s : State) (l : Nat) : (linkDown s l).cycle = s.cycle := by simp [linkDown]
@[simp] theorem queueTx_cycle (s : State) (l : Nat) (m : LinkMsg) : (queueTx s l m).cycle = s.cycle := by simp [queueTx]
@[simp] theorem takeEdge_cycle (s : State) (l route from_ : Nat) (data : Flit) : (takeEdge s l route from_ data).cycle = s.cycle := by
  simp [takeEdge]

/-! ### Updates of Machine/Collective -/

@[simp] theorem sendShard_cycle (s : State) (ch : Nat) (b : List Byte) (gather : Bool) (step shard : Nat) :
    (sendShard s ch b gather step shard).cycle = s.cycle := by
  simp [sendShard]

@[simp] theorem localPass_cycle (s : State) (ch : Nat) (b : List Byte) : (localPass s ch b).cycle = s.cycle := by simp [localPass]
@[simp] theorem fromBuf_cycle (s : State) (c : ChanSt) (m : CollMsg) : (fromBuf s c m).1.cycle = s.cycle := by
  simp only [fromBuf]
  split <;> simp

@[simp] theorem mergeChunk_cycle (s : State) (ch : Nat) (b : List Byte) (m : CollMsg) : (mergeChunk s ch b m).cycle = s.cycle := by
  simp [mergeChunk]

/-! ### Updates of Machine/Control -/

@[simp] theorem moveRun_cycle (a b : Nat) (r : (Nat × Nat × Nat) × (Nat × Nat × Nat)) (acc : State × Option Nat) :
    (moveRun a b r acc).1.cycle = acc.1.cycle := by
  simp [moveRun, forAll_cycle]

@[simp] theorem moveObject_cycle (s : State) (j : Job) : (moveObject s j).1.cycle = s.cycle := by
  unfold moveObject
  split
  · rfl
  · exact foldl_cycle (fun acc r => moveRun_cycle _ _ r acc) ..

@[simp] theorem finishJob_cycle (s : State) (j : Job) : (finishJob s j).cycle = s.cycle := by
  have h := moveObject_cycle s j
  unfold finishJob
  split <;> simp_all

/-! ### Updates of Machine/Mesh -/

@[simp] theorem leaveFlit_cycle (s : State) (p port cr ser : Nat) (data : Flit) (rest : List (Nat × Flit)) :
    (leaveFlit s p port cr ser data rest).cycle = s.cycle := by
  unfold leaveFlit
  dsimp only
  split <;> rfl

@[simp] theorem landed_cycle (s : State) (k : Nat) : (landed s k).cycle = s.cycle := rfl
@[simp] theorem takeKey_cycle (s : State) (p : Nat) (e : Line) : (takeKey s p e).cycle = s.cycle := rfl
@[simp] theorem flitIn_cycle (s t : State) (p i : Nat) (f : MFlit) (h : t.cycle = s.cycle) :
    (flitIn s t p i f).cycle = s.cycle := by
  simp [flitIn, h]

@[simp] theorem edgeIn_cycle (s t : State) (p i : Nat) (f : MFlit) (h : t.cycle = s.cycle) :
    (edgeIn s t p i f).cycle = s.cycle := by
  unfold edgeIn
  split <;> simp [h]

@[simp] theorem lineCredit_cycle (s : State) (k route hop : Nat) : (lineCredit s k route hop).cycle = s.cycle := rfl
@[simp] theorem lineIn_cycle (s : State) (p u route : Nat) (r : Req) : (lineIn s p u route r).cycle = s.cycle := by simp [lineIn]
@[simp] theorem wlineIn_cycle (s t : State) (n route : Nat) (r : Req) (h : t.cycle = s.cycle) :
    (wlineIn s t n route r).cycle = s.cycle := by
  simp [wlineIn, h]

@[simp] theorem keyIn_cycle (s t : State) (p : Nat) (header gran : Bool) (e : Line) (h : t.cycle = s.cycle) :
    (keyIn s t p header gran e).cycle = s.cycle := by
  simp [keyIn, h]

@[simp] theorem shortIn_cycle (s t : State) (at_ : Nat) (f : ShortFlit) (h : t.cycle = s.cycle) :
    (shortIn s t at_ f).cycle = s.cycle := by
  simp [shortIn, h]

@[simp] theorem returnCredit_cycle (s : State) (p cr by_ : Nat) : (returnCredit s p cr by_).cycle = s.cycle := rfl
@[simp] theorem putWritten_cycle (f : ShortFlit) (s : State) : (putWritten f s).cycle = s.cycle := by simp [putWritten]
@[simp] theorem shortWrite_cycle (s : State) (p : Nat) (f : ShortFlit) : (shortWrite s p f).cycle = s.cycle := by simp [shortWrite]

/-! ### Updates of Machine/EngineRun -/

@[simp] theorem refuseRun_cycle (s : State) (p e : Nat) (c : Nat × Byte) : (refuseRun s p e c).cycle = s.cycle := by simp [refuseRun]
@[simp] theorem startCopy_cycle (s : State) (p e : Nat) : (startCopy s p e).cycle = s.cycle := by simp [startCopy]
@[simp] theorem engSignal_cycle (s : State) (p obj add : Nat) (next : State → State) (h : ∀ s, (next s).cycle = s.cycle) :
    (engSignal s p obj add next).cycle = s.cycle := by
  unfold engSignal
  split <;> simp [h]

@[simp] theorem stopRun_cycle (p e : Nat) (s : State) : (stopRun p e s).cycle = s.cycle := by simp [stopRun]
@[simp] theorem agRun_cycle (s : State) (p e op : Nat) (f : Engine → Nat → Engine) : (agRun s p e op f).cycle = s.cycle := by
  unfold agRun
  split <;> simp

@[simp] theorem markHeld_cycle (s : State) (p e : Nat) : (markHeld s p e).cycle = s.cycle := rfl
@[simp] theorem passBlock_cycle (s : State) (pod : Nat) (h : List Byte) : (passBlock s pod h).cycle = s.cycle := by
  rw [passBlock, forAll_cycle] <;> intros <;> rfl

@[simp] theorem failBlock_cycle (s : State) (j : Job) (pod : Nat) : (failBlock s j pod).cycle = s.cycle := by
  unfold failBlock
  split
  · rfl
  · rw [forAll_cycle fun _ _ => modPod_cycle ..]
    simp

/-! ### Updates of Machine/Hbm -/

@[simp] theorem passIdle_cycle (s : State) (k g : Nat) : (passIdle s k g).cycle = s.cycle := rfl
@[simp] theorem serveRead_cycle (s : State) (k g route att : Nat) (r : Req) : (serveRead s k g route att r).cycle = s.cycle := by
  simp [serveRead]

@[simp] theorem writeAccepted_cycle (s : State) (r : Req) : (writeAccepted s r).cycle = s.cycle := by
  unfold writeAccepted
  split <;> simp

@[simp] theorem hostWrite_cycle (s : State) (a : Nat) (bs : List Byte) : (hostWrite s a bs).cycle = s.cycle := by simp [hostWrite]
@[simp] theorem serveHost_cycle (s : State) (k g : Nat) (a : HostAcc) : (serveHost s k g a).cycle = s.cycle := by simp [serveHost]
@[simp] theorem sendKey_cycle (s : State) (p : Nat) (r : Req) (to_ : List (Nat × Nat)) : (sendKey s p r to_).cycle = s.cycle := by
  unfold sendKey
  split <;> simp

@[simp] theorem departLine_cycle (s : State) (route : Nat) (r : Req) (to_ : List (Nat × Nat)) :
    (departLine s route r to_).cycle = s.cycle := by
  unfold departLine
  split <;> simp

/-! ### Updates of Machine/HostPort -/

@[simp] theorem readRun_cycle (r : Nat × Nat × Nat) (acc : State × List Byte) : (readRun r acc).1.cycle = acc.1.cycle := by
  rw [readRun, noteSites_cycle, setPip_cycle]

@[simp] theorem writeRuns_cycle (rs : List (Nat × Nat × Nat)) (bs : List Byte) (s : State) : (writeRuns rs bs s).cycle = s.cycle := by
  induction rs generalizing bs s with
  | nil => rfl
  | cons r rs ih => rw [writeRuns, ih, noteSites_cycle, setPip_cycle]

@[simp] theorem winTake_cycle (runs : List (Nat × Nat × Nat)) (s : State) : (winTake runs s).cycle = s.cycle :=
  forAll_cycle (fun _ _ => modPip_cycle ..) runs s

@[simp] theorem serveWindow_cycle (s : State) (p : Nat) (a : WinAccess) (rest : List WinAccess) :
    (serveWindow s p a rest).cycle = s.cycle := by
  unfold serveWindow
  extract_lets runs pop
  have hp : pop.cycle = s.cycle := modPip_cycle ..
  clear_value pop runs
  split
  · exact (rejectAcc_cycle ..).trans hp
  · split
    · exact enableField_cycle ..
    · split
      · rfl
      · split
        · exact (writeRuns_cycle ..).trans ((winTake_cycle ..).trans hp)
        · have hr := foldl_cycle (fun acc r => readRun_cycle r acc) runs (winTake runs pop, [])
          generalize runs.foldl _ _ = x at hr ⊢
          obtain ⟨u, bs⟩ := x
          have h1 : (winTake runs pop).cycle = s.cycle := (winTake_cycle ..).trans hp
          have h2 : u.cycle = (winTake runs pop).cycle := hr
          exact (send_cycle u _).trans (h2.trans h1)

@[simp] theorem drbgRequest_cycle (engB : Bool) (s : State) : (drbgRequest engB s).cycle = s.cycle := rfl

/-! ### Updates of Machine/Hull -/

@[simp] theorem hullWrite_cycle (s : State) (ch a : Nat) (bs : List Byte) : (hullWrite s ch a bs).cycle = s.cycle := by
  simp [hullWrite]

@[simp] theorem hullAsk_cycle (s : State) (ch a n : Nat) (data : Option (List Byte)) : (hullAsk s ch a n data).cycle = s.cycle := by
  simp [hullAsk]

/-! ### Updates of Machine/Power -/

@[simp] theorem pendingOff_cycle (s : State) (f : Nat) : (pendingOff s f).cycle = s.cycle := by simp [pendingOff]
@[simp] theorem refuseWaiters_cycle (s : State) (f : Nat) : (refuseWaiters s f).cycle = s.cycle := by
  refine forAll_cycle (fun c s => ?_) _ s
  split <;> simp

@[simp] theorem moduleTo_cycle (s : State) (m : MState) : (moduleTo s m).cycle = s.cycle := by simp [moduleTo]
@[simp] theorem wakeSource_cycle (s : State) (n : Nat) : (wakeSource s n).cycle = s.cycle := by simp [wakeSource]
@[simp] theorem moduleFault_cycle (s : State) : (moduleFault s).cycle = s.cycle := by simp [moduleFault]

/-! ### Updates of Machine/Boot -/

@[simp] theorem haltCtx_cycle (c : Nat) (s : State) : (haltCtx c s).cycle = s.cycle := (rfl)
@[simp] theorem verifyEntry_cycle (n : Nat) (a : Nat) (s : State) : (verifyEntry n a s).cycle = s.cycle := by simp [verifyEntry]
@[simp] theorem verifyWeights_cycle (s : State) (n : Nat) : (verifyWeights s n).cycle = s.cycle := by simp [verifyWeights]

/-! ### Updates of Machine/Links -/

@[simp] theorem periodLink_cycle (l : Nat) (s : State) : (periodLink l s).cycle = s.cycle := (rfl)
@[simp] theorem periodChan_cycle (ch : Nat) (s : State) : (periodChan ch s).cycle = s.cycle := (rfl)
@[simp] theorem steerAnchor_cycle (s : State) : (steerAnchor s).cycle = s.cycle := rfl
@[simp] theorem setPhase_cycle (s : State) (d : Int) : (setPhase s d).cycle = s.cycle := rfl
@[simp] theorem periodWork_cycle (s : State) : (periodWork s).cycle = s.cycle := by simp [periodWork]
@[simp] theorem tellAll_cycle (k : CtrlKind) (s : State) : (tellAll k s).cycle = s.cycle :=
  forAll_cycle (fun _ _ => modLink_cycle ..) _ s

@[simp] theorem adoptAnchor_cycle (s : State) : (adoptAnchor s).cycle = s.cycle := by simp [adoptAnchor]
@[simp] theorem ownEpochs_cycle (s : State) : (ownEpochs s).cycle = s.cycle := by simp [ownEpochs]
@[simp] theorem joinNow_cycle (s : State) : (joinNow s).cycle = s.cycle := by
  unfold joinNow
  split
  · rfl
  · simp only [tellAll_cycle]
    split <;> simp

@[simp] theorem countEpoch_cycle (s : State) : (countEpoch s).cycle = s.cycle := by simp [countEpoch]
@[simp] theorem installTables_cycle (s : State) : (installTables s).cycle = s.cycle := by
  unfold installTables
  split
  · rfl
  · exact forAll_cycle (fun _ _ => modLink_cycle ..) ..

@[simp] theorem scheduleLink_cycle (l : Nat) (s : State) : (scheduleLink l s).cycle = s.cycle := by
  simp only [scheduleLink]
  split <;> simp

@[simp] theorem departNow_cycle (s : State) : (departNow s).cycle = s.cycle :=
  (forAll_cycle (fun _ _ => modLink_cycle ..) ..).trans (tellAll_cycle ..)

@[simp] theorem rejectData_cycle (s : State) (l route : Nat) (code : Byte) : (rejectData s l route code).cycle = s.cycle := by
  simp only [rejectData]
  split <;> simp

@[simp] theorem padData_cycle (s : State) (b : List Byte) : (padData s b).cycle = s.cycle := rfl
@[simp] theorem writeData_cycle (s : State) (l : Nat) (b : List Byte) : (writeData s l b).cycle = s.cycle := by simp [writeData]
@[simp] theorem finishData_cycle (s : State) (l : Nat) (b : List Byte) : (finishData s l b).cycle = s.cycle := by simp [finishData]

/-! ### Updates of Machine/Trace -/

@[simp] theorem traceTo_cycle (s : State) (place due : Nat) (f : TraceFlit) : (traceTo s place due f).cycle = s.cycle := rfl
@[simp] theorem goNorth_cycle (s : State) (p : Nat) (f : TraceFlit) : (goNorth s p f).cycle = s.cycle := by simp [goNorth]
@[simp] theorem goAlong_cycle (s : State) (p : Nat) (f : TraceFlit) : (goAlong s p f).cycle = s.cycle := by simp [goAlong]
@[simp] theorem traceLand_cycle (s : State) (e : Nat × TraceFlit) : (traceLand s e).cycle = s.cycle := by simp [traceLand]
@[simp] theorem landTraces_cycle (s : State) : (landTraces s).cycle = s.cycle := by simp [landTraces]
@[simp] theorem snapRecord_cycle (i : Nat) (s : State) : (snapRecord i s).cycle = s.cycle := by simp [snapRecord]

/-! ### Updates of Machine/Staging -/

@[simp] theorem applyInt_cycle (s : State) (k : Nat) (b : List Byte) : (applyInt s k b).cycle = s.cycle := by simp [applyInt]
@[simp] theorem applyAdd_cycle (s : State) (k slot addr : Nat) (ws : List Word32) : (applyAdd s k slot addr ws).cycle = s.cycle := by
  simp [applyAdd]

@[simp] theorem serveIt_cycle (s : State) (k : Nat) (r : Req) (rest : List Req) : (serveIt s k r rest).cycle = s.cycle := rfl
@[simp] theorem refuseReq_cycle (s : State) (k : Nat) (r : Req) (code : Byte) : (refuseReq s k r code).cycle = s.cycle := by
  simp [refuseReq]

@[simp] theorem serveReq_cycle (s : State) (k aop : Nat) (act : State → Req → State) (h : ∀ s r, (act s r).cycle = s.cycle) :
    (serveReq s k aop act).cycle = s.cycle := by
  unfold serveReq
  split <;> simp [h]

@[simp] theorem lineBack_cycle (s : State) (r : Req) (bs : List Byte) : (lineBack s r bs).cycle = s.cycle := rfl
@[simp] theorem answerRead_cycle (s : State) (r : Req) : (answerRead s r).cycle = s.cycle := by
  unfold answerRead
  split <;> simp

@[simp] theorem answerFree_cycle (s : State) (r : Req) : (answerFree s r).cycle = s.cycle := by
  unfold answerFree
  split <;> simp

@[simp] theorem writeStaging_cycle (s : State) (a : Nat) (bs : List Byte) : (writeStaging s a bs).cycle = s.cycle := by
  simp [writeStaging]

@[simp] theorem servePlain_cycle (s : State) (r : Req) : (servePlain s r).cycle = s.cycle := by
  unfold servePlain
  extract_lets n
  split
  · split <;> simp
  · simp

/-! ### Commands -/

/-- The command can happen inside a cycle: the clock does not go on with it. -/
structure InCycle (c : Instr) : Prop where
  cycle : ∀ s, (auto c s).cycle = s.cycle

theorem goOn_next_cycle {s t : State} (h : t.cycle = s.cycle) : (goOn s (.next t)).cycle = s.cycle := h

theorem goOn_within_cycle {s t : State} {n i : Nat} (h : t.cycle = s.cycle) : (goOn s (within n i t)).cycle = s.cycle := by
  unfold within
  split
  · exact h
  · rfl

/-! ### Commands of Machine/Access -/

@[simp] theorem strmStart_inCycle (p d areg e : Nat) : InCycle (.strmStart p d areg e) := by
  refine ⟨fun s => goOn_within_cycle ?_⟩
  split <;> simp

@[simp] theorem strmWait_inCycle (p d e : Nat) : InCycle (.strmWait p d e) := by
  refine ⟨fun s => goOn_within_cycle ?_⟩
  split <;> simp

@[simp] theorem siglApply_inCycle (p : Nat) : InCycle (.siglApply p) := by
  refine ⟨fun s => goOn_within_cycle ?_⟩
  dsimp only
  split <;> simp

/-! ### Commands of Machine/Collective -/

@[simp] theorem localStep_inCycle (ch : Nat) : InCycle (.localStep ch) := by
  refine ⟨fun s => goOn_within_cycle ?_⟩
  dsimp only
  split <;> simp

@[simp] theorem chunkSend_inCycle (ch : Nat) : InCycle (.chunkSend ch) := by
  refine ⟨fun s => goOn_within_cycle ?_⟩
  dsimp only
  split <;> simp

@[simp] theorem coll_inCycle (ch : Nat) : InCycle (.coll ch) := by
  refine ⟨fun s => goOn_within_cycle ?_⟩
  extract_lets c
  split
  · rfl
  · split
    · rfl
    · split
      · rfl
      · split
        · rfl
        · simp only [cycle_ite, chanFail_cycle, setChan_cycle, modChan_cycle, mergeChunk_cycle, fromBuf_cycle, ite_self]

@[simp] theorem credit_inCycle (ch : Nat) : InCycle (.credit ch) := by
  refine ⟨fun s => goOn_within_cycle ?_⟩
  extract_lets c
  split
  · rfl
  · split
    · rfl
    · simp only [cycle_ite, chanFail_cycle, setChan_cycle, ite_self]

@[simp] theorem abortMsg_inCycle (ch : Nat) : InCycle (.abortMsg ch) := by
  refine ⟨fun s => goOn_within_cycle ?_⟩
  extract_lets c
  split
  · rfl
  · split
    · rfl
    · split <;> simp only [cycle_ite, chanFail_cycle, setChan_cycle, modChan_cycle, ite_self]

@[simp] theorem clReduceComplete_inCycle (ch : Nat) : InCycle (.clReduceComplete ch) := by
  refine ⟨fun s => goOn_within_cycle ?_⟩
  dsimp only
  split <;> simp

/-! ### Commands of Machine/Jobs -/

@[simp] theorem jobStart_inCycle (j : Nat) : InCycle (.jobStart j) := by
  refine ⟨fun s => goOn_next_cycle ?_⟩
  split
  · rfl
  · split
    · rfl
    · extract_lets
      rw [forAll_cycle fun _ _ => schedRecord_cycle .., setJob_cycle, forAll_cycle fun _ _ => setPip_cycle ..]

@[simp] theorem jobLoadEnd_inCycle (p : Nat) : InCycle (.jobLoadEnd p) := ⟨fun s => goOn_within_cycle (by simp)⟩
@[simp] theorem streamStart_inCycle (j : Nat) : InCycle (.streamStart j) := by
  refine ⟨fun s => goOn_next_cycle ?_⟩
  split
  · rfl
  · extract_lets ts
    split
    · rfl
    · rw [forAll_cycle fun _ _ => schedRecord_cycle .., forAll_cycle fun _ _ => modPip_cycle .., setJob_cycle]

/-! ### Commands of Machine/Control -/

@[simp] theorem dmaComplete_inCycle (p : Nat) (ch : Bool) : InCycle (.dmaComplete p ch) := by
  refine ⟨fun s => goOn_within_cycle ?_⟩
  split <;> simp

@[simp] theorem pipFinish_inCycle (p : Nat) : InCycle (.pipFinish p) := by
  refine ⟨fun s => goOn_within_cycle ?_⟩
  split <;> simp

@[simp] theorem jobWatchdog_inCycle (p : Nat) (exe : Bool) : InCycle (.jobWatchdog p exe) := ⟨fun s => goOn_within_cycle (by simp)⟩
@[simp] theorem engineWatchdog_inCycle (p : Nat) : InCycle (.engineWatchdog p) := ⟨fun s => goOn_within_cycle (by simp)⟩

/-! ### Commands of Machine/Tensor -/

@[simp] theorem tmmComplete_inCycle (p : Nat) : InCycle (.tmmComplete p) := by
  refine ⟨fun s => goOn_within_cycle ?_⟩
  split <;> simp

@[simp] theorem tmode_inCycle (p d : Nat) (mode : Bool) : InCycle (.tmode p d mode) := ⟨fun s => goOn_within_cycle (by simp)⟩
@[simp] theorem tmodeComplete_inCycle (p : Nat) : InCycle (.tmodeComplete p) := ⟨fun s => goOn_within_cycle (by simp)⟩
@[simp] theorem drainEnd_inCycle (p : Nat) : InCycle (.drainEnd p) := ⟨fun s => goOn_within_cycle (by simp)⟩

/-! ### Commands of Machine/Ring -/

@[simp] theorem ringOpComplete_inCycle (p : Nat) : InCycle (.ringOpComplete p) := ⟨fun s => goOn_within_cycle (by simp)⟩
@[simp] theorem residueCompare_inCycle (pod : Nat) (inverse : Bool) : InCycle (.residueCompare pod inverse) := by
  refine ⟨fun s => goOn_within_cycle ?_⟩
  dsimp only
  split <;> simp

/-! ### Commands of Machine/Mesh -/

@[simp] theorem meshFlitSend_inCycle (p port pos : Nat) : InCycle (.meshFlitSend p port pos) := by
  refine ⟨fun s => goOn_within_cycle ?_⟩
  split
  · rfl
  · split <;> simp

@[simp] theorem meshFlitArrive_inCycle (k : Nat) : InCycle (.meshFlitArrive k) := by
  refine ⟨fun s => goOn_next_cycle ?_⟩
  have hl : (landed s k).cycle = s.cycle := landed_cycle ..
  split
  · exact flitIn_cycle (h := hl) ..
  · exact edgeIn_cycle (h := hl) ..
  · exact (lineIn_cycle ..).trans hl
  · exact wlineIn_cycle (h := hl) ..
  · exact keyIn_cycle (h := hl) ..
  · exact shortIn_cycle (h := hl) ..
  · rfl

@[simp] theorem creditReturn_inCycle (k : Nat) : InCycle (.creditReturn k) := by
  refine ⟨fun s => goOn_next_cycle ?_⟩
  split <;> simp

@[simp] theorem dmaWriterWrite_inCycle (p : Nat) : InCycle (.dmaWriterWrite p) := by
  refine ⟨fun s => goOn_within_cycle ?_⟩
  split <;> simp

@[simp] theorem shortFlitEnter_inCycle (p : Nat) : InCycle (.shortFlitEnter p) := by
  refine ⟨fun s => goOn_within_cycle ?_⟩
  split
  · rfl
  · split <;> simp only [cycle_ite, modPip_cycle, ite_self]

@[simp] theorem shortPathWrite_inCycle (p : Nat) : InCycle (.shortPathWrite p) := by
  refine ⟨fun s => goOn_within_cycle ?_⟩
  dsimp only
  split <;> simp

/-! ### Commands of Machine/EngineRun -/

@[simp] theorem streamRunStart_inCycle (p e : Nat) : InCycle (.streamRunStart p e) := by
  refine ⟨fun s => goOn_within_cycle ?_⟩
  extract_lets q g
  split
  · rfl
  · split
    · rfl
    · split
      · exact refuseRun_cycle ..
      · simp only [cycle_ite, startCopy_cycle, setPip_cycle, ite_self]

@[simp] theorem streamRunComplete_inCycle (p e : Nat) : InCycle (.streamRunComplete p e) := ⟨fun s => goOn_within_cycle (by simp)⟩
@[simp] theorem gset_inCycle (p e : Nat) : InCycle (.gset p e) := ⟨fun s => goOn_within_cycle (by simp)⟩
@[simp] theorem gadd_inCycle (p e : Nat) : InCycle (.gadd p e) := ⟨fun s => goOn_within_cycle (by simp)⟩
@[simp] theorem gmod_inCycle (p e : Nat) : InCycle (.gmod p e) := ⟨fun s => goOn_within_cycle (by simp)⟩
@[simp] theorem gidx_inCycle (p e : Nat) : InCycle (.gidx p e) := by
  refine ⟨fun s => goOn_within_cycle ?_⟩
  split
  · rfl
  · extract_lets h d
    split
    · exact failPip_cycle ..
    · split <;> simp only [cycle_ite, failPip_cycle, onPip_cycle, ite_self]

@[simp] theorem xfer_inCycle (p e : Nat) : InCycle (.xfer p e) := by
  refine ⟨fun s => goOn_within_cycle ?_⟩
  split <;> simp

@[simp] theorem kblk_inCycle (p : Nat) : InCycle (.kblk p) := by
  refine ⟨fun s => goOn_within_cycle ?_⟩
  split <;> simp

@[simp] theorem sput_inCycle (p e : Nat) : InCycle (.sput p e) := by
  refine ⟨fun s => goOn_within_cycle ?_⟩
  split <;> simp

@[simp] theorem waitso_inCycle (p e : Nat) : InCycle (.waitso p e) := by
  refine ⟨fun s => goOn_within_cycle ?_⟩
  split <;> simp

@[simp] theorem dependenceMarkRelease_inCycle (p e : Nat) : InCycle (.dependenceMarkRelease p e) := by
  refine ⟨fun s => goOn_within_cycle ?_⟩
  split <;> simp

@[simp] theorem sigso_inCycle (p e : Nat) : InCycle (.sigso p e) := by
  refine ⟨fun s => goOn_within_cycle ?_⟩
  split
  · rfl
  · split
    · rfl
    · exact engSignal_cycle (h := fun _ => modPip_cycle ..) ..

@[simp] theorem agLoop_inCycle (p e : Nat) : InCycle (.agLoop p e) := ⟨fun s => goOn_within_cycle (by simp)⟩
@[simp] theorem agNop_inCycle (p e : Nat) : InCycle (.agNop p e) := ⟨fun s => goOn_within_cycle (by simp)⟩
@[simp] theorem agEnd_inCycle (p e : Nat) : InCycle (.agEnd p e) := ⟨fun s => goOn_within_cycle (by simp)⟩
@[simp] theorem keyHeaderCheck_inCycle (pod : Nat) : InCycle (.keyHeaderCheck pod) := by
  refine ⟨fun s => goOn_within_cycle ?_⟩
  split
  · simp only [cycle_ite, modPod_cycle, passBlock_cycle, failBlock_cycle, ite_self]
  · rfl

@[simp] theorem keyDrainEnd_inCycle (j : Nat) : InCycle (.keyDrainEnd j) := by
  refine ⟨fun s => goOn_next_cycle ?_⟩
  split <;> simp

/-! ### Commands of Machine/Hbm -/

@[simp] theorem hbmRead_inCycle (k g route : Nat) : InCycle (.hbmRead k g route) := by
  refine ⟨fun s => goOn_within_cycle ?_⟩
  split
  · rfl
  · split <;> simp only [cycle_ite, passIdle_cycle, failReq_cycle, modStack_cycle, serveRead_cycle, ite_self]

@[simp] theorem hbmWrite_inCycle (k g route : Nat) : InCycle (.hbmWrite k g route) := by
  refine ⟨fun s => goOn_within_cycle ?_⟩
  split
  · rfl
  · split <;> simp only [cycle_ite, passIdle_cycle, failReq_cycle, writeAccepted_cycle, modStack_cycle, memWrite_cycle, ite_self]

@[simp] theorem hbmIdle_inCycle (k g : Nat) : InCycle (.hbmIdle k g) := ⟨fun s => goOn_within_cycle (by simp)⟩
@[simp] theorem ref_inCycle (k g : Nat) : InCycle (.ref k g) := ⟨fun s => goOn_within_cycle (by simp)⟩
@[simp] theorem refreshInsert_inCycle (k g : Nat) : InCycle (.refreshInsert k g) := ⟨fun s => goOn_within_cycle (by simp)⟩
@[simp] theorem host_inCycle (k g : Nat) : InCycle (.host k g) := by
  refine ⟨fun s => goOn_within_cycle ?_⟩
  split
  · rfl
  · split
    · rfl
    · rw [serveHost_cycle, modStack_cycle]

@[simp] theorem stageIn_inCycle (k route : Nat) : InCycle (.stageIn k route) := by
  refine ⟨fun s => goOn_within_cycle ?_⟩
  split
  · rfl
  · split <;> simp only [cycle_ite, passIdle_cycle, chanFail_cycle, modChan_cycle, memWrite_cycle, modStack_cycle,
      noteMem_cycle, ite_self]

@[simp] theorem stageOut_inCycle (k route : Nat) : InCycle (.stageOut k route) := by
  refine ⟨fun s => goOn_within_cycle ?_⟩
  split
  · rfl
  · split <;> simp only [cycle_ite, passIdle_cycle, chanFail_cycle, modChan_cycle, memWrite_cycle, modStack_cycle, ite_self]

@[simp] theorem readLineReady_inCycle (k route : Nat) : InCycle (.readLineReady k route) := by
  refine ⟨fun s => goOn_within_cycle ?_⟩
  split
  · rfl
  · split
    · rfl
    · split <;> simp only [cycle_ite, departLine_cycle, modStack_cycle, ite_self]

/-! ### Commands of Machine/Scratchpad -/

@[simp] theorem scrubDone_inCycle (p n : Nat) : InCycle (.scrubDone p n) := ⟨fun s => goOn_within_cycle (by simp)⟩

/-! ### Commands of Machine/Granules -/

@[simp] theorem scrub_inCycle (g : Nat) : InCycle (.scrub g) := by
  refine ⟨fun s => goOn_within_cycle ?_⟩
  split <;> simp

@[simp] theorem granuleZeroed_inCycle (staging : Bool) (g : Nat) : InCycle (.granuleZeroed staging g) :=
  ⟨fun s => goOn_within_cycle (by simp)⟩

/-! ### Commands of Machine/HostPort -/

@[simp] theorem scratchpadWindowAccess_inCycle (p : Nat) : InCycle (.scratchpadWindowAccess p) := by
  refine ⟨fun s => goOn_within_cycle ?_⟩
  split <;> simp

@[simp] theorem windowEscalation_inCycle (p : Nat) : InCycle (.windowEscalation p) := by
  refine ⟨fun s => goOn_within_cycle ?_⟩
  split <;> simp

/-! ### Commands of Machine/Hull -/

@[simp] theorem hullLoadEnd_inCycle (ch : Nat) : InCycle (.hullLoadEnd ch) := ⟨fun s => goOn_within_cycle (by simp)⟩
@[simp] theorem engineTake_inCycle (b : Bool) : InCycle (.engineTake b) := by
  refine ⟨fun s => goOn_next_cycle ?_⟩
  extract_lets waits start
  split
  · split
    · rfl
    · split <;> rfl
  · split
    · rfl
    · split <;> rfl

@[simp] theorem execEnd_inCycle (e : EngineEnd) : InCycle (.execEnd e) :=
  ⟨fun s => goOn_within_cycle (by simp only [cycle_ite, hullAsk_cycle, setHchan_cycle, drbgRequest_cycle, drew_cycle, ite_self])⟩

@[simp] theorem storeEnd_inCycle (ch : Nat) : InCycle (.storeEnd ch) := ⟨fun s => goOn_within_cycle (by simp)⟩
@[simp] theorem wipeEnd_inCycle (ch : Nat) : InCycle (.wipeEnd ch) := ⟨fun s => goOn_within_cycle (by simp)⟩

/-! ### Commands of Machine/Power -/

@[simp] theorem fieldGate_inCycle (f : Nat) : InCycle (.fieldGate f) := ⟨fun s => goOn_within_cycle (by simp)⟩
@[simp] theorem idleExpiry_inCycle (f : Nat) : InCycle (.idleExpiry f) := ⟨fun s => goOn_within_cycle (by simp)⟩
@[simp] theorem vrNack_inCycle (f : Nat) : InCycle (.vrNack f) := by
  refine ⟨fun s => goOn_within_cycle ?_⟩
  extract_lets req _ _ _ t waits u
  have ht : t.cycle = s.cycle := powerRecord_cycle ..
  have hu : u.cycle = s.cycle := by simp only [u, cycle_ite, refuseWaiters_cycle, ht, ite_self]
  clear_value req u t
  split
  · rfl
  · split
    · exact hu
    · exact ht
    · simp only [pendingOff_cycle]
      split <;> simp only [raiseFault_cycle, endJob_cycle, ht]
    · exact (pendingOff_cycle ..).trans ht

@[simp] theorem powerStepIssue_inCycle (j i : Nat) : InCycle (.powerStepIssue j i) := by
  refine ⟨fun s => goOn_next_cycle ?_⟩
  split
  · rfl
  · split
    · rfl
    · simp only [cycle_ite, avsVolt_cycle, modField_cycle, setJob_cycle, ite_self]

@[simp] theorem m1Entry_inCycle : InCycle .m1Entry := ⟨fun s => goOn_next_cycle (by simp)⟩
@[simp] theorem pwrTimer_inCycle : InCycle .pwrTimer := ⟨fun s => goOn_next_cycle (by simp)⟩
@[simp] theorem vinFault_inCycle : InCycle .vinFault := by
  refine ⟨fun s => goOn_next_cycle ?_⟩
  split <;> simp

/-! ### Commands of Machine/Boot -/

@[simp] theorem recoveryIdle_inCycle (n : Nat) : InCycle (.recoveryIdle n) := ⟨fun s => goOn_within_cycle (by simp)⟩
@[simp] theorem weightVerify_inCycle (n : Nat) : InCycle (.weightVerify n) := ⟨fun s => goOn_within_cycle (by simp)⟩
@[simp] theorem reopen_inCycle (n : Nat) : InCycle (.reopen n) := ⟨fun s => goOn_within_cycle (by simp)⟩

/-! ### Commands of Machine/Command -/

@[simp] theorem waitRelease_inCycle (c : Nat) : InCycle (.waitRelease c) := by
  refine ⟨fun s => goOn_within_cycle ?_⟩
  split <;> simp

/-! ### Commands of Machine/Links -/

@[simp] theorem linkPeriod_inCycle : InCycle .linkPeriod := ⟨fun s => goOn_next_cycle (by simp)⟩
@[simp] theorem epochBoundary_inCycle : InCycle .epochBoundary := ⟨fun s => goOn_next_cycle (by simp)⟩
@[simp] theorem linkHold_inCycle (l : Nat) : InCycle (.linkHold l) := ⟨fun s => goOn_within_cycle (by simp)⟩
@[simp] theorem linkDown_inCycle (l : Nat) : InCycle (.linkDown l) := ⟨fun s => goOn_within_cycle (by simp)⟩
@[simp] theorem linkRunTransmit_inCycle (l r : Nat) : InCycle (.linkRunTransmit l r) := by
  refine ⟨fun s => goOn_within_cycle ?_⟩
  dsimp only
  split
  · rfl
  · split <;> simp only [cycle_ite, send_cycle, setLink_cycle, ite_self]

@[simp] theorem data_inCycle (l : Nat) : InCycle (.data l) := by
  refine ⟨fun s => goOn_within_cycle ?_⟩
  dsimp only
  split <;> simp

/-! ### Commands of Machine/Trace -/

@[simp] theorem traceFlitSend_inCycle (p : Nat) : InCycle (.traceFlitSend p) := by
  refine ⟨fun s => goOn_within_cycle ?_⟩
  split <;> simp

@[simp] theorem traceRelay_inCycle (p : Nat) : InCycle (.traceRelay p) := by
  refine ⟨fun s => goOn_within_cycle ?_⟩
  dsimp only
  split <;> simp

@[simp] theorem snapshot_inCycle : InCycle .snapshot := ⟨fun s => goOn_next_cycle (by simp)⟩

/-! ### Commands of Machine/Staging -/

@[simp] theorem stagingAccess_inCycle (k : Nat) : InCycle (.stagingAccess k) := by
  refine ⟨fun s => goOn_within_cycle ?_⟩
  split <;> simp

@[simp] theorem stAdd_inCycle (k : Nat) : InCycle (.stAdd k) := ⟨fun s => goOn_within_cycle (by simp)⟩
@[simp] theorem stSmin_inCycle (k : Nat) : InCycle (.stSmin k) := ⟨fun s => goOn_within_cycle (by simp)⟩
@[simp] theorem stSmax_inCycle (k : Nat) : InCycle (.stSmax k) := ⟨fun s => goOn_within_cycle (by simp)⟩
@[simp] theorem stUmin_inCycle (k : Nat) : InCycle (.stUmin k) := ⟨fun s => goOn_within_cycle (by simp)⟩
@[simp] theorem stUmax_inCycle (k : Nat) : InCycle (.stUmax k) := ⟨fun s => goOn_within_cycle (by simp)⟩
@[simp] theorem stSwap_inCycle (k : Nat) : InCycle (.stSwap k) := ⟨fun s => goOn_within_cycle (by simp)⟩
@[simp] theorem stCas_inCycle (k : Nat) : InCycle (.stCas k) := ⟨fun s => goOn_within_cycle (by simp)⟩
@[simp] theorem stFadd_inCycle (k : Nat) : InCycle (.stFadd k) := ⟨fun s => goOn_within_cycle (by simp)⟩
@[simp] theorem faddHeldApply_inCycle (k slot : Nat) : InCycle (.faddHeldApply k slot) := by
  refine ⟨fun s => goOn_within_cycle ?_⟩
  split <;> simp

@[simp] theorem ordset_inCycle (k : Nat) : InCycle (.ordset k) :=
  ⟨fun _ => goOn_within_cycle (serveReq_cycle (h := fun _ _ => modStack_cycle ..) ..)⟩

/-! ### Issue -/

theorem IssuesBy.inCycle {p : Nat} {x : Bool} {i : Instr} (h : IssuesBy p x i) : InCycle i := by
  refine ⟨fun s => ?_⟩
  obtain ⟨act, hact⟩ := h s
  unfold auto
  rw [hact]
  exact goOn_within_cycle (issueBy_cycle ..)

/-- What a stream reads can happen inside a cycle. -/
theorem readInstr_inCycle {s : State} {p : Nat} {x : Bool} {i : Instr} (h : readInstr s p x = some i) : InCycle i := by
  unfold readInstr at h
  split at h
  · cases h
  · cases x
    · rcases decodeAcc_issuesBy h with hi | ⟨d, a, e, rfl⟩ | ⟨d, e, rfl⟩
      · exact hi.inCycle
      · exact strmStart_inCycle ..
      · exact strmWait_inCycle ..
    · rcases decodeExe_issuesBy h with hi | ⟨d, m, rfl⟩
      · exact hi.inCycle
      · exact tmode_inCycle ..

/-! ### The clock and the queue

A pip cycle is many commands and a few updates of its own; each keeps both. -/

/-- The clock and the commands that wait. -/
def State.clock (s : State) : Nat × List Instr := (s.cycle, s.pending)

theorem clock_eq {s t : State} (hc : t.cycle = s.cycle) (hp : t.pending = s.pending) : t.clock = s.clock :=
  Prod.ext hc hp

@[simp] theorem clock_ite {c : Prop} [Decidable c] (s t : State) : (if c then s else t).clock = if c then s.clock else t.clock :=
  apply_ite ..

@[simp] theorem forAll_clock {α : Type} {f : α → State → State} (h : ∀ a s, (f a s).clock = s.clock) (l : List α) (s : State) :
    (forAll l f s).clock = s.clock :=
  forAll_keeps State.clock h l s

theorem auto_pending (c : Instr) (s : State) : (auto c s).pending = s.pending := by
  have h := (exec_keepsQueue c s).pending
  unfold auto goOn
  split
  next t ht => exact h t ht
  · rfl

@[simp] theorem auto_clock {c : Instr} (h : InCycle c) (s : State) : (auto c s).clock = s.clock :=
  clock_eq (h.cycle s) (auto_pending c s)

@[simp] theorem autos_clock {l : List Instr} (h : ∀ c ∈ l, InCycle c) (s : State) : (autos l s).clock = s.clock :=
  forAll_keeps_mem State.clock l (fun c hc => auto_clock (h c hc)) s

@[simp] theorem autos_map_clock {α : Type} {f : α → Instr} (h : ∀ a, InCycle (f a)) (l : List α) (s : State) :
    (autos (l.map f) s).clock = s.clock :=
  autos_clock (List.forall_mem_map.2 fun a _ => h a) s

@[simp] theorem autos_flatMap_clock {α : Type} {f : α → List Instr} (h : ∀ a, ∀ c ∈ f a, InCycle c) (l : List α) (s : State) :
    (autos (l.flatMap f) s).clock = s.clock :=
  autos_clock (List.forall_mem_flatMap.2 fun a _ => h a) s

@[simp] theorem setPip_clock (s : State) (p : Nat) (q : PipSt) : (setPip s p q).clock = s.clock := rfl

@[simp] theorem setStack_clock (s : State) (k : Nat) (v : StackSt) : (setStack s k v).clock = s.clock := rfl

@[simp] theorem onPip_clock (s : State) (p : Nat) (f : PipSt → PRes) : (onPip s p f).clock = s.clock :=
  clock_eq (onPip_cycle ..) (onPip_pending ..)

/-! ### The parts of a cycle -/

@[simp] theorem tryIssue_clock (p : Nat) (x : Bool) (s : State) : (tryIssue p x s).clock = s.clock := by
  unfold tryIssue
  split
  · split
    next i hi => exact auto_clock (readInstr_inCycle hi) s
    · rfl
  · rfl

@[simp] theorem streamsAct_clock (p : Nat) (s : State) : (streamsAct p s).clock = s.clock := by simp [streamsAct]

@[simp] theorem agRow_inCycle (p e : Nat) (g : Engine) : InCycle (agRow p e g) := by
  unfold agRow
  split
  case h_8 => split <;> simp
  all_goals simp

@[simp] theorem engineAct_clock (p e : Nat) (s : State) : (engineAct p e s).clock = s.clock := by simp [engineAct]

@[simp] theorem scrubAct_clock (p : Nat) (s : State) : (scrubAct p s).clock = s.clock := by simp [scrubAct]

@[simp] theorem banksAct_clock (p : Nat) (s : State) : (banksAct p s).clock = s.clock := by simp [banksAct]

theorem tmodeComplete_clock (p : Nat) (s : State) : (goOn s (execTmodeComplete p s)).clock = s.clock :=
  auto_clock (tmodeComplete_inCycle p) s

@[simp] theorem completionsAct_clock (p : Nat) (s : State) : (completionsAct p s).clock = s.clock := by
  simp [completionsAct, tmodeComplete_clock]

@[simp] theorem sendsAct_clock (p : Nat) (s : State) : (sendsAct p s).clock = s.clock :=
  autos_clock (by simp [or_imp, forall_and]) s

theorem entryRow_inCycle {k g e : Nat} {i : Instr} (h : entryRow k g e = some i) : InCycle i := by
  unfold entryRow at h
  split at h
  all_goals cases h
  all_goals simp

@[simp] theorem idleScrub_clock (s : State) (k g : Nat) : (idleScrub s k g).clock = s.clock := by simp [idleScrub]

@[simp] theorem entryAct_clock (k g : Nat) (s : State) : (entryAct k g s).clock = s.clock := by
  unfold entryAct
  dsimp only
  split
  · rfl
  · split
    next i hi => exact auto_clock (entryRow_inCycle hi) s
    · split <;> simp

@[simp] theorem groupsAct_clock (k : Nat) (s : State) : (groupsAct k s).clock = s.clock := by simp [groupsAct]

@[simp] theorem accessRow_inCycle (k : Nat) (r : Req) : InCycle (accessRow k r) := by
  unfold accessRow
  split
  · simp
  · split <;> simp

@[simp] theorem accessesAct_clock (k n : Nat) (s : State) : (accessesAct k n s).clock = s.clock := by
  induction n generalizing s with
  | zero => rfl
  | succ n ih =>
    unfold accessesAct
    split
    · exact (ih _).trans (auto_clock (accessRow_inCycle ..) s)
    · rfl

@[simp] theorem stackAct_clock (k : Nat) (s : State) : (stackAct k s).clock = s.clock := by
  unfold stackAct
  dsimp only
  split <;> simp

@[simp] theorem zeroStaging_clock (g : Nat) (s : State) : (zeroStaging g s).clock = s.clock := by
  unfold zeroStaging
  extract_lets v n bank t
  split
  · rfl
  · have hc : t.cycle = s.cycle := (modStack_cycle ..).trans (memWrite_cycle ..)
    have hp : t.pending = s.pending := (modStack_pending ..).trans (memWrite_pending ..)
    exact clock_eq ((setGran_cycle ..).trans hc) ((setGran_pending ..).trans hp)

@[simp] theorem zeroingAct_clock (s : State) : (zeroingAct s).clock = s.clock := by
  unfold zeroingAct
  extract_lets g t
  have ht : t.clock = s.clock := forAll_clock zeroStaging_clock _ s
  refine (autos_clock (List.forall_mem_append.2 ⟨?_, ?_⟩) t).trans ht
  · exact List.forall_mem_map.2 fun g _ => granuleZeroed_inCycle false g
  · exact List.forall_mem_map.2 fun g _ => granuleZeroed_inCycle true g

@[simp] theorem copyLine_clock (k : Cmd) (s : State) : (copyLine k s).clock = s.clock :=
  clock_eq (by simp [copyLine]) (by simp [copyLine])

@[simp] theorem chanAct_clock (ch : Nat) (s : State) : (chanAct ch s).clock = s.clock := by simp [chanAct]

@[simp] theorem trainingRestart_inCycle (l : Nat) : InCycle (.trainingRestart l) := ⟨fun _ => goOn_within_cycle rfl⟩

@[simp] theorem wiringRetry_inCycle (l : Nat) : InCycle (.wiringRetry l) := ⟨fun _ => goOn_within_cycle rfl⟩

@[simp] theorem reservedAct_clock (j l : Nat) (s : State) : (reservedAct j l s).clock = s.clock := by
  unfold reservedAct
  dsimp only
  split
  · rfl
  · split
    · split <;> rfl
    · split
      · rfl
      · split <;> rfl

@[simp] theorem linksAct_clock (s : State) : (linksAct s).clock = s.clock := by
  unfold linksAct
  dsimp only
  split
  · simp
  · rw [forAll_clock (by simp)]
    exact (forAll_clock (by simp) ..).trans (autos_clock (by simp) s)

@[simp] theorem hullAct_clock (s : State) : (hullAct s).clock = s.clock := by
  refine autos_clock (fun c hc => ?_) s
  split at hc
  · cases hc
  · simp only [List.cons_append, List.nil_append, List.mem_cons, List.mem_flatMap, List.not_mem_nil, or_false] at hc
    rcases hc with rfl | rfl | ⟨ch, -, rfl | rfl | rfl | rfl⟩ <;> simp

theorem recoveryWindowEnd_inCycle (n : Nat) : InCycle (.recoveryWindowEnd n) := ⟨fun _ => goOn_within_cycle rfl⟩

@[simp] theorem recoveryAct_clock (n : Nat) (s : State) : (recoveryAct n s).clock = s.clock := by
  unfold recoveryAct
  dsimp only
  refine (auto_clock (recoveryWindowEnd_inCycle n) _).trans ?_
  split
  · refine (auto_clock (reopen_inCycle n) _).trans ?_
    exact (auto_clock (weightVerify_inCycle n) _).trans (auto_clock (recoveryIdle_inCycle n) s)
  · rfl

@[simp] theorem powerAct_clock (s : State) : (powerAct s).clock = s.clock := by
  unfold powerAct
  extract_lets t u steps v
  have ht : t.clock = s.clock := autos_clock (by simp) s
  have hu : u.clock = s.clock := (forAll_clock (by simp) _ t).trans ht
  have hv : v.clock = s.clock := by simp [v, steps, hu]
  exact (forAll_clock recoveryAct_clock _ v).trans hv

@[simp] theorem traceAct_clock (s : State) : (traceAct s).clock = s.clock := by
  have hsend (s : State) := forAll_clock (fun p s => auto_clock (traceFlitSend_inCycle p) s) (s.trc.egress.map (·.1)) s
  have hrelay (s : State) := forAll_clock (fun p s => auto_clock (traceRelay_inCycle p) s) (s.trc.relay.map (·.1)) s
  unfold traceAct
  dsimp only
  split
  · exact (hrelay _).trans (hsend s)
  · exact (auto_clock snapshot_inCycle _).trans ((hrelay _).trans (hsend s))

@[simp] theorem applyLate_clock (s : State) : (applyLate s).clock = s.clock :=
  forAll_clock (fun _ s => by split <;> rfl) _ s

/-! ### The cycle -/

@[simp] theorem cycleWork_clock (s : State) : (cycleWork s).clock = s.clock := by
  unfold cycleWork
  extract_lets s1 s2 s3 s4 s5 s6 s7 s8 s9 s10 s11 s12
  have h1 : s1.clock = s.clock := forAll_clock streamsAct_clock _ s
  have h2 : s2.clock = s.clock := (forAll_clock banksAct_clock _ s1).trans h1
  have h3 : s3.clock = s.clock := (forAll_clock completionsAct_clock _ s2).trans h2
  have h4 : s4.clock = s.clock := (forAll_clock sendsAct_clock _ s3).trans h3
  have h5 : s5.clock = s.clock := by simp only [s5, clock_ite, forAll_clock groupsAct_clock, h4, ite_self]
  have h6 : s6.clock = s.clock := (zeroingAct_clock _).trans ((forAll_clock stackAct_clock _ s5).trans h5)
  have h7 : s7.clock = s.clock := (forAll_clock copyLine_clock _ s6).trans h6
  have h8 : s8.clock = s.clock := by simp [s8, h7]
  have h9 : s9.clock = s.clock := (forAll_clock chanAct_clock _ s8).trans h8
  have h10 : s10.clock = s.clock := by simp [s10, h9]
  have h11 : s11.clock = s.clock := by simp [s11, h10]
  have h12 : s12.clock = s.clock := by simp [s12, h11]
  exact (applyLate_clock s12).trans h12

@[simp] theorem testMark_clock (s : State) (p e : Nat) : (testMark s p e).clock = s.clock := by simp [testMark]

@[simp] theorem testWaits_clock (s : State) : (testWaits s).clock = s.clock := rfl

theorem endCycle_clock (s : State) : (endCycle s).clock = (s.cycle + 1, s.pending) := by
  have h : ∀ t : State, t.clock = s.clock → ({ t with adds := [], cycle := t.cycle + 1 } : State).clock = (s.cycle + 1, s.pending) :=
    fun t ht => Prod.ext (congrArg (·.1 + 1) ht) (congrArg (·.2) ht)
  unfold endCycle
  extract_lets s1 s2 s3
  have h1 : s1.clock = s.clock := forAll_clock (fun _ _ => setPip_clock ..) _ s
  have h2 : s2.clock = s.clock := by simp [s2, h1]
  have h3 : s3.clock = s.clock := (forAll_clock (fun _ _ => setStack_clock ..) _ s2).trans h2
  exact h s3 h3

@[simp] theorem arrivals_clock (s : State) : (arrivals s).clock = s.clock := by
  refine forAll_clock (fun f s => ?_) _ s
  split <;> simp

@[simp] theorem landTraces_clock (s : State) : (landTraces s).clock = s.clock :=
  clock_eq (landTraces_cycle s) (landTraces_pending s)

@[simp] theorem firstUsers_clock (p : Nat) (s : State) : (firstUsers p s).clock = s.clock := by simp [firstUsers]

@[simp] theorem beginCycle_clock (s : State) : (beginCycle s).clock = s.clock := by
  unfold beginCycle
  extract_lets s1 s2 s3 s4 s5 s6
  have h1 : s1.clock = s.clock :=
    (landTraces_clock _).trans ((arrivals_clock _).trans (forAll_clock (fun _ _ => setPip_clock ..) _ s))
  have h2 : s2.clock = s.clock := (forAll_clock (fun _ _ => setPip_clock ..) _ s1).trans h1
  have h3 : s3.clock = s.clock := by simp [s3, h2]
  have h4 : s4.clock = s.clock := by simp [s4, h3]
  have h5 : s5.clock = s.clock := by simp [s5, h4]
  have h6 : s6.clock = s.clock := by simp [s6, h5]
  simp [h6]

/-- A pip cycle moves the clock by one and leaves the queue as it was. -/
theorem tick_clock (s : State) : (tick s).clock = (s.cycle + 1, s.pending) := by
  obtain ⟨hc, hp⟩ := Prod.mk.inj (cycleWork_clock s)
  rw [tick, beginCycle_clock, endCycle_clock, hc, hp]

end Sys2Proof.Machine
end

section
open Sys2Proof Sys2Proof.Machine

/-- Settles O57: the step is defined by the queue's two forms, and all that a cycle does of itself keeps the clock and the queue but its
end, which adds one to the clock (`tick_clock`). -/
theorem stepRunsTheFrontCommand : Obligations.StepRunsTheFrontCommand := by
  intro s c rest
  obtain ⟨hc, hp⟩ := Prod.mk.inj (tick_clock { s with pending := [] })
  exact ⟨step_cons s c rest, _, step_nil _ rfl, rfl, hc, hp⟩

end

/-! ## Regions, scrubbing and watch counters (O28) -/

namespace Sys2Proof.Machine

/-! ### Owners of granules -/

/-- Entries of one value at the indices of a list read back. -/
theorem get_foldl_set {α : Type} [DecidableEq α] (d v : α) (l : List Nat) (t : Tab α) (i : Nat) :
    Tab.get d (l.foldl (fun t g => Tab.set d t g v) t) i = if i ∈ l then v else Tab.get d t i := by
  induction l generalizing t with
  | nil => simp
  | cons g l ih =>
    rw [List.foldl_cons, ih, Tab.get_set]
    by_cases hl : i ∈ l <;> by_cases hg : i = g <;> simp [hl, hg]

theorem ownAll_owns (sp : Scratch) (r : Region) {g : Nat} (h : g ∈ granulesOf r) :
    Tab.get .none (ownAll sp r).owners g = .ctx r.ctx := (get_foldl_set ..).trans (if_pos h)

/-! ### PIP_REGION -/

/-- The entry that a write leaves: it is scrubbed first if it is VALID and one of its granules asks for it (R139). -/
def writtenRegion (sp : Scratch) (r : Region) : Region :=
  { r with scrub := r.valid && decide (∃ g ∈ granulesOf r, mustScrub sp r.ctx g = true) }

/-- The scratchpad with an entry written: one in force at once owns its granules (R138, R139). -/
def withRegion (sp : Scratch) (n : Nat) (r : Region) : Scratch :=
  let u := { sp with regions := Tab.set {} sp.regions n (writtenRegion sp r) }
  if r.valid && !(writtenRegion sp r).scrub then ownAll u r else u

theorem withRegion_regions (sp : Scratch) (n : Nat) (r : Region) :
    (withRegion sp n r).regions = Tab.set {} sp.regions n (writtenRegion sp r) := by
  unfold withRegion
  dsimp only
  split <;> rfl

/-- A write of an entry changes entries and owners alone. -/
theorem withRegion_eq (sp : Scratch) (n : Nat) (r : Region) :
    withRegion sp n r = { sp with regions := (withRegion sp n r).regions, owners := (withRegion sp n r).owners } := by
  unfold withRegion
  dsimp only
  split <;> rfl

section
variable {s : State} {p n v : Nat} {w : Writer} (hp : p < 10240)
include hp

theorem pipRegion_unprivileged (h : mgmtOnly s w = false) : exec (.pipRegion w p n v) s = .next s := by
  show execPipRegion w p n v s = _
  unfold execPipRegion
  rw [within_lt _ hp]
  exact congrArg Host.Outcome.next (if_pos (by simp [h]))

variable (hw : mgmtOnly s w = true) (hn : n < 16)
include hw hn

/-- A write by the management host is refused, finds the entry VALID as it writes it, or takes effect (R138). -/
theorem exec_pipRegion : exec (.pipRegion w p n v) s = .next
    (if regionBad (pipOf s p).sp n (regionOf v) then setPip s p { pipOf s p with st := { (pipOf s p).st with regErr := true } }
     else if (Tab.get {} (pipOf s p).sp.regions n).valid && (regionOf v).valid then s
     else setPip s p { pipOf s p with sp := withRegion (pipOf s p).sp n (regionOf v) }) := by
  have hdirty : (writtenRegion (pipOf s p).sp (regionOf v)).scrub =
      ((regionOf v).valid && (granulesOf (regionOf v)).any (mustScrub (pipOf s p).sp (regionOf v).ctx)) := by
    unfold writtenRegion
    rw [List.any_eq]
  have hregion : writtenRegion (pipOf s p).sp (regionOf v) =
      { regionOf v with scrub := (writtenRegion (pipOf s p).sp (regionOf v)).scrub } := rfl
  show execPipRegion w p n v s = _
  unfold execPipRegion withRegion
  rw [within_lt _ hp, hregion, hdirty]
  exact congrArg Host.Outcome.next (if_neg (by simp [hw, hn]))

theorem pipRegion_bad (hb : regionBad (pipOf s p).sp n (regionOf v) = true) : exec (.pipRegion w p n v) s =
    .next (setPip s p { pipOf s p with st := { (pipOf s p).st with regErr := true } }) := by
  rw [exec_pipRegion hp hw hn, if_pos hb]

variable (hb : regionBad (pipOf s p).sp n (regionOf v) = false)
include hb

theorem pipRegion_again (hold : (Tab.get {} (pipOf s p).sp.regions n).valid = true) (hnew : (regionOf v).valid = true) :
    exec (.pipRegion w p n v) s = .next s := by
  rw [exec_pipRegion hp hw hn, if_neg (by simp [hb]), if_pos (by simp [hold, hnew])]

theorem pipRegion_writes (h : ((Tab.get {} (pipOf s p).sp.regions n).valid && (regionOf v).valid) = false) :
    exec (.pipRegion w p n v) s = .next (setPip s p { pipOf s p with sp := withRegion (pipOf s p).sp n (regionOf v) }) := by
  rw [exec_pipRegion hp hw hn, if_neg (by simp [hb]), h, if_neg Bool.false_ne_true]

end

/-! ### Scrubbing -/

/-- Zeros in a range of bytes, and every other byte as before. -/
theorem get_zeroRange (t : Tab Byte) (a n b : Nat) :
    Tab.get 0 (zeroRange t a n) b = if a ≤ b ∧ b < a + n then 0 else Tab.get 0 t b := by
  induction t with
  | nil => simp [zeroRange]
  | cons e t ih =>
    unfold zeroRange at ih ⊢
    by_cases he : a ≤ e.1 ∧ e.1 < a + n
    · rw [List.filter_cons_of_neg (by simp; omega), ih]
      split
      · rfl
      · next hb => exact (if_neg fun h : b = e.1 => hb (h ▸ he)).symm
    · rw [List.filter_cons_of_pos (by simp; omega)]
      simp only [Tab.get, ih]
      by_cases hb : b = e.1
      · rw [if_pos hb, if_pos hb, if_neg (hb ▸ he)]
      · rw [if_neg hb, if_neg hb]

/-- The next line that the scrubbing of an entry writes. -/
def nextLine (sp : Scratch) (r : Region) : Nat := 32 * nth (toScrub sp r) (r.zeroed / 32) 0 + r.zeroed % 32

theorem scrubLine_free {q : PipSt} {n : Nat} {r : Region} (hr : Tab.get {} q.sp.regions n = r) (hv : r.valid = true) (hs : r.scrub = true)
    (hleft : r.zeroed < 32 * (toScrub q.sp r).length) (hfree : q.cyc.banks.contains (bankOf (128 * nextLine q.sp r)) = false) :
    scrubLine q n = { takeBank q ((128 * nextLine q.sp r : Nat) : Int) with
      sp := { zeroLine q.sp (nextLine q.sp r) with regions := Tab.set {} q.sp.regions n { r with zeroed := r.zeroed + 1 } } } := by
  subst hr
  unfold nextLine at hfree
  exact if_neg (by rw [hv, hs, hfree]; simp [hleft])

section
variable {s : State} {p n : Nat} {r : Region} (hp : p < 10240) (hr : Tab.get {} (pipOf s p).sp.regions n = r) (hv : r.valid = true)
  (hs : r.scrub = true) (hawake : syncReady s (256 * fieldOfPip p) = true)
include hp hr hv hs hawake

/-- Scrubbing in an awake field ends once every line is zero, and not before (R139, R143). -/
theorem exec_scrubDone : exec (.scrubDone p n) s = .next
    (if r.zeroed < 32 * (toScrub (pipOf s p).sp r).length then s
     else setPip s p { pipOf s p with
      sp := ownAll { (pipOf s p).sp with regions := Tab.set {} (pipOf s p).sp.regions n { r with scrub := false, zeroed := 0 } } r }) := by
  subst hr
  show execScrubDone p n s = _
  unfold execScrubDone
  rw [within_lt _ hp]
  exact congrArg Host.Outcome.next ((if_neg (by simp [hv, hs])).trans (if_neg (by simp [hawake])))

theorem scrubDone_early (hleft : r.zeroed < 32 * (toScrub (pipOf s p).sp r).length) : exec (.scrubDone p n) s = .next s := by
  rw [exec_scrubDone hp hr hv hs hawake, if_pos hleft]

theorem scrubDone_enforces (hdone : 32 * (toScrub (pipOf s p).sp r).length ≤ r.zeroed) :
    exec (.scrubDone p n) s = .next (setPip s p { pipOf s p with
      sp := ownAll { (pipOf s p).sp with regions := Tab.set {} (pipOf s p).sp.regions n { r with scrub := false, zeroed := 0 } } r }) := by
  rw [exec_scrubDone hp hr hv hs hawake, if_neg (Nat.not_lt.mpr hdone)]

end

end Sys2Proof.Machine

section
open Sys2Proof Sys2Proof.Machine

/-- Settles O28: each clause of a write or of SCRUB_DONE is one branch of it; a line is zeroed by taking its bytes off the table. -/
theorem regions : Obligations.Regions := by
  intro s p n hp
  refine ⟨fun w v hw hn => ⟨fun hb => ⟨_, pipRegion_bad hp hw hn hb, rfl⟩,
      fun hb hold hnew => ⟨_, pipRegion_again hp hw hn hb hold hnew, rfl⟩, fun hb h => ⟨_, pipRegion_writes hp hw hn hb h, ?_⟩⟩,
    fun w v hw => ⟨_, pipRegion_unprivileged hp hw, rfl⟩,
    fun hv hs hawake => ⟨fun hdone => ⟨_, scrubDone_enforces hp rfl hv hs hawake hdone, ?_⟩,
      fun hleft => ⟨_, scrubDone_early hp rfl hv hs hawake hleft, rfl⟩⟩,
    fun hv hs hleft hfree => ?_, fun w => ⟨_, within_lt _ hp, ?_⟩⟩
  · dsimp only
    rw [pipOf_setPip_same]
    refine ⟨by rw [← withRegion_eq], ?_, fun k hk => ?_⟩
    · rw [withRegion_regions, Tab.get_set_same]; rfl
    · rw [withRegion_regions, Tab.get_set_other _ _ _ hk]
  · dsimp only
    rw [pipOf_setPip_same]
    exact ⟨rfl, Tab.get_set_same .., rfl, fun g hg => ownAll_owns _ _ hg⟩
  · rw [scrubLine_free rfl hv hs hleft hfree]
    refine ⟨fun b => ?_, Tab.get_set_same .., rfl, rfl⟩
    refine (get_zeroRange ..).trans (if_congr ?_ rfl rfl)
    unfold nextLine
    omega
  · dsimp only
    rw [modPip_eq, pipOf_setPip_same]
    exact ⟨rfl, fun h => Tab.get_set {} (pipOf s p).watch (pipOf s p).st.watchSel h {}⟩

end

/-! ## The start and the completion of an engine run (O29) -/

namespace Sys2Proof.Machine

/-! ### What a copy leaves -/

/-- A pip beside its scratchpad, and the counters and the status that a read notes. -/
def PipSt.besidePad (q : PipSt) : PipSt := { q with sp := {}, cnt := {}, st := {} }

/-- A part of an operation that changes nothing else of its pip. -/
def PRes.OnlyPad (q : PipSt) (r : PRes) : Prop := r.p.besidePad = q.besidePad

theorem onlyPad_andThen {q : PipSt} {r : PRes} {f : PipSt → PRes} (h : r.OnlyPad q) (hf : ∀ p, (f p).OnlyPad p) :
    (r.andThen f).OnlyPad q := by
  unfold PRes.andThen
  split
  · exact h
  · exact (hf _).trans h

theorem readAt_onlyPad (q : PipSt) (g a n : Nat) : (readAt q g a n).2.OnlyPad q := by
  obtain ⟨hnotes, -⟩ := readWords_onlyNotes (placesOf g a n) q
  exact (congrArg PipSt.besidePad hnotes :)

theorem copyRead_onlyPad (q : PipSt) (d : BitVec 512) (i : Nat) : (copyRead q d i).2.OnlyPad q := by
  unfold copyRead
  split
  · rfl
  · split
    · exact readAt_onlyPad ..
    · rfl

theorem copyStore_onlyPad (q : PipSt) (d : BitVec 512) (a : Int) (bs : List Byte) : (copyStore q d a bs).OnlyPad q := by
  unfold copyStore
  split <;> rfl

theorem copyLines_onlyPad (s d : BitVec 512) (l : List Nat) (q : PipSt) : (copyLines s d l q).OnlyPad q := by
  induction l generalizing q with
  | nil => rfl
  | cons i is ih =>
    refine onlyPad_andThen (onlyPad_andThen (copyRead_onlyPad ..) fun p => ?_) ih
    split
    · rfl
    · exact copyStore_onlyPad ..

theorem copyGroup_onlyPad (s : BitVec 512) (l : List Nat) (q : PipSt) : (copyGroup s l q).2.OnlyPad q := by
  induction l generalizing q with
  | nil => rfl
  | cons i is ih =>
    have hread := copyRead_onlyPad q s i
    unfold copyGroup
    dsimp only
    split
    · exact hread
    · exact (ih _).trans hread

theorem copyPut_onlyPad (d : BitVec 512) (l : List (Nat × List Byte)) (q : PipSt) : (copyPut d l q).OnlyPad q := by
  induction l generalizing q with
  | nil => rfl
  | cons x l ih =>
    refine onlyPad_andThen ?_ ih
    split
    · rfl
    · exact copyStore_onlyPad ..

theorem copyTranslate_onlyPad (s d : BitVec 512) (l : List (List Nat)) (q : PipSt) : (copyTranslate s d l q).OnlyPad q := by
  induction l generalizing q with
  | nil => rfl
  | cons g gs ih => exact onlyPad_andThen (onlyPad_andThen (copyGroup_onlyPad ..) (copyPut_onlyPad d _)) ih

/-- Parts made one after another for the members of a list. -/
theorem onlyPad_foldl {α : Type} {q : PipSt} {f : α → PipSt → PRes} (hf : ∀ a p, (f a p).OnlyPad p) (l : List α) {r : PRes}
    (h : r.OnlyPad q) : (l.foldl (fun r a => r.andThen (f a)) r).OnlyPad q := by
  induction l generalizing r with
  | nil => exact h
  | cons a l ih => exact ih (onlyPad_andThen h (hf a))

theorem copyTranspose_onlyPad (s d : BitVec 512) (l : List Nat) (q : PipSt) : (copyTranspose s d l q).OnlyPad q := by
  induction l generalizing q with
  | nil => rfl
  | cons b bs ih =>
    refine onlyPad_andThen (onlyPad_andThen (copyGroup_onlyPad ..) fun p => onlyPad_foldl (fun c p => ?_) _ rfl) ih
    dsimp only
    split
    · rfl
    · exact copyStore_onlyPad ..

/-- A copy moves bytes of the scratchpad, and its reads are noted; the rest of the pip is as before (R160). -/
theorem runCopy_onlyPad (q : PipSt) (s d : BitVec 512) : (runCopy q s d).OnlyPad q := by
  unfold runCopy
  dsimp only
  split
  · exact copyTranslate_onlyPad ..
  · exact copyLines_onlyPad ..
  · exact copyTranspose_onlyPad ..

/-! ### STREAM_RUN_START -/

theorem andThen_done {r : PRes} (hgoes : r.fail = none) (hfx : r.fx = []) (f : PipSt → PipSt) :
    r.andThen (fun q => done (f q)) = done (f r.p) := by
  unfold PRes.andThen
  rw [hgoes, hfx]
  rfl

theorem runningJob_of {s : State} {p : Nat} {j : Job} (hj : jobOfPip s p = some j) (hr : j.phase = .running) :
    runningJob s p = some j := by
  unfold runningJob
  rw [hj]
  exact if_pos hr

/-- Engine `e` of the pip of a running job holds the whole record of a new run, and the cycle of its first action has come (R250, R253). -/
structure RunDue (s : State) (p e : Nat) (g : Engine) (j : Job) : Prop where
  pip : p < 10240
  eng : e ≤ 4
  holds : engOf (pipOf s p) e = g
  running : g.running = true
  job : jobOfPip s p = some j
  phase : j.phase = .running
  fresh : g.started = false
  record : g.recLeft = 0
  due : g.firstAt ≤ s.cycle

section
variable {s : State} {p e : Nat} {g : Engine} {j : Job} (h : RunDue s p e g j)
include h

/-- A run that is due is checked, and starts by its form if the check finds nothing (R252). -/
theorem exec_streamRunStart : exec (.streamRunStart p e) s = .next
    (match recCheck (latchedView (pipOf s p) g) g.record e (jobKind j).isSome s.mod.agDis with
     | some c => refuseRun s p e c
     | none => if recForm g.record = 2 then startCopy s p e else setPip s p (setEng (pipOf s p) e (beginRun g s.cycle))) := by
  obtain ⟨hp, he, rfl, hrun, hj, hphase, hnew, hrec, hat⟩ := h
  show execStreamRunStart p e s = _
  unfold execStreamRunStart
  rw [within_lt _ hp, runningJob_of hj hphase]
  exact congrArg Host.Outcome.next (if_neg (by simp [hrun, hnew, hrec]; omega))

theorem streamRunStart_refused {c : Nat × Byte}
    (hc : recCheck (latchedView (pipOf s p) g) g.record e (jobKind j).isSome s.mod.agDis = some c) :
    exec (.streamRunStart p e) s = .next (refuseRun s p e c) := by
  rw [exec_streamRunStart h, hc]

variable (hc : recCheck (latchedView (pipOf s p) g) g.record e (jobKind j).isSome s.mod.agDis = none)
include hc

/-- A descriptor form and a program begin (R253, R254). -/
theorem streamRunStart_begins (hf : recForm g.record ≠ 2) :
    exec (.streamRunStart p e) s = .next (setPip s p (setEng (pipOf s p) e (beginRun g s.cycle))) := by
  rw [exec_streamRunStart h, hc]
  exact congrArg Host.Outcome.next (if_neg hf)

theorem streamRunStart_copies (hf : recForm g.record = 2) : exec (.streamRunStart p e) s = .next (startCopy s p e) := by
  rw [exec_streamRunStart h, hc]
  exact congrArg Host.Outcome.next (if_pos hf)

end

theorem beginRun_desc {g : Engine} (c : Nat) (hf : recForm g.record = 0) : beginRun g c = { g with
    started := true, ending := true, pc := 0, loops := [], pos := 0, ipos := 0, marked := false, actAt := c,
    todo := [{ left := recTotal g.record, desc := true : LineJob }] } := by
  unfold beginRun
  simp [hf]

theorem beginRun_program {g : Engine} (c : Nat) (hf : recForm g.record = 1) : beginRun g c = { g with
    started := true, ending := false, pc := 0, loops := [], pos := 0, ipos := 0, marked := false, actAt := c, todo := [] } := by
  unfold beginRun
  simp [hf]

/-- The engine of a copy of a source to a destination from cycle `c` on: it has nothing left but to be busy (log 45). -/
def copying (g : Engine) (c : Nat) (src dst : BitVec 512) : Engine :=
  { g with started := true, ending := true, busyTo := c + copySteps src (copyKind src dst) }

/-- A copy that nothing holds and that meets no failure is made whole, and its lines are counted. -/
theorem startCopy_copies {s : State} {p e : Nat} {g : Engine} (hg : engOf (pipOf s p) e = g)
    (hx : ∀ x ∈ (pipOf s p).ops.xfers, transposes x = false) (hfree : copyRuns (pipOf s p) = false) {src dst : BitVec 512}
    (hsrc : Tab.get 0 g.descs (recHandle g.record) = src) (hdst : Tab.get 0 g.descs (recHandle2 g.record) = dst) {r : PRes}
    (hr : runCopy (setEng (pipOf s p) e (copying g s.cycle src dst)) src dst = r) (hgoes : r.fail = none) (hfx : r.fx = []) :
    startCopy s p e = setPip s p { r.p with cnt := { r.p.cnt with line := bump r.p.cnt.line (dLines src) } } := by
  subst hg hsrc hdst hr
  have hheld : ((pipOf s p).ops.xfers.any transposes || copyRuns (pipOf s p)) = false := by
    rw [hfree, Bool.or_false]
    exact List.any_eq_false.mpr fun x h => by simp [hx x h]
  unfold startCopy
  dsimp only
  rw [hheld, if_neg Bool.false_ne_true]
  exact (congrArg (settle s p) (andThen_done hgoes hfx _)).trans (settle_done ..)

/-! ### STREAM_RUN_COMPLETE -/

/-- A signal of an engine to an object that its job owns, in a field that is awake, is added before what follows (R91, R93). -/
theorem engSignal_adds {s : State} {p obj : Nat} {j : Job} (hj : jobOfPip s p = some j) (hown : ownsSync s j.ctx obj = true)
    (hawake : syncReady s obj = true) (add : Nat) (next : State → State) : engSignal s p obj add next = next (syncAdd s obj add) := by
  unfold engSignal
  rw [hj]
  exact (if_neg (by simp [hown])).trans (if_neg (by simp [hawake]))

/-- The sync objects once a run has completed: its completion signal adds SADD to its object (R255). -/
def runSignalled (s : State) (g : Engine) : State := if recSen g.record then syncAdd s (recSobj g.record) (recSadd g.record) else s

theorem streamRunComplete_stops {s : State} {p e : Nat} {g : Engine} {j : Job} (hp : p < 10240) (hg : engOf (pipOf s p) e = g)
    (hrun : g.running = true) (hj : jobOfPip s p = some j) (hstart : g.started = true) (hend : g.ending = true)
    (hbusy : g.busyTo ≤ s.cycle) (hkeys : g.keys = []) (hmoved : movesDone (pipOf s p) e = true)
    (hsig : recSen g.record = true → ownsSync s j.ctx (recSobj g.record) = true ∧ syncReady s (recSobj g.record) = true) :
    exec (.streamRunComplete p e) s = .next (stopRun p e (runSignalled s g)) := by
  subst hg
  show execStreamRunComplete p e s = _
  unfold execStreamRunComplete
  rw [within_lt _ hp]
  refine congrArg Host.Outcome.next ((if_neg (by simp [hrun, hstart, hend, hbusy, hkeys, hmoved])).trans ?_)
  unfold runSignalled
  split
  · next hsen =>
    obtain ⟨hown, hawake⟩ := hsig hsen
    exact engSignal_adds hj hown hawake ..
  · rfl

theorem runSignalled_eq (s : State) (g : Engine) :
    runSignalled s g = { s with syncs := (runSignalled s g).syncs, adds := (runSignalled s g).adds } := by
  unfold runSignalled
  split <;> rfl

theorem pipOf_runSignalled (s : State) (g : Engine) (k : Nat) : pipOf (runSignalled s g) k = pipOf s k := by
  rw [runSignalled_eq]; rfl

theorem podSt_runSignalled (s : State) (g : Engine) (d : Nat) : podSt (runSignalled s g) d = podSt s d := by
  rw [runSignalled_eq]; rfl

theorem syncVal_runSignalled (s : State) (g : Engine) (i : Nat) : syncVal (runSignalled s g) i =
    if recSen g.record = true ∧ i = recSobj g.record then syncVal s i + BitVec.ofNat 32 (recSadd g.record) else syncVal s i := by
  unfold runSignalled
  split
  · next h => simp only [syncVal_syncAdd, h, true_and]
  · next h => exact (if_neg fun hs => h hs.1).symm

section
variable (p e : Nat) (s : State)

/-- The end of a run changes pips and pods alone. -/
theorem stopRun_eq : stopRun p e s = { s with pips := (stopRun p e s).pips, pods := (stopRun p e s).pods } := by
  unfold stopRun
  dsimp only
  split <;> rfl

theorem pipOf_stopRun (k : Nat) :
    pipOf (stopRun p e s) k = pipOf (setPip s p (setEng (pipOf s p) e { engOf (pipOf s p) e with running := false })) k := by
  unfold stopRun
  dsimp only
  split <;> rfl

theorem podSt_stopRun (d : Nat) :
    podSt (stopRun p e s) d = if e = 4 ∧ d = podOfPip p then { podSt s d with klead := false } else podSt s d := by
  unfold stopRun
  dsimp only
  by_cases he : e = 4
  · rw [if_pos he, modPod_eq]
    by_cases hd : d = podOfPip p
    · rw [if_pos ⟨he, hd⟩, hd, podSt_setPod_same]; rfl
    · rw [if_neg (fun h => hd h.2), podSt_setPod_other _ _ hd]; rfl
  · rw [if_neg he, if_neg (fun h => he h.1)]; rfl

end

end Sys2Proof.Machine

section
open Sys2Proof Sys2Proof.Machine

/-- Settles O29: a start ends in the branch that the check and the form of its record choose, and a copy leaves its pip beside the
scratchpad (`runCopy_onlyPad`); a completion is its signal, if any, followed by the end of the run. -/
theorem engineRuns : Obligations.EngineRuns := by
  intro s p e g j hp he hg hrun hj hphase
  refine ⟨fun hnew hrec hat => ?_, fun hstart hend hbusy hkeys hmoved hsig =>
    ⟨_, streamRunComplete_stops hp hg hrun hj hstart hend hbusy hkeys hmoved hsig, ?_, ?_, ?_, ?_, ?_⟩⟩
  · have hdue : RunDue s p e g j := ⟨hp, he, hg, hrun, hj, hphase, hnew, hrec, hat⟩
    refine ⟨fun n code hc => ⟨_, streamRunStart_refused hdue hc, rfl⟩,
      fun hc hf => ⟨_, streamRunStart_begins hdue hc (by simp [hf]), by rw [beginRun_desc _ hf]⟩,
      fun hc hf => ⟨_, streamRunStart_begins hdue hc (by simp [hf]), by rw [beginRun_program _ hf]⟩,
      fun r hc hf hx hfree hr hgoes hfx => ⟨_, streamRunStart_copies hdue hc hf, ?_⟩⟩
    have hpad : r.p.besidePad = (setEng (pipOf s p) e _).besidePad := hr ▸ runCopy_onlyPad ..
    rw [startCopy_copies hg hx hfree rfl rfl hr hgoes hfx]
    dsimp only
    rw [pipOf_setPip_same]
    refine ⟨rfl, ?_, (congrArg PipSt.regs hpad :), (congrArg PipSt.q hpad :)⟩
    exact (congrArg (fun q : PipSt => engOf q e) hpad).trans (engOf_setEng_same ..)
  · rw [stopRun_eq, runSignalled_eq]
  · intro k hk
    rw [pipOf_stopRun, pipOf_setPip_other _ _ hk, pipOf_runSignalled]
  · rw [pipOf_stopRun, pipOf_setPip_same, pipOf_runSignalled, hg]
  · intro d
    rw [podSt_stopRun, podSt_runSignalled]
  · intro i
    rw [stopRun_eq]
    exact syncVal_runSignalled s g i

end

/-! ## FADD, held adds and ORDSET (O39) -/

namespace Sys2Proof.Machine

/-! ### What reads and writes of memory depend on and leave -/

theorem memRead_congr {s t : State} (h : t.memory = s.memory) (a n : Nat) : memRead t a n = memRead s a n :=
  (congrArg (memRead · a n) h :)

theorem Writes.congr {s s' t t' : State} {a : Nat} {bs : List Byte} (hs : s'.memory = s.memory) (ht : t'.memory = t.memory)
    (h : Writes s t a bs) : Writes s' t' a bs := fun x => by rw [byteAt_congr hs, byteAt_congr ht, h x]

/-- A write of no bytes stores a line or word as it reads. -/
theorem memWrite_nil_writes (s : State) (a : Nat) : Writes s (memWrite s a []) a [] := by
  intro x
  have hempty (b y : Nat) : ¬(b ≤ y ∧ y < b + ([] : List Byte).length) := by simp
  rw [if_neg (hempty a x), byteAt_eq, byteAt_eq]
  unfold memWrite
  by_cases hh : isHbm a = true
  · rw [if_pos hh, storeHbm_reads, stgWord_storeHbm, if_neg (hempty a x)]
  · rw [if_neg hh]
    by_cases hg : isStg a = true
    · rw [if_pos hg, storeStg_reads, hbmLine_storeStg, if_neg (hempty _ _)]
    · rw [if_neg hg]

/-- After a write of any length that lies in one memory, its bytes read as written and every other byte as before. -/
theorem memWrite_writes_any (s : State) {a : Nat} {bs : List Byte} (h : OneMemory a bs.length) : Writes s (memWrite s a bs) a bs := by
  cases bs with
  | nil => exact memWrite_nil_writes s a
  | cons b bs => exact memWrite_writes s a _ (List.cons_ne_nil b bs) h

theorem WorkAsBefore.trans {s t u : State} (h : WorkAsBefore s t) (g : WorkAsBefore t u) : WorkAsBefore s u := by
  obtain ⟨hj, hc, hx, hs, hr⟩ := h
  obtain ⟨gj, gc, gx, gs, gr⟩ := g
  exact ⟨gj.trans hj, gc.trans hc, gx.trans hx, gs.trans hs, fun k => (gr k).trans (hr k)⟩

theorem workAsBefore_of_besideMove {s t : State} (h : t.besideMove = s.besideMove) : WorkAsBefore s t :=
  ⟨(congrArg State.jobs h :), (congrArg State.cmds h :), (congrArg State.ctxs h :), (congrArg State.syncs h :),
    fun k => (congrArg (fun t => (pipOf t k).regs) h :)⟩

theorem stackSt_memWrite (s : State) (a : Nat) (bs : List Byte) (k : Nat) : stackSt (memWrite s a bs) k = stackSt s k := by
  obtain ⟨_, _, _, _, h⟩ := memWrite_memOnly s a bs
  rw [h]; rfl

/-- What a stack keeps when it counts read errors (R278, R288). -/
def StackSt.besideErrors (v : StackSt) : StackSt := { v with ue := false, ce := 0, uec := 0, errAddr := 0 }

theorem besideErrors_noteError (s : State) (n a : Nat) (ce ue : Bool) (k : Nat) :
    (stackSt (noteError s n a ce ue) k).besideErrors = (stackSt s k).besideErrors := by
  unfold noteError
  by_cases hk : k = n
  · subst hk
    split
    · rw [modStack_eq, stackSt_setStack_same]; rfl
    · split
      · rw [modStack_eq, stackSt_setStack_same]; rfl
      · rfl
  · split
    · rw [modStack_eq, stackSt_setStack_other _ _ hk]
    · split
      · rw [modStack_eq, stackSt_setStack_other _ _ hk]
      · rfl

theorem besideErrors_noteMem (s : State) (a n k : Nat) : (stackSt (noteMem s a n) k).besideErrors = (stackSt s k).besideErrors := by
  unfold noteMem
  split
  · exact forAll_keeps (fun t => (stackSt t k).besideErrors) (fun _ _ => besideErrors_noteError ..) _ s
  · split
    · exact forAll_keeps (fun t => (stackSt t k).besideErrors) (fun _ _ => besideErrors_noteError ..) _ s
    · rfl

/-! ### Words as bytes (R4) -/

/-- A list of `m` groups of `n` splits into them. -/
theorem length_groups {α : Type} {n m fuel : Nat} {l : List α} (hn : 0 < n) (hl : l.length = n * m) (hf : m ≤ fuel) :
    (groups n fuel l).length = m := by
  induction fuel generalizing m l with
  | zero => simp only [groups, List.length_nil]; omega
  | succ fuel ih =>
    cases m with
    | zero =>
      obtain rfl := List.length_eq_zero_iff.mp hl
      rfl
    | succ m =>
      cases l with
      | nil => simp [Nat.mul_add] at hl; omega
      | cons x l =>
        have hrest : (groups n fuel ((x :: l).drop n)).length = m := ih (by rw [List.length_drop, hl, Nat.mul_succ]; omega) (by omega)
        exact congrArg (· + 1) hrest

theorem length_words32 {bs : List Byte} {n : Nat} (h : bs.length = 4 * n) : (words32 bs).length = n := by
  rw [words32, List.length_map]
  exact length_groups (by decide) h (by omega)

theorem length_bytes32 (ws : List Word32) : (bytes32 ws).length = 4 * ws.length :=
  length_flatMap_of_length (fun w : Word32 => length_toBytes 4 w.toNat) ws

/-! ### An ordered add (R178, R292) -/

/-- What an ordered add of the words `ws` leaves at address `a`. -/
def addedBytes (s : State) (a : Nat) (ws : List Word32) : List Byte :=
  bytes32 ((List.zip (words32 (memRead s a (4 * ws.length))) ws).map fun e => f32add e.1 e.2)

theorem length_addedBytes (s : State) (a : Nat) (ws : List Word32) : (addedBytes s a ws).length = 4 * ws.length := by
  rw [addedBytes, length_bytes32, List.length_map, List.length_zip, length_words32 (length_memRead ..), Nat.min_self]

section
variable (s : State) (k slot a : Nat) (ws : List Word32)

theorem applyAdd_eq : applyAdd s k slot a ws =
    modStack (memWrite (noteMem s a (4 * ws.length)) a (addedBytes s a ws)) k fun v =>
      { v with opsCnt := bump v.opsCnt 1, next := Tab.set 0 v.next slot (Tab.get 0 v.next slot + 1) } := rfl

theorem besideMove_applyAdd : (applyAdd s k slot a ws).besideMove = s.besideMove :=
  (besideMove_modStack ..).trans ((besideMove_memWrite ..).trans (besideMove_noteMem ..))

theorem stackSt_applyAdd : ∃ v : StackSt, v.besideErrors = (stackSt s k).besideErrors ∧ stackSt (applyAdd s k slot a ws) k =
    { v with opsCnt := bump v.opsCnt 1, next := Tab.set 0 v.next slot (Tab.get 0 v.next slot + 1) } := by
  refine ⟨stackSt (noteMem s a (4 * ws.length)) k, besideErrors_noteMem .., ?_⟩
  rw [applyAdd_eq, modStack_eq, stackSt_setStack_same, stackSt_memWrite]

theorem applyAdd_writes (h : OneMemory a (4 * ws.length)) : Writes s (applyAdd s k slot a ws) a (addedBytes s a ws) :=
  .congr (memory_noteMem s a (4 * ws.length)).symm rfl
    (memWrite_writes_any (bs := addedBytes s a ws) (noteMem s a (4 * ws.length)) (by rwa [length_addedBytes]))

end

/-- An ordered add moves NEXT of its slot on by one, and keeps that of every other slot, the held adds and the queue. -/
theorem applyAdd_order (s : State) (k slot a : Nat) (ws : List Word32) :
    Tab.get 0 (stackSt (applyAdd s k slot a ws) k).next slot = Tab.get 0 (stackSt s k).next slot + 1 ∧
    (∀ n, n ≠ slot → Tab.get 0 (stackSt (applyAdd s k slot a ws) k).next n = Tab.get 0 (stackSt s k).next n) ∧
    (stackSt (applyAdd s k slot a ws) k).held = (stackSt s k).held ∧
    (stackSt (applyAdd s k slot a ws) k).stq = (stackSt s k).stq := by
  obtain ⟨v, hv, h⟩ := stackSt_applyAdd s k slot a ws
  have hnext : v.next = (stackSt s k).next := (congrArg StackSt.next hv :)
  rw [h]
  refine ⟨?_, fun n hn => ?_, (congrArg StackSt.held hv :), (congrArg StackSt.stq hv :)⟩
  · rw [Tab.get_set_same, hnext]
  · rw [Tab.get_set_other _ _ _ hn, hnext]

/-! ### A request that is served -/

/-- A write that has landed changes its unit's pip, or the hull channel that made it. -/
theorem writeAccepted_eq (s : State) (r : Req) :
    writeAccepted s r = { s with pips := (writeAccepted s r).pips, hchans := (writeAccepted s r).hchans } := by
  unfold writeAccepted onPip
  split
  · rw [settle_done]; rfl
  · rfl
  · rfl

theorem lineLanded_regs (q : PipSt) (u : Nat) : (lineLanded q u).regs = q.regs := by rw [lineLanded_eq]

theorem workAsBefore_writeAccepted (s : State) (r : Req) : WorkAsBefore s (writeAccepted s r) := by
  refine ⟨?_, ?_, ?_, ?_, fun k => ?_⟩
  iterate 4 rw [writeAccepted_eq]
  unfold writeAccepted onPip
  split
  · next p u _ =>
    rw [settle_done]
    by_cases hk : k = p
    · subst hk
      rw [pipOf_setPip_same]
      exact lineLanded_regs ..
    · rw [pipOf_setPip_other _ _ hk]
  · rfl
  · rfl

theorem memory_writeAccepted (s : State) (r : Req) : (writeAccepted s r).memory = s.memory := by rw [writeAccepted_eq]; rfl
theorem stackSt_writeAccepted (s : State) (r : Req) (k : Nat) : stackSt (writeAccepted s r) k = stackSt s k := by
  rw [writeAccepted_eq]; rfl

theorem rqForm_of_rqCode {s : State} {k : Nat} {r : Req} (h : rqCode s k r = eOk) : rqForm r.bytes = true := by
  unfold rqCode at h
  cases hf : rqForm r.bytes with
  | true => rfl
  | false => simp [hf, eDesc, eOk] at h

/-- An ordered add has elements of four bytes. -/
theorem rqSize_fadd {b : List Byte} (h : rqForm b = true) (ha : rqAop b = 8) : rqSize b = 4 := by
  simp only [rqForm, Bool.and_eq_true] at h
  have hw : (rqAop b ≠ 8 || rqW32 b) = true := h.1.1.2
  rw [rqSize, if_pos (by simpa [ha] using hw)]

theorem isStg_iff {a : Nat} : isStg a = true ↔ stgBase ≤ a ∧ a < stgBase + 12 * 0x4000000 := by
  rw [isStg, Bool.and_eq_true, decide_eq_true_eq, decide_eq_true_eq]

/-- The run of a request lies in the staging buffer of its stack. -/
theorem oneMemory_target {b : List Byte} {k : Nat} (hk : k < 12) (h : rqForm b = true) :
    OneMemory (stgAddr k (rqTarget b)) (rqBytes b) := by
  simp only [rqForm, runOk, Bool.and_eq_true, decide_eq_true_eq] at h
  obtain ⟨⟨⟨⟨⟨-, hnel⟩, -⟩, -⟩, -, hline⟩, -⟩ := h
  have htarget : rqTarget b < 2 ^ 26 := Nat.mod_lt _ (by decide)
  have hbytes : 0 < rqBytes b := Nat.mul_pos hnel (by unfold rqSize; split <;> decide)
  refine .inr ⟨isStg_iff.mpr ?_, isStg_iff.mpr ?_⟩ <;> unfold stgAddr <;> omega

section
variable {s : State} {k aop : Nat} {r : Req} {rest : List Req} (hn : nextAccess s k = some (r, rest)) (hq : isReq r.addr = true)
  (hw : r.write = true) (hcode : rqCode s k r = eOk) (ha : rqAop r.bytes = aop) (hue : runUe s k r.bytes = false)
include hn hq hw hcode ha hue

theorem serveReq_serves (act : State → Req → State) :
    serveReq s k aop act = writeAccepted (act (serveIt s k r rest) r) r := by
  unfold serveReq
  rw [hn]
  dsimp only
  rw [if_neg (by simp [hq, hw, ha]), if_neg (by simp [hcode]), if_neg (by simp [hue])]

end

/-- A request that reads no run meets no error there (R288). -/
theorem runUe_of_not_readsRun {s : State} {k : Nat} {b : List Byte} (h : readsRun s k b = false) : runUe s k b = false := by
  rw [runUe, h]; rfl

theorem besideMove_serveIt (s : State) (k : Nat) (r : Req) (rest : List Req) : (serveIt s k r rest).besideMove = s.besideMove := rfl

/-- The access has left the queue, and its bank is taken. -/
theorem stackSt_serveIt (s : State) (k : Nat) (r : Req) (rest : List Req) : stackSt (serveIt s k r rest) k =
    { stackSt s k with stq := rest, stUsed := (stackSt s k).stUsed ++ [accessBank r] } := stackSt_setStack_same ..

theorem seqAhead_serveIt (s : State) (k : Nat) (r : Req) (rest : List Req) (b : List Byte) :
    seqAhead (stackSt (serveIt s k r rest) k) b = seqAhead (stackSt s k) b := by rw [stackSt_serveIt]; rfl

/-! ### FADD, FADD_HELD_APPLY and ORDSET -/

/-- The words that a FADD adds. -/
def addWords (b : List Byte) : List Word32 := (List.range (rqNel b)).map fun i => BitVec.ofNat 32 (rqOpnd b i)

theorem length_addWords (b : List Byte) : (addWords b).length = rqNel b := by simp [addWords]

/-- The FADD of a request, as the reorder store holds it. -/
def heldAdd (k : Nat) (r : Req) : HeldAdd :=
  ⟨rqSlot r.bytes, (rqSeq r.bytes).toNat, stgAddr k (rqTarget r.bytes), addWords r.bytes, r.ctx, r.src⟩

/-- A stack that holds one more FADD. -/
def StackSt.hold (v : StackSt) (h : HeldAdd) : StackSt := { v with held := v.held ++ [h], holdCnt := bump v.holdCnt 1 }

/-- A stack from whose store a FADD goes to its bank. -/
def StackSt.release (v : StackSt) (h : HeldAdd) : StackSt :=
  { v with held := v.held.erase h, stUsed := v.stUsed ++ [(h.addr - stgBase) / 2 ^ 22 % 16] }

/-- A stack whose NEXT of a slot has been set, and the slot's held requests discarded. -/
def StackSt.setOrder (v : StackSt) (slot : Nat) (seq : Word32) : StackSt :=
  { v with next := Tab.set 0 v.next slot seq, held := v.held.filter (·.slot ≠ slot), opsCnt := bump v.opsCnt 1 }

section
variable {s : State} {k : Nat} {r : Req} {rest : List Req} (hk : k < 12) (hn : nextAccess s k = some (r, rest))
  (hq : isReq r.addr = true) (hw : r.write = true) (hcode : rqCode s k r = eOk)
include hk hn hq hw hcode

/-- A FADD at NEXT adds. -/
theorem stFadd_adds (ha : rqAop r.bytes = 8) (hnext : seqAhead (stackSt s k) r.bytes = 0) (hue : runUe s k r.bytes = false) :
    exec (.stFadd k) s = .next (writeAccepted
      (applyAdd (serveIt s k r rest) k (rqSlot r.bytes) (stgAddr k (rqTarget r.bytes)) (addWords r.bytes)) r) := by
  show execStFadd k s = _
  unfold execStFadd
  rw [within_lt _ hk, serveReq_serves hn hq hw hcode ha hue]
  dsimp only
  rw [if_pos ((seqAhead_serveIt ..).trans hnext)]
  rfl

/-- A FADD ahead of NEXT is held. -/
theorem stFadd_holds (ha : rqAop r.bytes = 8) (hahead : 0 < seqAhead (stackSt s k) r.bytes) :
    exec (.stFadd k) s = .next (writeAccepted (modStack (serveIt s k r rest) k (·.hold (heldAdd k r))) r) := by
  have hne : seqAhead (stackSt s k) r.bytes ≠ 0 := Int.ne_of_gt hahead
  have hue : runUe s k r.bytes = false := runUe_of_not_readsRun (by simp [readsRun, ha, hne])
  show execStFadd k s = _
  unfold execStFadd
  rw [within_lt _ hk, serveReq_serves hn hq hw hcode ha hue]
  dsimp only
  rw [if_neg fun h => hne ((seqAhead_serveIt ..).symm.trans h)]
  rfl

theorem ordset_sets (ha : rqAop r.bytes = 9) : exec (.ordset k) s =
    .next (writeAccepted (modStack (serveIt s k r rest) k (·.setOrder (rqSlot r.bytes) (rqSeq r.bytes))) r) := by
  have hue : runUe s k r.bytes = false := runUe_of_not_readsRun (by simp [readsRun, ha])
  show execOrdset k s = _
  unfold execOrdset
  rw [within_lt _ hk, serveReq_serves hn hq hw hcode ha hue]
  rfl

end

/-- A held FADD that NEXT has reached is applied while its bank is free. -/
theorem faddHeldApply_adds {s : State} {k slot : Nat} {h : HeldAdd} (hk : k < 12) (hfind : readyAdd (stackSt s k) slot = some h)
    (hue : memUe s h.addr (4 * h.words.length) = false) (hbank : (h.addr - stgBase) / 2 ^ 22 % 16 ∉ (stackSt s k).stUsed) :
    exec (.faddHeldApply k slot) s = .next (applyAdd (modStack s k (·.release h)) k slot h.addr h.words) := by
  show execFaddHeldApply k slot s = _
  unfold execFaddHeldApply
  rw [within_lt _ hk, hfind]
  dsimp only
  rw [if_neg (by simpa using hbank), hue]
  rfl

/-- What a request leaves that acts on memory and stacks alone. -/
theorem workAsBefore_served {s u : State} (h : u.besideMove = s.besideMove) (r : Req) : WorkAsBefore s (writeAccepted u r) :=
  (workAsBefore_of_besideMove h).trans (workAsBefore_writeAccepted u r)

/-- What a request leaves that acts on its stack alone. -/
theorem served_modStack (s : State) (k : Nat) (r : Req) (rest : List Req) (f : StackSt → StackSt) :
    (writeAccepted (modStack (serveIt s k r rest) k f) r).hbm = s.hbm ∧
    (writeAccepted (modStack (serveIt s k r rest) k f) r).staging = s.staging ∧
    stackSt (writeAccepted (modStack (serveIt s k r rest) k f) r) k =
      f { stackSt s k with stq := rest, stUsed := (stackSt s k).stUsed ++ [accessBank r] } ∧
    WorkAsBefore s (writeAccepted (modStack (serveIt s k r rest) k f) r) := by
  have hmem := memory_writeAccepted (modStack (serveIt s k r rest) k f) r
  refine ⟨(congrArg State.hbm hmem :), (congrArg State.staging hmem :), ?_,
    workAsBefore_served ((besideMove_modStack ..).trans (besideMove_serveIt ..)) r⟩
  rw [stackSt_writeAccepted, modStack_eq, stackSt_setStack_same, stackSt_serveIt]

end Sys2Proof.Machine

section
open Sys2Proof Sys2Proof.Machine

/-- Settles O39: a request that is served acts on the state in which it has left the queue; an ordered add is one write of memory. -/
theorem orderedAdds : Obligations.OrderedAdds := by
  unfold Obligations.OrderedAdds
  intro s k hk
  refine ⟨fun r rest hn hq hw hcode => ⟨fun ha hnext hue => ⟨_, stFadd_adds hk hn hq hw hcode ha hnext hue, ?_⟩,
      fun ha hahead => ⟨_, stFadd_holds hk hn hq hw hcode ha hahead, ?_⟩, fun ha => ⟨_, ordset_sets hk hn hq hw hcode ha, ?_⟩⟩,
    fun slot h hfind _ hone hue hbank => ⟨_, faddHeldApply_adds hk hfind hue hbank, ?_⟩⟩
  · have hform := rqForm_of_rqCode hcode
    have hone : OneMemory (stgAddr k (rqTarget r.bytes)) (4 * (addWords r.bytes).length) := by
      rw [length_addWords, Nat.mul_comm, ← rqSize_fadd hform ha]
      exact oneMemory_target hk hform
    have hwrites := (applyAdd_writes (serveIt s k r rest) k (rqSlot r.bytes) _ _ hone).congr rfl (memory_writeAccepted _ r)
    obtain ⟨hnext', hother, hheld, hstq⟩ :=
      applyAdd_order (serveIt s k r rest) k (rqSlot r.bytes) (stgAddr k (rqTarget r.bytes)) (addWords r.bytes)
    rw [stackSt_serveIt] at hnext' hother hheld hstq
    dsimp only
    rw [stackSt_writeAccepted]
    refine ⟨?_, hnext', hother, hheld, hstq, workAsBefore_served ((besideMove_applyAdd ..).trans (besideMove_serveIt ..)) r⟩
    rw [addedBytes, length_addWords] at hwrites
    exact hwrites
  · obtain ⟨hhbm, hstaging, hstack, hwork⟩ := served_modStack s k r rest (·.hold (heldAdd k r))
    rw [hstack]
    exact ⟨hhbm, hstaging, rfl, rfl, rfl, rfl, hwork⟩
  · obtain ⟨hhbm, hstaging, hstack, hwork⟩ := served_modStack s k r rest (·.setOrder (rqSlot r.bytes) (rqSeq r.bytes))
    rw [hstack]
    exact ⟨hhbm, hstaging, Tab.get_set_same .., fun n hn => Tab.get_set_other _ _ _ hn, fun h => by simp [StackSt.setOrder], rfl, hwork⟩
  · obtain ⟨hnext', -, hheld, -⟩ := applyAdd_order (modStack s k (·.release h)) k slot h.addr h.words
    have hbeside := besideMove_applyAdd (modStack s k (·.release h)) k slot h.addr h.words
    rw [modStack_eq, stackSt_setStack_same] at hnext' hheld
    exact ⟨(applyAdd_writes (modStack s k (·.release h)) k slot _ _ hone).congr rfl rfl, hnext', hheld,
      workAsBefore_of_besideMove hbeside, (congrArg State.pips hbeside :)⟩

end

/-! ## The local step and the ring of a reduction (O44) -/

namespace Sys2Proof.Machine

/-! ### A channel that goes on -/

/-- State `t` follows `s` by the bytes `bs` at `a`, and channel `ch` is `v` but for messages that it has queued since. -/
structure ChanWrites (s t : State) (ch a : Nat) (bs : List Byte) (v : ChanSt) : Prop where
  writes : Writes s t a bs
  work : WorkAsBefore s t
  pips : t.pips = s.pips
  chan : ∃ ms, chanSt t ch = { v with outq := v.outq ++ ms }
  others : ∀ n, n ≠ ch → chanSt t n = chanSt s n

section
variable {s t u : State} {ch a : Nat} {bs : List Byte} {v : ChanSt}

/-- A write for a channel, with what the channel then is. -/
theorem ChanWrites.of_memWrite (hmem : u.memory = s.memory) (hbeside : u.besideMove = s.besideMove) (hone : OneMemory a bs.length)
    (f : ChanSt → ChanSt) : ChanWrites s (modChan (memWrite u a bs) ch f) ch a bs (f (chanSt s ch)) := by
  have hmoved := (besideMove_memWrite u a bs).trans hbeside
  obtain ⟨hwork, hpips, hchan, hothers⟩ := setChan_moved hmoved ch (f (chanSt s ch))
  rw [modChan_moved hmoved rfl]
  exact ⟨.congr hmem.symm rfl (memWrite_writes_any u hone), hwork, hpips, ⟨[], by rw [hchan, List.append_nil]⟩, hothers⟩

/-- Messages queue for their link. -/
theorem ChanWrites.queues (h : ChanWrites s t ch a bs v) (ms : List CollOut) :
    ChanWrites s (setChan t ch { chanSt t ch with outq := (chanSt t ch).outq ++ ms }) ch a bs v := by
  obtain ⟨ns, hns⟩ := h.chan
  obtain ⟨hwork, hpips, hchan, hothers⟩ := setChan_moved (rfl : t.besideMove = t.besideMove) ch
    { chanSt t ch with outq := (chanSt t ch).outq ++ ms }
  refine ⟨.congr rfl rfl h.writes, h.work.trans hwork, hpips.trans h.pips, ⟨ns ++ ms, ?_⟩,
    fun n hn => (hothers n hn).trans (h.others n hn)⟩
  rw [hchan, hns, List.append_assoc]

/-- Reads are accounted for. -/
theorem ChanWrites.notes (h : ChanWrites s t ch a bs v) (b n : Nat) : ChanWrites s (noteMem t b n) ch a bs v := by
  have hbeside := besideMove_noteMem t b n
  exact ⟨.congr rfl (memory_noteMem t b n) h.writes, h.work.trans (workAsBefore_of_besideMove hbeside),
    (congrArg State.pips hbeside :).trans h.pips, by rw [noteMem_eq]; exact h.chan, fun n hn => by rw [noteMem_eq]; exact h.others n hn⟩

/-- The chunks of a shard queue for their link. -/
theorem ChanWrites.sendsShard (h : ChanWrites s t ch a bs v) (b : List Byte) (gather : Bool) (step shard : Nat) :
    ChanWrites s (sendShard t ch b gather step shard) ch a bs v :=
  forAll_invariant (J := fun u => ChanWrites s u ch a bs v) (fun _ _ hu => hu.notes _ _) _ (h.queues _)

/-- The write may start from a state in which reads have been accounted for. -/
theorem ChanWrites.from_besideMove (hmem : u.memory = s.memory) (hbeside : u.besideMove = s.besideMove) (h : ChanWrites u t ch a bs v) :
    ChanWrites s t ch a bs v :=
  ⟨.congr hmem.symm rfl h.writes, (workAsBefore_of_besideMove hbeside).trans h.work, h.pips.trans (congrArg State.pips hbeside :),
    h.chan, fun n hn => (h.others n hn).trans (congrArg (chanSt · n) hbeside :)⟩

/-- The write may start from a state in which the channel has taken a message from its inbox. -/
theorem ChanWrites.from_setChan {w : ChanSt} (h : ChanWrites (setChan s ch w) t ch a bs v) : ChanWrites s t ch a bs v :=
  ⟨.congr rfl rfl h.writes, h.work, h.pips, h.chan, fun n hn => (h.others n hn).trans (chanSt_setChan_other _ _ hn)⟩

end

/-! ### The local step (R336) -/

section
variable {s : State} {ch : Nat} {k : CollCmd} (hch : ch < 16)
include hch

/-- The head command starts, and its passes take at least a cycle. -/
theorem localStep_starts {rest : List CollCmd} (hrun : (chanSt s ch).running = none) (hfifo : (chanSt s ch).fifo = k :: rest)
    (hstate : (chanSt s ch).state = 1) (hclose : k.close = false) (hsent : (chanSt s ch).abortSent = false)
    (hready : syncReady s (clFill k.bytes) = true)
    (hmet : satisfied (syncVal s (clFill k.bytes)) (BitVec.ofNat 32 (clThresh k.bytes)) = true) (hnelem : 0 < clNelem k.bytes) :
    exec (.localStep ch) s = .next (setChan s ch { chanSt s ch with
      state := 2, running := some k, fifo := rest, seq := BitVec.ofNat 32 (clSeq k.bytes), resIn := 0,
      passAt := s.cycle + 3 * ((clNelem k.bytes + 31) / 32) }) := by
  have hlate : ¬s.cycle + 3 * ((clNelem k.bytes + 31) / 32) ≤ s.cycle := by omega
  show execLocalStep ch s = _
  unfold execLocalStep
  rw [within_lt _ hch]
  dsimp only
  rw [hrun, hfifo]
  dsimp only
  rw [if_neg (by simp [hstate, hclose, hsent]), hready, hmet]
  rw [if_neg (by simp), if_pos rfl, chanSt_setChan_same]
  exact congrArg Host.Outcome.next (if_neg fun h => hlate h.2)

theorem localStep_passes (hrun : (chanSt s ch).running = some k) (hstate : (chanSt s ch).state = 2)
    (hres : 3 * residLines k.bytes ≤ (chanSt s ch).resIn) (hpass : (chanSt s ch).passAt ≤ s.cycle) :
    exec (.localStep ch) s = .next (localPass s ch k.bytes) := by
  show execLocalStep ch s = _
  unfold execLocalStep
  rw [within_lt _ hch]
  dsimp only
  rw [hrun]
  dsimp only
  rw [if_pos hstate, if_pos ⟨hres, hpass⟩]

end

/-- The entries that a command selects among its effective gradients. -/
def chosenEntries (b : List Byte) (geff : List Word32) : List Bool :=
  if clDense b then geff.map fun _ => true else selectTop (collK b) geff

/-- What the third pass leaves in OUT. -/
def localOut (s : State) (c : ChanSt) (b : List Byte) : List Byte :=
  bytes32 ((List.zip (chosenEntries b (effective s b)) (effective s b)).map fun e => if e.1 then keptWord c e.2 else 0)

/-- The lines of the new residual half that the third pass leaves. -/
def localResid (s : State) (b : List Byte) : List Line :=
  let bs := bytes32 ((List.zip (chosenEntries b (effective s b)) (effective s b)).map fun e => if e.1 then 0 else e.2)
  if clDense b then [] else (groups 128 bs.length bs).map ofLineBytes

/-- A channel after the third pass of its command, before it has queued chunks. -/
def passedChan (s : State) (c : ChanSt) (b : List Byte) : ChanSt :=
  { c with state := 3, nonfin := bump c.nonfin ((effective s b).filter fun v => !isFin32 v).length, resOut := localResid s b, resNext := 0,
           recvR := 0, recvG := 0 }

theorem localPass_writes {s : State} {ch : Nat} {b : List Byte} (hone : OneMemory (clOut b) (localOut s (chanSt s ch) b).length) :
    ChanWrites s (localPass s ch b) ch (clOut b) (localOut s (chanSt s ch) b) (passedChan s (chanSt s ch) b) := by
  have hstored := ChanWrites.of_memWrite (ch := ch) (memory_noteMem s (clBucket b) (clNelem b * clElem b))
    (besideMove_noteMem s (clBucket b) (clNelem b * clElem b)) hone (passedChan s · b)
  unfold localPass
  extract_lets geff sel out res resBytes lines s1 s2 c p
  split
  · exact hstored
  · exact hstored.sendsShard ..

/-! ### A message that leaves (R339, R340) -/

/-- A channel that has handed over a message, with its credit where the message takes one. -/
def ChanSt.sent (c : ChanSt) (m : CollOut) : ChanSt :=
  { c with outq := c.outq.erase m, txBytes := bump c.txBytes m.bytes.length, credits := if m.paid then c.credits - 1 else c.credits,
           unacked := if m.paid then c.unacked + 1 else c.unacked }

/-- The message of a channel as its link carries it. -/
def collTx (s : State) (m : CollOut) : LinkMsg := ⟨m.route, s.lnk.node % 4096, 0, true, m.bytes, false⟩

/-- A message that a run of its route can hold joins the transmit buffer. -/
theorem queueTx_joins {s : State} {l : Nat} {m : LinkMsg} (h : linkFlits m.bytes ≤ min 64 (longestRun (linkSt s l).record m.route)) :
    queueTx s l m = setLink s l { linkSt s l with tx := (linkSt s l).tx ++ [m] } := if_neg (Nat.not_lt.mpr h)

theorem chunkSend_sends {s : State} {ch l : Nat} {m : CollOut} (hch : ch < 16) (hnext : nextOut (chanSt s ch) = some m)
    (hlink : routeLink (resv s) m.route = some l) (hl : l < 36) (hroom : txFill (linkSt s l) + linkFlits m.bytes ≤ 128)
    (hrun : linkFlits m.bytes ≤ min 64 (longestRun (linkSt s l).record m.route)) (hahead : outAhead s ch m = false) :
    exec (.chunkSend ch) s = .next (setChan
      (setLink s l { linkSt s l with tx := (linkSt s l).tx ++ [collTx s m] }) ch ((chanSt s ch).sent m)) := by
  have hout : outLink s m = some l := by
    unfold outLink
    rw [hlink, Option.filter_some, if_pos (by simp [hl, (Nat.le_min.mp hrun).2])]
  show execChunkSend ch s = _
  unfold execChunkSend
  rw [within_lt _ hch]
  dsimp only
  rw [hnext]
  dsimp only
  rw [hout, Option.getD_some, if_neg (by simp [hahead]; omega)]
  exact congrArg (fun t => Host.Outcome.next (setChan t ch ((chanSt s ch).sent m))) (queueTx_joins (m := collTx s m) hrun)

/-! ### A chunk that comes (R340, R341) -/

/-- The checks that a chunk of the running command passes. -/
def ChunkValid (s : State) (c : ChanSt) (b : List Byte) (m : CollMsg) : Prop :=
  m.src = prevNode s c ∧ slice m.bytes 16 4 = slice c.group 4 4 ∧ msgSeq m = clSeq b ∧ msgKind m ≤ 5 ∧
    chunkForm (clNelem b) (collP c) m = true

/-- The values that a chunk brings where `bs` is the message with its data, and the words of OUT after it. -/
def chunkGot (c : ChanSt) (b : List Byte) (m : CollMsg) (bs : List Byte) : List Word32 :=
  chunkValues bs (field m.bytes 8 4) (chunkLen (clNelem b) (collP c) (field m.bytes 8 4))
def chunkKept (s : State) (c : ChanSt) (b : List Byte) (m : CollMsg) (bs : List Byte) : List Word32 :=
  if msgKind m ≤ 1 then
    (List.zip (chunkGot c b m bs) (outWords s b (field m.bytes 8 4) (chunkLen (clNelem b) (collP c) (field m.bytes 8 4)))).map
      fun e => f32add (f32add 0 e.1) e.2
  else chunkGot c b m bs

theorem chunkKept_congr {s u : State} (h : u.memory = s.memory) (c : ChanSt) (b : List Byte) (m : CollMsg) (bs : List Byte) :
    chunkKept u c b m bs = chunkKept s c b m bs := by
  unfold chunkKept outWords
  rw [memRead_congr h]

/-- A channel that has counted a chunk of its phase. -/
def countChunk (c : ChanSt) (m : CollMsg) : ChanSt :=
  { c with recvR := if msgKind m ≤ 1 then c.recvR + 1 else c.recvR, recvG := if msgKind m ≤ 1 then c.recvG else c.recvG + 1 }

theorem mergeChunk_writes {s : State} {ch : Nat} {b : List Byte} {m : CollMsg}
    (hone : OneMemory (clOut b + 4 * field m.bytes 8 4) (bytes32 (chunkKept s (chanSt s ch) b m m.bytes)).length) :
    ChanWrites s (mergeChunk s ch b m) ch (clOut b + 4 * field m.bytes 8 4) (bytes32 (chunkKept s (chanSt s ch) b m m.bytes))
      (countChunk (chanSt s ch) m) := by
  unfold mergeChunk
  extract_lets c p n step ibase len got tag forward
  have hforward (gather : Bool) (i : Nat) (vs : List Word32) {t : State} {a : Nat} {bs : List Byte} {v : ChanSt}
      (h : ChanWrites s t ch a bs v) : ChanWrites s (forward gather i vs t) ch a bs v := h.queues [_]
  by_cases hk : msgKind m ≤ 1
  · have hstored := ChanWrites.of_memWrite (ch := ch) (memory_noteMem s (clOut b + 4 * ibase) (4 * len))
      (besideMove_noteMem s (clOut b + 4 * ibase) (4 * len)) hone fun c => { c with recvR := c.recvR + 1 }
    rw [chunkKept, if_pos hk] at hstored ⊢
    rw [if_pos hk, countChunk, if_pos hk, if_pos hk]
    split
    · exact hforward _ _ _ hstored
    · exact hforward _ _ _ hstored
  · have hstored := ChanWrites.of_memWrite (ch := ch) (s := s) rfl rfl hone fun c => { c with recvG := c.recvG + 1 }
    rw [chunkKept, if_neg hk] at hstored ⊢
    rw [if_neg hk, countChunk, if_neg hk, if_neg hk]
    split
    · exact hforward _ _ _ hstored
    · exact hstored

/-! ### A chunk with the data of its buffer (R340) -/

theorem slice_fromBuf (s : State) (c : ChanSt) (m : CollMsg) {i n : Nat} (h : i + n ≤ 24) :
    slice (fromBuf s c m).2.bytes i n = slice m.bytes i n := by
  unfold fromBuf
  extract_lets len
  split
  · rfl
  · next hbuf =>
    have hlen : 24 ≤ m.bytes.length := by omega
    simp only [slice]
    rw [List.drop_append_of_le_length (by rw [List.length_take]; omega),
      List.take_append_of_le_length (by rw [List.length_drop, List.length_take]; omega), List.drop_take, List.take_take,
      Nat.min_eq_left (by omega)]

/-- The data of its buffer leaves the header of a message. -/
theorem field_fromBuf (s : State) (c : ChanSt) (m : CollMsg) {i n : Nat} (h : i + n ≤ 24) :
    field (fromBuf s c m).2.bytes i n = field m.bytes i n := congrArg ofBytes (slice_fromBuf s c m h)

theorem chunkKept_fromBuf (s t : State) (c v : ChanSt) (b : List Byte) (m : CollMsg) (bs : List Byte) :
    chunkKept t v b (fromBuf s c m).2 bs = chunkKept t v b m bs := by
  unfold chunkKept chunkGot msgKind
  rw [field_fromBuf s c m (by decide), field_fromBuf s c m (by decide)]

theorem countChunk_fromBuf (s : State) (c v : ChanSt) (m : CollMsg) : countChunk v (fromBuf s c m).2 = countChunk v m := by
  unfold countChunk msgKind
  rw [field_fromBuf s c m (by decide)]

theorem creditBytes_fromBuf (s : State) (ch : Nat) (c v : ChanSt) (m : CollMsg) :
    creditBytes ch v (fromBuf s c m).2 = creditBytes ch v m := by
  unfold creditBytes msgSeq
  rw [field_fromBuf s c m (by decide)]

theorem memory_fromBuf (s : State) (c : ChanSt) (m : CollMsg) : (fromBuf s c m).1.memory = s.memory := by
  unfold fromBuf
  extract_lets len
  split
  · rfl
  · exact memory_noteMem ..

theorem besideMove_fromBuf (s : State) (c : ChanSt) (m : CollMsg) : (fromBuf s c m).1.besideMove = s.besideMove := by
  unfold fromBuf
  extract_lets len
  split
  · rfl
  · exact besideMove_noteMem ..

/-- The data of a message do not depend on the channels. -/
theorem fromBuf_setChan (s : State) (ch : Nat) (v c : ChanSt) (m : CollMsg) : (fromBuf (setChan s ch v) c m).2 = (fromBuf s c m).2 := by
  unfold fromBuf
  extract_lets len
  split <;> rfl

/-! ### COLL -/

theorem chunkValid_iff {s : State} {c : ChanSt} {b : List Byte} {m : CollMsg} : ChunkValid s c b m ↔
    ¬(m.src ≠ prevNode s c ∨ slice m.bytes 16 4 ≠ slice c.group 4 4 ∨ msgSeq m ≠ clSeq b ∨ msgKind m > 5 ∨
      (!chunkForm (clNelem b) (collP c) m) = true) := by
  simp only [ChunkValid, not_or, not_not, ne_eq, not_lt, Bool.not_eq_true', Bool.not_eq_false, gt_iff_lt]

/-- A CREDIT for a message goes back on the link it came by. -/
def sendCredit (s : State) (ch : Nat) (m : CollMsg) : State :=
  modChan s ch fun c => { c with outq := c.outq ++ [⟨chanRx c, false, creditBytes ch c m, s.cycle⟩] }

theorem ChanWrites.sendsCredit {s t : State} {ch a : Nat} {bs : List Byte} {v : ChanSt} (h : ChanWrites s t ch a bs v) (m : CollMsg) :
    ChanWrites s (sendCredit t ch m) ch a bs v := h.queues [_]

section
variable {s : State} {ch : Nat} {k : CollCmd} {m : CollMsg} (hch : ch < 16) (hrun : (chanSt s ch).running = some k)
  (hstate : (chanSt s ch).state = 3) (hfirst : firstChunk (chanSt s ch) = some m) (hsent : (chanSt s ch).abortSent = false)
include hch hrun hstate hfirst hsent

/-- The oldest chunk of the running command fails it, or is merged with the data of its buffer and a CREDIT for it goes back. -/
theorem coll_checks :
    exec (.coll ch) s = .next
      (if m.src ≠ prevNode s (chanSt s ch) ∨ slice m.bytes 16 4 ≠ slice (chanSt s ch).group 4 4 ∨ msgSeq m ≠ clSeq k.bytes ∨
          msgKind m > 5 ∨ (!chunkForm (clNelem k.bytes) (collP (chanSt s ch)) m) = true then
        chanFail (setChan s ch (takeMsg (chanSt s ch) m)) ch eDesc
      else sendCredit (mergeChunk (fromBuf (setChan s ch (takeMsg (chanSt s ch) m)) (chanSt s ch) m).1 ch k.bytes
        (fromBuf s (chanSt s ch) m).2) ch (fromBuf s (chanSt s ch) m).2) := by
  show execColl ch s = _
  unfold execColl
  rw [within_lt _ hch]
  dsimp only
  rw [hfirst]
  dsimp only
  rw [if_neg (by simp [hsent]), hrun]
  dsimp only
  rw [if_neg (by simp [hstate]), fromBuf_setChan]
  rfl

theorem coll_refuses (hbad : ¬ChunkValid s (chanSt s ch) k.bytes m) :
    exec (.coll ch) s = .next (chanFail (setChan s ch (takeMsg (chanSt s ch) m)) ch eDesc) :=
  (coll_checks hch hrun hstate hfirst hsent).trans
    (congrArg Host.Outcome.next (if_pos (not_not.mp fun h => hbad (chunkValid_iff.mpr h))))

theorem coll_merges (hok : ChunkValid s (chanSt s ch) k.bytes m) :
    exec (.coll ch) s = .next (sendCredit
      (mergeChunk (fromBuf (setChan s ch (takeMsg (chanSt s ch) m)) (chanSt s ch) m).1 ch k.bytes (fromBuf s (chanSt s ch) m).2) ch
      (fromBuf s (chanSt s ch) m).2) :=
  (coll_checks hch hrun hstate hfirst hsent).trans (congrArg Host.Outcome.next (if_neg (chunkValid_iff.mp hok)))

end

/-- A merged chunk is one write of OUT; the channel has counted it and goes on with what it forwards. -/
theorem mergeChunk_stores {s : State} {ch : Nat} {b : List Byte} {m : CollMsg}
    (hone : OneMemory (clOut b + 4 * field m.bytes 8 4)
      (bytes32 (chunkKept s (chanSt s ch) b m (fromBuf s (chanSt s ch) m).2.bytes)).length) :
    ChanWrites s (mergeChunk (fromBuf (setChan s ch (takeMsg (chanSt s ch) m)) (chanSt s ch) m).1 ch b (fromBuf s (chanSt s ch) m).2) ch
      (clOut b + 4 * field m.bytes 8 4) (bytes32 (chunkKept s (chanSt s ch) b m (fromBuf s (chanSt s ch) m).2.bytes))
      (countChunk (takeMsg (chanSt s ch) m) m) := by
  have hmem := memory_fromBuf (setChan s ch (takeMsg (chanSt s ch) m)) (chanSt s ch) m
  have hbeside := besideMove_fromBuf (setChan s ch (takeMsg (chanSt s ch) m)) (chanSt s ch) m
  generalize (fromBuf (setChan s ch (takeMsg (chanSt s ch) m)) (chanSt s ch) m).1 = u at hmem hbeside ⊢
  have hchan : chanSt u ch = takeMsg (chanSt s ch) m := (congrArg (chanSt · ch) hbeside :).trans (chanSt_setChan_same ..)
  have hkept : chunkKept u (chanSt u ch) b (fromBuf s (chanSt s ch) m).2 (fromBuf s (chanSt s ch) m).2.bytes =
      chunkKept s (chanSt s ch) b m (fromBuf s (chanSt s ch) m).2.bytes := by
    rw [hchan, chunkKept_congr hmem, chunkKept_fromBuf]
    rfl
  have hwrites := mergeChunk_writes (s := u) (ch := ch) (b := b) (m := (fromBuf s (chanSt s ch) m).2)
  rw [hkept, field_fromBuf _ _ _ (by decide), hchan, countChunk_fromBuf] at hwrites
  exact ((hwrites hone).from_besideMove hmem hbeside).from_setChan

/-- The CREDIT is the last message that the channel queues. -/
theorem chanSt_sendCredit {s t : State} {ch a : Nat} {bs : List Byte} {m : CollMsg}
    (h : ChanWrites s t ch a bs (countChunk (takeMsg (chanSt s ch) m) m)) (d : CollMsg) : ∃ ms, chanSt (sendCredit t ch d) ch =
      { countChunk (takeMsg (chanSt s ch) m) m with
        outq := (chanSt s ch).outq ++ ms ++ [⟨chanRx (chanSt s ch), false, creditBytes ch (chanSt s ch) d, t.cycle⟩] } := by
  obtain ⟨ms, hms⟩ := h.chan
  refine ⟨ms, ?_⟩
  rw [sendCredit, modChan_eq, chanSt_setChan_same, hms]
  rfl

/-! ### A command that fails (R343) -/

/-- What the failure of a channel's command leaves alone. -/
def State.besideFailure (s : State) : State :=
  { s with cmds := [], chans := [], free := 0, hbm := [], hbmFlips := [], staging := [], stgFlips := [] }

/-- The commands that wait in a channel are decided with the running one. -/
def failCmds (s : State) (c : ChanSt) (k : CollCmd) (code : Byte) : State :=
  forAll (c.fifo.filter (!·.close)) (fun k s => decideCmd s k.cmd eAborted 0) (decideCmd s k.cmd code 0)

/-- A channel whose running command has failed. -/
def failedChan (ch : Nat) (code : Byte) (cycle : Nat) (c : ChanSt) : ChanSt :=
  resetCredit { c with
    state := 1, running := none, fifo := c.fifo.filter (·.close), aborted := true, abortCnt := bump c.abortCnt 1
    lastCode := code, resIn := 0, resOut := [], recvR := 0, recvG := 0
    inbox := c.inbox.filter fun m => field m.bytes 4 4 ≠ c.seq.toNat
    outq := c.outq.filter (!·.paid) ++ (if collP c ≤ 1 then [] else [⟨chanTx c, false, abortBytes ch c code, cycle⟩])
    abortSent := decide (collP c > 1) }

theorem running_resetCredit (c : ChanSt) : (resetCredit c).running = c.running := by
  unfold resetCredit
  split <;> rfl

theorem running_forwardAbort (c : ChanSt) (bs : List Byte) : (forwardAbort c bs).running = c.running := by
  unfold forwardAbort
  split <;> rfl

theorem besideFailure_failCmds (s : State) (c : ChanSt) (k : CollCmd) (code : Byte) :
    (failCmds s c k code).besideFailure = s.besideFailure ∧ (failCmds s c k code).chans = s.chans :=
  ⟨forAll_keeps (f := fun (k : CollCmd) s => decideCmd s k.cmd eAborted 0) State.besideFailure (fun _ _ => rfl) _
      (decideCmd s k.cmd code 0),
    forAll_keeps (f := fun (k : CollCmd) s => decideCmd s k.cmd eAborted 0) State.chans (fun _ _ => rfl) _ (decideCmd s k.cmd code 0)⟩

/-- A command once decided stays so (R13). -/
theorem decideCmd_keeps_decided {s : State} {n site : Nat} {code code' : Byte} {m : Cmd} (hm : m ∈ s.cmds) (hc : m.code = some code') :
    m ∈ (decideCmd s n code site).cmds :=
  List.mem_map.mpr ⟨m, hm, by simp [hc]⟩

theorem failCmds_decides {s : State} {c : ChanSt} {k : CollCmd} {code : Byte} {x : Cmd} (hx : x ∈ s.cmds) (hid : x.id = k.cmd)
    (hopen : x.code = none) : { x with code := some code, site := 0 } ∈ (failCmds s c k code).cmds :=
  forAll_invariant (J := fun t : State => { x with code := some code, site := 0 } ∈ t.cmds)
    (fun _ _ h => decideCmd_keeps_decided h rfl) _ (decideCmd_decides hx hid hopen)

/-- Bytes that become free values leave everything else. -/
theorem undefMem_only (s : State) (a n : Nat) : (undefMem s a n).besideFailure = s.besideFailure ∧ (undefMem s a n).chans = s.chans ∧
    (undefMem s a n).cmds = s.cmds := by
  obtain ⟨_, _, _, _, h⟩ := memWrite_memOnly s a (freeBytes s n)
  unfold undefMem
  rw [h]
  exact ⟨rfl, rfl, rfl⟩

theorem chanAdvance_only (s : State) (ch : Nat) : (chanAdvance s ch).besideFailure = s.besideFailure ∧
    (chanAdvance s ch).cmds = s.cmds ∧ ((chanSt s ch).running = none → (chanSt (chanAdvance s ch) ch).running = none) ∧
    ∀ n, n ≠ ch → chanSt (chanAdvance s ch) n = chanSt s n := by
  unfold chanAdvance
  split
  · split
    · refine ⟨rfl, rfl, fun _ => ?_, fun n hn => chanSt_setChan_other _ _ hn⟩
      rw [chanClose, modChan_eq, chanSt_setChan_same]
    · exact ⟨rfl, rfl, id, fun _ _ => rfl⟩
  · exact ⟨rfl, rfl, id, fun _ _ => rfl⟩

/-- State `t` is `s` with the running command `k` of channel `ch` ended with `code`. -/
structure ChanFails (s t : State) (ch : Nat) (k : CollCmd) (code : Byte) : Prop where
  running : (chanSt t ch).running = none
  beside : t.besideFailure = s.besideFailure
  others : ∀ n, n ≠ ch → chanSt t n = chanSt s n
  decides : ∀ x ∈ s.cmds, x.id = k.cmd → x.code = none → ∃ y ∈ t.cmds, y.id = x.id ∧ y.code = some code

/-- The state in which the commands of a channel have failed and OUT of the running one is free values. -/
def failState (s : State) (c : ChanSt) (k : CollCmd) (code : Byte) : State :=
  undefMem (failCmds s c k code) (field k.bytes 56 8) (4 * field k.bytes 32 4)

theorem failState_only (s : State) (c : ChanSt) (k : CollCmd) (code : Byte) :
    (failState s c k code).besideFailure = s.besideFailure ∧ (failState s c k code).chans = s.chans ∧
    (failState s c k code).cmds = (failCmds s c k code).cmds := by
  obtain ⟨hbeside, hchans⟩ := besideFailure_failCmds s c k code
  obtain ⟨hundef, huchans, hucmds⟩ := undefMem_only (failCmds s c k code) (field k.bytes 56 8) (4 * field k.bytes 32 4)
  exact ⟨hundef.trans hbeside, huchans.trans hchans, hucmds⟩

theorem chanFail_eq {s : State} {ch : Nat} {k : CollCmd} (code : Byte) (hrun : (chanSt s ch).running = some k) :
    chanFail s ch code = chanAdvance (modChan (failState s (chanSt s ch) k code) ch
      (failedChan ch code (failState s (chanSt s ch) k code).cycle)) ch := by
  unfold chanFail
  dsimp only
  rw [hrun]
  rfl

theorem chanFail_fails {s : State} {ch : Nat} {k : CollCmd} (code : Byte) (hrun : (chanSt s ch).running = some k) :
    ChanFails s (chanFail s ch code) ch k code := by
  obtain ⟨hbeside, hchans, hcmds⟩ := failState_only s (chanSt s ch) k code
  rw [chanFail_eq code hrun]
  obtain ⟨habeside, hacmds, harun, haothers⟩ := chanAdvance_only (modChan (failState s (chanSt s ch) k code) ch
    (failedChan ch code (failState s (chanSt s ch) k code).cycle)) ch
  refine ⟨harun ?_, habeside.trans hbeside, fun n hn => ?_, fun x hx hid hopen => ?_⟩
  · rw [modChan_eq, chanSt_setChan_same]
    exact running_resetCredit _
  · rw [haothers n hn, modChan_eq, chanSt_setChan_other _ _ hn]
    exact congrArg (Tab.get {} · n) hchans
  · refine ⟨{ x with code := some code, site := 0 }, ?_, rfl, rfl⟩
    rw [hacmds]
    exact hcmds.symm ▸ failCmds_decides hx hid hopen

/-- A command that fails by a message which the channel has taken from its inbox. -/
theorem chanFail_takeMsg {s : State} {ch : Nat} {k : CollCmd} (m : CollMsg) (code : Byte) (hrun : (chanSt s ch).running = some k) :
    ChanFails s (chanFail (setChan s ch (takeMsg (chanSt s ch) m)) ch code) ch k code := by
  have h : ChanFails (setChan s ch (takeMsg (chanSt s ch) m)) (chanFail (setChan s ch (takeMsg (chanSt s ch) m)) ch code) ch k code :=
    chanFail_fails code (by rw [chanSt_setChan_same]; exact hrun)
  exact ⟨h.running, h.beside, fun n hn => (h.others n hn).trans (chanSt_setChan_other _ _ hn), h.decides⟩

/-- A channel whose command has failed goes on without a command. -/
theorem ChanFails.modChan {s t : State} {ch : Nat} {k : CollCmd} {code : Byte} (h : ChanFails s t ch k code) {f : ChanSt → ChanSt}
    (hf : ∀ c, (f c).running = c.running) : ChanFails s (modChan t ch f) ch k code := by
  refine ⟨?_, h.beside, fun n hn => ?_, h.decides⟩
  · rw [modChan_eq, chanSt_setChan_same, hf, h.running]
  · rw [modChan_eq, chanSt_setChan_other _ _ hn, h.others n hn]

theorem ChanFails.jobs {s t : State} {ch : Nat} {k : CollCmd} {code : Byte} (h : ChanFails s t ch k code) : t.jobs = s.jobs :=
  (congrArg State.jobs h.beside :)
theorem ChanFails.pips {s t : State} {ch : Nat} {k : CollCmd} {code : Byte} (h : ChanFails s t ch k code) : t.pips = s.pips :=
  (congrArg State.pips h.beside :)

/-! ### CREDIT and ABORT (R340, R343) -/

/-- A channel to which a CREDIT has given a credit back. -/
def ChanSt.credited (c : ChanSt) (m : CollMsg) : ChanSt :=
  { c with inbox := c.inbox.erase m, credits := min 16 (c.credits + 1), unacked := c.unacked - 1 }

section
variable {s : State} {ch : Nat} {k : CollCmd} {m : CollMsg} (hch : ch < 16) (hrun : (chanSt s ch).running = some k)
  (hseq : msgSeq m = clSeq k.bytes)
include hch hrun hseq

theorem credit_returns (hfirst : firstKind (chanSt s ch) 4 = some m) (hsrc : m.src = nextNode s (chanSt s ch))
    (htag : slice m.bytes 16 4 = slice (chanSt s ch).group 4 4) :
    exec (.credit ch) s = .next (setChan s ch ((chanSt s ch).credited m)) := by
  show execCredit ch s = _
  unfold execCredit
  rw [within_lt _ hch]
  dsimp only
  rw [hfirst]
  dsimp only
  rw [hrun]
  dsimp only
  rw [if_neg (by simp [hseq]), if_neg (by simp [hsrc, htag])]
  rfl

theorem abortMsg_fails (hfirst : firstKind (chanSt s ch) 5 = some m) (hsent : (chanSt s ch).abortSent = false) :
    ∃ t, exec (.abortMsg ch) s = .next t ∧ ChanFails s t ch k (BitVec.ofNat 8 (field m.bytes 12 1)) := by
  refine ⟨_, ?_, (chanFail_takeMsg m (BitVec.ofNat 8 (field m.bytes 12 1)) hrun).modChan (f := fun c => resetCredit
    { (if collP (takeMsg (chanSt s ch) m) ≤ 1 then c else forwardAbort c m.bytes) with abortGot := c.abortSent }) fun c => ?_⟩
  · show execAbortMsg ch s = _
    unfold execAbortMsg
    rw [within_lt _ hch]
    dsimp only
    rw [hfirst]
    dsimp only
    rw [if_neg (by simp [hsent]), hrun]
    dsimp only
    rw [if_neg (by simp [hseq])]
  · rw [running_resetCredit]
    dsimp only
    split
    · rfl
    · exact running_forwardAbort ..

end

end Sys2Proof.Machine

section
open Sys2Proof Sys2Proof.Machine

/-- Settles O44: a step of the ring is one write of OUT and what the channel then is, or the failure of the channel's command. -/
theorem collectiveSteps : Obligations.CollectiveSteps := by
  unfold Obligations.CollectiveSteps
  intro s ch hch
  refine ⟨fun k rest hrun hfifo hstate hclose hsent hready hmet hnelem =>
      ⟨_, localStep_starts hch hrun hfifo hstate hclose hsent hready (decide_eq_true hmet) hnelem, rfl⟩,
    fun k hrun hstate hres hpass hone => ?_,
    fun m l hnext hlink hl hroom hlong hahead =>
      ⟨_, chunkSend_sends hch hnext hlink hl hroom hlong hahead, rfl, linkSt_setLink_same .., chanSt_setChan_same ..⟩,
    fun k m hrun hstate hfirst hsent => ⟨fun hok hone => ?_, fun hbad => ⟨_, coll_refuses hch hrun hstate hfirst hsent hbad, ?_⟩⟩,
    fun k m hrun hfirst hseq hsrc htag => ⟨_, credit_returns hch hrun hseq hfirst hsrc htag, rfl⟩,
    fun k m hrun hfirst hseq hsent => ?_⟩
  · have h := localPass_writes (b := k.bytes) hone
    obtain ⟨ms, hchan⟩ := h.chan
    refine ⟨_, localStep_passes hch hrun hstate hres hpass, h.writes, h.work, ?_, ?_, ?_, h.others⟩
    · rw [hchan]; rfl
    · rw [hchan]; exact hrun
    · rw [hchan]; rfl
  · have h := mergeChunk_stores hone
    obtain ⟨ms, hchan⟩ := chanSt_sendCredit h (fromBuf s (chanSt s ch) m).2
    have hcredit := h.sendsCredit (fromBuf s (chanSt s ch) m).2
    refine ⟨_, coll_merges hch hrun hstate hfirst hsent hok, hcredit.writes, hcredit.work, hcredit.pips, ?_, ?_, ?_, ⟨ms, ?_⟩,
      hcredit.others⟩
    · rw [hchan]; rfl
    · rw [hchan]; rfl
    · rw [hchan]; rfl
    · rw [hchan, creditBytes_fromBuf, mergeChunk_cycle, fromBuf_cycle, setChan_cycle]
  · have h := chanFail_takeMsg m eDesc hrun
    exact ⟨h.running, h.jobs, h.pips, h.decides⟩
  · obtain ⟨t, hexec, h⟩ := abortMsg_fails hch hrun hseq hfirst hsent
    exact ⟨t, hexec, h.running, h.jobs, h.pips, h.others, h.decides⟩

end

/-! ## The ring operations (O13) -/

namespace Sys2Proof.Machine

/-! ### Words of entries (R206, R213) -/

theorem digits_lt (w : Nat) (l : List Nat) : digits w l < 2 ^ (w * l.length) := by
  induction l with
  | nil => exact Nat.one_pos
  | cons d l ih =>
    have hd : d % 2 ^ w < 2 ^ w := Nat.mod_lt _ (Nat.two_pow_pos w)
    rw [digits, List.length_cons, Nat.mul_succ, Nat.add_comm, Nat.pow_add]
    exact Nat.mul_add_lt_mul_of_lt_of_lt ih hd

theorem nth_digits (w : Nat) (l : List Nat) (j : Nat) : digits w l / 2 ^ (w * j) % 2 ^ w = nth l j 0 % 2 ^ w := by
  unfold nth
  induction l generalizing j with
  | nil => simp [digits]
  | cons d l ih =>
    cases j with
    | zero => simp [digits]
    | succ j =>
      have hrest : (d % 2 ^ w + 2 ^ w * digits w l) / 2 ^ w = digits w l := by
        rw [Nat.add_mul_div_left _ _ (Nat.two_pow_pos w), Nat.div_eq_of_lt (Nat.mod_lt _ (Nat.two_pow_pos w)), Nat.zero_add]
      rw [digits, Nat.mul_succ, Nat.add_comm (w * j), Nat.pow_add, ← Nat.div_div_eq_div_mul, hrest, ih, List.getD_cons_succ]

/-- The words of an entry are its lanes. -/
theorem lword_ofLanes {l : List Word32} (hl : l.length ≤ 32) (j : Nat) : lword (ofLanes l) j = (nth l j 0).toNat := by
  have hbits : 32 * (l.map BitVec.toNat).length ≤ 1024 := by rw [List.length_map]; omega
  have hlt : digits 32 (l.map BitVec.toNat) < 2 ^ 1024 := (digits_lt ..).trans_le (pow_le_pow_right₀ one_le_two hbits)
  have hlane : nth (l.map BitVec.toNat) j 0 = (nth l j 0).toNat := List.getD_map l (0 : Word32) BitVec.toNat
  unfold lword ofLanes
  rw [BitVec.toNat_ofNat, Nat.mod_eq_of_lt hlt, nth_digits, hlane, Nat.mod_eq_of_lt (nth l j 0).isLt]

theorem nth_groups {α : Type} (n : Nat) {fuel u : Nat} (l : List α) (h : u < fuel) :
    nth (groups n fuel l) u [] = (l.drop (n * u)).take n := by
  unfold nth
  induction fuel generalizing u l with
  | zero => omega
  | succ fuel ih =>
    cases l with
    | nil => simp [groups]
    | cons x l =>
      cases u with
      | zero => simp [groups]
      | succ u =>
        rw [groups, List.getD_cons_succ, ih _ (by omega), List.drop_drop, Nat.mul_succ, Nat.add_comm n]
        simp

/-- Word `j` of entry `u` of words packed into entries. -/
theorem lword_entriesOf {ws : List Nat} {u j : Nat} (hj : j < 32) (hu : 32 * u + j < ws.length) :
    lword (nth (entriesOf ws) u 0) j = nth ws (32 * u + j) 0 % 2 ^ 32 := by
  have hentry : nth (entriesOf ws) u 0 = ofLanes (((ws.drop (32 * u)).take 32).map (BitVec.ofNat 32)) := by
    rw [← nth_groups 32 ws (fuel := ws.length) (by omega)]
    exact List.getD_map (f := fun g : List Nat => ofLanes (g.map (BitVec.ofNat 32))) (d := []) ..
  rw [hentry, lword_ofLanes (by simp)]
  unfold nth
  rw [List.getD_eq_getElem _ _ hu, List.getD_eq_getElem _ _ (by simp; omega)]
  simp

theorem nth_lanes (e : Line) {j : Nat} (hj : j < 32) : (nth (lanes e) j 0).toNat = lword e j := by
  unfold nth lanes lword
  rw [List.getD_eq_getElem _ _ (by simpa using hj)]
  simp

theorem length_redWords (q : Nat) (es : List Line) : (redWords q es).length = 32 * es.length := by
  induction es with
  | nil => rfl
  | cons e es ih =>
    unfold redWords at ih ⊢
    rw [List.flatMap_cons, List.length_append, ih]
    simp [lanes]
    omega

/-- Word `j` of entry `u` among the reduced words of entries. -/
theorem nth_redWords (q : Nat) {es : List Line} {u j : Nat} (hj : j < 32) (hu : u < es.length) :
    nth (redWords q es) (32 * u + j) 0 = lword (nth es u 0) j % max 1 q := by
  induction es generalizing u with
  | nil => simp at hu
  | cons e es ih =>
    have hlen : ((lanes e).map fun w => w.toNat % max 1 q).length = 32 := by simp [lanes]
    have hwords : redWords q (e :: es) = ((lanes e).map fun w => w.toNat % max 1 q) ++ redWords q es := List.flatMap_cons
    rw [hwords]
    cases u with
    | zero =>
      have hlane : j < (lanes e).length := by simpa [lanes] using hj
      rw [Nat.mul_zero, Nat.zero_add, show nth (e :: es) 0 0 = e from rfl, ← nth_lanes e hj]
      unfold nth
      rw [List.getD_append _ _ _ _ (by omega), List.getD_eq_getElem _ _ (by omega), List.getElem_map, List.getD_eq_getElem _ _ hlane]
    | succ u =>
      rw [show nth (e :: es) (u + 1) 0 = nth es u 0 from rfl, ← ih (by simpa using hu)]
      unfold nth
      rw [List.getD_append_right _ _ _ _ (by omega), hlen, show 32 * (u + 1) + j - 32 = 32 * u + j by omega]

section
variable {q u j : Nat} (hj : j < 32) {es : List Line} (hu : u < es.length)
include hj hu

/-- A function of one operand, word by word. -/
theorem lword_map (f : Nat → Nat) : lword (nth (entriesOf ((redWords q es).map f)) u 0) j =
    f (lword (nth es u 0) j % max 1 q) % 2 ^ 32 := by
  have hin : 32 * u + j < (redWords q es).length := by rw [length_redWords]; omega
  have hout : 32 * u + j < ((redWords q es).map f).length := by rwa [List.length_map]
  rw [lword_entriesOf hj hout, ← nth_redWords q hj hu]
  unfold nth
  rw [List.getD_eq_getElem _ _ hout, List.getD_eq_getElem _ _ hin, List.getElem_map]

/-- A function of two operands, word by word. -/
theorem lword_zipWith (f : Nat → Nat → Nat) {es' : List Line} (hu' : u < es'.length) :
    lword (nth (entriesOf (List.zipWith f (redWords q es) (redWords q es'))) u 0) j =
      f (lword (nth es u 0) j % max 1 q) (lword (nth es' u 0) j % max 1 q) % 2 ^ 32 := by
  have ha : 32 * u + j < (redWords q es).length := by rw [length_redWords]; omega
  have hb : 32 * u + j < (redWords q es').length := by rw [length_redWords]; omega
  have hout : 32 * u + j < (List.zipWith f (redWords q es) (redWords q es')).length := by
    rw [List.length_zipWith]
    exact lt_min ha hb
  rw [lword_entriesOf hj hout, ← nth_redWords q hj hu, ← nth_redWords q hj hu']
  unfold nth
  rw [List.getD_eq_getElem _ _ hout, List.getD_eq_getElem _ _ ha, List.getD_eq_getElem _ _ hb, List.getElem_zipWith]

end

/-! ### Results of the element-wise functions (Table 8.4) -/

/-- A prime of the table has 32 bits, so a residue modulo it is a word. -/
theorem mod_primeQ_word (im : List Byte) (e x : Nat) : x % max 1 (primeQ im e) % 2 ^ 32 = x % max 1 (primeQ im e) := by
  have hlen : (slice im (256 + 16 * e) 4).length ≤ 4 := by unfold slice; simp
  have hq : primeQ im e < 2 ^ 32 := (ofBytes_lt _).trans_le (Nat.pow_le_pow_right (by decide) hlen)
  have hmod : x % max 1 (primeQ im e) < max 1 (primeQ im e) := Nat.mod_lt _ (by omega)
  exact Nat.mod_eq_of_lt (by omega)

section
variable (im : List Byte) (slot prime cidx pip : Nat) {u j : Nat} {inp : List Line} (hj : j < 32)
include hj

/-- Entries in even places are operand a, entries in odd places operand b (R214). -/
theorem lword_splitAb (q : Nat) (f : Nat → Nat → Nat) (hu : u < inp.length / 2) :
    lword (nth (entriesOf (List.zipWith f (redWords q (splitAb inp).1) (redWords q (splitAb inp).2))) u 0) j =
      f (lword (nth inp (2 * u) 0) j % max 1 q) (lword (nth inp (2 * u + 1) 0) j % max 1 q) % 2 ^ 32 := by
  have ha : u < (splitAb inp).1.length := by simpa [splitAb] using hu
  have hb : u < (splitAb inp).2.length := by simpa [splitAb] using hu
  have hea : nth (splitAb inp).1 u 0 = nth inp (2 * u) 0 := by
    rw [nth, List.getD_eq_getElem _ _ ha]
    simp [splitAb]
  have heb : nth (splitAb inp).2 u 0 = nth inp (2 * u + 1) 0 := by
    rw [nth, List.getD_eq_getElem _ _ hb]
    simp [splitAb]
  rw [lword_zipWith hj ha f hb, hea, heb]

/-- A function of one operand on entries that are just its limb. -/
theorem lword_limb (q : Nat) (f : Nat → Nat) {n : Nat} (hu : u < n) (hlen : inp.length = n) :
    lword (nth (entriesOf ((redWords q (slice inp (0 * n) n)).map f)) u 0) j = f (lword (nth inp u 0) j % max 1 q) % 2 ^ 32 := by
  have hlimb : slice inp (0 * n) n = inp := by simp [slice, ← hlen]
  rw [hlimb]
  exact lword_map hj (hlen ▸ hu) f

/-- EADD, ESUB and EMUL take their two operands word by word. -/
theorem lword_ringOut_pair (hu : u < inp.length / 2) :
    let q := primeQ im prime
    let a := lword (nth inp (2 * u) 0) j % max 1 q
    let b := lword (nth inp (2 * u + 1) 0) j % max 1 q
    lword (nth (ringOut im 0x4 slot prime cidx pip inp) u 0) j = (a + b) % max 1 q ∧
    lword (nth (ringOut im 0x5 slot prime cidx pip inp) u 0) j = (a + q - b) % max 1 q ∧
    lword (nth (ringOut im 0x6 slot prime cidx pip inp) u 0) j = montMul q a b % 2 ^ 32 :=
  ⟨(lword_splitAb hj _ (fun x y => (x + y) % max 1 (primeQ im prime)) hu).trans (mod_primeQ_word ..),
    (lword_splitAb hj _ (fun x y => (x + primeQ im prime - y) % max 1 (primeQ im prime)) hu).trans (mod_primeQ_word ..),
    lword_splitAb hj _ (montMul (primeQ im prime)) hu⟩

/-- MULC, TOMONT and FROMMONT take the words of one limb. -/
theorem lword_ringOut_limb (hu : u < slotM im slot / 32) (hlen : inp.length = slotM im slot / 32) :
    let q := primeQ im prime
    let a := lword (nth inp u 0) j % max 1 q
    lword (nth (ringOut im 0x7 slot prime cidx pip inp) u 0) j = montMul q a (field im (1408 + 4 * cidx) 4) % max 1 q ∧
    lword (nth (ringOut im 0xA slot prime cidx pip inp) u 0) j = toMont q a ∧
    lword (nth (ringOut im 0xB slot prime cidx pip inp) u 0) j = montMul q a 1 % 2 ^ 32 :=
  ⟨(lword_limb hj _ (fun x => montMul (primeQ im prime) x (field im (1408 + 4 * cidx) 4) % max 1 (primeQ im prime)) hu hlen).trans
      (mod_primeQ_word ..),
    (lword_limb hj _ (toMont (primeQ im prime)) hu hlen).trans (mod_primeQ_word ..),
    lword_limb hj _ (fun x => montMul (primeQ im prime) x 1) hu hlen⟩

end

/-! ### The start of an operation (R39, R212, R213) -/

/-- A pip on which RING function `rfn` starts in cycle `c`, its slot's cursor moved past the limbs that it takes. -/
def ringStarted (q : PipSt) (c rfn : Nat) (o : GOp) : PipSt :=
  let cur := Tab.get 0 q.rng.cursors o.rslot
  let next := if rfn = 0x8 then cur else (cur + o.count) % max 1 (slotPcount q.rng.image o.rslot)
  { q with
    rng := { q.rng with cursors := Tab.set 0 q.rng.cursors o.rslot next }
    st := { q.st with rfn := rfn, rslot := o.rslot }
    ops := { q.ops with ring := some { rfn := rfn, slot := o.rslot, count := o.count, sq := o.sq, cur := cur, due := c } } }

/-- The status with DESC_ERR (Table 8.9). -/
def descErred (q : PipSt) : PipSt := { q with st := { q.st with descErr := true } }

section
variable {q : PipSt} {c rfn : Nat} {o : GOp}

theorem ringStart_starts (hslot : slotOk q.rng.image o.rslot = true) (hkout : rfn = 0xC → o.count = 1)
    (hauto : rfn = 0x9 → slotGexp q.rng.image o.rslot ≠ 0) :
    ringStart q c rfn o.rslot o.count o.sq = done (ringStarted q c rfn o) := by
  have hfits : ¬ ((rfn = 0xC && o.count ≠ 1) || (rfn = 0x9 && slotGexp q.rng.image o.rslot = 0)) = true := by
    simpa using ⟨hkout, hauto⟩
  have hlimbs : (if rfn = 0xC then 1 else o.count) = o.count := ite_eq_right_iff.mpr fun h => (hkout h).symm
  unfold ringStart ringStarted
  dsimp only
  rw [hslot, if_neg (by simp), if_neg hfits, hlimbs]

theorem ringStart_refuses (hslot : slotOk q.rng.image o.rslot = false) :
    ringStart q c rfn o.rslot o.count o.sq = failWith (descErred q) eDesc :=
  if_pos (by rw [hslot]; rfl)

end

section
variable {s : State} {p rfn : Nat} {i : Instr} {o : GOp} (hok : gOk o = true) (hready : ringReady (pipOf s p) s.cycle = true)
  (hfree : ringBusy (pipOf s p) = false) (hr : Ready s p true i)
include hok hready hfree hr

theorem issueRing_starts (hslot : slotOk (pipOf s p).rng.image o.rslot = true) (hkout : rfn = 0xC → o.count = 1)
    (hauto : rfn = 0x9 → slotGexp (pipOf s p).rng.image o.rslot ≠ 0) :
    Effect s (issueRing s p rfn i o) p true (ringStarted (pipOf s p) s.cycle rfn o) := by
  refine issue_effect hr hok ?_
  rw [hready, hfree, ringStart_starts hslot hkout hauto]
  rfl

theorem issueRing_refuses (hslot : slotOk (pipOf s p).rng.image o.rslot = false) :
    (pipOf (issueRing s p rfn i o) p).job = 0 ∧ (pipOf (issueRing s p rfn i o) p).st.lastCode = eDesc ∧
    (pipOf (issueRing s p rfn i o) p).st.descErr = true ∧ (pipOf (issueRing s p rfn i o) p).regs = (pipOf s p).regs := by
  obtain ⟨hjob, hcode, hregs, hstat⟩ := issue_fails_pip (q := descErred (pipOf s p)) (c := eDesc) hr hok
    (f := fun q => attempt (busyIf (!ringReady q s.cycle || ringBusy q)) (ringStart q s.cycle rfn o.rslot o.count o.sq))
    (by rw [hready, hfree, ringStart_refuses hslot]; rfl) rfl (by decide)
  exact ⟨hjob, hcode, (congrArg PipStat.descErr hstat :), hregs⟩

end

/-- The RING instructions with their functions (Table 8.4). -/
def ringInstrs (p d : Nat) (o : GOp) : List (Instr × Nat) :=
  [(.nttl p d o, 0x0), (.nttx p d o, 0x1), (.intx p d o, 0x2), (.intl p d o, 0x3), (.eadd p d o, 0x4), (.esub p d o, 0x5),
    (.emul p d o, 0x6), (.mulc p d o, 0x7), (.kmac p d o, 0x8), (.auto p d o, 0x9), (.tomont p d o, 0xA), (.frommont p d o, 0xB),
    (.kout p d o, 0xC)]

/-- They share one start. -/
theorem exec_ringInstr {p d : Nat} {o : GOp} (s : State) : ∀ x ∈ ringInstrs p d o,
    exec x.1 s = within 10240 p (issueRing s p x.2 x.1 o) := by
  unfold ringInstrs
  simp only [List.forall_mem_cons]
  exact ⟨rfl, rfl, rfl, rfl, rfl, rfl, rfl, rfl, rfl, rfl, rfl, rfl, rfl, by simp⟩

/-! ### The last cycle of a KOUT (R222, R227) -/

/-- The cycle of an operation that nothing stalls is that of its limb (R214). -/
theorem ringMove_moves {q : PipSt} {c : Nat} {op : RingOp} (pip : Nat) (hop : q.ops.ring = some op) (hdue : op.due ≤ c)
    (hk : op.k < op.count) (hfree : ringStall q op = []) : (ringMove c pip q).p = (ringCycle q c op pip).p := by
  unfold ringMove ringStep unitMove
  rw [hop]
  dsimp only
  rw [if_neg (by omega), hfree]
  dsimp only
  split <;> rfl

/-- The last cycle of a limb ends it, once its pops and its push are done. -/
theorem ringCycle_last (q : PipSt) (c : Nat) {op : RingOp} (pip : Nat) (hlast : opT q op ≤ op.t + 1) :
    ∃ r o, ringCycle q c op pip = limbEnd r o pip ∧ o.rfn = op.rfn ∧ r.cnt.limb = q.cnt.limb := by
  unfold ringCycle
  extract_lets n T fly op1 p1 op2 p2 e p3 op3
  have h1 : op1.rfn = op.rfn ∧ p1.cnt.limb = q.cnt.limb := by
    unfold op1 p1
    split
    · exact ⟨rfl, rfl⟩
    · exact ⟨rfl, rfl⟩
  have h2 : op2.rfn = op1.rfn ∧ p2.cnt.limb = p1.cnt.limb := by
    unfold op2 p2
    split
    · exact ⟨rfl, rfl⟩
    · exact ⟨rfl, rfl⟩
  have h3 : p3.cnt.limb = p2.cnt.limb := by
    unfold p3
    clear_value e
    split
    · rfl
    · rfl
  exact ⟨_, op3, if_neg (Nat.not_lt.mpr hlast), h2.1.trans h1.1, h3.trans (h2.2.trans h1.2)⟩

/-- The end of a KOUT clears the planes and counts a limb. -/
theorem limbEnd_kout (r : PipSt) {o : RingOp} (pip : Nat) (ho : o.rfn = 0xC) : (limbEnd r o pip).p.rng.ap0 = [] ∧
    (limbEnd r o pip).p.rng.ap1 = [] ∧ (limbEnd r o pip).p.cnt.limb = bump r.cnt.limb 1 := by
  unfold limbEnd
  rw [ho]
  exact ⟨rfl, rfl, rfl⟩

/-! ### The end of an operation (R214) -/

theorem ringOpComplete_frees {s : State} {p : Nat} (hp : p < 10240) (hfree : ringBusy (pipOf s p) = false) :
    exec (.ringOpComplete p) s = .next (setPip s p { pipOf s p with
      ops := { (pipOf s p).ops with ring := none }, st := { (pipOf s p).st with waitq := 0 } }) := by
  refine (within_lt _ hp).trans (congrArg Host.Outcome.next ?_)
  rw [hfree, if_neg (by simp), modPip_eq]

end Sys2Proof.Machine

section
open Sys2Proof Sys2Proof.Machine

/-- Settles O13: the thirteen instructions share one start; a word of a result is the function of the words in its place. -/
theorem ringInstructions : Obligations.RingInstructions := by
  intro s p d
  refine ⟨fun i rfn o hi hok hready hfree hr => ?_,
    fun im slot prime cidx pip u j inp hj hu => lword_ringOut_pair im slot prime cidx pip hj hu,
    fun im slot prime cidx pip u j inp hj hu hlen => lword_ringOut_limb im slot prime cidx pip hj hu hlen,
    fun q c pip op hop hdue hk hfree hkout hlast => ?_, fun hfree hp => ⟨_, ringOpComplete_frees hp hfree, rfl⟩⟩
  · have hexec : exec i s = .next (issueRing s p rfn i o) := (exec_ringInstr s (i, rfn) hi).trans (within_lt _ hr.1)
    exact ⟨fun hslot hone hauto => ⟨_, hexec, issueRing_starts hok hready hfree hr hslot hone hauto⟩,
      fun hslot => ⟨_, hexec, issueRing_refuses hok hready hfree hr hslot⟩⟩
  · obtain ⟨r, o, hend, hrfn, hlimb⟩ := ringCycle_last q c pip hlast
    rw [ringMove_moves pip hop hdue hk hfree, hend, ← hlimb]
    exact limbEnd_kout r pip (hrfn.trans hkout)

end

/-! ## The instructions of an address-generator program (O30) -/

namespace Sys2Proof.Machine

section
variable {s : State} {p e op w : Nat} {g : Engine}

/-- The engine that executes an instruction is the engine of its pip as it stands. -/
theorem agAt_engOf (h : agAt s p e op = some (g, w)) : engOf (pipOf s p) e = g := by
  unfold agAt at h
  dsimp only at h
  split at h
  · exact congrArg Prod.fst (Option.some.inj h)
  · cases h

/-- An instruction of the engine alone leaves the engine that it computes, to act again in the next cycle (R255). -/
theorem exec_agRun {i : Instr} {f : Engine → Nat → Engine} (hp : p < 10240) (h : agAt s p e op = some (g, w))
    (hi : exec i s = within 10240 p (agRun s p e op f)) :
    exec i s = .next (setPip s p (setEng (pipOf s p) e (actNext s.cycle (f g w)))) := by
  refine hi.trans ((within_lt _ hp).trans (congrArg Host.Outcome.next ?_))
  unfold agRun
  rw [h]
  rfl

/-! ### LOOP and XFER (R254) -/

/-- The repetitions that a LOOP asks for. -/
def loopCount (g : Engine) (w : Nat) : Nat := if bit w 43 then (gReg g (agGs w)).toNat % 2 ^ 16 else bits w 15 0

/-- A LOOP of count 0 passes its body; any other enters it. -/
theorem agEnter_eq (g : Engine) (w : Nat) : agEnter g w = if loopCount g w = 0
    then { g with pc := (afterLast (g.pc + bits w 49 44) g.loops).1, loops := (afterLast (g.pc + bits w 49 44) g.loops).2 }
    else { g with pc := g.pc + 1, loops := ⟨bits w 51 50, g.pc + 1, g.pc + bits w 49 44, loopCount g w⟩ :: g.loops } := rfl

/-- The engine with the lines of an XFER to request; POST moves its register past them. -/
def xferring (g : Engine) (w : Nat) : Engine :=
  { agNext g with
    todo := [⟨(gReg g (agGs w)).toNat, g.pos, bits w 15 0, false⟩], pos := g.pos + bits w 15 0,
    g := if bit w 16 then Tab.set 0 g.g (agGs w) (gReg g (agGs w) + BitVec.ofNat 64 (128 * bits w 15 0)) else g.g }

section
variable (hp : p < 10240) (h : agAt s p e 0x05 = some (g, w))
include hp h

theorem exec_xfer_aligned (ha : (gReg g (agGs w)).toNat % 128 = 0) :
    exec (.xfer p e) s = .next (setPip s p (setEng (pipOf s p) e (xferring g w))) := by
  show execXfer p e s = _
  unfold execXfer
  rw [within_lt _ hp, h]
  refine congrArg Host.Outcome.next ((if_neg (not_not.mpr ha)).trans ?_)
  unfold xferring
  split <;> rfl

theorem exec_xfer_misaligned (ha : (gReg g (agGs w)).toNat % 128 ≠ 0) : exec (.xfer p e) s = .next (failPip s p eDesc false) := by
  show execXfer p e s = _
  unfold execXfer
  rw [within_lt _ hp, h]
  exact congrArg Host.Outcome.next (if_pos ha)

end

/-! ### Dependence marks (R90, R258) -/

section
variable (hp : p < 10240) (h : agAt s p e 0x08 = some (g, w))
include hp h

/-- A WAITSO of an object of its job marks its engine; one of another object ends the job (R91, R258). -/
theorem exec_waitso {j : Job} (hm : g.marked = false) (hj : jobOfPip s p = some j) :
    exec (.waitso p e) s = .next (if ownsSync s j.ctx (bits w 45 32)
      then setPip s p (setEng (pipOf s p) e (actNext s.cycle { g with marked := true, met := false }))
      else failPip s p eBounds false) := by
  show execWaitso p e s = _
  unfold execWaitso
  rw [within_lt _ hp, h, hj]
  exact congrArg Host.Outcome.next (if_neg (by simp [hm]))

theorem exec_dependenceMarkRelease_met (hm : g.marked = true) (hmet : g.met = true) : exec (.dependenceMarkRelease p e) s =
    .next (setPip s p (setEng (pipOf s p) e (agNext { g with marked := false, met := false }))) := by
  show execDependenceMarkRelease p e s = _
  unfold execDependenceMarkRelease
  rw [within_lt _ hp, h]
  exact congrArg Host.Outcome.next ((if_neg (by simp [hm])).trans (if_pos hmet))

theorem exec_dependenceMarkRelease_held (hm : g.marked = true) (hmet : g.met = false)
    (hready : syncReady s (bits w 45 32) = true) : exec (.dependenceMarkRelease p e) s = .next (markHeld s p e) := by
  show execDependenceMarkRelease p e s = _
  unfold execDependenceMarkRelease
  rw [within_lt _ hp, h]
  exact congrArg Host.Outcome.next
    ((if_neg (by simp [hm])).trans ((if_neg (by simp [hmet])).trans (if_neg (by simp [hready]))))

end

/-- The object of a mark can be read and, less the threshold, is not negative (R89, R93). -/
def markReached (s : State) (w : Nat) : Bool :=
  syncReady s (bits w 45 32) && satisfied (syncVal s (bits w 45 32)) (BitVec.ofNat 32 (bits w 31 0))

/-- The test at the end of a cycle tells whether the mark of an engine is reached (R90). -/
theorem engOf_testMark (hg : engOf (pipOf s p) e = g) (hw : recInstr g.record g.pc = w) (hrun : g.running = true)
    (hm : g.marked = true) (hmet : g.met = false) :
    engOf (pipOf (testMark s p e) p) e = { g with met := markReached s w } := by
  subst hg hw
  have htest : testMark s p e = if markReached s (recInstr (engOf (pipOf s p) e).record (engOf (pipOf s p) e).pc)
      then setPip s p (setEng (pipOf s p) e { engOf (pipOf s p) e with met := true }) else s :=
    if_congr (by simp [hrun, hm, markReached]) rfl rfl
  rw [htest]
  split
  · next hreached => rw [pipOf_setPip_same, engOf_setEng_same, hreached]
  · next hreached => rw [Bool.eq_false_iff.mpr hreached, ← hmet]

/-! ### SIGSO (R254, R267) -/

/-- Once the earlier transfers of the run are complete, SIGSO adds to an object of its job whose field is awake. -/
theorem exec_sigso {j : Job} (hp : p < 10240) (h : agAt s p e 0x09 = some (g, w)) (hmoved : movesDone (pipOf s p) e = true)
    (hj : jobOfPip s p = some j) (hown : ownsSync s j.ctx (bits w 45 32) = true) (hawake : syncReady s (bits w 45 32) = true) :
    exec (.sigso p e) s = .next
      (setPip (syncAdd s (bits w 45 32) (bits w 15 0)) p (setEng (pipOf s p) e (actNext s.cycle (agNext g)))) := by
  show execSigso p e s = _
  unfold execSigso
  rw [within_lt _ hp, h]
  exact congrArg Host.Outcome.next ((if_neg (by simp [hmoved])).trans (engSignal_adds hj hown hawake ..))

end

end Sys2Proof.Machine

section
open Sys2Proof Sys2Proof.Machine

/-- Settles O30: an instruction of the engine alone leaves the engine that it computes (`exec_agRun`); XFER, the marks and SIGSO
go by the branches of their checks. -/
theorem engineInstructions : Obligations.EngineInstructions := by
  intro s p e g w hp becomes after gd gs
  refine ⟨fun h => ⟨_, exec_agRun hp h rfl, rfl⟩, fun h => ⟨_, exec_agRun hp h rfl, rfl⟩, fun h => ⟨_, exec_agRun hp h rfl, rfl⟩,
    fun h => ⟨_, exec_agRun hp h rfl, rfl⟩, fun h => ⟨_, exec_agRun hp h rfl, rfl⟩,
    fun h => ⟨_, exec_agRun hp h rfl, by rw [agEnter_eq]; rfl⟩,
    fun h ha => ⟨_, exec_xfer_aligned hp h ha, rfl⟩, fun h ha => ⟨_, exec_xfer_misaligned hp h ha, rfl⟩,
    fun j h hm hj => ⟨fun hown => ⟨_, exec_waitso hp h hm hj, if_pos hown⟩,
      fun hown => ⟨_, exec_waitso hp h hm hj, if_neg (by simp [hown])⟩⟩,
    fun h hm => ⟨fun hmet => ⟨_, exec_dependenceMarkRelease_met hp h hm hmet, rfl⟩,
      fun hmet hready => ⟨_, exec_dependenceMarkRelease_held hp h hm hmet hready, ?_⟩⟩,
    fun hg hw hrun hm hmet => engOf_testMark hg.symm hw.symm hrun hm hmet,
    fun j h hmoved hj hown hawake => ⟨_, exec_sigso hp h hmoved hj hown hawake, rfl, pipOf_setPip_same ..,
      fun k hk => pipOf_setPip_other _ _ hk, fun i => syncVal_syncAdd s (bits w 45 32) i (bits w 15 0)⟩⟩
  rw [← agAt_engOf h]
  rfl

end

/-! ## Memory keeps its canonical form (O59, O60) -/

namespace Sys2Proof.Machine

/-- The memory of the state has its canonical form (log 6). -/
def State.Wf (s : State) : Prop := Memory.wf s = true

/-- A next state that an answer gives has its memory in the canonical form. -/
def NextWf (o : Host.Outcome State Fault Refusal) : Prop := ∀ t, o = .next t → t.Wf

variable {s : State}

/-- A state with the same HBM and staging buffers has the form too. -/
theorem State.Wf.keep {t : State} (wf : s.Wf) (same : (t.hbm, t.staging) = (s.hbm, s.staging)) : t.Wf := by
  obtain ⟨hbm, staging⟩ := Prod.mk.inj same
  unfold State.Wf Memory.wf
  rw [hbm, staging]
  exact wf

theorem Ends.keeps {t : State} (h : Ends s t) (wf : s.Wf) : t.Wf := h.wf wf

theorem written_wf {a : Nat} {bs : List Byte} (wf : s.Wf) : (memWrite s a bs).Wf := memWrite_wf s a bs wf

theorem wf_ite {c : Prop} [Decidable c] {t u : State} (wf_t : t.Wf) (wf_u : u.Wf) : (if c then t else u).Wf := by
  split <;> assumption

theorem wf_forAll {α : Type} {l : List α} {f : α → State → State} (wf : s.Wf)
    (h : ∀ a s, s.Wf → (f a s).Wf) : (forAll l f s).Wf :=
  forAll_wf h l s wf

/-- A fold that carries a value beside the state keeps the form where each of its steps does. -/
theorem wf_foldl {α β : Type} {l : List α} {f : State × β → α → State × β} {acc : State × β} (wf : acc.1.Wf)
    (h : ∀ acc a, acc.1.Wf → (f acc a).1.Wf) : (l.foldl f acc).1.Wf := by
  induction l generalizing acc with
  | nil => exact wf
  | cons a l ih => exact ih (h acc a wf)

theorem NextWf.next {t : State} (wf : t.Wf) : NextWf (.next t) := by
  rintro u ⟨⟩
  exact wf

theorem NextWf.within {n i : Nat} {t : State} (wf : t.Wf) : NextWf (within n i t) := by
  unfold Machine.within
  split
  · exact .next wf
  · exact fun _ h => by cases h


/-! ### Functions of Machine/Module -/

theorem setPip_wf {p : Nat} {v : PipSt} (wf : s.Wf) : (setPip s p v).Wf := wf.keep rfl
theorem modPip_wf {p : Nat} {f : PipSt → PipSt} (wf : s.Wf) : (modPip s p f).Wf := setPip_wf wf
theorem setPod_wf {d : Nat} {v : PodSt} (wf : s.Wf) : (setPod s d v).Wf := wf.keep rfl
theorem modPod_wf {d : Nat} {f : PodSt → PodSt} (wf : s.Wf) : (modPod s d f).Wf := setPod_wf wf
theorem setField_wf {i : Nat} {v : FieldSt} (wf : s.Wf) : (setField s i v).Wf := wf.keep rfl
theorem modField_wf {i : Nat} {f : FieldSt → FieldSt} (wf : s.Wf) : (modField s i f).Wf := setField_wf wf
theorem setCtx_wf {c : Nat} {v : CtxSt} (wf : s.Wf) : (setCtx s c v).Wf := wf.keep rfl
theorem modCtx_wf {c : Nat} {f : CtxSt → CtxSt} (wf : s.Wf) : (modCtx s c f).Wf := setCtx_wf wf
theorem setPart_wf {n : Nat} {v : PartSt} (wf : s.Wf) : (setPart s n v).Wf := wf.keep rfl
theorem modPart_wf {n : Nat} {f : PartSt → PartSt} (wf : s.Wf) : (modPart s n f).Wf := setPart_wf wf
theorem setStack_wf {k : Nat} {v : StackSt} (wf : s.Wf) : (setStack s k v).Wf := wf.keep rfl
theorem modStack_wf {k : Nat} {f : StackSt → StackSt} (wf : s.Wf) : (modStack s k f).Wf := setStack_wf wf
theorem setLink_wf {l : Nat} {v : LinkSt} (wf : s.Wf) : (setLink s l v).Wf := wf.keep rfl
theorem modLink_wf {l : Nat} {f : LinkSt → LinkSt} (wf : s.Wf) : (modLink s l f).Wf := setLink_wf wf
theorem setChan_wf {c : Nat} {v : ChanSt} (wf : s.Wf) : (setChan s c v).Wf := wf.keep rfl
theorem modChan_wf {c : Nat} {f : ChanSt → ChanSt} (wf : s.Wf) : (modChan s c f).Wf := setChan_wf wf
theorem setHost_wf {h : Nat} {v : HostSt} (wf : s.Wf) : (setHost s h v).Wf := wf.keep rfl
theorem modHost_wf {h : Nat} {f : HostSt → HostSt} (wf : s.Wf) : (modHost s h f).Wf := setHost_wf wf
theorem setHead_wf {h : Nat} {v : HeadSt} (wf : s.Wf) : (setHead s h v).Wf := wf.keep rfl
theorem modHead_wf {h : Nat} {f : HeadSt → HeadSt} (wf : s.Wf) : (modHead s h f).Wf := setHead_wf wf
theorem setHchan_wf {c : Nat} {v : HullChanSt} (wf : s.Wf) : (setHchan s c v).Wf := wf.keep rfl
theorem modHchan_wf {c : Nat} {f : HullChanSt → HullChanSt} (wf : s.Wf) : (modHchan s c f).Wf := setHchan_wf wf
theorem setGran_wf {staging : Bool} {g : Nat} {v : Granule} (wf : s.Wf) : (setGran s staging g v).Wf := wf_ite (wf.keep rfl) (wf.keep rfl)
theorem setJob_wf {j : Job} (wf : s.Wf) : (setJob s j).Wf := wf.keep rfl
theorem setCmd_wf {k : Cmd} (wf : s.Wf) : (setCmd s k).Wf := wf.keep rfl

/-! ### Functions of Machine/Ending -/

theorem afterTrans_wf {f : Nat} (wf : s.Wf) : (afterTrans s f).Wf := wf_ite ((lowerField_ends ..).keeps wf) wf
theorem endDrain_wf {j : Job} (wf : s.Wf) : (endDrain s j).Wf :=
  wf_ite ((leavePods_ends ..).keeps (wf_forAll ((dropWork_ends ..).keeps wf) fun _ _ wf => by exact wf.keep rfl)) wf
theorem writeRecord_wf {k : Cmd} {code : Byte} (wf : s.Wf) : (writeRecord s k code).Wf := wf_ite (written_wf wf) wf
theorem lateAdd_wf {i add : Nat} (wf : s.Wf) : (lateAdd s i add).Wf := wf_ite (wf.keep rfl) ((enableField_ends ..).keeps (wf.keep rfl))
theorem applyLate_wf (wf : s.Wf) : (applyLate s).Wf := wf_forAll wf fun _ _ wf => by exact wf_ite (wf.keep rfl) wf
theorem completeCmd_wf {k : Cmd} {code : Byte} (wf : s.Wf) : (completeCmd s k code).Wf := by
  unfold completeCmd
  extract_lets t _ u _ v
  have wf_t : t.Wf := wf_ite (wf_forAll wf fun _ _ wf => by exact wf.keep rfl) wf
  have wf_u : u.Wf := wf_ite (wf_forAll wf_t fun _ _ wf => by exact wf.keep rfl) wf_t
  have wf_v : v.Wf := wf_ite (lateAdd_wf (writeRecord_wf wf_u)) (writeRecord_wf wf_u)
  exact modCtx_wf (wf_ite (wf_ite (wf_v.keep rfl) wf_v) wf_v)
theorem quiesce_wf {c : Nat} (wf : s.Wf) : (quiesce s c).Wf :=
  wf_forAll (wf_forAll ((endJobs_ends ..).keeps (modCtx_wf wf)) fun _ _ wf =>
    (chanForce_ends ..).keeps wf) fun _ _ wf => by exact wf.keep rfl
theorem dropCtx_wf {c : Nat} (wf : s.Wf) : (dropCtx s c).Wf := wf.keep rfl
theorem hullDepart_wf {h ch : Nat} (wf : s.Wf) : (hullDepart h ch s).Wf := by
  unfold hullDepart
  extract_lets _ t
  refine wf_ite ?_ wf
  have wf_t : t.Wf := modHchan_wf wf
  split
  · exact modHchan_wf wf_t
  · exact modHchan_wf wf_t
  · exact modHchan_wf wf_t
  · exact modHchan_wf wf_t
  · exact wf_t
theorem departHost_wf {h : Nat} (wf : s.Wf) : (departHost s h).Wf := by
  unfold departHost
  refine wf_ite wf ?_
  extract_lets _ t _ u v
  have wf_t : t.Wf := wf_forAll wf fun _ _ wf => dropCtx_wf (quiesce_wf wf)
  have wf_v : v.Wf := wf_forAll (wf_t.keep rfl) fun _ _ => hullDepart_wf
  exact modHost_wf wf_v
theorem departAll_wf (wf : s.Wf) : (departAll s).Wf := wf_forAll wf fun _ _ => departHost_wf

/-! ### Functions of Machine/Lift -/

theorem issueBy_wf {p : Nat} {exe : Bool} {i : Instr} {act : PipSt → Attempt} (wf : s.Wf) : (issueBy s p exe i act).Wf := by
  unfold issueBy
  refine wf_ite wf ?_
  refine wf_ite (modPip_wf wf) ?_
  split
  · exact modPip_wf wf
  · exact settle_wf _ _ _ wf

/-! ### Functions of Machine/Access -/

theorem clearKeys_wf {j : Job} (wf : s.Wf) : (clearKeys j s).Wf := wf_forAll (wf_forAll wf fun _ _ => modPip_wf) fun _ _ => modPod_wf
theorem execStrmStart_wf {p d areg e : Nat} (wf : s.Wf) : NextWf (execStrmStart p d areg e s) := by
  unfold execStrmStart
  refine .within ?_
  split
  · exact wf
  · exact wf_ite (clearKeys_wf (issueBy_wf wf)) (issueBy_wf wf)
theorem execStrmWait_wf {p d e : Nat} (wf : s.Wf) : NextWf (execStrmWait p d e s) := by
  unfold execStrmWait
  refine .within ?_
  split
  · exact wf
  · exact issueBy_wf wf
theorem execSiglApply_wf {p : Nat} (wf : s.Wf) : NextWf (execSiglApply p s) := by
  unfold execSiglApply
  refine .within ?_
  extract_lets
  split
  · exact wf
  · exact wf_ite wf (setPip_wf wf)

/-! ### Functions of Machine/HbmOps -/

theorem noteError_wf {k a : Nat} {ce ue : Bool} (wf : s.Wf) : (noteError s k a ce ue).Wf :=
  wf_ite (modStack_wf wf) (wf_ite (modStack_wf wf) wf)
theorem noteMem_wf {a n : Nat} (wf : s.Wf) : (noteMem s a n).Wf :=
  wf_ite (wf_forAll wf fun _ _ wf => by exact noteError_wf wf) (wf_ite (wf_forAll wf fun _ _ wf => by exact noteError_wf wf) wf)
theorem noteSites_wf {p : Nat} {fx : List Fx} (wf : s.Wf) : (noteSites p fx s).Wf := by
  unfold noteSites
  refine wf_forAll wf fun _ _ wf => ?_
  split
  · exact (noteSite_ends ..).keeps wf
  · exact wf
theorem failReq_wf {r : Req} {code : Byte} (wf : s.Wf) : (failReq s r code).Wf := by
  unfold failReq
  split
  · exact (endJob_ends ..).keeps wf
  · exact wf
theorem ueReq_wf {r : Req} (wf : s.Wf) : (ueReq s r).Wf := by
  unfold ueReq
  split
  · exact (raiseFault_ends ..).keeps (failReq_wf wf)
  · exact wf
theorem rejectAcc_wf {a : HostAcc} (wf : s.Wf) : (rejectAcc s a).Wf :=
  wf_ite (wf.keep rfl) (wf_ite ((errorRecord_ends ..).keeps (wf.keep rfl)) ((errorRecord_ends ..).keeps (wf.keep rfl)))

/-! ### Functions of Machine/Issue -/

theorem accept_wf {c : Nat} {b : List Byte} {k : Cmd → Cmd} (wf : s.Wf) : (accept s c b k).Wf := wf.keep rfl
theorem atIssue_wf {c : Nat} {b : List Byte} {code : Byte} (wf : s.Wf) : (atIssue s c b code).Wf := accept_wf wf
theorem issueCmd_wf {c opc : Nat} {form bounds : List Byte → Bool} {own : List Byte → Byte}
    {act : List Byte → State} (wf : s.Wf) (h_act : ∀ a, (act a).Wf) :
    (issueCmd s c opc form bounds own act).Wf := by
  unfold issueCmd
  split
  · exact wf
  · exact wf_ite (modCtx_wf wf) (wf_ite wf (wf_ite (atIssue_wf wf) (h_act _)))
theorem issueSync_wf {c opc : Nat} {form bounds : List Byte → Bool} {act : List Byte → State} (wf : s.Wf) (h_act : ∀ a, (act a).Wf) :
    (issueSync s c opc form bounds act).Wf :=
  issueCmd_wf wf fun _ => by exact wf_ite (h_act _) ((enableField_ends ..).keeps wf)

/-! ### Functions of Machine/LinkOps -/

theorem linkCode_wf {l route : Nat} {code : Byte} (wf : s.Wf) : (linkCode s l route code).Wf := by
  unfold linkCode
  extract_lets _ _ t
  have wf_t : t.Wf := wf_forAll ((errorRecord_ends ..).keeps (modLink_wf wf)) fun _ _ wf => (chanFail_ends ..).keeps wf
  split
  · exact wf_t
  · extract_lets _ u
    refine wf_ite wf_t ?_
    have wf_u : u.Wf := (endJobs_ends ..).keeps wf_t
    exact wf_ite wf_u ((raiseFault_ends ..).keeps (wf_ite (setLink_wf wf_u) wf_u))
theorem sendFlit_wf {l pos : Nat} {f : RxFlit} (wf : s.Wf) : (sendFlit s l pos f).Wf := wf_ite (wf.keep rfl) wf
theorem sendVoid_wf {l out pos : Nat} {code : Byte} (wf : s.Wf) : (sendVoid s l out pos code).Wf :=
  wf_ite (sendFlit_wf (modLink_wf ((errorRecord_ends ..).keeps (modLink_wf wf)))) ((errorRecord_ends ..).keeps (modLink_wf wf))
theorem failBurst_wf {l route : Nat} {code : Byte} (wf : s.Wf) : (failBurst s l route code).Wf := by
  unfold failBurst
  split
  · exact wf_ite wf (linkCode_wf (modLink_wf wf))
  · exact linkCode_wf wf
theorem takeColl_wf {l route src : Nat} {bs : List Byte} (wf : s.Wf) : (takeColl s l route src bs).Wf :=
  wf_ite (modLink_wf wf) (setChan_wf (wf_ite (written_wf wf) wf))
theorem burstWhole_wf {l : Nat} {b : Burst} (wf : s.Wf) : (burstWhole s l b).Wf :=
  wf_ite (takeColl_wf (modLink_wf wf)) (modLink_wf (modLink_wf wf))
theorem burstFlit_wf {l route : Nat} {f : RxFlit} (wf : s.Wf) : (burstFlit s l route f).Wf := by
  unfold burstFlit
  extract_lets _ _ _ _ _ t
  refine wf_ite ?_ ?_
  · have wf_t : t.Wf := wf_ite (failBurst_wf wf) wf
    exact wf_ite (wf_ite (linkCode_wf wf_t) (failBurst_wf (modLink_wf wf_t))) (wf_ite (burstWhole_wf wf_t) (modLink_wf wf_t))
  · split
    · exact wf_ite (modLink_wf wf) (wf_ite (failBurst_wf (modLink_wf wf)) (wf_ite (burstWhole_wf wf) (modLink_wf wf)))
    · exact linkCode_wf (wf_ite (modLink_wf wf) (modLink_wf (modLink_wf wf)))
theorem settleHeld_wf {l : Nat} (wf : s.Wf) : (settleHeld s l).Wf := wf_forAll wf fun _ _ => failBurst_wf
theorem linkDown_wf {l : Nat} (wf : s.Wf) : (linkDown s l).Wf := wf_forAll (modLink_wf wf) fun _ _ => linkCode_wf
theorem queueTx_wf {l : Nat} {m : LinkMsg} (wf : s.Wf) : (queueTx s l m).Wf :=
  wf_ite (wf_ite wf ((failPip_ends ..).keeps wf)) (modLink_wf wf)
theorem takeEdge_wf {l route from_ : Nat} {data : Flit} (wf : s.Wf) : (takeEdge s l route from_ data).Wf :=
  wf_ite (setLink_wf wf) (queueTx_wf (setLink_wf wf))

/-! ### Functions of Machine/Collective -/

theorem execClOpen_wf {c : Nat} (wf : s.Wf) : NextWf (execClOpen c s) :=
  .within (issueCmd_wf wf fun _ => by exact atIssue_wf (modChan_wf (noteMem_wf wf)))
theorem execClReduce_wf {c : Nat} (wf : s.Wf) : NextWf (execClReduce c s) :=
  .within (issueCmd_wf wf fun _ => by exact accept_wf (modChan_wf wf))
theorem issueClose_wf {c : Nat} {act : Nat → State → State} (wf : s.Wf) (h_act : ∀ a s, s.Wf → (act a s).Wf) :
    (issueClose s c act).Wf :=
  issueCmd_wf wf fun _ => atIssue_wf (h_act _ _ wf)
theorem execClClose_wf {c : Nat} (wf : s.Wf) : NextWf (execClClose c s) :=
  .within (wf_ite wf (issueClose_wf wf fun _ _ wf => (chanAdvance_ends ..).keeps (modChan_wf wf)))
theorem execClCloseForce_wf {c : Nat} (wf : s.Wf) : NextWf (execClCloseForce c s) :=
  .within (wf_ite wf (issueClose_wf wf fun _ _ wf => (chanForce_ends ..).keeps wf))
theorem sendShard_wf {ch : Nat} {b : List Byte} {gather : Bool} {step shard : Nat} (wf : s.Wf) : (sendShard s ch b gather step shard).Wf :=
  wf_forAll (setChan_wf wf) fun _ _ => noteMem_wf
theorem localPass_wf {ch : Nat} {b : List Byte} (wf : s.Wf) : (localPass s ch b).Wf :=
  wf_ite (modChan_wf (written_wf (noteMem_wf wf))) (sendShard_wf (modChan_wf (written_wf (noteMem_wf wf))))
theorem execLocalStep_wf {ch : Nat} (wf : s.Wf) : NextWf (execLocalStep ch s) := by
  unfold execLocalStep
  refine .within ?_
  extract_lets
  split
  · exact wf_ite (wf_ite (localPass_wf wf) wf) wf
  · exact wf_ite wf (wf_ite ((enableField_ends ..).keeps wf) (wf_ite (wf_ite (localPass_wf (setChan_wf wf)) (setChan_wf wf)) wf))
  · exact wf
theorem execChunkSend_wf {ch : Nat} (wf : s.Wf) : NextWf (execChunkSend ch s) := by
  unfold execChunkSend
  refine .within ?_
  extract_lets
  split
  · exact wf
  · exact wf_ite wf (setChan_wf (queueTx_wf wf))
theorem fromBuf_wf {c : ChanSt} {m : CollMsg} (wf : s.Wf) : (fromBuf s c m).1.Wf := by
  unfold fromBuf
  extract_lets
  split
  · exact wf
  · exact noteMem_wf wf
theorem mergeChunk_wf {ch : Nat} {b : List Byte} {m : CollMsg} (wf : s.Wf) : (mergeChunk s ch b m).Wf := by
  unfold mergeChunk
  extract_lets _ _ _ _ _ _ _ _ forward _ t u
  have forward_wf : ∀ g k vs {s}, State.Wf s → (forward g k vs s).Wf := fun _ _ _ _ => modChan_wf
  have wf_t : t.Wf := modChan_wf (written_wf (noteMem_wf wf))
  have wf_u : u.Wf := modChan_wf (written_wf wf)
  exact wf_ite (wf_ite (forward_wf _ _ _ wf_t) (forward_wf _ _ _ wf_t)) (wf_ite (forward_wf _ _ _ wf_u) wf_u)
theorem execColl_wf {ch : Nat} (wf : s.Wf) : NextWf (execColl ch s) := by
  unfold execColl
  refine .within ?_
  extract_lets
  split
  · exact wf
  · refine wf_ite (setChan_wf wf) ?_
    split
    · exact wf
    · refine wf_ite wf ?_
      refine wf_ite ((chanFail_ends ..).keeps (setChan_wf wf)) ?_
      exact modChan_wf (mergeChunk_wf (fromBuf_wf (setChan_wf wf)))
theorem execCredit_wf {ch : Nat} (wf : s.Wf) : NextWf (execCredit ch s) := by
  unfold execCredit
  refine .within ?_
  extract_lets
  split
  · exact wf
  · extract_lets
    split
    · exact setChan_wf wf
    · exact wf_ite (setChan_wf wf) (wf_ite ((chanFail_ends ..).keeps (setChan_wf wf)) (setChan_wf wf))
theorem execAbortMsg_wf {ch : Nat} (wf : s.Wf) : NextWf (execAbortMsg ch s) := by
  unfold execAbortMsg
  refine .within ?_
  extract_lets
  split
  · exact wf
  · extract_lets
    refine wf_ite (setChan_wf wf) ?_
    split
    · exact wf_ite (setChan_wf wf) (modChan_wf ((chanFail_ends ..).keeps (setChan_wf wf)))
    · exact wf_ite (setChan_wf wf) wf
theorem execClReduceComplete_wf {ch : Nat} (wf : s.Wf) : NextWf (execClReduceComplete ch s) := by
  unfold execClReduceComplete
  refine .within ?_
  extract_lets
  split
  · exact wf
  · exact wf_ite ((chanAdvance_ends ..).keeps (setChan_wf (wf.keep rfl))) wf

/-! ### Functions of Machine/Jobs -/

theorem enqueue_wf {c : Nat} {b : List Byte} {k : Cmd → Cmd} {f : Job → Job} (wf : s.Wf) : (enqueue s c b k f).Wf :=
  wf_forAll (wf.keep rfl) fun _ _ wf => (fieldTo_ends ..).keeps wf
theorem execLaunch_wf {c : Nat} (wf : s.Wf) : NextWf (execLaunch c s) := .within (issueCmd_wf wf fun _ => enqueue_wf wf)
theorem execJobStart_wf {j : Nat} (wf : s.Wf) : NextWf (execJobStart j s) := by
  unfold execJobStart
  refine .next ?_
  split
  · exact wf
  · exact wf_ite wf (wf_forAll (setJob_wf (wf_forAll wf fun _ _ => setPip_wf)) fun _ _ wf => (schedRecord_ends ..).keeps wf)
theorem execStreamStart_wf {j : Nat} (wf : s.Wf) : NextWf (execStreamStart j s) := by
  unfold execStreamStart
  refine .next ?_
  split
  · exact wf
  · exact wf_ite wf (wf_forAll (wf_forAll (setJob_wf wf) fun _ _ => modPip_wf) fun _ _ wf => (schedRecord_ends ..).keeps wf)

/-! ### Functions of Machine/Control -/

theorem execDmaComplete_wf {p : Nat} {ch : Bool} (wf : s.Wf) : NextWf (execDmaComplete p ch s) := by
  unfold execDmaComplete
  refine .within ?_
  split
  · exact wf
  · exact wf_ite wf (modPip_wf wf)
theorem moveRun_wf {a b : Nat} {r : (Nat × Nat × Nat) × (Nat × Nat × Nat)} {acc : State × Option Nat} (wf : acc.1.Wf) :
    (moveRun a b r acc).1.Wf :=
  wf_forAll (setPip_wf (wf_forAll (setPip_wf wf) fun _ _ wf => (applyFx_ends ..).keeps wf)) fun _ _ wf => (applyFx_ends ..).keeps wf
theorem moveObject_wf {j : Job} (wf : s.Wf) : (moveObject s j).1.Wf := by
  unfold moveObject
  split
  · exact wf
  · exact wf_foldl wf fun _ _ => moveRun_wf
theorem finishJob_wf {j : Job} (wf : s.Wf) : (finishJob s j).Wf := by
  have wf_move := moveObject_wf (j := j) wf
  unfold finishJob
  split <;> rename_i moved <;> rw [moved] at wf_move
  · exact (endJob_ends ..).keeps wf_move
  · exact (failPip_ends ..).keeps wf_move
theorem execPipFinish_wf {p : Nat} (wf : s.Wf) : NextWf (execPipFinish p s) := by
  unfold execPipFinish
  refine .within ?_
  split
  · exact wf
  · exact wf_ite wf (wf_ite (finishJob_wf (modPip_wf wf)) (modPip_wf wf))

/-! ### Functions of Machine/Tensor -/

theorem execTmmComplete_wf {p : Nat} (wf : s.Wf) : NextWf (execTmmComplete p s) := by
  unfold execTmmComplete
  refine .within ?_
  split
  · exact wf
  · exact wf_ite wf (modPip_wf wf)

/-! ### Functions of Machine/Ring -/

theorem execResidueCompare_wf {pod : Nat} {inverse : Bool} (wf : s.Wf) : NextWf (execResidueCompare pod inverse s) := by
  unfold execResidueCompare
  refine .within ?_
  extract_lets
  split
  · exact wf_ite (setPod_wf wf) ((raiseFault_ends ..).keeps ((endJob_ends ..).keeps (modPod_wf (setPod_wf wf))))
  · exact wf

/-! ### Functions of Machine/Mesh -/

theorem leaveFlit_wf {p port cr ser : Nat} {data : Flit} {rest : List (Nat × Flit)} (wf : s.Wf) :
    (leaveFlit s p port cr ser data rest).Wf :=
  wf_ite (setPip_wf wf) (setPip_wf (wf.keep rfl))
theorem execMeshFlitSend_wf {p port pos : Nat} (wf : s.Wf) : NextWf (execMeshFlitSend p port pos s) := by
  unfold execMeshFlitSend
  refine .within ?_
  refine wf_ite wf ?_
  split
  · exact leaveFlit_wf wf
  · exact wf
theorem flitIn_wf {t : State} {p i : Nat} {f : MFlit} (wf_s : s.Wf) (wf_t : t.Wf) : (flitIn s t p i f).Wf := wf_ite wf_s (modPip_wf wf_t)
theorem edgeIn_wf {t : State} {p i : Nat} {f : MFlit} (wf_s : s.Wf) (wf_t : t.Wf) : (edgeIn s t p i f).Wf := by
  unfold edgeIn
  split
  · exact wf_s
  · exact wf_ite wf_s (takeEdge_wf (wf_t.keep rfl))
theorem lineIn_wf {p u route : Nat} {r : Req} (wf : s.Wf) : (lineIn s p u route r).Wf := wf_ite (wf.keep rfl) (modPip_wf wf)
theorem wlineIn_wf {t : State} {n route : Nat} {r : Req} (wf_s : s.Wf) (wf_t : t.Wf) : (wlineIn s t n route r).Wf :=
  wf_ite (modStack_wf wf_t) (wf_ite wf_s (modStack_wf wf_t))
theorem keyIn_wf {t : State} {p : Nat} {header gran : Bool} {e : Line} (wf_s : s.Wf) (wf_t : t.Wf) : (keyIn s t p header gran e).Wf :=
  wf_ite (modPod_wf wf_t) (wf_ite (modPod_wf wf_t) (wf_ite wf_s (wf_t.keep rfl)))
theorem shortIn_wf {t : State} {at_ : Nat} {f : ShortFlit} (wf_s : s.Wf) (wf_t : t.Wf) : (shortIn s t at_ f).Wf :=
  wf_ite (wf_ite wf_s (modPip_wf wf_t)) (wf_ite wf_s (modPip_wf wf_t))
theorem execMeshFlitArrive_wf {k : Nat} (wf : s.Wf) : NextWf (execMeshFlitArrive k s) := by
  unfold execMeshFlitArrive
  refine .next ?_
  split
  · exact flitIn_wf wf (wf.keep rfl)
  · exact edgeIn_wf wf (wf.keep rfl)
  · exact lineIn_wf (wf.keep rfl)
  · exact wlineIn_wf wf (wf.keep rfl)
  · exact keyIn_wf wf (wf.keep rfl)
  · exact shortIn_wf wf (wf.keep rfl)
  · exact wf
theorem execCreditReturn_wf {k : Nat} (wf : s.Wf) : NextWf (execCreditReturn k s) := by
  unfold execCreditReturn
  refine .next ?_
  split
  · exact wf_ite (wf.keep rfl) (wf.keep rfl)
  · exact wf
theorem execDmaWriterWrite_wf {p : Nat} (wf : s.Wf) : NextWf (execDmaWriterWrite p s) := by
  unfold execDmaWriterWrite
  refine .within ?_
  split
  · exact wf
  · exact wf_ite ((enableField_ends ..).keeps wf) (wf_ite wf (wf_ite (settle_wf _ _ _ wf) (settle_wf _ _ _ wf)))
theorem execShortFlitEnter_wf {p : Nat} (wf : s.Wf) : NextWf (execShortFlitEnter p s) := by
  unfold execShortFlitEnter
  refine .within ?_
  split
  · exact wf
  · split
    · exact wf_ite wf (modPip_wf wf)
    · exact wf_ite wf (wf_ite (modPip_wf (wf.keep rfl)) (wf.keep rfl))
theorem putWritten_wf {f : ShortFlit} (wf : s.Wf) : (putWritten f s).Wf := wf_ite wf (modPip_wf wf)
theorem shortWrite_wf {p : Nat} {f : ShortFlit} (wf : s.Wf) : (shortWrite s p f).Wf := wf_ite (modPip_wf wf) (putWritten_wf (modPip_wf wf))
theorem execShortPathWrite_wf {p : Nat} (wf : s.Wf) : NextWf (execShortPathWrite p s) := by
  unfold execShortPathWrite
  refine .within ?_
  extract_lets
  split
  · exact wf
  · exact wf_ite wf (wf_ite (wf_ite (wf.keep rfl) ((enableField_ends ..).keeps wf)) (wf_ite ((enableField_ends ..).keeps wf) (wf_ite
      ((failPip_ends ..).keeps (modPip_wf wf)) (wf_ite wf (shortWrite_wf (modPip_wf wf))))))

/-! ### Functions of Machine/EngineRun -/

theorem refuseRun_wf {p e : Nat} {c : Nat × Byte} (wf : s.Wf) : (refuseRun s p e c).Wf := (failPip_ends ..).keeps (modPip_wf wf)
theorem startCopy_wf {p e : Nat} (wf : s.Wf) : (startCopy s p e).Wf := wf_ite wf (settle_wf _ _ _ wf)
theorem execStreamRunStart_wf {p e : Nat} (wf : s.Wf) : NextWf (execStreamRunStart p e s) := by
  unfold execStreamRunStart
  refine .within ?_
  extract_lets
  split
  · exact wf
  · refine wf_ite wf ?_
    split
    · exact refuseRun_wf wf
    · exact wf_ite (startCopy_wf wf) (setPip_wf wf)
theorem engSignal_wf {p obj add : Nat} {next : State → State} (wf : s.Wf) (h_next : ∀ s, s.Wf → (next s).Wf) :
    (engSignal s p obj add next).Wf := by
  unfold engSignal
  split
  · exact wf
  · exact wf_ite ((failPip_ends ..).keeps wf) (wf_ite ((enableField_ends ..).keeps wf) (h_next _ (wf.keep rfl)))
theorem stopRun_wf {p e : Nat} (wf : s.Wf) : (stopRun p e s).Wf := wf_ite (modPod_wf (modPip_wf wf)) (modPip_wf wf)
theorem execStreamRunComplete_wf {p e : Nat} (wf : s.Wf) : NextWf (execStreamRunComplete p e s) :=
  .within (wf_ite wf (wf_ite (engSignal_wf wf fun _ => stopRun_wf) (stopRun_wf wf)))
theorem agRun_wf {p e op : Nat} {f : Engine → Nat → Engine} (wf : s.Wf) : (agRun s p e op f).Wf := by
  unfold agRun
  split
  · exact wf
  · exact modPip_wf wf
theorem execGidx_wf {p e : Nat} (wf : s.Wf) : NextWf (execGidx p e s) := by
  unfold execGidx
  refine .within ?_
  split
  · exact wf
  · extract_lets
    refine wf_ite ((failPip_ends ..).keeps wf) ?_
    split
    · exact (failPip_ends ..).keeps wf
    · exact wf_ite wf (settle_wf _ _ _ wf)
theorem execXfer_wf {p e : Nat} (wf : s.Wf) : NextWf (execXfer p e s) := by
  unfold execXfer
  refine .within ?_
  split
  · exact wf
  · exact wf_ite ((failPip_ends ..).keeps wf) (modPip_wf wf)
theorem execKblk_wf {p : Nat} (wf : s.Wf) : NextWf (execKblk p s) := by
  unfold execKblk
  refine .within ?_
  split
  · exact wf
  · exact wf_ite wf (wf_ite ((failPip_ends ..).keeps wf) (modPip_wf wf))
theorem execSput_wf {p e : Nat} (wf : s.Wf) : NextWf (execSput p e s) := by
  unfold execSput
  refine .within ?_
  split
  · exact wf_ite ((failPip_ends ..).keeps wf) (wf_ite ((failPip_ends ..).keeps wf) (wf_ite wf (settle_wf _ _ _ wf)))
  · exact wf
theorem execWaitso_wf {p e : Nat} (wf : s.Wf) : NextWf (execWaitso p e s) := by
  unfold execWaitso
  refine .within ?_
  split
  · exact wf_ite wf (wf_ite (modPip_wf wf) ((failPip_ends ..).keeps wf))
  · exact wf
theorem execDependenceMarkRelease_wf {p e : Nat} (wf : s.Wf) : NextWf (execDependenceMarkRelease p e s) := by
  unfold execDependenceMarkRelease
  refine .within ?_
  split
  · exact wf
  · exact wf_ite wf (wf_ite (modPip_wf wf) (wf_ite ((enableField_ends ..).keeps (wf.keep rfl)) (wf.keep rfl)))
theorem testMark_wf {p e : Nat} (wf : s.Wf) : (testMark s p e).Wf := wf_ite (modPip_wf wf) wf
theorem execSigso_wf {p e : Nat} (wf : s.Wf) : NextWf (execSigso p e s) := by
  unfold execSigso
  refine .within ?_
  split
  · exact wf
  · exact wf_ite wf (engSignal_wf wf fun _ => modPip_wf)
theorem passBlock_wf {pod : Nat} {h : List Byte} (wf : s.Wf) : (passBlock s pod h).Wf := by
  unfold passBlock
  extract_lets
  refine wf_forAll (modPod_wf wf) fun _ _ wf => ?_
  split
  exact modPip_wf (modPod_wf wf)
theorem failBlock_wf {j : Job} {pod : Nat} (wf : s.Wf) : (failBlock s j pod).Wf :=
  wf_ite (modPod_wf wf) (wf_forAll ((endJob_ends ..).keeps (modPod_wf wf)) fun _ _ => modPod_wf)
theorem execKeyHeaderCheck_wf {pod : Nat} (wf : s.Wf) : NextWf (execKeyHeaderCheck pod s) := by
  unfold execKeyHeaderCheck
  refine .within ?_
  split
  · exact wf_ite wf (wf_ite (wf_ite wf (wf_ite (modPod_wf wf) (passBlock_wf wf))) (wf_ite (wf_ite wf (modPod_wf wf)) (failBlock_wf
      (wf_ite wf (modPod_wf wf)))))
  · exact wf
theorem execKeyDrainEnd_wf {j : Nat} (wf : s.Wf) : NextWf (execKeyDrainEnd j s) := by
  unfold execKeyDrainEnd
  refine .next ?_
  split
  · exact wf
  · exact wf_ite wf (endDrain_wf wf)

/-! ### Functions of Machine/Hbm -/

theorem placeReq_wf {p k route t : Nat} {r : Req} (wf : s.Wf) : (placeReq s p k route t r).Wf :=
  wf_ite (wf_ite (wf.keep rfl) (modStack_wf wf)) (wf.keep rfl)
theorem makeAsk_wf {p u k route t : Nat} {j : Job} {a : LineAsk} {x : Nat} (wf : s.Wf) : (makeAsk s p u k route t j a x).Wf := by
  unfold makeAsk
  split
  exact wf_ite (settle_wf _ _ _ wf) (placeReq_wf (settle_wf _ _ _ wf))
theorem execRequestWord_wf {p u k route : Nat} (wf : s.Wf) : NextWf (execRequestWord p u k route s) := by
  unfold execRequestWord
  refine .within ?_
  split
  · exact wf
  · split
    · refine wf_ite ((failPip_ends ..).keeps wf) ?_
      split
      · exact (failPip_ends ..).keeps wf
      · exact wf_ite ((failPip_ends ..).keeps wf) (wf_ite wf (makeAsk_wf wf))
    · exact wf
theorem serveRead_wf {k g route att : Nat} {r : Req} (wf : s.Wf) : (serveRead s k g route att r).Wf :=
  wf_ite (ueReq_wf (modStack_wf (noteMem_wf wf))) (modStack_wf (noteMem_wf wf))
theorem execHbmRead_wf {k g route : Nat} (wf : s.Wf) : NextWf (execHbmRead k g route s) := by
  unfold execHbmRead
  refine .within ?_
  split
  · exact wf
  · split
    · exact wf.keep rfl
    · exact wf_ite (wf.keep rfl) (wf_ite (failReq_wf (modStack_wf wf)) (serveRead_wf wf))
theorem writeAccepted_wf {r : Req} (wf : s.Wf) : (writeAccepted s r).Wf := by
  unfold writeAccepted
  split
  · exact settle_wf _ _ _ wf
  · exact wf.keep rfl
  · exact wf
theorem execHbmWrite_wf {k g route : Nat} (wf : s.Wf) : NextWf (execHbmWrite k g route s) := by
  unfold execHbmWrite
  refine .within ?_
  split
  · exact wf
  · split
    · exact wf_ite (wf.keep rfl) (wf_ite (failReq_wf (modStack_wf wf)) (writeAccepted_wf (modStack_wf (written_wf wf))))
    · exact wf.keep rfl
theorem execRefreshInsert_wf {k g : Nat} (wf : s.Wf) : NextWf (execRefreshInsert k g s) :=
  .within (wf_ite wf (wf_ite (modStack_wf wf) ((errorRecord_ends ..).keeps (modStack_wf wf))))
theorem hostWrite_wf {a : Nat} {bs : List Byte} (wf : s.Wf) : (hostWrite s a bs).Wf :=
  written_wf (wf_ite wf (wf_forAll wf fun _ _ wf => by exact noteError_wf wf))
theorem serveHost_wf {k g : Nat} {a : HostAcc} (wf : s.Wf) : (serveHost s k g a).Wf := by
  unfold serveHost
  extract_lets _ t
  refine wf_ite ?_ (modStack_wf (wf_ite (wf.keep rfl) wf))
  have wf_t : t.Wf := modStack_wf wf
  exact wf_ite (rejectAcc_wf wf_t) (wf_ite (wf_ite (hostWrite_wf wf_t) (hostWrite_wf wf_t)) (wf_ite (noteMem_wf wf_t) (modHchan_wf
    (noteMem_wf wf_t))))
theorem execHost_wf {k g : Nat} (wf : s.Wf) : NextWf (execHost k g s) := by
  unfold execHost
  refine .within ?_
  refine wf_ite wf ?_
  split
  · exact modStack_wf wf
  · exact serveHost_wf (modStack_wf (wf.keep rfl))
theorem execStageIn_wf {k route : Nat} (wf : s.Wf) : NextWf (execStageIn k route s) := by
  unfold execStageIn
  refine .within ?_
  split
  · exact wf
  · split
    · exact wf.keep rfl
    · exact wf_ite (wf.keep rfl) (wf_ite ((chanFail_ends ..).keeps (modStack_wf wf)) (wf_ite ((chanFail_ends ..).keeps (modStack_wf
        (noteMem_wf wf))) (modChan_wf (written_wf (modStack_wf (noteMem_wf wf))))))
theorem execStageOut_wf {k route : Nat} (wf : s.Wf) : NextWf (execStageOut k route s) := by
  unfold execStageOut
  refine .within ?_
  split
  · exact wf
  · split
    · exact wf.keep rfl
    · exact wf_ite (wf.keep rfl) (wf_ite ((chanFail_ends ..).keeps (modStack_wf wf)) (modChan_wf (modStack_wf (written_wf
        (written_wf wf)))))
theorem sendKey_wf {p : Nat} {r : Req} {to_ : List (Nat × Nat)} (wf : s.Wf) : (sendKey s p r to_).Wf := by
  unfold sendKey
  extract_lets
  split
  · exact wf.keep rfl
  · exact wf_ite (modPip_wf (wf.keep rfl)) (modPip_wf (wf.keep rfl))
theorem departLine_wf {route : Nat} {r : Req} {to_ : List (Nat × Nat)} (wf : s.Wf) : (departLine s route r to_).Wf := by
  unfold departLine
  split
  · exact wf_ite (sendKey_wf wf) (wf.keep rfl)
  · exact wf
theorem execReadLineReady_wf {k route : Nat} (wf : s.Wf) : NextWf (execReadLineReady k route s) := by
  unfold execReadLineReady
  refine .within ?_
  split
  · exact wf
  · refine wf_ite wf ?_
    split
    · exact wf
    · exact wf_ite (modStack_wf wf) (departLine_wf (modStack_wf wf))

/-! ### Functions of Machine/Scratchpad -/

theorem execScrubDone_wf {p n : Nat} (wf : s.Wf) : NextWf (execScrubDone p n s) :=
  .within (wf_ite wf (wf_ite ((enableField_ends ..).keeps wf) (wf_ite wf (setPip_wf wf))))

/-! ### Functions of Machine/Granules -/

theorem writeGran_wf {staging : Bool} {g v : Nat} (wf : s.Wf) : (writeGran s staging g v).Wf :=
  wf_ite (modStack_wf wf) (wf_ite (setGran_wf wf) (setGran_wf wf))
theorem execHbmGran_wf {w : Writer} {g v : Nat} (wf : s.Wf) : NextWf (execHbmGran w g v s) := .within (wf_ite (writeGran_wf wf) wf)
theorem execHbmSgran_wf {w : Writer} {g v : Nat} (wf : s.Wf) : NextWf (execHbmSgran w g v s) := .within (wf_ite (writeGran_wf wf) wf)
theorem execScrub_wf {g : Nat} (wf : s.Wf) : NextWf (execScrub g s) := by
  unfold execScrub
  refine .within ?_
  split
  · exact wf
  · exact setGran_wf (written_wf (modStack_wf wf))
theorem idleScrub_wf {k grp : Nat} (wf : s.Wf) : (idleScrub s k grp).Wf := wf_ite (modStack_wf wf) wf
theorem zeroStaging_wf {g : Nat} (wf : s.Wf) : (zeroStaging g s).Wf := by
  unfold zeroStaging
  extract_lets _ _ _ t
  have wf_t : t.Wf := modStack_wf (written_wf wf)
  exact wf_ite wf (setGran_wf wf_t)
theorem execHbmHot_wf {k temp : Nat} (wf : s.Wf) : NextWf (execHbmHot k temp s) := by
  unfold execHbmHot
  refine .within ?_
  extract_lets _ _ t
  have wf_t : t.Wf := modStack_wf wf
  exact wf_ite wf_t ((platformEvent_ends ..).keeps wf_t)

/-! ### Functions of Machine/HostPort -/

theorem attachHost_wf {h : Nat} (wf : s.Wf) : (attachHost h s).Wf := wf_ite (modHost_wf wf) wf
theorem dropHead_wf {hd : Nat} (wf : s.Wf) : (dropHead s hd).Wf := wf_forAll (modHead_wf wf) fun _ _ => departHost_wf
theorem execHeadLinkUp_wf {hd width rate : Nat} (wf : s.Wf) : NextWf (execHeadLinkUp hd width rate s) :=
  .within (wf_ite wf (wf_forAll (modHead_wf wf) fun _ _ => attachHost_wf))
theorem execFmBind_wf {h : Nat} (wf : s.Wf) : NextWf (execFmBind h s) :=
  .within (wf_ite (wf_ite (attachHost_wf (modHost_wf wf)) (modHost_wf wf)) wf)
theorem hostAccess_wf {a : HostAcc} (wf : s.Wf) : (hostAccess s a).Wf :=
  wf_ite wf (wf_ite (rejectAcc_wf wf) (wf_ite (modPip_wf wf) (wf_ite wf (wf.keep rfl))))
theorem readRun_wf {r : Nat × Nat × Nat} {acc : State × List Byte} (wf : acc.1.Wf) : (readRun r acc).1.Wf :=
  noteSites_wf (setPip_wf wf)
theorem writeRuns_wf {runs : List (Nat × Nat × Nat)} {bs : List Byte} (wf : s.Wf) : (writeRuns runs bs s).Wf := by
  induction runs generalizing bs s with
  | nil => exact wf
  | cons r rs ih => exact ih (noteSites_wf (setPip_wf wf))
theorem winTake_wf {runs : List (Nat × Nat × Nat)} (wf : s.Wf) : (winTake runs s).Wf := wf_forAll wf fun _ _ => modPip_wf
theorem serveWindow_wf {p : Nat} {a : WinAccess} {rest : List WinAccess} (wf : s.Wf) : (serveWindow s p a rest).Wf := by
  unfold serveWindow
  extract_lets runs t
  have wf_t : t.Wf := modPip_wf wf
  clear_value t runs
  refine wf_ite (rejectAcc_wf wf_t) ?_
  split
  · exact (enableField_ends ..).keeps wf
  · refine wf_ite wf (wf_ite (writeRuns_wf (winTake_wf wf_t)) ?_)
    have wf_read := wf_foldl (f := fun acc r => readRun r acc) (l := runs) (acc := (winTake runs t, [])) (winTake_wf wf_t)
      fun _ _ => readRun_wf
    split
    next u bs read =>
      rw [read] at wf_read
      exact wf_read.keep rfl
theorem execScratchpadWindowAccess_wf {p : Nat} (wf : s.Wf) : NextWf (execScratchpadWindowAccess p s) := by
  unfold execScratchpadWindowAccess
  refine .within ?_
  split
  · exact wf
  · exact serveWindow_wf wf
theorem execWindowEscalation_wf {p : Nat} (wf : s.Wf) : NextWf (execWindowEscalation p s) := by
  unfold execWindowEscalation
  refine .within ?_
  split
  · exact wf
  · exact wf_ite (serveWindow_wf wf) wf
theorem setMgmt_wf {v : Nat} (wf : s.Wf) : (setMgmt s v).Wf := by
  unfold setMgmt
  extract_lets _ _ _ _ t
  refine wf_ite (wf.keep rfl) ?_
  have wf_t : t.Wf := wf_ite (wf_ite (wf.keep rfl) (wf.keep rfl)) (wf.keep rfl)
  exact wf_ite (wf_ite (wf_t.keep rfl) wf_t) wf_t
theorem execCxlMgmt_wf {w : Writer} {v : Nat} (wf : s.Wf) : NextWf (execCxlMgmt w v s) := .next (wf_ite (setMgmt_wf wf) wf)
theorem execCxlCtxpage_wf {w : Writer} {p v : Nat} (wf : s.Wf) : NextWf (execCxlCtxpage w p v s) := .within (wf_ite wf (wf.keep rfl))
theorem crResult_wf {h : Nat} {code : Byte} (wf : s.Wf) : (crResult s h code).Wf := modHost_wf wf
theorem execCreate_wf {h : Nat} (wf : s.Wf) : NextWf (execCreate h s) :=
  .within (wf_ite wf (wf_ite (crResult_wf wf) (wf_ite (crResult_wf wf) (crResult_wf (wf_forAll
    (wf.keep rfl) fun _ _ wf => by exact wf.keep rfl)))))
theorem execDestroy_wf {h : Nat} (wf : s.Wf) : NextWf (execDestroy h s) := by
  unfold execDestroy
  refine .within ?_
  extract_lets _ t u v
  have wf_t : t.Wf := by
    refine wf_forAll wf fun _ _ wf => ?_
    split
    · exact completeCmd_wf wf
    · exact wf
  have wf_v : v.Wf := wf_forAll (quiesce_wf wf_t) fun _ _ => completeCmd_wf
  exact wf_ite wf (wf_ite (modHost_wf wf) (modHost_wf (dropCtx_wf wf_v)))
theorem execRebind_wf {h : Nat} (wf : s.Wf) : NextWf (execRebind h s) :=
  .within (wf_ite wf (wf_ite (crResult_wf wf) (wf_ite (crResult_wf wf) (wf_ite (crResult_wf wf) (crResult_wf (modCtx_wf wf))))))

/-! ### Functions of Machine/Hull -/

theorem hullWrite_wf {ch a : Nat} {bs : List Byte} (wf : s.Wf) : (hullWrite s ch a bs).Wf := wf_ite (wf.keep rfl) (written_wf wf)
theorem hullAsk_wf {ch a n : Nat} {data : Option (List Byte)} (wf : s.Wf) : (hullAsk s ch a n data).Wf := wf_ite wf (wf.keep rfl)
theorem startHull_wf {ops : List Nat} {w : Writer} {ch : Nat} (wf : s.Wf) : NextWf (startHull ops w ch s) :=
  .within (wf_ite wf (wf_ite (setHchan_wf wf) (wf_ite wf (setHchan_wf wf))))
theorem execHullLoadEnd_wf {ch : Nat} (wf : s.Wf) : NextWf (execHullLoadEnd ch s) :=
  .within (wf_ite wf (wf_ite (setHchan_wf wf) (wf_ite (wf_ite (setHchan_wf wf) (wf_ite wf (setHchan_wf wf))) (wf_ite (hullAsk_wf wf)
    (wf_ite (setHchan_wf wf) (wf_ite (hullAsk_wf wf) (setHchan_wf wf)))))))
theorem execEngineTake_wf {b : Bool} (wf : s.Wf) : NextWf (execEngineTake b s) := by
  unfold execEngineTake
  refine .next ?_
  extract_lets
  refine wf_ite ?_ ?_
  · refine wf_ite wf ?_
    split
    · exact wf
    · exact modHchan_wf (wf.keep rfl)
  · refine wf_ite wf ?_
    split
    · exact wf
    · exact modHchan_wf (wf.keep rfl)
theorem execExecEnd_wf {e : EngineEnd} (wf : s.Wf) : NextWf (execExecEnd e s) :=
  .within (wf_ite wf (wf_ite (hullAsk_wf wf) (wf_ite wf (setHchan_wf (wf_ite (wf_ite wf (wf.keep rfl)) (wf_ite wf (wf.keep rfl)))))))
theorem execStoreEnd_wf {ch : Nat} (wf : s.Wf) : NextWf (execStoreEnd ch s) :=
  .within (wf_ite wf (wf_ite (modHchan_wf wf) (wf_ite (modHchan_wf (hullWrite_wf wf)) (wf_ite (hullAsk_wf wf) (modHchan_wf wf)))))
theorem execWipeEnd_wf {ch : Nat} (wf : s.Wf) : NextWf (execWipeEnd ch s) :=
  .within (wf_ite wf (wf_ite (setHchan_wf (wf.keep rfl)) ((errorRecord_ends ..).keeps (setHchan_wf (wf.keep rfl)))))
theorem execHullChanOwner_wf {w : Writer} {ch v : Nat} (wf : s.Wf) : NextWf (execHullChanOwner w ch v s) :=
  .within (wf_ite wf (setHchan_wf wf))

/-! ### Functions of Machine/Power -/

theorem loseField_wf {f : Nat} {tgt : FState} (wf : s.Wf) : (loseField s f tgt).Wf := by
  unfold loseField
  split
  · exact wf_forAll (wf_forAll wf fun _ _ => modPip_wf) fun _ _ => modPod_wf
  · extract_lets t u
    have wf_u : u.Wf := wf_forAll (wf_forAll wf fun _ _ => modPip_wf) fun _ _ => modPod_wf
    clear_value u
    exact wf_u.keep rfl
  · exact wf
theorem execShutdownComplete_wf {f : Nat} (wf : s.Wf) : NextWf (execShutdownComplete f s) := by
  unfold execShutdownComplete
  refine .within ?_
  extract_lets
  split
  · extract_lets _ t
    refine wf_ite wf ?_
    have wf_t : t.Wf := afterTrans_wf ((fieldTo_ends ..).keeps (modField_wf (loseField_wf wf)))
    exact wf_ite ((enableField_ends ..).keeps wf_t) wf_t
  · exact wf
theorem wakeFloor_wf (wf : s.Wf) : (wakeFloor s).Wf := wf_ite wf (wf_forAll wf fun _ _ wf => (enableField_ends ..).keeps wf)
theorem execWakeComplete_wf {f : Nat} (wf : s.Wf) : NextWf (execWakeComplete f s) :=
  .within (wf_ite wf (wf_ite (afterTrans_wf (wakeFloor_wf ((fieldTo_ends ..).keeps (modField_wf (wf_ite
    (wf_forAll wf fun _ _ => modPip_wf) wf))))) ((startDown_ends ..).keeps ((fieldTo_ends ..).keeps (modField_wf (wf_ite
    (wf_forAll wf fun _ _ => modPip_wf) wf))))))
theorem execFldPwrCtrl_wf {w : Writer} {f v : Nat} (wf : s.Wf) : NextWf (execFldPwrCtrl w f v s) :=
  .within (wf_ite wf (wf_ite ((enableField_ends ..).keeps (modField_wf wf)) (modField_wf wf)))
theorem pendingOff_wf {f : Nat} (wf : s.Wf) : (pendingOff s f).Wf := wf_ite ((startOff_ends ..).keeps wf) wf
theorem execVrAck_wf {f : Nat} (wf : s.Wf) : NextWf (execVrAck f s) := by
  unfold execVrAck
  refine .within ?_
  extract_lets
  refine wf_ite wf ?_
  split
  · exact wf
  · exact modField_wf (modField_wf wf)
  · exact modField_wf wf
  · exact pendingOff_wf ((returnVrun_ends ..).keeps ((powerRecord_ends ..).keeps (modField_wf wf)))
  · exact pendingOff_wf ((returnVrun_ends ..).keeps (wf_ite ((powerRecord_ends ..).keeps (modField_wf wf)) (modField_wf wf)))
  · exact pendingOff_wf (modField_wf (modField_wf wf))
theorem refuseWaiters_wf {f : Nat} (wf : s.Wf) : (refuseWaiters s f).Wf := by
  unfold refuseWaiters
  refine wf_forAll wf fun _ _ wf => ?_
  split
  · exact atIssue_wf wf
  · exact wf
theorem execVrNack_wf {f : Nat} (wf : s.Wf) : NextWf (execVrNack f s) := by
  unfold execVrNack
  refine .within ?_
  extract_lets req t _ _ u
  have wf_t : t.Wf := modField_wf wf
  have wf_u : u.Wf := (powerRecord_ends ..).keeps (wf_t.keep rfl)
  clear_value req u
  refine wf_ite wf ?_
  split
  · exact modField_wf (wf_ite (refuseWaiters_wf wf_u) wf_u)
  · exact modField_wf wf_u
  · refine pendingOff_wf ?_
    split
    · exact (raiseFault_ends ..).keeps ((endJob_ends ..).keeps wf_u)
    · exact wf_u
  · exact pendingOff_wf wf_u
theorem execPowerStepIssue_wf {j i : Nat} (wf : s.Wf) : NextWf (execPowerStepIssue j i s) := by
  unfold execPowerStepIssue
  refine .next ?_
  split
  · exact wf
  · split
    · exact wf
    · exact wf_ite wf (wf.keep rfl)
theorem moduleTo_wf {m : MState} (wf : s.Wf) : (moduleTo s m).Wf := (powerRecord_ends ..).keeps (wf.keep rfl)
theorem enterM1_wf (wf : s.Wf) : (enterM1 s).Wf := by
  unfold enterM1
  extract_lets t
  have wf_t : t.Wf := moduleTo_wf (departAll_wf wf)
  exact wf_forAll wf_t fun _ _ wf => (startDown_ends ..).keeps wf
theorem standby_wf (wf : s.Wf) : (standby s).Wf := wf_ite wf (wf_ite (wf.keep rfl) (enterM1_wf wf))
theorem execM1Entry_wf (wf : s.Wf) : NextWf (execM1Entry s) := .next (wf_ite wf rfl)
theorem tooHot_wf {f : Nat} (wf : s.Wf) : (tooHot s f).Wf := by
  unfold tooHot
  extract_lets _ t
  have wf_t : t.Wf := by
    unfold t
    split
    · exact (raiseFault_ends ..).keeps ((endJobs_ends ..).keeps (modField_wf wf))
    · exact (modField_wf wf)
  exact wf_ite ((fieldTo_ends ..).keeps wf_t) wf_t
theorem execTemperatureReading_wf {f t : Nat} (wf : s.Wf) : NextWf (execTemperatureReading f t s) := by
  unfold execTemperatureReading
  refine .within ?_
  extract_lets _ _ t u _ v w x
  have wf_t : t.Wf := modField_wf wf
  have wf_u : u.Wf := modField_wf wf_t
  have wf_v : v.Wf := wf_ite ((powerRecord_ends ..).keeps (wf_u.keep rfl)) wf_t
  have wf_w : w.Wf := wf_ite (tooHot_wf wf_v) wf_v
  have wf_x : x.Wf := wf_ite ((platformEvent_ends ..).keeps wf_w) wf_w
  exact wf_ite (enterM1_wf ((endJobs_ends ..).keeps wf_x)) wf_x
theorem powerExcursion_wf (wf : s.Wf) : (powerExcursion s).Wf :=
  (raiseFault_ends ..).keeps ((endJobs_ends ..).keeps ((powerRecord_ends ..).keeps (wf.keep rfl)))
theorem execInputMeasure_wf {vin pin avg10ms avg1s : Nat} (wf : s.Wf) : NextWf (execInputMeasure vin pin avg10ms avg1s s) := by
  unfold execInputMeasure
  refine .next ?_
  extract_lets _ _ _ t
  have wf_t : t.Wf := wf_ite (wf.keep rfl) (wf.keep rfl)
  exact wf_ite (powerExcursion_wf (wf_ite (wf_t.keep rfl) wf_t)) (wf_ite (wf_t.keep rfl) wf_t)
theorem moduleFault_wf (wf : s.Wf) : (moduleFault s).Wf := (raiseFault_ends ..).keeps ((endJobs_ends ..).keeps wf)
theorem execVinFault_wf (wf : s.Wf) : NextWf (execVinFault s) := by
  unfold execVinFault
  refine .next ?_
  split
  · exact wf
  · exact wf_ite wf (moduleFault_wf (wf.keep rfl))
theorem execCdcTimeout_wf {k : Crossing} (wf : s.Wf) : NextWf (execCdcTimeout k s) := by
  unfold execCdcTimeout
  extract_lets
  split
  · refine .within ?_
    extract_lets
    split
    · exact (raiseFault_ends ..).keeps ((endJob_ends ..).keeps (modField_wf wf))
    · exact (modField_wf wf)
  · exact .within (modField_wf wf)
  · exact .next (wf.keep rfl)
  · exact .next (wf_ite (moduleFault_wf (wf.keep rfl)) (wf.keep rfl))
  · exact .within (wf.keep rfl)
  · exact .next (wf.keep rfl)
theorem readMonitors_wf {f : Nat} {slack : List ℤ} (wf : s.Wf) : (readMonitors s f slack).Wf := by
  unfold readMonitors
  extract_lets
  split
  exact wf_ite (wf.keep rfl) (modField_wf wf)
theorem execMarginApply_wf {f : Nat} (wf : s.Wf) : NextWf (execMarginApply f s) := by
  unfold execMarginApply
  refine .within ?_
  extract_lets
  split
  · exact wf
  · exact wf_ite wf (wf_ite (wf.keep rfl) (modField_wf wf))

/-! ### Functions of Machine/Boot -/

theorem tryImage_wf {types : List Nat} {b : List Byte} (wf : s.Wf) : (tryImage s types b).Wf :=
  wf_ite wf (wf_ite (wf_ite (wf.keep rfl) (wf.keep rfl)) (wf_ite (wf.keep rfl) (wf.keep rfl)))
theorem restart_wf {stage : Nat} : (restart s stage).Wf := rfl
theorem execPwrEnFall_wf (_ : s.Wf) : NextWf (execPwrEnFall s) := .next rfl
theorem execBarsLoss_wf (_ : s.Wf) : NextWf (execBarsLoss s) := .next rfl
theorem execHuskPowerUp_wf {pufOk drbgOk : Bool} (wf : s.Wf) : NextWf (execHuskPowerUp pufOk drbgOk s) := .next (wf_ite wf rfl)
theorem moduleReset_wf (_ : s.Wf) : (moduleReset s).Wf := rfl
theorem execModReset_wf {w : Writer} (wf : s.Wf) : NextWf (execModReset w s) := .next (wf_ite (moduleReset_wf wf) wf)
theorem bootSlot_wf {slot : Bool} (wf : s.Wf) : (bootSlot s slot).1.Wf := by
  unfold bootSlot
  extract_lets _ _ t
  have wf_t : t.Wf := tryImage_wf (wf.keep rfl)
  split
  · exact wf_t.keep rfl
  · exact wf_t
theorem execFirmware_wf (wf : s.Wf) : NextWf (execFirmware s) := by
  have wf_t := bootSlot_wf (slot := s.nvm.slotB) wf
  have wf_u := bootSlot_wf (slot := !s.nvm.slotB) wf_t
  exact .next (wf_ite wf (wf_ite wf_t (wf_ite wf_u (wf_u.keep rfl))))
theorem readCalib_wf (wf : s.Wf) : (readCalib s).Wf := wf_ite wf (tryImage_wf wf)
theorem readMargin_wf (wf : s.Wf) : (readMargin s).Wf := wf_ite wf (wf_forAll wf fun _ _ => modField_wf)
theorem execConfig_wf (wf : s.Wf) : NextWf (execConfig s) := by
  unfold execConfig
  refine .next ?_
  extract_lets t u
  have wf_t : t.Wf := readCalib_wf (tryImage_wf wf)
  have wf_u : (readMargin (readMap u)).Wf := readMargin_wf (wf_t.keep rfl)
  exact wf_ite wf (wf_ite (wf_t.keep rfl) (wf_ite (wf_t.keep rfl) (wf_u.keep rfl)))
theorem logBus_wf {m : BootMeas} {k : Nat} (wf : s.Wf) : (logBus m k s).Wf := wf_ite wf ((addLog_ends ..).keeps wf)
theorem measureField_wf {m : BootMeas} {f : Nat} (wf : s.Wf) : (measureField m f s).Wf := by
  unfold measureField
  extract_lets _ _ _ u _ v w
  have wf_u : u.Wf := modField_wf wf
  have wf_v : v.Wf := wf_ite (readMonitors_wf wf_u) (modField_wf wf_u)
  have wf_w : w.Wf := modField_wf wf_v
  exact wf_ite (wf.keep rfl) (wf_ite ((powerRecord_ends ..).keeps (wf.keep rfl)) (wf_ite (wf_w.keep rfl) wf_w))
theorem probeStack_wf {m : BootMeas} {k : Nat} (wf : s.Wf) : (probeStack m k s).Wf := wf_ite (modStack_wf wf) wf
theorem vinWait_wf (wf : s.Wf) : (vinWait s).Wf := wf_ite (wf.keep rfl) (wf.keep rfl)
theorem refWait_wf (wf : s.Wf) : (refWait s).Wf := wf_ite (wf.keep rfl) (wf.keep rfl)
theorem execMeasure_wf {m : BootMeas} (wf : s.Wf) : NextWf (execMeasure m s) := by
  unfold execMeasure
  refine .next ?_
  extract_lets t _ u _ _ v w _ x y
  have wf_t : t.Wf := wf_ite (moduleTo_wf restart_wf) wf
  have wf_u : u.Wf := wf_t.keep rfl
  have wf_v : v.Wf := wf_u.keep rfl
  have wf_w : w.Wf := wf_forAll (wf_forAll wf_v fun _ _ => logBus_wf) fun _ _ => measureField_wf
  have wf_x : x.Wf := wf_w.keep rfl
  have wf_y : y.Wf := wf_forAll wf_x fun _ _ => probeStack_wf
  exact wf_ite wf (wf_ite (vinWait_wf wf_u) (wf_ite (refWait_wf wf_v) (wf_y.keep rfl)))
theorem execTrain_wf (wf : s.Wf) : NextWf (execTrain s) := by
  unfold execTrain
  refine .next ?_
  extract_lets train t
  have wf_zero : State.Wf { s with hbm := [], staging := [], hbmFlips := [], stgFlips := [] } := rfl
  have wf_t : t.Wf := wf_forAll wf_zero fun _ _ wf => by exact wf_ite (modStack_wf wf) wf
  exact wf_ite wf (wf_t.keep rfl)
theorem verifyEntry_wf {n a : Nat} (wf : s.Wf) : (verifyEntry n a s).Wf := by
  unfold verifyEntry
  extract_lets
  split
  extract_lets t
  have wf_t : t.Wf := wf_ite (noteSites_wf (setPip_wf wf)) wf
  exact wf_ite wf_t (wf_ite (written_wf wf_t) (written_wf wf_t))
theorem verifyWeights_wf {n : Nat} (wf : s.Wf) : (verifyWeights s n).Wf :=
  wf_ite wf (wf_ite (wf_forAll (noteMem_wf wf) fun _ _ => verifyEntry_wf) (wf_forAll (wf.keep rfl) fun _ _ wf => by exact wf.keep rfl))
theorem partReset_wf {n : Nat} (wf : s.Wf) : (partReset s n).Wf :=
  wf_ite wf (wf_forAll (wf.keep rfl) fun _ _ wf => by exact wf_ite wf ((enableField_ends ..).keeps wf))
theorem execPartReset_wf {w : Writer} {n : Nat} (wf : s.Wf) : NextWf (execPartReset w n s) := .within (wf_ite (partReset_wf wf) wf)

/-! ### Functions of Machine/Command -/

theorem execCommandReady_wf {c : Nat} (wf : s.Wf) : NextWf (execCommandReady c s) := by
  unfold execCommandReady
  refine .within ?_
  split
  · exact wf
  · exact wf_ite wf (wf_ite (atIssue_wf wf) (wf_ite (wf_forAll wf fun _ _ wf => modField_wf ((enableField_ends ..).keeps wf)) (wf_ite
      (modCtx_wf wf) wf)))
theorem execCommandComplete_wf {k : Nat} (wf : s.Wf) : NextWf (execCommandComplete k s) := by
  unfold execCommandComplete
  refine .next ?_
  split
  · exact wf
  · split
    · exact wf
    · exact wf_ite ((enableField_ends ..).keeps wf) (completeCmd_wf wf)
theorem execCommandNop_wf {c : Nat} (wf : s.Wf) : NextWf (execCommandNop c s) := .within (issueCmd_wf wf fun _ => atIssue_wf wf)
theorem execWait_wf {c : Nat} (wf : s.Wf) : NextWf (execWait c s) := .within (issueSync_wf wf fun _ => accept_wf wf)
theorem execWaitRelease_wf {c : Nat} (wf : s.Wf) : NextWf (execWaitRelease c s) := by
  unfold execWaitRelease
  refine .within ?_
  split
  · exact wf
  · exact wf_ite (setCmd_wf wf) (wf_ite ((enableField_ends ..).keeps wf) wf)
theorem execSignal_wf {c : Nat} (wf : s.Wf) : NextWf (execSignal c s) := .within (issueSync_wf wf fun _ => atIssue_wf (wf.keep rfl))
theorem execSyncset_wf {c : Nat} (wf : s.Wf) : NextWf (execSyncset c s) := .within (issueSync_wf wf fun _ => atIssue_wf (wf.keep rfl))
theorem execCopy_wf {c : Nat} (wf : s.Wf) : NextWf (execCopy c s) :=
  .within (issueCmd_wf wf fun _ => by exact wf_ite (atIssue_wf wf) (accept_wf wf))
theorem copyLine_wf {k : Cmd} (wf : s.Wf) : (copyLine k s).Wf :=
  wf_ite wf (wf_ite (setCmd_wf (written_wf wf)) (wf_ite (setCmd_wf (written_wf (noteMem_wf wf))) (setCmd_wf (written_wf (noteMem_wf wf)))))
theorem execRelease_wf {c : Nat} (wf : s.Wf) : NextWf (execRelease c s) :=
  .within (issueCmd_wf wf fun _ => atIssue_wf (wf_forAll wf fun _ _ => modPip_wf))
theorem readSyncVal_wf {h c : Nat} (wf : s.Wf) : (readSyncVal s h c).Wf :=
  wf_ite (wf.keep rfl) (wf_ite (wf.keep rfl) (wf_ite ((enableField_ends ..).keeps wf) (wf.keep rfl)))

/-! ### Functions of Machine/Encrypted -/

theorem countRefusal_wf {b : List Byte} {s0 : State} {code : Byte} (wf : s.Wf) : (countRefusal b s0 code s).Wf :=
  wf_ite (wf_forAll wf fun _ _ => modPod_wf) wf
theorem writeDsts_wf {s0 : State} {c : Nat} {b : List Byte} (wf : s.Wf) : (writeDsts s0 c b s).Wf :=
  wf_forAll wf fun _ _ wf => by exact wf_forAll wf fun _ _ wf => by exact wf.keep rfl
theorem issueCt_wf {c opc : Nat} (wf : s.Wf) : (issueCt s c opc).Wf :=
  issueCmd_wf wf fun _ => by exact wf_ite (atIssue_wf (countRefusal_wf wf)) (enqueue_wf (writeDsts_wf wf))
theorem issueTable_wf {c opc : Nat} {code : List Byte → Byte} {act : List Byte → State} (wf : s.Wf) (h_act : ∀ a, (act a).Wf) :
    (issueTable s c opc code act).Wf :=
  issueCmd_wf wf fun _ => by exact wf_ite wf (wf_ite (atIssue_wf (countRefusal_wf wf)) (h_act _))
theorem execCtPset_wf {c : Nat} (wf : s.Wf) : NextWf (execCtPset c s) :=
  .within (issueTable_wf wf fun _ => by exact atIssue_wf (wf_forAll wf fun _ _ => modPod_wf))
theorem execCtBind_wf {c : Nat} (wf : s.Wf) : NextWf (execCtBind c s) :=
  .within (issueTable_wf wf fun _ => by exact accept_wf (wf_forAll wf fun _ _ wf => by exact wf.keep rfl))
theorem execCtFree_wf {c : Nat} (wf : s.Wf) : NextWf (execCtFree c s) :=
  .within (issueTable_wf wf fun _ => atIssue_wf (wf_forAll wf fun _ _ wf => by exact wf_forAll wf fun _ _ wf => by exact wf.keep rfl))

/-! ### Functions of Machine/Image -/

theorem execAdmitImage_wf {w : Writer} (wf : s.Wf) : NextWf (execAdmitImage w s) := .next (wf_ite wf (wf.keep rfl))
theorem setBoot_wf {b : Bool} (wf : s.Wf) : (setBoot b s).Wf := wf_forAll wf fun _ _ => modStack_wf
theorem loadBase_wf {im : Image} (wf : s.Wf) : (loadBase im s).Wf := by
  have wf_t : (setBoot false s).Wf := wf_forAll wf fun _ _ => modStack_wf
  unfold loadBase
  refine wf_ite wf ?_
  generalize setBoot false s = t at wf_t
  exact wf_t.keep rfl
theorem loadPlan_wf {im : Image} {i : Nat} (wf : s.Wf) : (loadPlan im i s).Wf := by
  unfold loadPlan
  extract_lets
  split
  · exact wf
  · exact (moduleRecord_ends ..).keeps (modPart_wf wf)
theorem execAdmissionDone_wf (wf : s.Wf) : NextWf (execAdmissionDone s) := by
  unfold execAdmissionDone
  refine .next ?_
  extract_lets _ _ _ t u
  have wf_t : t.Wf := wf_forAll (loadBase_wf wf) fun _ _ => loadPlan_wf
  have wf_u : u.Wf := wf_ite ((moduleRecord_ends ..).keeps wf_t) wf_t
  exact wf_ite wf (wf_ite (wf.keep rfl) (wf_u.keep rfl))
theorem execTransitReenable_wf (wf : s.Wf) : NextWf (execTransitReenable s) :=
  .next (wf_ite wf (wf_forAll (wf_forAll (wf.keep rfl) fun _ _ wf => (enableField_ends ..).keeps wf) fun _ _ wf =>
    (lowerField_ends ..).keeps wf))
theorem unbindAll_wf {n : Nat} (wf : s.Wf) : (unbindAll s n).Wf := wf_forAll wf fun _ _ wf => by exact wf_ite (wf.keep rfl) (modCtx_wf wf)
theorem revokePlan_wf {n : Nat} (wf : s.Wf) : (revokePlan s n).Wf := modPart_wf (wf_ite ((moduleRecord_ends ..).keeps wf) wf)
theorem dropFields_wf {fs : List Nat} (wf : s.Wf) : (dropFields s fs).Wf := wf_forAll wf fun _ _ wf => (lowerField_ends ..).keeps wf
theorem execModPart_wf {w : Writer} {n v : Nat} (wf : s.Wf) : NextWf (execModPart w n v s) := by
  unfold execModPart
  refine .within ?_
  extract_lets _ _ _ t _ u
  have wf_t : t.Wf := modPart_wf (unbindAll_wf wf)
  have wf_u : u.Wf := setPart_wf wf_t
  exact wf_ite wf (dropFields_wf (wf_forAll (wf_u.keep rfl) fun _ _ wf => (enableField_ends ..).keeps wf))
theorem execApplyRepair_wf {_w : Writer} (wf : s.Wf) : NextWf (execApplyRepair _w s) := .next (wf_ite (wf.keep rfl) wf)
theorem refuseJob_wf {j : Job} (wf : s.Wf) : (refuseJob j s).Wf :=
  wf_forAll (wf_forAll (wf.keep rfl) fun _ _ wf => by exact wf.keep rfl) fun _ _ => modField_wf
theorem execRepairRevoke_wf (wf : s.Wf) : NextWf (execRepairRevoke s) :=
  .next (wf_ite wf (dropFields_wf (wf_forAll (wf_forAll (wf_forAll (wf_ite (setBoot_wf ((moduleRecord_ends ..).keeps (wf_forAll (wf_ite
    (wf.keep rfl) (wf.keep rfl)) fun _ _ => revokePlan_wf))) (wf_forAll (wf_ite (wf.keep rfl)
    (wf.keep rfl)) fun _ _ => revokePlan_wf)) fun _ _ wf => modPart_wf (unbindAll_wf wf)) fun _ _ => refuseJob_wf) fun _ _ wf =>
    (lowerField_ends ..).keeps wf)))

/-! ### Functions of Machine/Links -/

theorem execCapability_wf {l : Nat} {m : CapMsg} (wf : s.Wf) : NextWf (execCapability l m s) :=
  .within (wf_ite wf (wf_ite (setLink_wf wf) (wf_ite (setLink_wf wf) (setLink_wf wf))))
theorem periodWork_wf (wf : s.Wf) : (periodWork s).Wf :=
  wf_forAll (wf_forAll (wf_ite (wf.keep rfl) (wf_ite (wf.keep rfl)
    (wf.keep rfl))) fun _ _ wf => by exact wf.keep rfl) fun _ _ wf => by exact wf.keep rfl
theorem tellAll_wf {k : CtrlKind} (wf : s.Wf) : (tellAll k s).Wf := wf_forAll wf fun _ _ => modLink_wf
theorem joinNow_wf (wf : s.Wf) : (joinNow s).Wf := by
  unfold joinNow
  extract_lets es _ t
  clear_value es
  have wf_t : t.Wf := by
    unfold t
    split
    · exact wf_ite (wf.keep rfl) (wf.keep rfl)
    · exact wf.keep rfl
  clear_value t
  exact wf_ite wf (tellAll_wf (wf_t.keep rfl))
theorem countEpoch_wf (wf : s.Wf) : (countEpoch s).Wf := wf_ite wf (wf_forAll (wf.keep rfl) fun _ _ => linkDown_wf)
theorem installTables_wf (wf : s.Wf) : (installTables s).Wf := wf_ite wf (wf_forAll (wf.keep rfl) fun _ _ => modLink_wf)
theorem scheduleLink_wf {l : Nat} (wf : s.Wf) : (scheduleLink l s).Wf := by
  unfold scheduleLink
  extract_lets
  split
  · exact wf_ite wf (wf_ite (setLink_wf wf) (wf_ite (setLink_wf wf) (setLink_wf wf)))
  · exact wf_ite (setLink_wf wf) (wf_ite (linkDown_wf wf) wf)
  · exact wf_ite (setLink_wf wf) (setLink_wf wf)
  · exact wf
theorem departNow_wf (wf : s.Wf) : (departNow s).Wf := wf_forAll (tellAll_wf wf) fun _ _ => modLink_wf
theorem execEpochBoundary_wf (wf : s.Wf) : NextWf (execEpochBoundary s) :=
  .next (wf_ite (wf.keep rfl) (wf_ite (installTables_wf (departNow_wf (wf.keep rfl))) (wf_forAll (installTables_wf (wf_ite (joinNow_wf
    (countEpoch_wf (wf.keep rfl))) (joinNow_wf (countEpoch_wf (wf.keep rfl))))) fun _ _ => scheduleLink_wf)))
theorem placeFlit_wf {l : Nat} {f : RxFlit} (wf : s.Wf) : (placeFlit s l f).Wf := by
  unfold placeFlit
  extract_lets
  split
  · refine wf_ite (failBurst_wf wf) (wf_ite (burstFlit_wf wf) ?_)
    split
    · exact wf_ite (modLink_wf wf) (failBurst_wf wf)
    · exact wf
  · exact sendFlit_wf (wf_ite (modLink_wf wf) wf)
  · exact wf
theorem missFlit_wf {l slot : Nat} {code : Byte} (wf : s.Wf) : (missFlit s l slot code).Wf := by
  unfold missFlit
  extract_lets
  split
  · exact failBurst_wf wf
  · exact sendVoid_wf wf
  · exact wf
theorem flitInHold_wf {l : Nat} {f : RxFlit} (wf : s.Wf) : (flitInHold s l f).Wf := missFlit_wf (modLink_wf wf)
theorem flitScheduled_wf {l : Nat} {f : RxFlit} (wf : s.Wf) : (flitScheduled s l f).Wf := by
  unfold flitScheduled
  extract_lets _ _ t
  refine wf_ite (missFlit_wf (settleHeld_wf (modLink_wf wf))) ?_
  have wf_t : t.Wf := wf_ite wf (modLink_wf wf)
  exact wf_ite (missFlit_wf (settleHeld_wf (modLink_wf wf_t))) (wf_ite (wf_ite (missFlit_wf (modLink_wf wf_t)) (modLink_wf wf_t)) (wf_ite
    (settleHeld_wf (modLink_wf wf_t)) (placeFlit_wf (settleHeld_wf (modLink_wf wf_t)))))
theorem execLinkFlitReceive_wf {l : Nat} {f : RxFlit} (wf : s.Wf) : NextWf (execLinkFlitReceive l f s) := by
  unfold execLinkFlitReceive
  refine .within ?_
  split
  · exact flitScheduled_wf wf
  · exact flitInHold_wf wf
  · exact modLink_wf wf
  · exact wf
theorem execSilentReceivePosition_wf {l r : Nat} (wf : s.Wf) : NextWf (execSilentReceivePosition l r s) := by
  unfold execSilentReceivePosition
  refine .within ?_
  extract_lets
  refine wf_ite wf ?_
  split
  · exact wf_ite (setLink_wf wf) (failBurst_wf wf)
  · exact sendVoid_wf (wf_ite (setLink_wf wf) wf)
  · exact wf
theorem execLinkHold_wf {l : Nat} (wf : s.Wf) : NextWf (execLinkHold l s) :=
  .within (wf_ite wf (wf_forAll (setLink_wf wf) fun _ _ => failBurst_wf))
theorem execLinkRunTransmit_wf {l r : Nat} (wf : s.Wf) : NextWf (execLinkRunTransmit l r s) := by
  unfold execLinkRunTransmit
  refine .within ?_
  extract_lets
  refine wf_ite wf ?_
  split
  split
  · exact wf_ite (wf.keep rfl) (setLink_wf wf)
  · exact setLink_wf wf
theorem rejectData_wf {l route : Nat} {code : Byte} (wf : s.Wf) : (rejectData s l route code).Wf := by
  unfold rejectData
  extract_lets
  split
  · exact (modLink_wf wf)
  · exact (endJobs_ends ..).keeps (modLink_wf wf)
theorem writeData_wf {l : Nat} {b : List Byte} (wf : s.Wf) : (writeData s l b).Wf := wf_ite (wf.keep rfl) (modStack_wf wf)
theorem finishData_wf {l : Nat} {b : List Byte} (wf : s.Wf) : (finishData s l b).Wf :=
  wf_ite (modLink_wf wf) (wf_ite wf (wf_ite ((enableField_ends ..).keeps wf) (wf.keep rfl)))
theorem execData_wf {l : Nat} (wf : s.Wf) : NextWf (execData l s) := by
  unfold execData
  refine .within ?_
  extract_lets
  split
  · exact wf
  · exact wf_ite (finishData_wf wf) (wf_ite (rejectData_wf (setLink_wf wf)) (wf_ite (rejectData_wf (setLink_wf wf)) (wf_ite
      ((enableField_ends ..).keeps wf) (wf_ite wf (finishData_wf (writeData_wf (setLink_wf wf)))))))
theorem reservedAct_wf {j l : Nat} (wf : s.Wf) : (reservedAct j l s).Wf := by
  unfold reservedAct
  extract_lets
  refine wf_ite wf ?_
  refine wf_ite (wf_ite wf (wf.keep rfl)) ?_
  split
  · exact wf.keep rfl
  · exact wf_ite (wf.keep rfl) wf
theorem execWakePattern_wf {w : Writer} (wf : s.Wf) : NextWf (execWakePattern w s) :=
  .next (wf_ite (wf_forAll wf fun _ _ wf => by exact wf.keep rfl) wf)

/-! ### Functions of Machine/Spdm -/

theorem spdmAt_wf {h code : Nat} {ok : Nat → Bool} {f : State → State} (h_f : ∀ s, s.Wf → (f s).Wf) (wf : s.Wf) :
    NextWf (spdmAt h code ok f s) :=
  .within (wf_ite wf (wf_ite (h_f _ wf) (wf.keep rfl)))
theorem signedReply_wf {h code slot jobs : Nat} {bs : List Byte} {f : State → State} (h_f : ∀ s, s.Wf → (f s).Wf) (wf : s.Wf) :
    (signedReply h code slot jobs bs f s).Wf :=
  wf_ite (wf.keep rfl) (wf_ite (wf.keep rfl) (h_f _ (wf.keep rfl)))
theorem execGetVersion_wf {h : Nat} (wf : s.Wf) : NextWf (execGetVersion h s) := spdmAt_wf (fun _ wf => by exact wf.keep rfl) wf
theorem execGetCapabilities_wf {h : Nat} (wf : s.Wf) : NextWf (execGetCapabilities h s) := spdmAt_wf (fun _ wf => by exact wf.keep rfl) wf
theorem execNegotiateAlgorithms_wf {h slot : Nat} (wf : s.Wf) : NextWf (execNegotiateAlgorithms h slot s) :=
  spdmAt_wf (fun _ wf => by exact wf_ite (wf.keep rfl) (wf.keep rfl)) wf
theorem execGetDigests_wf {h : Nat} (wf : s.Wf) : NextWf (execGetDigests h s) := spdmAt_wf (fun _ wf => by exact wf.keep rfl) wf
theorem execGetCertificate_wf {h slot : Nat} (wf : s.Wf) : NextWf (execGetCertificate h slot s) :=
  spdmAt_wf (fun _ wf => by exact wf_ite (wf.keep rfl) (wf.keep rfl)) wf
theorem execChallenge_wf {h slot : Nat} (wf : s.Wf) : NextWf (execChallenge h slot s) :=
  spdmAt_wf (fun _ wf => signedReply_wf (fun _ wf => by exact wf) wf) wf
theorem execGetMeasurements_wf {h : Nat} {signed : Bool} (wf : s.Wf) : NextWf (execGetMeasurements h signed s) :=
  spdmAt_wf (fun _ wf => by exact wf_ite (signedReply_wf (fun _ wf => by exact wf) wf) (wf.keep rfl)) wf
theorem execKeyExchange_wf {h slot : Nat} (wf : s.Wf) : NextWf (execKeyExchange h slot s) :=
  spdmAt_wf (fun _ wf => signedReply_wf (fun _ wf => by exact wf.keep rfl) wf) wf
theorem execFinish_wf {h : Nat} (wf : s.Wf) : NextWf (execFinish h s) := spdmAt_wf (fun _ wf => by exact wf.keep rfl) wf
theorem execKeyUpdate_wf {h : Nat} (wf : s.Wf) : NextWf (execKeyUpdate h s) := spdmAt_wf (fun _ wf => by exact wf.keep rfl) wf
theorem execHeartbeat_wf {h : Nat} (wf : s.Wf) : NextWf (execHeartbeat h s) := spdmAt_wf (fun _ wf => by exact wf.keep rfl) wf
theorem execEndSession_wf {h : Nat} (wf : s.Wf) : NextWf (execEndSession h s) := spdmAt_wf (fun _ wf => by exact wf.keep rfl) wf

/-! ### Functions of Machine/Regs -/

theorem readHalf_wf {h off : Nat} (wf : s.Wf) : (readHalf s h off).Wf := wf_ite (wf.keep rfl) (wf_ite (wf.keep rfl) (wf.keep rfl))
theorem execCounterLowRead_wf {h : Nat} {r : ReadAt} (wf : s.Wf) : NextWf (execCounterLowRead h r s) := by
  unfold execCounterLowRead
  refine .within ?_
  refine wf_ite wf ?_
  refine wf_ite (wf.keep rfl) ?_
  refine wf_ite ?_ (wf.keep rfl)
  split
  · exact readSyncVal_wf wf
  · exact readHalf_wf wf

/-! ### Functions of Machine/Trace -/

theorem after_wf {o : Host.Outcome State Fault Refusal} (wf : s.Wf) (h : NextWf o) : (after s o).Wf := by
  unfold after
  split
  · exact h _ rfl
  · exact wf
theorem writeMod_wf {w : Writer} {o v : Nat} (wf : s.Wf) : (writeMod w o v s).Wf := by
  unfold writeMod
  split
  · exact wf_ite (after_wf wf (execAdmitImage_wf wf)) wf
  · exact wf_ite (after_wf wf (execApplyRepair_wf wf)) wf
  · exact wf.keep rfl
  · exact wf_ite (wf.keep rfl) wf
  · exact wf_ite (wf.keep rfl) wf
  · extract_lets t
    have wf_t : t.Wf := wf_ite (after_wf wf (execPartReset_wf wf)) wf
    exact wf_ite (after_wf wf_t (execModReset_wf wf_t)) wf_t
  · exact wf_ite (after_wf wf (execModPart_wf wf)) wf
theorem writeHost_wf {w : Writer} {h o v : Nat} (wf : s.Wf) : (writeHost w h o v s).Wf := by
  unfold writeHost
  refine wf_ite wf ?_
  split
  · exact wf_ite (modHost_wf wf) wf
  · exact modHost_wf wf
  · exact modHost_wf wf
  · split
    · exact wf
    · exact after_wf wf (execCreate_wf wf)
    · exact after_wf wf (execDestroy_wf wf)
    · exact after_wf wf (execRebind_wf wf)
    · exact crResult_wf wf
  · exact modHost_wf wf
  · exact wf
theorem writeHull_wf {w : Writer} {c o v : Nat} (wf : s.Wf) : (writeHull w c o v s).Wf := by
  unfold writeHull
  split
  · exact wf_ite (modHchan_wf wf) wf
  · extract_lets t
    have wf_t : t.Wf := wf_ite (after_wf wf (.within (wf_ite (modHchan_wf wf) wf))) wf
    exact wf_ite (after_wf wf_t (startHull_wf wf_t)) wf_t
  · exact wf
theorem writePwr_wf {w : Writer} {o v : Nat} (wf : s.Wf) : (writePwr w o v s).Wf := by
  unfold writePwr
  extract_lets
  split
  · exact wf.keep rfl
  · exact wf_ite (after_wf wf (.next (wf_ite (standby_wf wf) wf))) wf
  · exact wf_ite (wf.keep rfl) wf
  · exact wf.keep rfl
  · exact wf_ite (wf.keep rfl) wf
  · exact wf.keep rfl
  · exact wf
theorem writeTrc_wf {w : Writer} {o v : Nat} (wf : s.Wf) : (writeTrc w o v s).Wf := by
  unfold writeTrc
  extract_lets
  refine wf_ite wf ?_
  split
  · exact wakeFloor_wf (wf.keep rfl)
  · exact wf.keep rfl
  · exact wf_ite wf (wf.keep rfl)
  · exact wf.keep rfl
  · exact wf_ite (wf.keep rfl) wf
theorem writeCtx_wf {w : Writer} {c o v : Nat} (wf : s.Wf) : (writeCtx w c o v s).Wf := by
  unfold writeCtx
  refine wf_ite wf ?_
  split
  · exact after_wf wf (.within (wf_ite wf (wf_ite (setCtx_wf wf) (setCtx_wf wf))))
  · exact modCtx_wf wf
  · exact wf_ite (after_wf wf (.within (wf_ite (modCtx_wf wf) wf))) (wf_ite (after_wf wf (.within (wf_ite (modCtx_wf wf) wf))) wf)
  · exact modCtx_wf wf
  · exact wf_ite (after_wf wf (.within (wf_ite wf (wf_ite wf (wf_ite (setCtx_wf wf) (setCtx_wf wf)))))) wf
theorem writeLnk_wf {w : Writer} {o v : Nat} (wf : s.Wf) : (writeLnk w o v s).Wf := by
  unfold writeLnk
  split
  · exact wf_ite (wf.keep rfl) wf
  · extract_lets t u
    have wf_t : t.Wf := after_wf wf (.next (wf_ite (after_wf wf (.next (wf_ite (wf.keep rfl) wf))) (after_wf wf (.next (wf_ite
      (wf.keep rfl) wf)))))
    have wf_u : u.Wf := wf_ite (after_wf wf_t (.next (wf_ite (wf_t.keep rfl) wf_t))) wf_t
    exact wf_ite (after_wf wf_u (execWakePattern_wf wf_u)) wf_u
  · exact wf.keep rfl
  · exact wf
theorem writeHbm_wf {k o v : Nat} (wf : s.Wf) : (writeHbm k o v s).Wf := by
  unfold writeHbm
  split
  · exact modStack_wf wf
  · exact modStack_wf wf
  · exact modStack_wf wf
  · exact wf
theorem writePip_wf {w : Writer} {b p o v : Nat} (wf : s.Wf) : (writePip w b p o v s).Wf := by
  unfold writePip
  extract_lets
  split
  · exact modPip_wf wf
  · exact modPip_wf wf
  · exact modPip_wf wf
  · exact wf_ite (after_wf wf (.within (modPip_wf wf))) wf
  · exact modPip_wf wf
  · exact modPip_wf wf
  · exact modPip_wf wf
  · exact wf
theorem write32_wf {w : Writer} {o v : Nat} (wf : s.Wf) : (write32 w o v s).Wf := by
  unfold write32
  extract_lets arr
  clear_value arr
  refine wf_ite (writeMod_wf wf) ?_
  cases arr 0x800000 16 0x100
  case some => exact writeHost_wf wf
  refine wf_ite (after_wf wf (execCxlMgmt_wf wf)) ?_
  refine wf_ite (wf_ite (modPart_wf wf) wf) ?_
  cases arr 0x820000 640 4
  case some => exact after_wf wf (execCxlCtxpage_wf wf)
  refine wf_ite (after_wf wf (execHullChanOwner_wf wf)) ?_
  cases arr 0x901000 16 0x100
  case some => exact writeHull_wf wf
  refine wf_ite (writePwr_wf wf) ?_
  cases arr 0xA10000 64 0x100
  case some =>
    dsimp only
    split
    · exact wf_ite (modField_wf wf) wf
    · exact after_wf wf (execFldPwrCtrl_wf wf)
    · exact wf
  refine wf_ite (writeTrc_wf wf) ?_
  cases arr 0x1000000 10240 0x100
  case some => exact writeCtx_wf wf
  cases arr 0x1400000 12 0x100
  case some => exact writeHbm_wf wf
  cases arr 0x1410000 768 4
  case some => exact after_wf wf (execHbmGran_wf wf)
  cases arr 0x1411000 768 4
  case some => exact after_wf wf (execHbmSgran_wf wf)
  refine wf_ite (writeLnk_wf wf) ?_
  cases arr 0x1501000 36 0x100
  case some => exact wf_ite (modLink_wf wf) wf
  cases arr 0x1510000 16 0x100
  case some => exact wf_ite (modChan_wf wf) wf
  cases arr 0x2C00000 640 0x40
  case some => exact wf_ite (modPod_wf wf) wf
  cases arr 0x2D00000 640 0x40
  case some => exact wf_ite (modPod_wf wf) wf
  cases arr 0x2E00000 640 0x40
  case some => exact wf_ite (modPod_wf wf) wf
  exact wf_ite (writePip_wf wf) wf
theorem write64_wf {w : Writer} {b v : Nat} (wf : s.Wf) : (write64 w b v s).Wf := by
  unfold write64
  extract_lets
  refine wf_ite (wf.keep rfl) ?_
  refine wf_ite (wf_ite (modPart_wf wf) wf) ?_
  split
  · exact wf_ite wf (wf_ite (modHost_wf wf) (modHost_wf wf))
  · split
    · exact wf_ite (modHchan_wf wf) wf
    · exact after_wf wf (.within (wf_ite wf (wf_ite (setPip_wf wf) (wf_ite wf (setPip_wf wf)))))
theorem writeHalf_wf {w : Writer} {o v : Nat} (wf : s.Wf) : (writeHalf w o v s).Wf := by
  unfold writeHalf
  split
  · exact write64_wf wf
  · exact write32_wf wf
theorem execRegisterWrite_wf {w : Writer} {off len v : Nat} (wf : s.Wf) : NextWf (execRegisterWrite w off len v s) :=
  .next (wf_ite wf (wf_ite (writeHalf_wf wf) (wf_ite (wf_ite (write64_wf wf) (write32_wf (write32_wf wf))) wf)))
theorem traceLand_wf {e : Nat × TraceFlit} (wf : s.Wf) : (traceLand s e).Wf := wf_ite (wf.keep rfl) (wf_ite (wf.keep rfl) (wf.keep rfl))
theorem landTraces_wf (wf : s.Wf) : (landTraces s).Wf := wf_forAll (wf.keep rfl) fun _ _ => traceLand_wf
theorem execTraceFlitSend_wf {p : Nat} (wf : s.Wf) : NextWf (execTraceFlitSend p s) := by
  unfold execTraceFlitSend
  refine .within ?_
  split
  · exact wf
  · exact wf_ite wf (wf_ite (wf_ite (wf.keep rfl) (wf.keep rfl)) (wf_ite (wf.keep rfl) (wf.keep rfl)))
theorem execTraceRelay_wf {p : Nat} (wf : s.Wf) : NextWf (execTraceRelay p s) := by
  unfold execTraceRelay
  refine .within ?_
  extract_lets t
  have wf_t : t.Wf := landTraces_wf wf
  split
  · exact wf_t
  · exact wf_ite wf_t (wf_ite (wf_t.keep rfl) (wf_t.keep rfl))
theorem snapRecord_wf {i : Nat} (wf : s.Wf) : (snapRecord i s).Wf := wf_ite ((fabricRecord_ends ..).keeps wf) wf
theorem execSnapshot_wf (wf : s.Wf) : NextWf (execSnapshot s) := .next (wf_ite wf (wf_forAll (wf.keep rfl) fun _ _ => snapRecord_wf))

/-! ### Functions of Machine/Mgmt -/

theorem execPldmSensorRead_wf {id : Nat} (wf : s.Wf) : NextWf (execPldmSensorRead id s) := by
  unfold execPldmSensorRead
  refine .next ?_
  refine wf_ite wf ?_
  split <;> exact wf.keep rfl
theorem oem_wf {code : Nat} {ok : Bool} {f : State → State} (h_f : ∀ s, s.Wf → (f s).Wf) (wf : s.Wf) : NextWf (oem code ok f s) :=
  .next (wf_ite wf (wf_ite (h_f _ wf) (wf.keep rfl)))
theorem execSetMgmt_wf {v : Nat} (wf : s.Wf) : NextWf (execSetMgmt v s) := oem_wf (fun _ => setMgmt_wf) wf
theorem execOemPartReset_wf {n : Nat} (wf : s.Wf) : NextWf (execOemPartReset n s) :=
  .within (after_wf wf (oem_wf (fun _ => partReset_wf) wf))
theorem execOemModReset_wf (wf : s.Wf) : NextWf (execOemModReset s) := oem_wf (fun _ => moduleReset_wf) wf
theorem execOemStandby_wf (wf : s.Wf) : NextWf (execOemStandby s) := oem_wf (fun _ => standby_wf) wf
theorem execOemWake_wf (wf : s.Wf) : NextWf (execOemWake s) := oem_wf (fun _ wf => by exact wf_ite wf (wf.keep rfl)) wf
theorem execEnrolOwner_wf {nE : List Byte} (wf : s.Wf) : NextWf (execEnrolOwner nE s) := oem_wf (fun _ wf => by exact wf.keep rfl) wf
theorem enterTest_wf (wf : s.Wf) : (enterTest s).Wf := by
  unfold enterTest
  extract_lets t u v _ _ w
  have wf_u : u.Wf := wf_forAll (departAll_wf wf) fun _ _ wf => (startDown_ends ..).keeps wf
  have wf_v : v.Wf := wf_forAll wf_u fun _ _ => modHchan_wf
  clear_value v
  have wf_w : w.Wf := wf_v.keep rfl
  exact (platformEvent_ends ..).keeps wf_w
theorem execTestEnable_wf (wf : s.Wf) : NextWf (execTestEnable s) := oem_wf (fun _ => enterTest_wf) wf
theorem placeImage_wf {id : Nat} {b : List Byte} (wf : s.Wf) : (placeImage s id b).Wf := by
  unfold placeImage
  extract_lets
  split
  · exact wf.keep rfl
  · exact wf.keep rfl
  · exact wf.keep rfl
  · exact wf_ite (wf.keep rfl) wf
theorem execFirmwareUpdateComponent_wf {id : Nat} {wp : Bool} {image : List Byte} (wf : s.Wf) :
    NextWf (execFirmwareUpdateComponent id wp image s) := by
  unfold execFirmwareUpdateComponent
  refine .next ?_
  extract_lets _ _ _ t _ u v
  have wf_t : t.Wf := tryImage_wf (wf.keep rfl)
  clear_value t
  have wf_u : u.Wf := wf_ite (wf_t.keep rfl) wf_t
  clear_value u
  have wf_v : v.Wf := placeImage_wf wf_u
  clear_value v
  exact wf_ite wf (wf_ite (wf.keep rfl) (wf_ite (wf_v.keep rfl) (wf_u.keep rfl)))

/-! ### Functions of Machine/Staging -/

theorem applyInt_wf {k : Nat} {b : List Byte} (wf : s.Wf) : (applyInt s k b).Wf :=
  modStack_wf (wf_ite (written_wf (written_wf (noteMem_wf wf))) (written_wf (noteMem_wf wf)))
theorem applyAdd_wf {k slot addr : Nat} {ws : List Word32} (wf : s.Wf) : (applyAdd s k slot addr ws).Wf :=
  modStack_wf (written_wf (noteMem_wf wf))
theorem refuseReq_wf {k : Nat} {r : Req} {code : Byte} (wf : s.Wf) : (refuseReq s k r code).Wf := failReq_wf (modStack_wf wf)
theorem serveReq_wf {k aop : Nat} {act : State → Req → State} (wf : s.Wf) (h_act : ∀ s r, s.Wf → (act s r).Wf) :
    (serveReq s k aop act).Wf := by
  unfold serveReq
  split
  · exact wf
  · extract_lets _ _ t
    have wf_t : t.Wf := wf.keep rfl
    exact wf_ite wf (wf_ite (failReq_wf (wf_t.keep rfl)) (wf_ite (ueReq_wf (writeAccepted_wf (h_act _ _ wf_t)))
      (writeAccepted_wf (h_act _ _ wf_t))))
theorem answerRead_wf {r : Req} (wf : s.Wf) : (answerRead s r).Wf := by
  unfold answerRead
  extract_lets _ _ t
  have wf_t : t.Wf := noteMem_wf wf
  split
  · exact wf_t.keep rfl
  · exact wf_t.keep rfl
  · exact wf_ite (ueReq_wf (wf_t.keep rfl)) (wf_t.keep rfl)
  · exact wf_t
  · exact wf_t
theorem answerFree_wf {r : Req} (wf : s.Wf) : (answerFree s r).Wf := by
  unfold answerFree
  extract_lets
  split
  · exact wf.keep rfl
  · exact wf.keep rfl
  · exact wf.keep rfl
  · exact wf.keep rfl
  · exact wf.keep rfl
theorem writeStaging_wf {a : Nat} {bs : List Byte} (wf : s.Wf) : (writeStaging s a bs).Wf :=
  written_wf (wf_forAll wf fun _ _ wf => by exact noteError_wf wf)
theorem servePlain_wf {r : Req} (wf : s.Wf) : (servePlain s r).Wf := by
  unfold servePlain
  extract_lets
  refine wf_ite ?_ (wf_ite (writeAccepted_wf (writeStaging_wf wf)) (answerRead_wf wf))
  split
  · exact rejectAcc_wf wf
  · exact wf.keep rfl
  · exact failReq_wf wf
theorem execStagingAccess_wf {k : Nat} (wf : s.Wf) : NextWf (execStagingAccess k s) := by
  unfold execStagingAccess
  refine .within ?_
  split
  · exact wf
  · exact wf_ite (servePlain_wf (wf.keep rfl)) (wf_ite (answerFree_wf (wf.keep rfl)) (wf_ite (refuseReq_wf (wf.keep rfl)) wf))
theorem execStAdd_wf {k : Nat} (wf : s.Wf) : NextWf (execStAdd k s) := .within (serveReq_wf wf fun _ _ wf => applyInt_wf wf)
theorem execStSmin_wf {k : Nat} (wf : s.Wf) : NextWf (execStSmin k s) := .within (serveReq_wf wf fun _ _ wf => applyInt_wf wf)
theorem execStSmax_wf {k : Nat} (wf : s.Wf) : NextWf (execStSmax k s) := .within (serveReq_wf wf fun _ _ wf => applyInt_wf wf)
theorem execStUmin_wf {k : Nat} (wf : s.Wf) : NextWf (execStUmin k s) := .within (serveReq_wf wf fun _ _ wf => applyInt_wf wf)
theorem execStUmax_wf {k : Nat} (wf : s.Wf) : NextWf (execStUmax k s) := .within (serveReq_wf wf fun _ _ wf => applyInt_wf wf)
theorem execStSwap_wf {k : Nat} (wf : s.Wf) : NextWf (execStSwap k s) := .within (serveReq_wf wf fun _ _ wf => applyInt_wf wf)
theorem execStCas_wf {k : Nat} (wf : s.Wf) : NextWf (execStCas k s) := .within (serveReq_wf wf fun _ _ wf => applyInt_wf wf)
theorem execStFadd_wf {k : Nat} (wf : s.Wf) : NextWf (execStFadd k s) :=
  .within (serveReq_wf wf fun _ _ wf => by exact wf_ite (applyAdd_wf wf) (modStack_wf wf))
theorem execFaddHeldApply_wf {k slot : Nat} (wf : s.Wf) : NextWf (execFaddHeldApply k slot s) := by
  unfold execFaddHeldApply
  refine .within ?_
  split
  · exact wf
  · exact wf_ite wf (wf_ite (ueReq_wf (applyAdd_wf (modStack_wf wf))) (applyAdd_wf (modStack_wf wf)))
theorem execOrdset_wf {k : Nat} (wf : s.Wf) : NextWf (execOrdset k s) := .within (serveReq_wf wf fun _ _ wf => modStack_wf wf)

/-! ### Every command -/

theorem exec_wf {i : Instr} (wf : s.Wf) : NextWf (exec i s) :=
  match i with
  | .registerWrite .. => execRegisterWrite_wf wf
  | .counterLowRead .. => execCounterLowRead_wf wf
  | .nop .. | .ldq .. | .stq .. | .msnd .. | .mrcv .. | .dma .. | .dmaw .. | .swap .. | .dld .. | .aop .. | .sigl .. | .loop .. |
    .brf .. | .lcset .. | .endStream .. | .tlw .. | .tsw .. | .tmm .. | .tdrn .. | .sop .. | .sld .. | .sst .. | .spush .. | .ssum .. |
    .lrxset .. | .nttl .. | .nttx .. | .intx .. | .intl .. | .eadd .. | .esub .. | .emul .. | .mulc .. | .kmac .. | .auto .. |
    .tomont .. | .frommont .. | .kout .. => .within (issueBy_wf wf)
  | .strmStart .. => execStrmStart_wf wf
  | .strmWait .. => execStrmWait_wf wf
  | .siglApply .. => execSiglApply_wf wf
  | .tmmComplete .. => execTmmComplete_wf wf
  | .drainEnd .. | .ringOpComplete .. | .tmodeComplete .. => .within (wf_ite wf (modPip_wf wf))
  | .tmode .. => .within (wf_ite (issueBy_wf wf) (issueBy_wf wf))
  | .residueCompare .. => execResidueCompare_wf wf
  | .dmaComplete .. => execDmaComplete_wf wf
  | .pipFinish .. => execPipFinish_wf wf
  | .jobWatchdog .. | .engineWatchdog .. => .within (wf_ite ((failPip_ends ..).keeps wf) wf)
  | .meshFlitSend .. => execMeshFlitSend_wf wf
  | .meshFlitArrive .. => execMeshFlitArrive_wf wf
  | .creditReturn .. => execCreditReturn_wf wf
  | .dmaWriterWrite .. => execDmaWriterWrite_wf wf
  | .shortFlitEnter .. => execShortFlitEnter_wf wf
  | .shortPathWrite .. => execShortPathWrite_wf wf
  | .commandRead .. => .within (wf_ite wf (setCtx_wf (noteMem_wf wf)))
  | .commandReady .. => execCommandReady_wf wf
  | .jobStart .. => execJobStart_wf wf
  | .jobLoadEnd .. => .within (wf_ite (modPip_wf wf) wf)
  | .streamStart .. => execStreamStart_wf wf
  | .commandComplete .. => execCommandComplete_wf wf
  | .commandNop .. => execCommandNop_wf wf
  | .launch .. => execLaunch_wf wf
  | .wait .. => execWait_wf wf
  | .waitRelease .. => execWaitRelease_wf wf
  | .signal .. => execSignal_wf wf
  | .syncset .. => execSyncset_wf wf
  | .copy .. => execCopy_wf wf
  | .release .. => execRelease_wf wf
  | .doorbell .. => .within (wf_ite wf (wf_ite (setCtx_wf wf) (setCtx_wf wf)))
  | .resume .. | .flush .. => .within (wf_ite (modCtx_wf wf) wf)
  | .modCtxSyncVal .. => .within (readSyncVal_wf wf)
  | .modCtxGrant .. => .within (wf_ite wf (wf_ite wf (wf_ite (setCtx_wf wf) (setCtx_wf wf))))
  | .admitImage .. => execAdmitImage_wf wf
  | .admissionDone => execAdmissionDone_wf wf
  | .transitReenable => execTransitReenable_wf wf
  | .modPart .. => execModPart_wf wf
  | .pendingRepair .. | .linksd .. | .pattern .. => .within (wf_ite wf (wf.keep rfl))
  | .applyRepair w => execApplyRepair_wf (_w := w) wf
  | .repairRevoke => execRepairRevoke_wf wf
  | .pipRegion .. => .within (wf_ite wf (wf_ite (setPip_wf wf) (wf_ite wf (setPip_wf wf))))
  | .scrubDone .. => execScrubDone_wf wf
  | .clr .. => .within (modPip_wf wf)
  | .streamRunStart .. => execStreamRunStart_wf wf
  | .gset .. | .gadd .. | .gmod .. | .agLoop .. | .agNop .. | .agEnd .. => .within (agRun_wf wf)
  | .gidx .. => execGidx_wf wf
  | .xfer .. => execXfer_wf wf
  | .kblk .. => execKblk_wf wf
  | .sput .. => execSput_wf wf
  | .waitso .. => execWaitso_wf wf
  | .dependenceMarkRelease .. => execDependenceMarkRelease_wf wf
  | .sigso .. => execSigso_wf wf
  | .streamRunComplete .. => execStreamRunComplete_wf wf
  | .keyHeaderCheck .. => execKeyHeaderCheck_wf wf
  | .keyDrainEnd .. => execKeyDrainEnd_wf wf
  | .ctPset .. => execCtPset_wf wf
  | .ctBind .. => execCtBind_wf wf
  | .ctFree .. => execCtFree_wf wf
  | .ctCopy .. | .ctExport .. | .pkAdd .. | .pkMulp .. | .pkMul .. | .pkRot .. | .pkLdrop .. | .pkExtract .. | .liLin .. | .liPbs .. |
    .lbGate .. | .liRepack .. | .ctMaskout .. => .within (issueCt_wf wf)
  | .hbmRead .. => execHbmRead_wf wf
  | .hbmWrite .. => execHbmWrite_wf wf
  | .hbmIdle .. | .hbmTrainingEnd .. => .within (wf_ite (modStack_wf wf) wf)
  | .ref .. => .within (wf_ite wf (modStack_wf wf))
  | .refreshInsert .. => execRefreshInsert_wf wf
  | .host .. => execHost_wf wf
  | .stageIn .. => execStageIn_wf wf
  | .stageOut .. => execStageOut_wf wf
  | .scrub .. => execScrub_wf wf
  | .requestWord .. => execRequestWord_wf wf
  | .readLineReady .. => execReadLineReady_wf wf
  | .hbmHot .. => execHbmHot_wf wf
  | .hbmGran .. => execHbmGran_wf wf
  | .hbmSgran .. => execHbmSgran_wf wf
  | .granuleZeroed .. => .within (wf_ite wf (setGran_wf wf))
  | .stagingAccess .. => execStagingAccess_wf wf
  | .stAdd .. => execStAdd_wf wf
  | .stSmin .. => execStSmin_wf wf
  | .stSmax .. => execStSmax_wf wf
  | .stUmin .. => execStUmin_wf wf
  | .stUmax .. => execStUmax_wf wf
  | .stSwap .. => execStSwap_wf wf
  | .stCas .. => execStCas_wf wf
  | .stFadd .. => execStFadd_wf wf
  | .faddHeldApply .. => execFaddHeldApply_wf wf
  | .ordset .. => execOrdset_wf wf
  | .signalDetect .. | .measureMessage .. => .within (wf_ite wf (setLink_wf wf))
  | .capability .. => execCapability_wf wf
  | .trainingRestart .. | .wiringRetry .. | .flitLock .. | .lossOfFlitLock .. => .within (modLink_wf wf)
  | .time .. => .within (wf_ite wf (setLink_wf (wf.keep rfl)))
  | .linkPeriod => .next (wf_ite wf (periodWork_wf (wf.keep rfl)))
  | .epochBoundary => execEpochBoundary_wf wf
  | .linkFlitReceive .. => execLinkFlitReceive_wf wf
  | .linkRunTransmit .. => execLinkRunTransmit_wf wf
  | .data .. => execData_wf wf
  | .linkHold .. => execLinkHold_wf wf
  | .linkDown .. | .partnerDepart .. => .within (wf_ite wf (linkDown_wf wf))
  | .joinEn .. | .ppsEn .. | .depart .. | .fmApiQuery .. | .fmApiAllocationChange .. | .drbgHealthRetest .. | .dynamicAddress .. |
    .pldmBase .. | .readFaultLog .. | .bypass | .idcode | .samplePreload .. | .extest => .next (wf_ite (wf.keep rfl) wf)
  | .wakePattern .. => execWakePattern_wf wf
  | .timePps | .cwakeN | .wakeN | .ready => .next (wf_ite wf (wf.keep rfl))
  | .clOpen .. => execClOpen_wf wf
  | .clReduce .. => execClReduce_wf wf
  | .clClose .. => execClClose_wf wf
  | .clCloseForce .. => execClCloseForce_wf wf
  | .localStep .. => execLocalStep_wf wf
  | .chunkSend .. => execChunkSend_wf wf
  | .coll .. => execColl_wf wf
  | .credit .. => execCredit_wf wf
  | .abortMsg .. => execAbortMsg_wf wf
  | .clReduceComplete .. => execClReduceComplete_wf wf
  | .cxlMemRead .. | .cxlMemWrite .. => .within (hostAccess_wf wf)
  | .scratchpadWindowAccess .. => execScratchpadWindowAccess_wf wf
  | .windowEscalation .. => execWindowEscalation_wf wf
  | .hdmDecoderCommit .. => .within (wf_ite wf (modHost_wf wf))
  | .cxlMgmt .. => execCxlMgmt_wf wf
  | .cxlCtxpage .. => execCxlCtxpage_wf wf
  | .create .. => execCreate_wf wf
  | .destroy .. => execDestroy_wf wf
  | .rebind .. => execRebind_wf wf
  | .headLinkDown .. => .within (wf_ite (dropHead_wf wf) wf)
  | .perstN .. => .within (wf_ite (dropHead_wf (modHead_wf wf)) (modHead_wf wf))
  | .ideFail .. => .within (wf_ite (dropHead_wf (wf.keep rfl)) wf)
  | .fmUnbind .. | .functionLevelReset .. => .within (wf_ite (modHost_wf (departHost_wf wf)) wf)
  | .flrReattach .. => .within (wf_ite (modHost_wf wf) wf)
  | .ideKm .. => .within (wf_ite (modHead_wf wf) wf)
  | .getVersion .. => execGetVersion_wf wf
  | .getCapabilities .. => execGetCapabilities_wf wf
  | .negotiateAlgorithms .. => execNegotiateAlgorithms_wf wf
  | .getDigests .. => execGetDigests_wf wf
  | .getCertificate .. => execGetCertificate_wf wf
  | .challenge .. => execChallenge_wf wf
  | .getMeasurements .. => execGetMeasurements_wf wf
  | .keyExchange .. => execKeyExchange_wf wf
  | .finish .. => execFinish_wf wf
  | .keyUpdate .. => execKeyUpdate_wf wf
  | .heartbeat .. => execHeartbeat_wf wf
  | .endSession .. => execEndSession_wf wf
  | .modexp .. | .modmul .. | .rsaVerify .. | .ecmul .. | .ecdh .. | .ecdsaSign .. | .ecdsaVerify .. | .curveLoad .. | .sha256 .. |
    .kwrap .. | .kunwrap .. | .random .. => startHull_wf wf
  | .hullLoadEnd .. => execHullLoadEnd_wf wf
  | .engineTake .. => execEngineTake_wf wf
  | .execEnd .. => execExecEnd_wf wf
  | .storeEnd .. => execStoreEnd_wf wf
  | .wipeEnd .. => execWipeEnd_wf wf
  | .clrcurve .. => .within (wf_ite (modHchan_wf wf) wf)
  | .hullChanOwner .. => execHullChanOwner_wf wf
  | .fieldGate .. => .within (wf_ite ((fieldTo_ends ..).keeps wf) wf)
  | .idleExpiry .. => .within (wf_ite ((lowerField_ends ..).keeps wf) wf)
  | .shutdownComplete .. => execShutdownComplete_wf wf
  | .wakeComplete .. => execWakeComplete_wf wf
  | .vrAck .. => execVrAck_wf wf
  | .vrNack .. => execVrNack_wf wf
  | .powerStepIssue .. => execPowerStepIssue_wf wf
  | .fldPwrCtrl .. => execFldPwrCtrl_wf wf
  | .standby .. => .next (wf_ite (standby_wf wf) wf)
  | .pwrTimer => .next (wf_ite (wf_ite wf (wf.keep rfl)) wf)
  | .temperatureReading .. => execTemperatureReading_wf wf
  | .inputMeasure .. => execInputMeasure_wf wf
  | .vinFault => execVinFault_wf wf
  | .holdover => .next (moduleFault_wf (wf.keep rfl))
  | .cdcTimeout .. => execCdcTimeout_wf wf
  | .monitorRead .. => .within (wf_ite wf (readMonitors_wf wf))
  | .marginApply .. => execMarginApply_wf wf
  | .huskPowerUp .. => execHuskPowerUp_wf wf
  | .pwrEnFall => execPwrEnFall_wf wf
  | .barsLoss => execBarsLoss_wf wf
  | .firmware => execFirmware_wf wf
  | .config => execConfig_wf wf
  | .measure .. => execMeasure_wf wf
  | .train => execTrain_wf wf
  | .recoveryIdle .. => .within (wf_ite (modPart_wf wf) wf)
  | .weightVerify .. => .within (wf_ite (modPart_wf (verifyWeights_wf wf)) wf)
  | .reopen .. => .within (wf_ite ((endRecovery_ends ..).keeps wf) wf)
  | .recoveryWindowEnd .. => .within (modPart_wf wf)
  | .partReset .. => execPartReset_wf wf
  | .modReset .. => execModReset_wf wf
  | .traceFlitSend .. => execTraceFlitSend_wf wf
  | .traceRelay .. => execTraceRelay_wf wf
  | .traceFrame | .refclkReturn | .platformEventAck => .next (wf.keep rfl)
  | .snapshot => execSnapshot_wf wf
  | .pldmSensorRead .. => execPldmSensorRead_wf wf
  | .setMgmt .. => execSetMgmt_wf wf
  | .oemPartReset .. => execOemPartReset_wf wf
  | .oemModReset => execOemModReset_wf wf
  | .oemStandby => execOemStandby_wf wf
  | .oemWake => execOemWake_wf wf
  | .enrolOwner .. => execEnrolOwner_wf wf
  | .testEnable => execTestEnable_wf wf
  | .firmwareUpdateComponent .. => execFirmwareUpdateComponent_wf wf
  | .silentReceivePosition .. => execSilentReceivePosition_wf wf
  | .headLinkUp .. => execHeadLinkUp_wf wf
  | .fmBind .. => execFmBind_wf wf
  | .m1Entry => execM1Entry_wf wf
  | .cblpwrOverload .. => .within (modLink_wf (wf.keep rfl))
  | .perstNRise .. => .within (modHead_wf wf)
  | .doeDiscovery .. => .within (wf_ite wf (wf_ite (wf.keep rfl) (wf.keep rfl)))

/-! ### Functions of Machine/Cycle -/

theorem goOn_wf {o : Host.Outcome State Fault Refusal} (wf : s.Wf) (h : NextWf o) : (goOn s o).Wf :=
  after_wf wf h
theorem auto_wf {i : Instr} (wf : s.Wf) : (auto i s).Wf := goOn_wf wf (exec_wf wf)
theorem autos_wf {l : List Instr} (wf : s.Wf) : (autos l s).Wf := wf_forAll wf fun _ _ => auto_wf
theorem tryIssue_wf {p : Nat} {exe : Bool} (wf : s.Wf) : (tryIssue p exe s).Wf := by
  unfold tryIssue
  refine wf_ite ?_ wf
  split
  · exact auto_wf wf
  · exact wf
theorem streamsAct_wf {p : Nat} (wf : s.Wf) : (streamsAct p s).Wf := settle_wf _ _ _ (tryIssue_wf (tryIssue_wf wf))
theorem engineAct_wf {p e : Nat} (wf : s.Wf) : (engineAct p e s).Wf := wf_ite wf (wf_ite (auto_wf wf) (auto_wf (wf_ite (auto_wf wf) wf)))
theorem scrubAct_wf {p : Nat} (wf : s.Wf) : (scrubAct p s).Wf := wf_ite wf (autos_wf (wf_ite (modPip_wf wf) wf))
theorem banksAct_wf {p : Nat} (wf : s.Wf) : (banksAct p s).Wf :=
  scrubAct_wf (settle_wf _ _ _ (wf_forAll (autos_wf wf) fun _ _ => engineAct_wf))
theorem completionsAct_wf {p : Nat} (wf : s.Wf) : (completionsAct p s).Wf := autos_wf (goOn_wf wf (.within (wf_ite wf (modPip_wf wf))))
theorem entryAct_wf {k g : Nat} (wf : s.Wf) : (entryAct k g s).Wf := by
  unfold entryAct
  extract_lets
  refine wf_ite wf ?_
  split
  · exact auto_wf wf
  · split
    · exact auto_wf wf
    · exact idleScrub_wf wf
theorem groupsAct_wf {k : Nat} (wf : s.Wf) : (groupsAct k s).Wf :=
  wf_ite wf (wf_forAll wf fun _ _ wf => entryAct_wf (wf_ite wf (auto_wf wf)))
theorem accessesAct_wf {k n : Nat} (wf : s.Wf) : (accessesAct k n s).Wf := by
  induction n generalizing s with
  | zero => exact wf
  | succ n ih =>
    unfold accessesAct
    split
    · exact ih (auto_wf wf)
    · exact wf
theorem stackAct_wf {k : Nat} (wf : s.Wf) : (stackAct k s).Wf := by
  unfold stackAct
  extract_lets _ t
  have wf_t : t.Wf := by
    unfold t
    split
    · exact auto_wf wf
    · exact wf
  exact wf_forAll (accessesAct_wf wf_t) fun _ _ => auto_wf
theorem zeroingAct_wf (wf : s.Wf) : (zeroingAct s).Wf := autos_wf (wf_forAll wf fun _ _ => zeroStaging_wf)
theorem linksAct_wf (wf : s.Wf) : (linksAct s).Wf :=
  wf_ite (wf_forAll (autos_wf wf) fun _ _ => autos_wf) (wf_forAll (wf_forAll (autos_wf wf) fun _ _ => autos_wf) fun _ _ wf => auto_wf
    (reservedAct_wf wf))
theorem recoveryAct_wf {n : Nat} (wf : s.Wf) : (recoveryAct n s).Wf := by
  unfold recoveryAct
  extract_lets t
  have wf_idle : (goOn s (execRecoveryIdle n s)).Wf := auto_wf (i := .recoveryIdle n) wf
  have wf_verify := auto_wf (i := .weightVerify n) wf_idle
  have wf_t : t.Wf := wf_ite (auto_wf (i := .reopen n) wf_verify) wf
  exact auto_wf (i := .recoveryWindowEnd n) wf_t
theorem powerAct_wf (wf : s.Wf) : (powerAct s).Wf :=
  wf_forAll (autos_wf (wf_forAll (autos_wf wf) fun _ _ => autos_wf)) fun _ _ => recoveryAct_wf
theorem traceAct_wf (wf : s.Wf) : (traceAct s).Wf := by
  unfold traceAct
  extract_lets _ t
  have wf_t : t.Wf := wf_forAll (wf_forAll wf fun _ _ wf => goOn_wf wf (execTraceFlitSend_wf wf)) fun _ _ wf => goOn_wf wf
    (execTraceRelay_wf wf)
  exact wf_ite wf_t (goOn_wf wf_t (execSnapshot_wf wf_t))
theorem cycleWork_wf (wf : s.Wf) : (cycleWork s).Wf := by
  unfold cycleWork
  extract_lets _ _ _ t
  have wf_t : t.Wf := wf_forAll (wf_forAll (wf_forAll
    (wf_forAll wf fun _ _ => streamsAct_wf) fun _ _ => banksAct_wf) fun _ _ => completionsAct_wf) fun _ _ wf => by exact autos_wf wf
  exact applyLate_wf (autos_wf (autos_wf (traceAct_wf (powerAct_wf (autos_wf (wf_forAll (linksAct_wf (autos_wf (wf_forAll (zeroingAct_wf
    (wf_forAll (wf_ite wf_t
    (wf_forAll wf_t fun _ _ => groupsAct_wf)) fun _ _ => stackAct_wf)) fun _ _ => copyLine_wf))) fun _ _ wf => by exact autos_wf wf))))))
theorem endCycle_wf (wf : s.Wf) : (endCycle s).Wf :=
  wf_forAll (wf_forAll
    (wf_forAll wf fun _ _ => modPip_wf) fun _ _ wf => by exact wf_forAll wf fun _ _ => testMark_wf) fun _ _ => modStack_wf
theorem arrivals_wf (wf : s.Wf) : (arrivals s).Wf := by
  unfold arrivals
  refine wf_forAll wf fun _ _ wf => ?_
  extract_lets
  split <;> exact auto_wf wf
theorem firstUsers_wf {p : Nat} (wf : s.Wf) : (firstUsers p s).Wf := wf_ite (auto_wf (auto_wf wf)) (auto_wf wf)
theorem beginCycle_wf (wf : s.Wf) : (beginCycle s).Wf :=
  wf_forAll (wf_forAll (autos_wf (autos_wf (autos_wf (wf_forAll (landTraces_wf (arrivals_wf
    (wf_forAll wf fun _ _ => modPip_wf))) fun _ _ => modPip_wf)))) fun _ _ => firstUsers_wf) fun _ _ wf => by exact settle_wf _ _ _ wf
theorem tick_wf (wf : s.Wf) : (tick s).Wf := beginCycle_wf (endCycle_wf (cycleWork_wf wf))

theorem step_wf (wf : s.Wf) : NextWf (step s) := by
  unfold step
  split
  · exact .next (tick_wf wf)
  · exact exec_wf (wf.keep rfl)

end Sys2Proof.Machine

section
open Sys2Proof Sys2Proof.Machine

/-- Settles O59: after reset no byte of HBM and of the staging buffers is listed, so each reads its default 0. -/
theorem memoryCanonicalAtReset : Obligations.MemoryCanonicalAtReset := by
  unfold Obligations.MemoryCanonicalAtReset
  refine ⟨reset_memory_wf, fun a => ?_⟩
  unfold byteAt memRead
  split
  · rfl
  · split <;> rfl

/-- Settles O60: every function that a command or a cycle is made of keeps the form, as only writes through `memWrite`
and resets that clear the memory touch it. -/
theorem everyStepKeepsMemoryCanonical : Obligations.EveryStepKeepsMemoryCanonical := by
  unfold Obligations.EveryStepKeepsMemoryCanonical
  exact fun s t wf ht => step_wf wf t ht

end

/-! ## What the end of a job leaves of memory, stacks and jobs -/

namespace Sys2Proof.Machine

/-- What a stack keeps when the work of a job is dropped (R46). -/
def StackSt.besideWork (v : StackSt) : StackSt := { v with fifo := [], wbuf := [], lines := [], stq := [] }

/-- A job of any phase that has ended on its pips, before it drains or leaves its pods. -/
def jobHalted (s : State) (j : Job) (code : Byte) : State :=
  let pips := jobPips j
  let live := j.phase = .loading ∨ j.phase = .running
  let drain := code = eKeyset ∧ j.phase = .running
  let s := if live then forAll (jobPods j) endChecker (forAll pips (endPip code) s) else s
  let s := if live ∨ j.phase = .draining then forAll pips (dropShort pips) (dropWork pips (!drain) s) else s
  let s := if code = eOk then s else forAll (jobPods j) (fun d s => errorRecord s 1 1 d j.ctx code) s
  if code = eOk ∨ j.phase = .draining then s else forAll j.dests undefDest s

theorem endJob_eq (s : State) (j : Job) (code : Byte) (site : Nat) : endJob s j code site =
    if j.phase = .draining ∧ lowestCode eKeyset code = eKeyset then s
    else if code = eKeyset ∧ j.phase = .running then setJob (jobHalted s j code) { j with phase := .draining }
    else leavePods j code (decideCmd (jobHalted s j code) j.cmd code site) := rfl

/-- What each step of a job's end on its pips keeps, the end keeps. -/
theorem jobHalted_keeps {α : Type} (g : State → α) {code : Byte} (hpip : ∀ p s, g (endPip code p s) = g s)
    (hchecker : ∀ d s, g (endChecker d s) = g s) (hshort : ∀ l p s, g (dropShort l p s) = g s)
    (hwork : ∀ l keys s, g (dropWork l keys s) = g s) (hrecord : ∀ s r, g (fabricRecord s r) = g s)
    (hdest : ∀ d s, g (undefDest d s) = g s) (s : State) (j : Job) : g (jobHalted s j code) = g s := by
  unfold jobHalted
  extract_lets pips live drain t u v
  have ht : g t = g s := by
    unfold t
    split
    · exact (forAll_keeps g hchecker _ _).trans (forAll_keeps g hpip _ _)
    · rfl
  have hu : g u = g t := by
    unfold u
    split
    · exact (forAll_keeps g (hshort _) _ _).trans (hwork ..)
    · rfl
  have hv : g v = g u := by
    unfold v
    split
    · rfl
    · exact forAll_keeps g (fun _ _ => hrecord ..) _ _
  refine Eq.trans ?_ (hv.trans (hu.trans ht))
  split
  · rfl
  · exact forAll_keeps g hdest _ _

theorem board_jobHalted (s : State) (j : Job) (code : Byte) : (jobHalted s j code).board = s.board :=
  jobHalted_keeps State.board (board_endPip code) board_endChecker board_dropShort board_dropWork board_fabricRecord board_undefDest s j

theorem hstacks_undefBytes (s : State) (p a n : Nat) : (undefBytes s p a n).hstacks = s.hstacks := rfl

theorem hstacks_undefRun (p : Nat) (r : Int × Nat) (s : State) : (undefRun p r s).hstacks = s.hstacks := by
  unfold undefRun
  dsimp only
  split <;> rfl

theorem hstacks_endPip (code : Byte) (p : Nat) (s : State) : (endPip code p s).hstacks = s.hstacks := by
  show State.hstacks (if code = eOk then modPip s p _ else forAll _ (undefRun p) _) = _
  split
  · rfl
  · exact forAll_keeps State.hstacks (fun r s => hstacks_undefRun p r s) _ _

theorem hstacks_fabricRecord (s : State) (r : TraceRec) : (fabricRecord s r).hstacks = s.hstacks := by rw [fabricRecord_eq]

theorem hstacks_undefDest (d : Nat × Nat) (s : State) : (undefDest d s).hstacks = s.hstacks :=
  forAll_keeps (f := fun (r : Nat × Nat × Nat) s => undefBytes s (nth (pipsOfPod d.1) r.1 0) r.2.1 r.2.2) State.hstacks
    (fun _ _ => hstacks_undefBytes ..) _ _

theorem hstacks_returnVrun (s : State) (f : Nat) : (returnVrun s f).hstacks = s.hstacks := by
  unfold returnVrun
  dsimp only
  split <;> rfl

theorem hstacks_dropStep (s : State) (j f : Nat) : (dropStep s j f).hstacks = s.hstacks := by
  unfold dropStep
  split
  · exact hstacks_returnVrun ..
  · rfl

theorem hstacks_leavePods (j : Job) (code : Byte) (s : State) : (leavePods j code s).hstacks = s.hstacks := by
  unfold leavePods
  dsimp only
  refine (forAll_keeps State.hstacks (fun f s => ?_) _ _).trans
    ((forAll_keeps State.hstacks (fun d s => hstacks_fabricRecord ..) _ _).trans ?_)
  · exact hstacks_dropStep ..
  · exact (forAll_keeps State.hstacks (fun d s => (rfl : (closeGate d s).hstacks = s.hstacks)) _ _).trans rfl

theorem stackSt_of_hstacks {s t : State} (h : t.hstacks = s.hstacks) (k : Nat) : stackSt t k = stackSt s k := by
  unfold stackSt
  rw [h]

/-- An update of stacks that drops work alone keeps the rest of each. -/
theorem besideWork_modStack {f : StackSt → StackSt} (hf : ∀ v, (f v).besideWork = v.besideWork) (s : State) (n k : Nat) :
    (stackSt (modStack s n f) k).besideWork = (stackSt s k).besideWork := by
  rw [modStack_eq]
  by_cases hk : k = n
  · rw [hk, stackSt_setStack_same, hf]
  · rw [stackSt_setStack_other _ _ hk]

theorem besideWork_dropWork (l : List Nat) (keys : Bool) (s : State) (k : Nat) :
    (stackSt (dropWork l keys s) k).besideWork = (stackSt s k).besideWork := by
  unfold dropWork
  refine (forAll_keeps (fun t => (stackSt t k).besideWork) (fun n s => ?_) (List.range 12) _).trans rfl
  refine besideWork_modStack ?_ s n k
  exact fun _ => rfl

theorem besideWork_jobHalted (s : State) (j : Job) (code : Byte) (k : Nat) :
    (stackSt (jobHalted s j code) k).besideWork = (stackSt s k).besideWork := by
  have hof {t u : State} (h : t.hstacks = u.hstacks) : (stackSt t k).besideWork = (stackSt u k).besideWork :=
    congrArg StackSt.besideWork (stackSt_of_hstacks h k)
  exact jobHalted_keeps (fun t => (stackSt t k).besideWork) (fun p s => hof (hstacks_endPip code p s)) (fun _ _ => rfl)
    (fun _ _ _ => rfl) (fun l keys s => besideWork_dropWork l keys s k) (fun s r => hof (hstacks_fabricRecord s r))
    (fun d s => hof (hstacks_undefDest d s)) s j

section
variable (s : State) (j : Job) (code : Byte) (site : Nat)

theorem memory_endJob : (endJob s j code site).hbm = s.hbm ∧ (endJob s j code site).staging = s.staging := by
  have hhalt := board_jobHalted s j code
  have hleave := board_leavePods j code (decideCmd (jobHalted s j code) j.cmd code site)
  rw [endJob_eq]
  split
  · exact ⟨rfl, rfl⟩
  · split
    · exact ⟨congrArg Board.hbm hhalt, congrArg Board.staging hhalt⟩
    · exact ⟨(congrArg Board.hbm hleave).trans (congrArg Board.hbm hhalt),
        (congrArg Board.staging hleave).trans (congrArg Board.staging hhalt)⟩

theorem besideWork_endJob (k : Nat) : (stackSt (endJob s j code site) k).besideWork = (stackSt s k).besideWork := by
  have hhalt := besideWork_jobHalted s j code k
  rw [endJob_eq]
  split
  · rfl
  · split
    · exact hhalt
    · rw [stackSt_of_hstacks (hstacks_leavePods ..)]
      exact hhalt

end

/-- Whatever the request, its job's end writes no memory. -/
theorem memory_failReq (s : State) (r : Req) (code : Byte) : (failReq s r code).hbm = s.hbm ∧ (failReq s r code).staging = s.staging := by
  unfold failReq
  split
  · exact memory_endJob ..
  · exact ⟨rfl, rfl⟩

theorem besideWork_failReq (s : State) (r : Req) (code : Byte) (k : Nat) :
    (stackSt (failReq s r code) k).besideWork = (stackSt s k).besideWork := by
  unfold failReq
  split
  · exact besideWork_endJob ..
  · rfl

/-- A request of a unit in a running job ends that job with its code (R46). -/
theorem failReq_ends_job {s : State} {r : Req} {j : Job} {code : Byte} (h : reqJob s r = some j) :
    ∃ site, failReq s r code = endJob s j code site := by
  unfold failReq
  cases hsrc : r.src with
  | unit p u => exact ⟨siteOf p, by rw [h]⟩
  | _ => simp [reqJob, hsrc] at h

/-- A job that ends while it runs, with another code than E_KEYSET, is no longer among the jobs. -/
theorem failReq_leaves {s : State} {r : Req} {j : Job} {code : Byte} (h : reqJob s r = some j) (hr : j.phase = .running)
    (hc : code ≠ eKeyset) : ∀ x ∈ (failReq s r code).jobs, x.id ≠ j.id := by
  obtain ⟨site, hfail⟩ := failReq_ends_job (code := code) h
  rw [hfail]
  exact (jobEnds s j code site hr hc).2.2.1

/-! ### No new jobs -/

/-- Every job of `t` has the number of a job of `s`. -/
structure NoNewJobs (s t : State) : Prop where
  old : ∀ x ∈ t.jobs, ∃ y ∈ s.jobs, y.id = x.id

theorem NoNewJobs.of {s t : State} (h : t.jobs = s.jobs) : NoNewJobs s t := ⟨fun x hx => ⟨x, h ▸ hx, rfl⟩⟩
theorem NoNewJobs.refl (s : State) : NoNewJobs s s := .of rfl
theorem NoNewJobs.trans {s t u : State} (h : NoNewJobs s t) (g : NoNewJobs t u) : NoNewJobs s u := by
  refine ⟨fun x hx => ?_⟩
  obtain ⟨y, hy, hyx⟩ := g.old x hx
  obtain ⟨z, hz, hzy⟩ := h.old y hy
  exact ⟨z, hz, hzy.trans hyx⟩

theorem NoNewJobs.forAll {α : Type} {f : α → State → State} (h : ∀ a s, NoNewJobs s (f a s)) (l : List α) (s : State) :
    NoNewJobs s (forAll l f s) := by
  induction l generalizing s with
  | nil => exact .refl s
  | cons a l ih => exact (h a s).trans (ih _)

/-- A job that has left does not come back. -/
theorem NoNewJobs.left {s t : State} (h : NoNewJobs s t) {n : Nat} (hs : ∀ x ∈ s.jobs, x.id ≠ n) : ∀ x ∈ t.jobs, x.id ≠ n := by
  intro x hx
  obtain ⟨y, hy, hyx⟩ := h.old x hx
  exact hyx ▸ hs y hy

theorem noNewJobs_endJob (s : State) (j : Job) (code : Byte) (site : Nat) : NoNewJobs s (endJob s j code site) := by
  have hhalt : (jobHalted s j code).jobs = s.jobs := congrArg Board.jobs (board_jobHalted s j code)
  have hleave : (leavePods j code (decideCmd (jobHalted s j code) j.cmd code site)).jobs =
      (jobHalted s j code).jobs.filter (·.id ≠ j.id) := congrArg Board.jobs (board_leavePods ..)
  rw [endJob_eq]
  split
  · exact .refl s
  · split
    · refine ⟨fun x hx => ?_⟩
      obtain ⟨y, hy, rfl⟩ := List.mem_map.mp hx
      refine ⟨y, hhalt ▸ hy, ?_⟩
      split
      · assumption
      · rfl
    · refine ⟨fun x hx => ?_⟩
      rw [hleave, hhalt] at hx
      exact ⟨x, (List.mem_filter.mp hx).1, rfl⟩

theorem noNewJobs_endJobs (s : State) (code : Byte) (test : Job → Bool) : NoNewJobs s (endJobs s code test) :=
  .forAll (fun _ _ => noNewJobs_endJob ..) _ s

theorem jobs_memWrite (s : State) (a : Nat) (bs : List Byte) : (memWrite s a bs).jobs = s.jobs := by
  obtain ⟨_, _, _, _, h⟩ := memWrite_memOnly s a bs
  rw [h]

theorem noNewJobs_chanAdvance (s : State) (ch : Nat) : NoNewJobs s (chanAdvance s ch) :=
  .of (congrArg State.jobs (chanAdvance_only s ch).1 :)

theorem noNewJobs_decideCmd (s : State) (cmd : Nat) (code : Byte) (site : Nat) : NoNewJobs s (decideCmd s cmd code site) := .of rfl
theorem noNewJobs_undefMem (s : State) (a n : Nat) : NoNewJobs s (undefMem s a n) := .of (jobs_memWrite ..)
theorem noNewJobs_modChan (s : State) (ch : Nat) (f : ChanSt → ChanSt) : NoNewJobs s (modChan s ch f) := .of rfl
theorem noNewJobs_modField (s : State) (f : Nat) (g : FieldSt → FieldSt) : NoNewJobs s (modField s f g) := .of rfl
theorem noNewJobs_modPart (s : State) (n : Nat) (f : PartSt → PartSt) : NoNewJobs s (modPart s n f) := .of rfl
theorem noNewJobs_faultSensor (s : State) : NoNewJobs s (faultSensor s) := .of rfl
theorem noNewJobs_dropRoutes (s : State) (n : Nat) : NoNewJobs s (dropRoutes s n) := .of rfl
theorem NoNewJobs.flt (s : State) (v : FaultSt) : NoNewJobs s { s with flt := v } := .of rfl
theorem NoNewJobs.fltMod (s : State) (v : FaultSt) (m : ModRegs) : NoNewJobs s { s with flt := v, mod := m } := .of rfl

theorem noNewJobs_chanFail (s : State) (ch : Nat) (code : Byte) : NoNewJobs s (chanFail s ch code) := by
  unfold chanFail
  dsimp only
  split
  · exact .refl s
  · refine .trans ?_ (noNewJobs_chanAdvance ..)
    refine .trans ?_ (noNewJobs_modChan ..)
    refine .trans ?_ (noNewJobs_undefMem ..)
    refine .trans ?_ (.forAll (fun _ _ => noNewJobs_decideCmd ..) _ _)
    exact noNewJobs_decideCmd ..

theorem noNewJobs_startOff (s : State) (f : Nat) : NoNewJobs s (startOff s f) := by
  unfold startOff
  split <;> exact .of rfl

theorem noNewJobs_startDown (s : State) (f : Nat) (tgt : FState) : NoNewJobs s (startDown s f tgt) := by
  unfold startDown
  dsimp only
  split
  · exact .refl s
  · split
    · exact .trans (noNewJobs_modField ..) (noNewJobs_startOff ..)
    · exact noNewJobs_modField ..

theorem noNewJobs_lowerField (s : State) (f : Nat) (want : FState) : NoNewJobs s (lowerField s f want) := by
  unfold lowerField
  dsimp only
  split
  · exact .refl s
  · exact noNewJobs_startDown ..

theorem noNewJobs_endRecovery (s : State) (n : Nat) : NoNewJobs s (endRecovery s n) := by
  unfold endRecovery
  dsimp only
  split
  · exact .refl s
  · split <;> exact .of rfl

theorem noNewJobs_fencePart (s : State) (n : Nat) : NoNewJobs s (fencePart s n) := by
  unfold fencePart
  split
  · exact .refl s
  · dsimp only
    refine .trans ?_ (noNewJobs_faultSensor ..)
    refine .trans ?_ (.forAll (fun _ _ => noNewJobs_lowerField ..) _ _)
    refine .trans ?_ (noNewJobs_dropRoutes ..)
    refine .trans ?_ (NoNewJobs.fltMod ..)
    refine .trans ?_ (noNewJobs_endRecovery ..)
    refine .trans ?_ (noNewJobs_modPart ..)
    refine .trans ?_ (.forAll (fun _ _ => noNewJobs_chanFail ..) _ _)
    exact noNewJobs_endJobs ..

theorem noNewJobs_fenceModule (s : State) : NoNewJobs s (fenceModule s) := by
  unfold fenceModule
  dsimp only
  refine .trans ?_ (noNewJobs_faultSensor ..)
  refine .trans ?_ (.forAll (fun _ _ => noNewJobs_fencePart ..) _ _)
  exact NoNewJobs.flt s _

theorem noNewJobs_closePart (s : State) (n cls : Nat) (code : Byte) : NoNewJobs s (closePart s n cls code) := by
  unfold closePart
  dsimp only
  refine .trans ?_ (.forAll (fun _ _ => noNewJobs_chanFail ..) _ _)
  refine .trans ?_ (noNewJobs_endJobs ..)
  split <;> exact .of rfl

theorem noNewJobs_hitPart (cls : Nat) (code : Byte) (n : Nat) (s : State) : NoNewJobs s (hitPart cls code n s) := by
  unfold hitPart
  split
  · exact .refl s
  · split
    · exact (noNewJobs_modPart ..).trans (noNewJobs_fencePart ..)
    · exact noNewJobs_closePart ..

theorem noNewJobs_addLog (s : State) (e : LogEntry) : NoNewJobs s (addLog s e) := NoNewJobs.flt s _
theorem noNewJobs_fabricRecord (s : State) (r : TraceRec) : NoNewJobs s (fabricRecord s r) := .of (by rw [fabricRecord_eq])

theorem NoNewJobs.fence {s t : State} (c : Prop) [Decidable c] (h : NoNewJobs s t) : NoNewJobs s (if c then fenceModule t else t) := by
  split
  · exact h.trans (noNewJobs_fenceModule t)
  · exact h

/-- A fault ends jobs and starts none. -/
theorem noNewJobs_raiseFault (s : State) (cls : Nat) (ps : List Nat) (loc : Nat) (code : Byte) :
    NoNewJobs s (raiseFault s cls ps loc code) := by
  unfold raiseFault
  dsimp only
  split
  · exact noNewJobs_addLog ..
  · split
    · exact .refl s
    · refine .trans ?_ (noNewJobs_addLog ..)
      refine NoNewJobs.fence _ ?_
      refine .trans ?_ (.forAll (fun _ _ => noNewJobs_hitPart ..) _ _)
      refine .trans ?_ (noNewJobs_fabricRecord ..)
      exact NoNewJobs.flt s _

/-- An uncorrected line ends the running job that asked for it (R278). -/
theorem ueReq_leaves {s : State} {r : Req} {j : Job} (h : reqJob s r = some j) (hr : j.phase = .running) :
    ∀ x ∈ (ueReq s r).jobs, x.id ≠ j.id := by
  unfold ueReq
  rw [h]
  exact (noNewJobs_raiseFault ..).left (failReq_leaves h hr (by decide))

end Sys2Proof.Machine

/-! ## Plain accesses of a staging buffer (O40) -/

namespace Sys2Proof.Machine

/-- Memory of a host is HBM or staging memory throughout. -/
theorem oneMemory_of_hostMem {s : State} {h a n : Nat} (hn : 0 < n) (ho : hostMem s h a n = true) : OneMemory a n := by
  unfold hostMem at ho
  unfold OneMemory
  simp only [Bool.or_eq_true, Bool.and_eq_true, decide_eq_true_eq] at ho
  rcases ho with ho | ⟨ho, -⟩
  · omega
  · exact ho

theorem oneMemory_of_senderOwns {s : State} {r : Req} {a n : Nat} (hn : 0 < n) (ho : senderOwns s r a n = true) : OneMemory a n := by
  unfold senderOwns at ho
  split at ho
  · exact oneMemory_of_hostMem hn ho
  · exact oneMemory_of_hostMem hn ho
  · exact oneMemory_of_ctxMem hn ho

section
variable (s : State) (a : Nat) (bs : List Byte)

/-- A word written in part is read first, and the read counted (R288): nothing but stacks changes besides the bytes. -/
theorem writeStaging_eq : ∃ t, t.besideStacks = s.besideStacks ∧ (∀ k, (stackSt t k).besideErrors = (stackSt s k).besideErrors) ∧
    writeStaging s a bs = memWrite t a bs := by
  refine ⟨_, ?_, fun k => ?_, rfl⟩
  · exact forAll_keeps State.besideStacks (fun _ _ => besideStacks_noteError ..) _ s
  · exact forAll_keeps (fun t => (stackSt t k).besideErrors) (fun _ _ => besideErrors_noteError ..) _ s

theorem besideMove_writeStaging : (writeStaging s a bs).besideMove = s.besideMove := by
  obtain ⟨t, ht, -, h⟩ := writeStaging_eq s a bs
  rw [h, besideMove_memWrite]
  exact (congrArg State.besideMove ht :)

theorem besideErrors_writeStaging (k : Nat) : (stackSt (writeStaging s a bs) k).besideErrors = (stackSt s k).besideErrors := by
  obtain ⟨t, -, ht, h⟩ := writeStaging_eq s a bs
  rw [h, stackSt_memWrite, ht]

theorem writeStaging_writes (h : OneMemory a bs.length) : Writes s (writeStaging s a bs) a bs := by
  obtain ⟨t, ht, -, heq⟩ := writeStaging_eq s a bs
  rw [heq]
  exact .congr (congrArg State.memory ht :).symm rfl (memWrite_writes_any t h)

end

section
variable {s : State} {r : Req}

theorem servePlain_stores (hw : r.write = true) (ho : senderOwns s r r.addr r.bytes.length = true) :
    servePlain s r = writeAccepted (writeStaging s r.addr r.bytes) r := by simp [servePlain, hw, ho]

theorem servePlain_reads (hw : r.write = false) (ho : senderOwns s r r.addr r.len = true) : servePlain s r = answerRead s r := by
  simp [servePlain, hw, ho]

section
variable (ho : senderOwns s r r.addr (if r.write then r.bytes.length else r.len) = false)
include ho

theorem servePlain_rejects {h tag : Nat} (hsrc : r.src = .host h tag) :
    servePlain s r = rejectAcc s ⟨h, r.write, r.addr, r.bytes, r.len, tag, 0⟩ := by simp [servePlain, ho, hsrc]

theorem servePlain_fails {p u : Nat} (hsrc : r.src = .unit p u) : servePlain s r = failReq s r eBounds := by
  simp [servePlain, ho, hsrc]

end
end

/-- A rejected access of a host is counted with its address, recorded, and answered with zeros where it reads (R351). -/
theorem rejectAcc_eq (s : State) {a : HostAcc} (ha : a.hull = 0) : ∃ v, rejectAcc s a = { s with
    trc := v, cxl := { s.cxl with memRej := bump s.cxl.memRej 1, memRejAddr := a.addr },
    out := s.out ++ if a.write then [] else [.memData a.host a.tag (List.replicate a.len 0)] } := by
  unfold rejectAcc errorRecord
  rw [if_neg (by simp [ha])]
  dsimp only
  rw [fabricRecord_eq]
  cases a.write with
  | true =>
    rw [if_pos rfl, if_pos rfl, List.append_nil]
    exact ⟨_, rfl⟩
  | false => exact ⟨_, rfl⟩

section
variable {s : State} {r : Req}

theorem answerRead_host {h tag : Nat} (hsrc : r.src = .host h tag) :
    answerRead s r = send (noteMem s r.addr r.len) (.memData h tag (memRead s r.addr r.len)) := by simp [answerRead, hsrc]

theorem answerRead_unit {p u : Nat} (hsrc : r.src = .unit p u) (hue : memUe s r.addr r.len = false) :
    answerRead s r = lineBack (noteMem s r.addr r.len) r (memRead s r.addr r.len) := by simp [answerRead, hsrc, hue]

theorem answerFree_host {h tag : Nat} (hsrc : r.src = .host h tag) :
    answerFree s r = send (drew s r.len) (.memData h tag (freeBytes s r.len)) := by simp [answerFree, hsrc]

end

section
variable {s : State} {k : Nat} {r : Req} {rest : List Req} (hk : k < 12) (hn : nextAccess s k = some (r, rest))
include hk hn

theorem stagingAccess_plain (hq : isReq r.addr = false) : exec (.stagingAccess k) s = .next (servePlain (serveIt s k r rest) r) := by
  show execStagingAccess k s = _
  unfold execStagingAccess
  rw [within_lt _ hk, hn]
  simp [hq]

theorem stagingAccess_window (hq : isReq r.addr = true) (hw : r.write = false) :
    exec (.stagingAccess k) s = .next (answerFree (serveIt s k r rest) r) := by
  show execStagingAccess k s = _
  unfold execStagingAccess
  rw [within_lt _ hk, hn]
  simp [hq, hw]

theorem stagingAccess_reserved (hq : isReq r.addr = true) (hw : r.write = true) (ha : rqAop r.bytes = 7 ∨ rqAop r.bytes > 9) :
    exec (.stagingAccess k) s = .next (refuseReq (serveIt s k r rest) k r eDesc) := by
  show execStagingAccess k s = _
  unfold execStagingAccess
  rw [within_lt _ hk, hn]
  dsimp only
  rw [if_neg (by simp [hq]), if_neg (by simp [hw]), if_pos ha]

end

section
variable (s : State) (k : Nat) (r : Req) (rest : List Req)

/-- The queue of a stack whose oldest access has left, after reads of memory. -/
theorem stq_noteMem_serveIt (a n : Nat) : (stackSt (noteMem (serveIt s k r rest) a n) k).stq = rest := by
  have h := besideErrors_noteMem (serveIt s k r rest) a n k
  rw [stackSt_serveIt] at h
  exact (congrArg StackSt.stq h :)

theorem lines_serveIt (n : Nat) : (stackSt (serveIt s k r rest) n).lines = (stackSt s n).lines := by
  by_cases h : n = k
  · rw [h, stackSt_serveIt]
  · exact congrArg StackSt.lines (stackSt_setStack_other _ _ h)

theorem lines_noteMem (a n m : Nat) : (stackSt (noteMem s a n) m).lines = (stackSt s m).lines :=
  (congrArg StackSt.lines (besideErrors_noteMem s a n m) :)

end

/-- A line that goes back to its unit joins those of its route and changes its stack alone. -/
theorem lineBack_joins (s : State) (r : Req) (bs : List Byte) :
    Tab.get [] (stackSt (lineBack s r bs) (stackOf r.addr)).lines r.route =
      Tab.get [] (stackSt s (stackOf r.addr)).lines r.route ++ [{ r with data := ofLineBytes bs, ready := slotNow s, sent := 0 }] ∧
    ∀ n, (stackSt (lineBack s r bs) n).stq = (stackSt s n).stq := by
  unfold lineBack
  rw [modStack_eq]
  refine ⟨?_, fun n => ?_⟩
  · rw [stackSt_setStack_same, Tab.get_set_same]
  · by_cases h : n = stackOf r.addr
    · rw [h, stackSt_setStack_same]
    · rw [stackSt_setStack_other _ _ h]

/-- A refused request is recorded in its stack and writes no memory (R290, R291). -/
theorem refuseReq_records (s : State) (k : Nat) (r : Req) (code : Byte) :
    (refuseReq s k r code).hbm = s.hbm ∧ (refuseReq s k r code).staging = s.staging ∧
    (stackSt (refuseReq s k r code) k).stErr = true ∧ (stackSt (refuseReq s k r code) k).stCode = code := by
  let t := modStack s k fun v => { v with stErr := true, stCode := code }
  obtain ⟨hhbm, hstaging⟩ := memory_failReq t r code
  have hstack : (stackSt (refuseReq s k r code) k).besideWork = _ := besideWork_failReq t r code k
  have ht : stackSt t k = { stackSt s k with stErr := true, stCode := code } := stackSt_setStack_same ..
  rw [ht] at hstack
  exact ⟨hhbm, hstaging, (congrArg StackSt.stErr hstack :), (congrArg StackSt.stCode hstack :)⟩

end Sys2Proof.Machine

section
open Sys2Proof Sys2Proof.Machine

/-- Settles O40: an access leaves the queue and is then stored, answered, rejected or refused; what an answer reads is memory as it
stood. -/
theorem stagingAccesses : Obligations.StagingAccesses := by
  unfold Obligations.StagingAccesses
  intro s k r rest hk hn
  have hplain (hq : isReq r.addr = false) {t : State} (h : servePlain (serveIt s k r rest) r = t) :
      exec (.stagingAccess k) s = .next t := (stagingAccess_plain hk hn hq).trans (congrArg _ h)
  refine ⟨fun hq hw ho hne => ⟨_, hplain hq (servePlain_stores hw ho), ?_⟩,
    fun h tag hq hw ho hsrc => ⟨_, hplain hq (.trans (servePlain_reads hw ho) (answerRead_host hsrc)), ?_⟩,
    fun p u hq hw ho hsrc hue => ⟨_, hplain hq (.trans (servePlain_reads hw ho) (answerRead_unit hsrc hue)), ?_⟩,
    fun h tag hq ho hsrc => ⟨_, hplain hq (servePlain_rejects (s := serveIt s k r rest) ho hsrc), ?_⟩,
    fun p u j hq ho hsrc hj hr => ⟨_, hplain hq (servePlain_fails (s := serveIt s k r rest) ho hsrc), ?_⟩,
    fun h tag hq hw hsrc => ⟨_, (stagingAccess_window hk hn hq hw).trans (congrArg _ (answerFree_host hsrc)), ?_⟩,
    fun hq hw ha => ⟨_, stagingAccess_reserved hk hn hq hw ha, ?_⟩⟩
  · have hone := oneMemory_of_senderOwns (List.length_pos_iff.mpr hne) ho
    have hstack := besideErrors_writeStaging (serveIt s k r rest) r.addr r.bytes k
    have hwrites := writeStaging_writes (serveIt s k r rest) r.addr r.bytes hone
    have hbeside := besideMove_writeStaging (serveIt s k r rest) r.addr r.bytes
    refine ⟨hwrites.congr (s' := s) rfl (memory_writeAccepted _ r), ?_, workAsBefore_served (hbeside.trans (besideMove_serveIt ..)) r⟩
    rw [stackSt_serveIt] at hstack
    rw [stackSt_writeAccepted]
    exact (congrArg StackSt.stq hstack :)
  · refine ⟨?_, stq_noteMem_serveIt ..⟩
    rw [noteMem_eq]
    rfl
  · obtain ⟨hlines, hstq⟩ := lineBack_joins (noteMem (serveIt s k r rest) r.addr r.len) r (memRead (serveIt s k r rest) r.addr r.len)
    have hslot : slotNow (noteMem (serveIt s k r rest) r.addr r.len) = slotNow s := by rw [noteMem_eq]; rfl
    rw [lines_noteMem, lines_serveIt, hslot] at hlines
    refine ⟨?_, (hstq k).trans (stq_noteMem_serveIt ..), hlines⟩
    rw [noteMem_eq]
    rfl
  · obtain ⟨v, hrej⟩ := rejectAcc_eq (serveIt s k r rest) (a := ⟨h, r.write, r.addr, r.bytes, r.len, tag, 0⟩) rfl
    rw [hrej]
    rfl
  · have hjob : reqJob (serveIt s k r rest) r = some j := by rw [reqJob, hsrc]; exact hj
    obtain ⟨site, hfail⟩ := failReq_ends_job (code := eBounds) hjob
    rw [hfail]
    obtain ⟨hpips, -, hjobs, -, -, -, hhbm, hstaging⟩ := jobEnds (serveIt s k r rest) j eBounds site hr (by decide)
    refine ⟨hhbm, hstaging, hjobs, fun q hq => ?_⟩
    obtain ⟨hnone, hcode, -⟩ := hpips q hq
    exact ⟨hnone, hcode⟩
  · exact ⟨rfl, congrArg StackSt.stq (stackSt_serveIt s k r rest)⟩
  · obtain ⟨hhbm, hstaging, herr, hcode⟩ := refuseReq_records (serveIt s k r rest) k r eDesc
    exact ⟨hhbm, hstaging, herr, hcode⟩

end

/-! ## The integer requests of a staging buffer (O38) -/

namespace Sys2Proof.Machine

/-! ### Errors of a read in one stack -/

theorem stackSt_noteError_other (s : State) {k n : Nat} (a : Nat) (ce ue : Bool) (hn : n ≠ k) :
    stackSt (noteError s k a ce ue) n = stackSt s n := by
  unfold noteError
  split
  · exact stackSt_setStack_other _ _ hn
  · split
    · exact stackSt_setStack_other _ _ hn
    · rfl

/-- The stack of a staging address. -/
theorem stackOf_staging {a k : Nat} (hk : k < 12) (h1 : stgBase + k * 0x4000000 ≤ a) (h2 : a < stgBase + (k + 1) * 0x4000000) :
    stackOf a = k := by
  have hhbm : isHbm a = false := decide_eq_false (by unfold stgBase at h1; unfold hbmTop; omega)
  have hstg : isStg a = true := isStg_iff.mpr (by omega)
  rw [stackOf, if_neg (by simp [hhbm]), if_pos hstg]
  omega

/-- The errors of a read within the buffer of a stack are counted there (R288). -/
theorem stackSt_noteMem_staging (s : State) {k a n m : Nat} (hk : k < 12) (h1 : stgBase + k * 0x4000000 ≤ a)
    (h2 : a + n ≤ stgBase + (k + 1) * 0x4000000) (hm : m ≠ k) : stackSt (noteMem s a n) m = stackSt s m := by
  have hhbm : isHbm a = false := decide_eq_false (by unfold stgBase at h1; unfold hbmTop; omega)
  unfold noteMem
  rw [if_neg (by simp [hhbm])]
  split
  · refine forAll_keeps_mem (fun t => stackSt t m) _ (fun w hw t => ?_) s
    obtain ⟨hlow, hhigh⟩ := mem_wordsIn.mp hw
    have hof : stackOf (stgBase + 8 * w) = k := stackOf_staging hk (by omega) (by omega)
    exact stackSt_noteError_other t _ _ _ (by rw [hof]; exact hm)
  · rfl

/-! ### The runs of a request -/

theorem rqTarget_lt (b : List Byte) : rqTarget b < 2 ^ 26 := Nat.mod_lt _ (by decide)
theorem rqRet_lt (b : List Byte) : rqRet b < 2 ^ 26 := Nat.mod_lt _ (by decide)

/-- A run of a request, at TARGET or at RET (R290). -/
theorem run_bounds {b : List Byte} {o k : Nat} (ho : o < 2 ^ 26) (h : runOk b o = true) :
    stgBase + k * 0x4000000 ≤ stgAddr k o ∧ stgAddr k o + rqBytes b ≤ stgBase + (k + 1) * 0x4000000 := by
  simp only [runOk, Bool.and_eq_true, decide_eq_true_eq] at h
  obtain ⟨-, hline⟩ := h
  unfold stgAddr
  omega

theorem oneMemory_run {b : List Byte} {o k : Nat} (hk : k < 12) (ho : o < 2 ^ 26) (hb : 0 < rqBytes b) (h : runOk b o = true) :
    OneMemory (stgAddr k o) (rqBytes b) := by
  obtain ⟨hlow, hhigh⟩ := run_bounds (k := k) ho h
  exact .inr ⟨isStg_iff.mpr (by omega), isStg_iff.mpr (by omega)⟩

theorem runs_of_rqForm {b : List Byte} (h : rqForm b = true) :
    0 < rqBytes b ∧ runOk b (rqTarget b) = true ∧ (rqReturns b = true → runOk b (rqRet b) = true) := by
  simp only [rqForm, Bool.and_eq_true, Bool.or_eq_true, Bool.not_eq_true', decide_eq_true_eq] at h
  obtain ⟨⟨⟨⟨⟨-, hnel⟩, -⟩, -⟩, htarget⟩, hret⟩ := h
  refine ⟨Nat.mul_pos hnel (by unfold rqSize; split <;> decide), htarget, fun hr => ?_⟩
  exact hret.resolve_left (by simp [hr])

theorem length_rqOld (s : State) (k : Nat) (b : List Byte) : (rqOld s k b).length = rqNel b := by
  have hsize : 0 < rqSize b := by unfold rqSize; split <;> decide
  rw [rqOld, List.length_map]
  refine length_groups hsize ?_ (Nat.le_refl _)
  rw [length_memRead, rqBytes, Nat.mul_comm]

theorem length_elemBytes (b : List Byte) (l : List Nat) : (elemBytes b l).length = rqSize b * l.length :=
  length_flatMap_of_length (fun _ => length_toBytes ..) l

/-- The elements that an integer request leaves (Table 11.6). -/
theorem rqNew_rqOld (s : State) (k : Nat) (b : List Byte) : rqNew b (rqOld s k b) = (List.range (rqNel b)).map fun i =>
    elemOp (rqAop b) (8 * rqSize b) (nth (rqOld s k b) i 0) (if rqAop b = 6 then rqOpnd b (2 * i) else rqOpnd b i)
      (rqOpnd b (2 * i + 1)) := by
  rw [rqNew, length_rqOld]

/-! ### What a request writes -/

/-- The state after an integer request has stored its results, and the old elements where it returns them. -/
def intStored (s : State) (k : Nat) (b : List Byte) : State :=
  let t := memWrite (noteMem s (stgAddr k (rqTarget b)) (rqBytes b)) (stgAddr k (rqTarget b)) (elemBytes b (rqNew b (rqOld s k b)))
  if rqReturns b then memWrite t (stgAddr k (rqRet b)) (elemBytes b (rqOld s k b)) else t

theorem applyInt_eq (s : State) (k : Nat) (b : List Byte) :
    applyInt s k b = modStack (intStored s k b) k fun v => { v with opsCnt := bump v.opsCnt 1 } := rfl

section
variable (s : State) (k : Nat) (b : List Byte)

theorem stackSt_intStored (n : Nat) :
    stackSt (intStored s k b) n = stackSt (noteMem s (stgAddr k (rqTarget b)) (rqBytes b)) n := by
  unfold intStored
  dsimp only
  split
  · rw [stackSt_memWrite, stackSt_memWrite]
  · rw [stackSt_memWrite]

theorem besideMove_applyInt : (applyInt s k b).besideMove = s.besideMove := by
  rw [applyInt_eq, besideMove_modStack]
  unfold intStored
  dsimp only
  split
  · rw [besideMove_memWrite, besideMove_memWrite, besideMove_noteMem]
  · rw [besideMove_memWrite, besideMove_noteMem]

/-- An integer request counts itself, and keeps the queue. -/
theorem stackSt_applyInt : ∃ v : StackSt, v.besideErrors = (stackSt s k).besideErrors ∧
    stackSt (applyInt s k b) k = { v with opsCnt := bump v.opsCnt 1 } := by
  refine ⟨_, besideErrors_noteMem s (stgAddr k (rqTarget b)) (rqBytes b) k, ?_⟩
  rw [applyInt_eq, modStack_eq, stackSt_setStack_same, stackSt_intStored]

section
variable {k : Nat} {b : List Byte} (hk : k < 12) (hf : rqForm b = true)
include hk hf

theorem stackSt_applyInt_other {n : Nat} (hn : n ≠ k) : stackSt (applyInt s k b) n = stackSt s n := by
  obtain ⟨-, htarget, -⟩ := runs_of_rqForm hf
  obtain ⟨hlow, hhigh⟩ := run_bounds (k := k) (rqTarget_lt b) htarget
  rw [applyInt_eq, modStack_eq, stackSt_setStack_other _ _ hn, stackSt_intStored, stackSt_noteMem_staging s hk hlow hhigh hn]

/-- The results stand at TARGET and, over them, the old elements at RET where the request returns them. -/
theorem byteAt_applyInt (x : Nat) : byteAt (applyInt s k b) x =
    if rqReturns b = true ∧ stgAddr k (rqRet b) ≤ x ∧ x < stgAddr k (rqRet b) + rqBytes b then
      (elemBytes b (rqOld s k b)).getD (x - stgAddr k (rqRet b)) 0
    else if stgAddr k (rqTarget b) ≤ x ∧ x < stgAddr k (rqTarget b) + rqBytes b then
      (elemBytes b (rqNew b (rqOld s k b))).getD (x - stgAddr k (rqTarget b)) 0
    else byteAt s x := by
  obtain ⟨hpos, htarget, hret⟩ := runs_of_rqForm hf
  have hold : (elemBytes b (rqOld s k b)).length = rqBytes b := by rw [length_elemBytes, length_rqOld, rqBytes, Nat.mul_comm]
  have hnew : (elemBytes b (rqNew b (rqOld s k b))).length = rqBytes b := by
    rw [length_elemBytes, rqNew_rqOld, List.length_map, List.length_range, rqBytes, Nat.mul_comm]
  have hfirst : Writes s (memWrite (noteMem s (stgAddr k (rqTarget b)) (rqBytes b)) (stgAddr k (rqTarget b))
      (elemBytes b (rqNew b (rqOld s k b)))) (stgAddr k (rqTarget b)) (elemBytes b (rqNew b (rqOld s k b))) :=
    .congr (memory_noteMem ..).symm rfl
      (memWrite_writes_any _ (by rw [hnew]; exact oneMemory_run hk (rqTarget_lt b) hpos htarget))
  have hmem : byteAt (applyInt s k b) x = byteAt (intStored s k b) x := byteAt_congr rfl x
  rw [hmem]
  unfold intStored
  dsimp only
  cases hr : rqReturns b with
  | true =>
    have hsecond := hfirst.twice
      (memWrite_writes_any _ (by rw [hold]; exact oneMemory_run hk (rqRet_lt b) hpos (hret hr))) x
    rw [hold, hnew] at hsecond
    simpa using hsecond
  | false =>
    have hx := hfirst x
    rw [hnew] at hx
    simpa using hx

end
end

/-! ### The seven commands -/

/-- Each of the seven commands serves a request with its AOP. -/
theorem intRequest_serves {s : State} {k : Nat} (hk : k < 12) {i : Instr} {aop : Nat}
    (h : (i, aop) ∈ [(Instr.stAdd k, 0), (.stSmin k, 1), (.stSmax k, 2), (.stUmin k, 3), (.stUmax k, 4), (.stSwap k, 5), (.stCas k, 6)]) :
    exec i s = .next (serveReq s k aop fun s r => applyInt s k r.bytes) ∧ aop ≤ 6 := by
  simp only [List.mem_cons, Prod.mk.injEq, List.not_mem_nil, or_false] at h
  obtain ⟨rfl, rfl⟩ | ⟨rfl, rfl⟩ | ⟨rfl, rfl⟩ | ⟨rfl, rfl⟩ | ⟨rfl, rfl⟩ | ⟨rfl, rfl⟩ | ⟨rfl, rfl⟩ := h <;>
    exact ⟨within_lt _ hk, by decide⟩

section
variable {s : State} {k aop : Nat} {r : Req} {rest : List Req} (hn : nextAccess s k = some (r, rest)) (hq : isReq r.addr = true)
  (hw : r.write = true) (ha : rqAop r.bytes = aop)
include hn hq hw ha

theorem serveReq_refuses (hcode : rqCode s k r ≠ eOk) (act : State → Req → State) :
    serveReq s k aop act = refuseReq (serveIt s k r rest) k r (rqCode s k r) := by
  unfold serveReq
  rw [hn]
  dsimp only
  rw [if_neg (by simp [hq, hw, ha]), if_pos hcode]

theorem serveReq_uncorrected (hcode : rqCode s k r = eOk) (hue : runUe s k r.bytes = true) (act : State → Req → State) :
    serveReq s k aop act = ueReq (writeAccepted (act (serveIt s k r rest) r) r) r := by
  unfold serveReq
  rw [hn]
  dsimp only
  rw [if_neg (by simp [hq, hw, ha]), if_neg (by simp [hcode]), if_pos hue]

end

theorem rqCode_ne_keyset (s : State) (k : Nat) (r : Req) : rqCode s k r ≠ eKeyset := by
  unfold rqCode
  repeat' split
  all_goals decide

/-- A write that has landed leaves every pip its job. -/
theorem job_writeAccepted (s : State) (r : Req) (p : Nat) : (pipOf (writeAccepted s r) p).job = (pipOf s p).job := by
  unfold writeAccepted onPip
  split
  · next q u _ =>
    rw [settle_done]
    by_cases hp : p = q
    · rw [hp, pipOf_setPip_same, lineLanded_eq]
    · rw [pipOf_setPip_other _ _ hp]
  · rfl
  · rfl

/-- The job that asked is the same one after a request that acts on memory and stacks. -/
theorem reqJob_served {s t : State} (h : t.besideMove = s.besideMove) (r : Req) : reqJob (writeAccepted t r) r = reqJob s r := by
  have hjob (p : Nat) : jobOfPip (writeAccepted t r) p = jobOfPip t p := by
    unfold jobOfPip
    rw [job_writeAccepted, writeAccepted_eq]
    rfl
  have hserved : reqJob (writeAccepted t r) r = reqJob t r := by
    unfold reqJob
    split
    · exact hjob _
    · rfl
  exact hserved.trans (congrArg (reqJob · r) h :)

end Sys2Proof.Machine

section
open Sys2Proof Sys2Proof.Machine

/-- Settles O38: a served request writes its results and then the old elements; an uncorrected run and a refusal end the job. -/
theorem stagingRequests : Obligations.StagingRequests := by
  unfold Obligations.StagingRequests
  intro s k r rest hk hn hq hw i aop hi ha b old width new results target ret
  obtain ⟨hexec, haop⟩ := intRequest_serves (s := s) hk hi
  have hreturns : rqReturns b = true ↔ aop = 5 ∨ aop = 6 := by rw [← ha]; simp [rqReturns, b]
  have hnew : rqNew b old = (List.range (rqNel b)).map new := by
    refine (rqNew_rqOld s k b).trans (List.map_congr_left fun n _ => ?_)
    rw [show rqAop b = aop from ha]
    unfold new
    interval_cases aop <;> rfl
  have happly : (applyInt (serveIt s k r rest) k b).besideMove = s.besideMove := besideMove_applyInt ..
  refine ⟨fun hcode hue => ⟨_, hexec.trans (congrArg _ (serveReq_serves hn hq hw hcode ha hue _)), ?_⟩,
    fun hcode hue => ⟨_, hexec.trans (congrArg _ (serveReq_uncorrected hn hq hw ha hcode hue _)), fun j hj hr => ?_⟩,
    fun hcode => ⟨_, hexec.trans (congrArg _ (serveReq_refuses hn hq hw ha hcode _)), ?_⟩⟩
  · have hform := rqForm_of_rqCode hcode
    obtain ⟨v, hv, hstack⟩ := stackSt_applyInt (serveIt s k r rest) k b
    rw [stackSt_serveIt] at hv
    refine ⟨fun x => ?_, ?_, ?_, fun n hne => ?_, workAsBefore_served happly r⟩
    · have hx : byteAt (applyInt (serveIt s k r rest) k b) x = if rqReturns b = true ∧ ret ≤ x ∧ x < ret + rqBytes b then
          (elemBytes b old).getD (x - ret) 0
        else if target ≤ x ∧ x < target + rqBytes b then (elemBytes b (rqNew b old)).getD (x - target) 0 else byteAt s x :=
        byteAt_applyInt (serveIt s k r rest) hk hform x
      rw [hnew] at hx
      exact (byteAt_congr (memory_writeAccepted ..) x).trans (hx.trans (if_congr (and_congr_left' hreturns) rfl rfl))
    · rw [stackSt_writeAccepted, hstack]
      exact (congrArg StackSt.stq hv :)
    · rw [stackSt_writeAccepted, hstack]
      exact (congrArg (fun v : StackSt => bump v.opsCnt 1) hv :)
    · rw [stackSt_writeAccepted, stackSt_applyInt_other _ hk hform hne]
      exact stackSt_setStack_other _ _ hne
  · exact ueReq_leaves ((reqJob_served happly r).trans hj) hr
  · obtain ⟨hhbm, hstaging, herr, hsaid⟩ := refuseReq_records (serveIt s k r rest) k r (rqCode s k r)
    exact ⟨hhbm, hstaging, herr, hsaid, fun j hj hr => failReq_leaves hj hr (rqCode_ne_keyset s k r)⟩

end

/-! ## Granules, scrubbing and stacks (O37) -/

namespace Sys2Proof.Machine

/-! ### Writes of one memory -/

def State.besideHbm (s : State) : State := { s with hbm := [], hbmFlips := [] }

theorem besideHbm_freshLine (l : Nat) (s : State) : (freshLine l s).besideHbm = s.besideHbm := by
  unfold freshLine
  split <;> rfl

theorem hbm_freshWord (w : Nat) (s : State) : (freshWord w s).hbm = s.hbm := by
  unfold freshWord
  split <;> rfl

theorem besideHbm_storeHbm (s : State) (a : Nat) (bs : List Byte) : (storeHbm s a bs).besideHbm = s.besideHbm :=
  forAll_keeps State.besideHbm besideHbm_freshLine (linesOf a bs.length) s

theorem eq_of_besideHbm {s t : State} (h : t.besideHbm = s.besideHbm) : t = { s with hbm := t.hbm, hbmFlips := t.hbmFlips } :=
  congrArg (fun u : State => { u with hbm := t.hbm, hbmFlips := t.hbmFlips }) h

/-- A write of HBM changes HBM alone. -/
theorem memWrite_hbm (s : State) {a : Nat} (h : isHbm a = true) (bs : List Byte) :
    ∃ x y, memWrite s a bs = { s with hbm := x, hbmFlips := y } := by
  have hstore : memWrite s a bs = storeHbm s a bs := if_pos h
  rw [hstore]
  exact ⟨_, _, eq_of_besideHbm (besideHbm_storeHbm s a bs)⟩

theorem hbm_storeStg (s : State) (o : Nat) (bs : List Byte) : (storeStg s o bs).hbm = s.hbm :=
  forAll_keeps State.hbm hbm_freshWord (wordsIn o bs.length) s

/-- A write of another address leaves HBM. -/
theorem hbm_memWrite (s : State) {a : Nat} (h : isHbm a = false) (bs : List Byte) : (memWrite s a bs).hbm = s.hbm := by
  unfold memWrite
  rw [if_neg (ne_true_of_eq_false h)]
  split
  · exact hbm_storeStg ..
  · rfl

theorem memory_modStack (s : State) (k : Nat) (f : StackSt → StackSt) : (modStack s k f).memory = s.memory := rfl

/-! ### Granule entries -/

@[simp] theorem granSt_setGran_same (s : State) (st : Bool) (g : Nat) (v : Granule) : granSt (setGran s st g v) st g = v := by
  cases st <;> exact Tab.get_set_same ..

theorem granSt_setGran_other (s : State) {st st' : Bool} {g n : Nat} (v : Granule) (h : st' ≠ st ∨ n ≠ g) :
    granSt (setGran s st g v) st' n = granSt s st' n := by
  cases st <;> cases st'
  case false.true => rfl
  case true.false => rfl
  case false.false => exact Tab.get_set_other _ _ _ (h.resolve_left (· rfl))
  case true.true => exact Tab.get_set_other _ _ _ (h.resolve_left (· rfl))

theorem setGran_eq (s : State) (st : Bool) (g : Nat) (v : Granule) :
    setGran s st g v = { s with granules := (setGran s st g v).granules, sgranules := (setGran s st g v).sgranules } := by
  cases st <;> rfl

/-- Of the granule entries, a byte depends on the protection of its granule alone (R276, R277). -/
theorem byteAt_of_prot {s t : State} (hb : t.hbm = s.hbm) (hf : t.hbmFlips = s.hbmFlips) (hs : t.staging = s.staging)
    (hsf : t.stgFlips = s.stgFlips) (hp : ∀ g, (granSt t false g).prot = (granSt s false g).prot) (x : Nat) :
    byteAt t x = byteAt s x := by
  have hline (l : Nat) : hbmLine t l = hbmLine s l := by
    unfold hbmLine
    rw [hb, hf, hp]
  have hword (w : Nat) : stgWord t w = stgWord s w := stgWord_congr (by rw [hs]) (by rw [hsf])
  rw [byteAt_eq, byteAt_eq, hline, hword]

theorem byteAt_setGran (s : State) {st : Bool} {g : Nat} {v : Granule} (h : v.prot = (granSt s st g).prot) (x : Nat) :
    byteAt (setGran s st g v) x = byteAt s x := by
  refine byteAt_of_prot ?_ ?_ ?_ ?_ (fun n => ?_) x
  iterate 4 rw [setGran_eq]
  by_cases hn : false = st ∧ n = g
  · obtain ⟨rfl, rfl⟩ := hn
    rw [granSt_setGran_same, h]
  · rw [granSt_setGran_other _ _ (not_and_or.mp hn)]

/-- A write stays in place when an entry changes but for its protection. -/
theorem Writes.setGran {s t : State} {a : Nat} {bs : List Byte} (w : Writes s t a bs) {st : Bool} {g : Nat} {v : Granule}
    (h : v.prot = (granSt t st g).prot) : Writes s (setGran t st g v) a bs :=
  fun x => (byteAt_setGran t h x).trans (w x)

theorem granSt_memWrite (s : State) (a : Nat) (bs : List Byte) (st : Bool) (g : Nat) :
    granSt (memWrite s a bs) st g = granSt s st g := by
  obtain ⟨_, _, _, _, h⟩ := memWrite_memOnly s a bs
  rw [h]; rfl

theorem granSt_modStack (s : State) (k : Nat) (f : StackSt → StackSt) (st : Bool) (g : Nat) :
    granSt (modStack s k f) st g = granSt s st g := rfl

/-- The entry with the fields that a write names. -/
def namedGran (old : Granule) (v : Nat) : Granule :=
  { old with prot := bits v 1 0, share := bit v 2, host := bits v 6 3, ctx := bits v 20 7 }

/-- Whether R274 forbids the write of a granule entry. -/
def granRefused (s : State) (st : Bool) (g v : Nat) : Bool :=
  granBad st (decide ((stackSt s (g / 64)).state = 3)) (granSt s st g) (bits v 1 0) (decide (namedGran (granSt s st g) v = granSt s st g))

section
variable {s : State} {st : Bool} {g v : Nat}

/-- Each of the two commands writes its kind of entry. -/
theorem exec_granule (hg : g < 768) (w : Writer) : exec (if st then .hbmSgran w g v else .hbmGran w g v) s =
    .next (if priv s w then writeGran s st g v else s) := by
  cases st <;> exact within_lt _ hg

theorem writeGran_refused (h : granRefused s st g v = true) :
    writeGran s st g v = setStack s 0 { stackSt s 0 with granErr := true } := if_pos h

/-- A write that R274 allows sets the entry to the named fields, with its scrub and its owner where it assigns a free granule. -/
theorem writeGran_writes (h : granRefused s st g v = false) : ∃ u : Granule, writeGran s st g v = setGran s st g u ∧
    u.prot = bits v 1 0 ∧ u.share = bit v 2 ∧ u.host = bits v 6 3 ∧ u.ctx = bits v 20 7 ∧
    ((granSt s st g).prot = 0 → bits v 1 0 ≠ 0 →
      u.scrub = ((granSt s st g).scrub || mustZero st (granSt s st g) (namedGran (granSt s st g) v)) ∧
      u.owner = namedOwner (namedGran (granSt s st g) v)) := by
  have hwrite : writeGran s st g v = _ := if_neg (ne_true_of_eq_false h)
  rw [hwrite]
  split
  · next hkeeps => exact ⟨_, rfl, rfl, rfl, rfl, rfl, fun hfree hprot => absurd hkeeps (not_or.mpr ⟨not_not.mpr hfree, hprot⟩)⟩
  · exact ⟨_, rfl, rfl, rfl, rfl, rfl, fun _ _ => ⟨rfl, rfl⟩⟩

end

/-! ### Scrubbing -/

/-- The state after the next line of an HBM granule in a group has been zeroed. -/
def scrubbed (s : State) (g grp : Nat) : State :=
  let v := granSt s false g
  let n := Tab.get 0 v.zeroed grp
  let a := g * 2 ^ 30 + 128 * (16 * n + grp)
  let t := modStack s (g / 64) fun v => markServed s grp (serveBank (slotNow s) grp (chipBank a) v)
  setGran (memWrite t a (List.replicate 128 0)) false g { v with zeroed := Tab.set 0 v.zeroed grp (n + 1) }

theorem scrub_zeroes {s : State} {g grp : Nat} (hg : g < 768) (h : scrubGroup s g = some grp) :
    exec (.scrub g) s = .next (scrubbed s g grp) := by
  show execScrub g s = _
  unfold execScrub
  rw [within_lt _ hg, h]
  rfl

/-- The group of a scrub is one of the sixteen, with lines left to zero. -/
theorem scrubGroup_wants {s : State} {g grp : Nat} (h : scrubGroup s g = some grp) :
    grp < 16 ∧ Tab.get 0 (granSt s false g).zeroed grp < groupLines := by
  have hwants := List.find?_some h
  simp only [wantsScrub, Bool.and_eq_true, decide_eq_true_eq] at hwants
  exact ⟨List.mem_range.mp (List.mem_of_find?_eq_some h), hwants.2.2⟩

/-- The next line of an HBM granule lies in HBM. -/
theorem scrubLine_inHbm {g grp n : Nat} (hg : g < 768) (hgrp : grp < 16) (hn : n < groupLines) :
    isHbm (g * 2 ^ 30 + 128 * (16 * n + grp)) = true ∧ OneMemory (g * 2 ^ 30 + 128 * (16 * n + grp)) 128 := by
  unfold groupLines at hn
  have hin (x : Nat) (hx : x < 768 * 2 ^ 30) : isHbm x = true := decide_eq_true (by unfold hbmTop; omega)
  exact ⟨hin _ (by omega), .inl ⟨hin _ (by omega), hin _ (by omega)⟩⟩

section
variable (s : State) (g grp : Nat)

/-- A scrub changes HBM, the stack that served it and the entry of its granule. -/
theorem scrubbed_eq (h : isHbm (g * 2 ^ 30 + 128 * (16 * Tab.get 0 (granSt s false g).zeroed grp + grp)) = true) :
    scrubbed s g grp = { s with hbm := (scrubbed s g grp).hbm, hbmFlips := (scrubbed s g grp).hbmFlips,
                                hstacks := (scrubbed s g grp).hstacks, granules := (scrubbed s g grp).granules } := by
  unfold scrubbed
  dsimp only
  obtain ⟨x, y, hwrite⟩ := memWrite_hbm (modStack s (g / 64) _) h (List.replicate 128 0)
  rw [hwrite]
  rfl

theorem stackSt_scrubbed {k : Nat} (hk : k ≠ g / 64) : stackSt (scrubbed s g grp) k = stackSt s k := by
  have h (t : State) (v : Granule) : stackSt (setGran t false g v) k = stackSt t k := rfl
  unfold scrubbed
  dsimp only
  rw [h, stackSt_memWrite, modStack_eq, stackSt_setStack_other _ _ hk]

theorem scrubbed_writes (h : OneMemory (g * 2 ^ 30 + 128 * (16 * Tab.get 0 (granSt s false g).zeroed grp + grp)) 128) :
    Writes s (scrubbed s g grp) (g * 2 ^ 30 + 128 * (16 * Tab.get 0 (granSt s false g).zeroed grp + grp)) (List.replicate 128 0) := by
  unfold scrubbed
  refine Writes.setGran ?_ ?_
  · exact (memWrite_writes_any (bs := List.replicate 128 0) _ h).congr (memory_modStack ..).symm rfl
  · rw [granSt_memWrite]
    rfl

end

/-- The state after the next line of a staging granule has been zeroed. -/
def stagingZeroed (s : State) (g : Nat) : State :=
  let v := granSt s true g
  let n := Tab.get 0 v.zeroed 0
  let t := modStack (memWrite s (stgBase + g * 2 ^ 20 + 128 * n) (List.replicate 128 0)) (g / 64) fun k =>
    { k with stUsed := k.stUsed ++ [g % 64 / 4] }
  setGran t true g { v with zeroed := Tab.set 0 v.zeroed 0 (n + 1) }

/-- A staging granule is zeroed in a cycle in which its bank is free (R288). -/
theorem zeroStaging_zeroes {s : State} {g : Nat} (h : (granSt s true g).scrub = true) (hn : Tab.get 0 (granSt s true g).zeroed 0 < stgLines)
    (hfree : g % 64 / 4 ∉ (stackSt s (g / 64)).stUsed) : zeroStaging g s = stagingZeroed s g := by
  unfold zeroStaging
  dsimp only
  rw [if_neg (by simp [h, hn, hfree])]
  rfl

theorem stagingLine_inStaging {g n : Nat} (hg : g < 768) (hn : n < stgLines) :
    isHbm (stgBase + g * 2 ^ 20 + 128 * n) = false ∧ OneMemory (stgBase + g * 2 ^ 20 + 128 * n) 128 := by
  unfold stgLines at hn
  exact ⟨decide_eq_false (by unfold stgBase hbmTop; omega), .inr ⟨isStg_iff.mpr (by omega), isStg_iff.mpr (by omega)⟩⟩

theorem stagingZeroed_writes (s : State) (g : Nat)
    (h : OneMemory (stgBase + g * 2 ^ 20 + 128 * Tab.get 0 (granSt s true g).zeroed 0) 128) :
    Writes s (stagingZeroed s g) (stgBase + g * 2 ^ 20 + 128 * Tab.get 0 (granSt s true g).zeroed 0) (List.replicate 128 0) := by
  unfold stagingZeroed
  refine Writes.setGran ?_ ?_
  · exact (memWrite_writes_any (bs := List.replicate 128 0) s h).congr rfl (memory_modStack ..)
  · rw [granSt_modStack, granSt_memWrite]

/-- The entry counts the line, and its bank is taken. -/
theorem stagingZeroed_counts (s : State) (g : Nat) :
    Tab.get 0 (granSt (stagingZeroed s g) true g).zeroed 0 = Tab.get 0 (granSt s true g).zeroed 0 + 1 ∧
    (stackSt (stagingZeroed s g) (g / 64)).stUsed = (stackSt s (g / 64)).stUsed ++ [g % 64 / 4] := by
  have h (t : State) (v : Granule) : stackSt (setGran t true g v) (g / 64) = stackSt t (g / 64) := rfl
  unfold stagingZeroed
  dsimp only
  rw [granSt_setGran_same, Tab.get_set_same, h, modStack_eq, stackSt_setStack_same, stackSt_memWrite]
  exact ⟨rfl, rfl⟩

theorem hbm_stagingZeroed (s : State) (g : Nat) (h : isHbm (stgBase + g * 2 ^ 20 + 128 * Tab.get 0 (granSt s true g).zeroed 0) = false) :
    (stagingZeroed s g).hbm = s.hbm := by
  have hkeeps (t : State) (f : StackSt → StackSt) (v : Granule) : (setGran (modStack t (g / 64) f) true g v).hbm = t.hbm := rfl
  exact (hkeeps ..).trans (hbm_memWrite s h (List.replicate 128 0))

/-! ### The temperature of a stack -/

theorem hbmHot_sets {s : State} {k : Nat} (temp : Nat) (hk : k < 12) : ∃ m o, exec (.hbmHot k temp) s = .next
    { setStack s k { stackSt s k with temp := temp % 256, hot := decide (85 < temp % 256), rint := if 85 < temp % 256 then 2437 else 4875 }
      with mgt := m, out := o } := by
  have hexec : exec (.hbmHot k temp) s = _ := within_lt _ hk
  rw [hexec]
  dsimp only
  simp only [gt_iff_lt, decide_eq_true_eq]
  split
  · exact ⟨_, _, rfl⟩
  · exact ⟨_, _, rfl⟩

end Sys2Proof.Machine

section
open Sys2Proof Sys2Proof.Machine

/-- Settles O37: an entry is written whole or refused whole; a line that is zeroed is one write of memory. -/
theorem granulesAndStacks : Obligations.GranulesAndStacks := by
  unfold Obligations.GranulesAndStacks
  intro s
  refine ⟨fun st w g v hg => ⟨fun hw => ⟨_, exec_granule hg w, if_neg (by simp [hw])⟩,
      fun hw hbad => ⟨_, (exec_granule hg w).trans (congrArg _ (if_pos hw)), writeGran_refused hbad⟩,
      fun hw hbad => ⟨_, (exec_granule hg w).trans (congrArg _ (if_pos hw)), ?_⟩⟩,
    fun g grp hg hgrp => ⟨_, scrub_zeroes hg hgrp, ?_⟩, fun g hg hnone => ⟨s, ?_, rfl⟩,
    fun st g hg hscrub hall => ⟨_, within_lt _ hg, if_neg (by simp [hscrub, hall])⟩,
    fun st g hg hall => ⟨_, within_lt _ hg, if_pos (by simp [hall])⟩, fun g hg hscrub hn hfree => ?_, fun k temp hk => ?_,
    fun k ok hk hstate => ⟨_, within_lt _ hk, if_pos hstate⟩⟩
  · obtain ⟨u, hwrite, hprot, hshare, hhost, hctx, hnew⟩ := writeGran_writes hbad
    rw [hwrite, granSt_setGran_same]
    exact ⟨setGran_eq .., fun st' n h => granSt_setGran_other _ _ h, hprot, hshare, hhost, hctx, hnew⟩
  · obtain ⟨hin, hlines⟩ := scrubGroup_wants hgrp
    obtain ⟨hhbm, hone⟩ := scrubLine_inHbm hg hin hlines
    exact ⟨scrubbed_eq s g grp hhbm, scrubbed_writes s g grp hone, fun k hk => stackSt_scrubbed s g grp hk,
      fun m hm => (granSt_setGran_other _ _ (.inr hm)).trans (granSt_memWrite ..), granSt_setGran_same ..⟩
  · show execScrub g s = _
    unfold execScrub
    rw [within_lt _ hg, hnone]
  · obtain ⟨hhbm, hone⟩ := stagingLine_inStaging hg hn
    rw [zeroStaging_zeroes hscrub hn hfree]
    obtain ⟨hcount, hbank⟩ := stagingZeroed_counts s g
    exact ⟨stagingZeroed_writes s g hone, hcount, hbm_stagingZeroed s g hhbm, hbank⟩
  · obtain ⟨m, o, h⟩ := hbmHot_sets (s := s) temp hk
    exact ⟨_, h, rfl, fun n hn => stackSt_setStack_other _ _ hn, stackSt_setStack_same ..⟩

end

/-! ## Entries of an HBM schedule (O35) -/

namespace Sys2Proof.Machine

/-! ### Reads -/

/-- The errors of a line that is read are counted in its stack (R278, R288). -/
theorem stackSt_noteMem_line (s : State) {k a n : Nat} (hk : k < 12) (ha : a % 128 = 0) (hof : stackOf a = k) (hn : n ≠ k) :
    stackSt (noteMem s a 128) n = stackSt s n := by
  by_cases hhbm : isHbm a = true
  · have hline : noteMem s a 128 = forAll (linesOf a 128) noteLine s := if_pos hhbm
    rw [hline]
    refine forAll_keeps_mem (fun t => stackSt t n) _ (fun l hl t => ?_) s
    obtain ⟨hlow, hhigh⟩ := mem_linesOf.mp hl
    have hl : 128 * l = a := by omega
    exact stackSt_noteError_other t _ _ _ (by rw [hl, hof]; exact hn)
  · by_cases hstg : isStg a = true
    · obtain ⟨hlow, hhigh⟩ := isStg_iff.mp hstg
      have hdiv : (a - stgBase) / 0x4000000 = k := by
        rw [← hof, stackOf, if_neg hhbm, if_pos hstg]
      refine stackSt_noteMem_staging s hk (by omega) ?_ hn
      have hbase : stgBase % 128 = 0 := rfl
      omega
    · have hnone : noteMem s a 128 = s := by
        unfold noteMem
        rw [if_neg hhbm, if_neg hstg]
      rw [hnone]

/-- The line of a read that an entry serves, ready 80 slots after its slot (R281). -/
def lineTaken (s : State) (k g att : Nat) (r : Req) : Req :=
  { r with data := ofLineBytes (memRead s r.addr 128), att := att,
           ready := serveAt (stackSt s k) (slotNow s) g (chipBank r.addr) + 80, sent := 0 }

/-- The state after an entry has served a read. -/
def readServed (s : State) (k g route att : Nat) (r : Req) : State :=
  modStack (noteMem s r.addr 128) k fun v =>
    let v := markServed s g (popReq route (serveBank (slotNow s) g (chipBank r.addr) v))
    { v with lines := Tab.set [] v.lines route (Tab.get [] v.lines route ++ [lineTaken s k g att r]) }

theorem serveRead_eq (s : State) (k g route att : Nat) (r : Req) : serveRead s k g route att r =
    if memUe s r.addr 128 then ueReq (readServed s k g route att r) r else readServed s k g route att r := rfl

section
variable (s : State) {k : Nat} (g route att : Nat) {r : Req}

theorem besideStacks_readServed : (readServed s k g route att r).besideStacks = s.besideStacks :=
  (rfl : _ = (noteMem s r.addr 128).besideStacks).trans (besideStacks_noteMem ..)

/-- The request has left its FIFO, and its line waits to leave. -/
theorem stackSt_readServed :
    Tab.get [] (stackSt (readServed s k g route att r) k).fifo route = (Tab.get [] (stackSt s k).fifo route).drop 1 ∧
    Tab.get [] (stackSt (readServed s k g route att r) k).lines route =
      Tab.get [] (stackSt s k).lines route ++ [lineTaken s k g att r] := by
  have hbeside := besideErrors_noteMem s r.addr 128 k
  have hfifo : (stackSt (noteMem s r.addr 128) k).fifo = (stackSt s k).fifo := (congrArg StackSt.fifo hbeside :)
  have hlines : (stackSt (noteMem s r.addr 128) k).lines = (stackSt s k).lines := (congrArg StackSt.lines hbeside :)
  unfold readServed
  rw [modStack_eq, stackSt_setStack_same]
  dsimp only [markServed, popReq, serveBank]
  rw [Tab.get_set_same, Tab.get_set_same, hfifo, hlines]
  exact ⟨rfl, rfl⟩

theorem stackSt_readServed_other {n : Nat} (hk : k < 12) (ha : r.addr % 128 = 0) (hof : stackOf r.addr = k) (hn : n ≠ k) :
    stackSt (readServed s k g route att r) n = stackSt s n :=
  (stackSt_setStack_other _ _ hn).trans (stackSt_noteMem_line s hk ha hof hn)

end

/-- The job that asked is the same one after a change of stacks alone. -/
theorem reqJob_of_besideStacks {s t : State} (h : t.besideStacks = s.besideStacks) (r : Req) : reqJob t r = reqJob s r :=
  (congrArg (reqJob · r) h :)

theorem eq_of_besideStacks {s t : State} (h : t.besideStacks = s.besideStacks) : t = { s with hstacks := t.hstacks } :=
  congrArg (fun u : State => { u with hstacks := t.hstacks }) h

section
variable {s : State} {k g route : Nat} (hk : k < 12)
include hk

theorem hbmRead_waits (h : routeEntry s k g 1 route = none) : exec (.hbmRead k g route) s = .next s := by
  show execHbmRead k g route s = _
  unfold execHbmRead
  rw [within_lt _ hk, h]

theorem hbmWrite_waits (h : routeEntry s k g 2 route = none) : exec (.hbmWrite k g route) s = .next s := by
  show execHbmWrite k g route s = _
  unfold execHbmWrite
  rw [within_lt _ hk, h]

end

section
variable {s : State} {k g route e : Nat} {r : Req} (hk : k < 12) (he : routeEntry s k g 1 route = some e)
include hk he

theorem hbmRead_idle (h : headReq s k route = none ∨ ∃ r, headReq s k route = some r ∧ (r.write = true ∨ groupOf r.addr ≠ g)) :
    exec (.hbmRead k g route) s = .next (passIdle s k g) := by
  show execHbmRead k g route s = _
  unfold execHbmRead
  rw [within_lt _ hk, he]
  obtain hnone | ⟨r, hr, hother⟩ := h
  · rw [hnone]
  · rw [hr]
    exact congrArg _ (if_pos hother)

section
variable (hr : headReq s k route = some r) (hw : r.write = false) (hg : groupOf r.addr = g)
include hr hw hg

theorem hbmRead_serves (ho : reqOpen s r = true) :
    exec (.hbmRead k g route) s = .next (serveRead s k g route (bits e 7 3) r) := by
  show execHbmRead k g route s = _
  unfold execHbmRead
  rw [within_lt _ hk, he]
  dsimp only
  rw [hr]
  dsimp only
  rw [if_neg (by simp [hw, hg]), if_neg (by simp [ho])]

theorem hbmRead_fails (ho : reqOpen s r = false) :
    exec (.hbmRead k g route) s = .next (failReq (modStack s k fun v => markServed s g (popReq route v)) r eBounds) := by
  show execHbmRead k g route s = _
  unfold execHbmRead
  rw [within_lt _ hk, he]
  dsimp only
  rw [hr]
  dsimp only
  rw [if_neg (by simp [hw, hg]), if_pos (by simp [ho])]

end
end

/-! ### Writes -/

/-- The stack after an entry has served a write. -/
def StackSt.written (v : StackSt) (s : State) (g route a : Nat) (ws : List Req) : StackSt :=
  { markServed s g (popReq route (serveBank (slotNow s) g (chipBank a) v)) with wbuf := Tab.set [] v.wbuf route ws }

section
variable {s : State} {k g route e : Nat} (hk : k < 12) (he : routeEntry s k g 2 route = some e)
include hk he

theorem hbmWrite_idle (h : Tab.get [] (stackSt s k).wbuf route = []) : exec (.hbmWrite k g route) s = .next (passIdle s k g) := by
  show execHbmWrite k g route s = _
  unfold execHbmWrite
  rw [within_lt _ hk, he, h]
  dsimp only
  split
  · next heq => exact absurd heq (by simp)
  · rfl

theorem hbmWrite_serves {r w : Req} {l : List Req} (hr : headReq s k route = some r) (hw : r.write = true) (hg : groupOf r.addr = g)
    (hl : Tab.get [] (stackSt s k).wbuf route = w :: l) (ho : reqOpen s r = true) : exec (.hbmWrite k g route) s =
      .next (writeAccepted (modStack (memWrite s r.addr (lineBytes w.data)) k (·.written s g route r.addr l)) r) := by
  show execHbmWrite k g route s = _
  unfold execHbmWrite
  rw [within_lt _ hk, he, hr, hl]
  dsimp only
  rw [if_neg (by simp [hw, hg]), if_neg (by simp [ho])]
  rfl

end

/-- A write that an entry has served has left its FIFO and the write buffer. -/
theorem StackSt.written_served (v : StackSt) (s : State) (g route a : Nat) (ws : List Req) :
    Tab.get [] (v.written s g route a ws).wbuf route = ws ∧
    Tab.get [] (v.written s g route a ws).fifo route = (Tab.get [] v.fifo route).drop 1 :=
  ⟨Tab.get_set_same .., Tab.get_set_same ..⟩

/-- A write that is served has its bytes in memory, and leaves all but memory, its stack and its sender. -/
theorem writeServed_writes (s : State) {r : Req} {bs : List Byte} (h : OneMemory r.addr bs.length) (k : Nat) (f : StackSt → StackSt) :
    Writes s (writeAccepted (modStack (memWrite s r.addr bs) k f) r) r.addr bs ∧
    WorkAsBefore s (writeAccepted (modStack (memWrite s r.addr bs) k f) r) ∧
    stackSt (writeAccepted (modStack (memWrite s r.addr bs) k f) r) k = f (stackSt s k) := by
  have hmem := (memory_writeAccepted (modStack (memWrite s r.addr bs) k f) r).trans (memory_modStack (memWrite s r.addr bs) k f)
  have hbeside := (besideMove_modStack (memWrite s r.addr bs) k f).trans (besideMove_memWrite s r.addr bs)
  refine ⟨(memWrite_writes_any s h).congr (s' := s) rfl hmem, workAsBefore_served hbeside r, ?_⟩
  rw [stackSt_writeAccepted, modStack_eq, stackSt_setStack_same, stackSt_memWrite]

/-! ### Idle entries and refresh -/

/-- An entry that takes one slot of slip and does no more. -/
def idled (s : State) (k g : Nat) : State := modStack s k fun v => markServed s g (easeSlip g v)

section
variable {s : State} {k g : Nat} (hk : k < 12)
include hk

theorem hbmIdle_idles (he : (entryNow s k g 0).isSome = true) : exec (.hbmIdle k g) s = .next (idled s k g) :=
  (within_lt _ hk).trans (congrArg _ (if_pos he))

theorem hbmIdle_waits (he : entryNow s k g 0 = none) : exec (.hbmIdle k g) s = .next s :=
  (within_lt _ hk).trans (congrArg _ (if_neg (by simp [he])))

/-- A refresh entry starts a refresh once the one before it has ended (R280). -/
theorem ref_starts (he : (entryNow s k g 3).isSome = true) : exec (.ref k g) s = .next (modStack s k fun v =>
    if slotNow s + Tab.get 0 v.slip g < refEnd v g then markServed s g (easeSlip g v)
    else { markServed s g v with refAt := Tab.set 0 v.refAt g (slotNow s + Tab.get 0 v.slip g + 1),
                                 slipCnt := bump v.slipCnt (Tab.get 0 v.slip g) }) := by
  show execRef k g s = _
  unfold execRef
  rw [within_lt _ hk, if_neg (by simpa [Option.isSome_iff_ne_none] using he)]

/-- A stack in which a refresh has been inserted, a fault of its schedule unless it starts up (R280, R285). -/
def StackSt.refreshed (v : StackSt) (g now : Nat) : StackSt :=
  { v with refAt := Tab.set 0 v.refAt g (now + 1), schedFault := if v.boot then v.schedFault else bump v.schedFault 1,
           sfault := v.sfault || !v.boot }

theorem refreshInsert_inserts (hg : g < 16) (hstate : (stackSt s k).state = 2) (hdue : (stackSt s k).rint ≤ sinceRef s k g) :
    ∃ v, exec (.refreshInsert k g) s = .next { setStack s k ((stackSt s k).refreshed g (slotNow s)) with trc := v } := by
  show ∃ v, execRefreshInsert k g s = _
  unfold execRefreshInsert
  rw [within_lt _ hk, if_neg (by simp [hstate]; omega)]
  let t := setStack s k ((stackSt s k).refreshed g (slotNow s))
  show ∃ v, Host.Outcome.next (if (stackSt s k).boot then t else errorRecord t 3 2 (64 + k) g 0) = .next { t with trc := v }
  split
  · exact ⟨_, rfl⟩
  · unfold errorRecord
    rw [fabricRecord_eq]
    exact ⟨_, rfl⟩

end

/-! ### Accesses of a host -/

/-- The state in which a HOST entry serves its oldest access. -/
def hostTaken (s : State) (k g : Nat) (a : HostAcc) : State := modStack { s with hostq := s.hostq.erase a } k (markServed s g)

theorem host_serves {s : State} {k g : Nat} {a : HostAcc} (hk : k < 12) (he : (entryNow s k g 4).isSome = true)
    (ha : s.hostq.find? (hostHere k g) = some a) : exec (.host k g) s = .next (serveHost (hostTaken s k g a) k g a) := by
  show execHost k g s = _
  unfold execHost
  rw [within_lt _ hk, if_neg (by simpa [Option.isSome_iff_ne_none] using he), ha]
  rfl

/-- The state in which the bank of an access of HBM is taken. -/
def hostBanked (s : State) (k g : Nat) (a : HostAcc) : State :=
  modStack s k (serveBank (slotNow s) g (chipBank a.addr))

/-- An access that is served has left the queue of the host; but for its stack nothing else has changed. -/
theorem hostBanked_taken (s : State) (k g : Nat) (a : HostAcc) :
    ∃ v, hostBanked (hostTaken s k g a) k g a = { s with hostq := s.hostq.erase a, hstacks := v } := ⟨_, rfl⟩

theorem memory_of_besideStacks {s t : State} (h : t.besideStacks = s.besideStacks) : t.memory = s.memory :=
  (congrArg State.memory h :)

/-- What a write of a host covers in part of a line is read first, and the read counted (R276, R278). -/
theorem hostWrite_eq (s : State) (a : Nat) (bs : List Byte) :
    ∃ t, t.besideStacks = s.besideStacks ∧ hostWrite s a bs = memWrite t a bs := by
  unfold hostWrite
  extract_lets det t
  refine ⟨t, ?_, rfl⟩
  unfold t
  split
  · rfl
  · exact forAll_keeps State.besideStacks (fun _ _ => besideStacks_noteError ..) _ s

section
variable {s : State} {k g : Nat} {a : HostAcc} (hm : isHbm a.addr = true)
include hm

theorem serveHost_hbm : serveHost s k g a =
    if !hostMem s a.host a.addr (if a.write then a.data.length else a.len) then rejectAcc (hostBanked s k g a) a
    else if a.write then
      (if a.hull = 0 then hostWrite (hostBanked s k g a) a.addr a.data
       else hullGot (hostWrite (hostBanked s k g a) a.addr a.data) (a.hull - 1) [])
    else answerHost (noteMem (hostBanked s k g a) a.addr (if a.write then a.data.length else a.len)) a
      (memRead s a.addr (if a.write then a.data.length else a.len)) := if_pos hm

theorem serveHost_rejects (ho : hostMem s a.host a.addr (if a.write then a.data.length else a.len) = false) :
    serveHost s k g a = rejectAcc (hostBanked s k g a) a := by simp [serveHost_hbm hm, ho]

theorem serveHost_writes (hw : a.write = true) (hh : a.hull = 0) (ho : hostMem s a.host a.addr a.data.length = true) :
    serveHost s k g a = hostWrite (hostBanked s k g a) a.addr a.data := by simp [serveHost_hbm hm, hw, hh, ho]

theorem serveHost_reads (hw : a.write = false) (ho : hostMem s a.host a.addr a.len = true) :
    serveHost s k g a = answerHost (noteMem (hostBanked s k g a) a.addr a.len) a (memRead s a.addr a.len) := by
  simp [serveHost_hbm hm, hw, ho]

end

theorem answerHost_host (s : State) {a : HostAcc} (hh : a.hull = 0) (bs : List Byte) :
    answerHost s a bs = send s (.memData a.host a.tag bs) := if_pos hh

/-- The bytes of a load go to the hull channel that waits for them. -/
theorem answerHost_hull {s : State} {a : HostAcc} {ch : Nat} (hh : a.hull = ch + 1) (hwaits : (hchan s ch).waits = true)
    (hload : (hchan s ch).state = .load) (bs : List Byte) : answerHost s a bs =
      setHchan s ch { hchan s ch with waits := false, opmem := (hchan s ch).opmem ++ bs, lastAt := s.cycle } := by
  simp [answerHost, hullGot, modHchan, hh, hwaits, hload]

/-- The request that an access of a host is at the buffer of its stack. -/
def stagingReq (s : State) (a : HostAcc) : Req :=
  { src := .host a.host a.tag, write := a.write, addr := a.addr, data := ofLineBytes a.data, bytes := a.data,
    len := if a.write then a.data.length else a.len, att := 20, ready := s.cycle }

/-- An access of a staging buffer joins those of the buffer (R289). -/
theorem serveHost_joins {s : State} {k g : Nat} {a : HostAcc} (hm : isHbm a.addr = false) (hq : isReq a.addr = false) (hh : a.hull = 0) :
    serveHost s k g a = modStack s k fun v => { v with stq := joinStq (stagingReq s a) v.stq } := by
  unfold serveHost
  rw [if_neg (ne_true_of_eq_false hm), hq, hh]
  rfl

/-- What a read finds is memory as it stood, and its errors are counted in the stacks. -/
theorem serveHost_readsMemory {s : State} {k g : Nat} {a : HostAcc} (hm : isHbm a.addr = true) (hw : a.write = false)
    (ho : hostMem s a.host a.addr a.len = true) : ∃ v, serveHost (hostTaken s k g a) k g a =
    answerHost { s with hostq := s.hostq.erase a, hstacks := v } a (memRead s a.addr a.len) := by
  obtain ⟨u, htaken⟩ := hostBanked_taken s k g a
  have hbytes : memRead (hostTaken s k g a) a.addr a.len = memRead s a.addr a.len := memRead_congr rfl ..
  have hread := serveHost_reads (s := hostTaken s k g a) hm hw ho (k := k) (g := g)
  rw [htaken, hbytes, noteMem_eq] at hread
  exact ⟨_, hread⟩

section
variable {s : State} {k g : Nat} {a : HostAcc} (hk : k < 12) (he : (entryNow s k g 4).isSome = true)
  (hf : s.hostq.find? (hostHere k g) = some a)
include hk he hf

theorem host_answers {t : State} (h : serveHost (hostTaken s k g a) k g a = t) : exec (.host k g) s = .next t :=
  (host_serves hk he hf).trans (congrArg _ h)

theorem host_joins (hm : isHbm a.addr = false) (hq : isReq a.addr = false) (hh : a.hull = 0) : Answers (.host k g) s fun t =>
    t = { s with hostq := s.hostq.erase a, hstacks := t.hstacks } ∧
    (stackSt t k).stq = joinStq (stagingReq s a) (stackSt s k).stq := by
  refine ⟨_, host_answers hk he hf (serveHost_joins hm hq hh), rfl, ?_⟩
  have htaken : stackSt (hostTaken s k g a) k = markServed s g (stackSt s k) := stackSt_setStack_same ..
  rw [modStack_eq, stackSt_setStack_same, htaken]
  rfl

section
variable (hm : isHbm a.addr = true)
include hm

theorem host_writes (hw : a.write = true) (hh : a.hull = 0) (hne : a.data ≠ []) (ho : hostMem s a.host a.addr a.data.length = true) :
    Answers (.host k g) s fun t =>
      t = { s with hostq := s.hostq.erase a, hstacks := t.hstacks, hbm := t.hbm, hbmFlips := t.hbmFlips } ∧
      Writes s t a.addr a.data := by
  obtain ⟨v, htaken⟩ := hostBanked_taken s k g a
  obtain ⟨t, ht, hwrite⟩ := hostWrite_eq (hostBanked (hostTaken s k g a) k g a) a.addr a.data
  rw [htaken] at ht
  have hmemory : t.memory = s.memory := (memory_of_besideStacks ht).trans rfl
  obtain ⟨x, y, hmem⟩ := memWrite_hbm t hm a.data
  refine ⟨_, host_answers hk he hf ((serveHost_writes (s := hostTaken s k g a) hm hw hh ho).trans hwrite), ?_, ?_⟩
  · rw [hmem, eq_of_besideStacks ht]
  · exact (memWrite_writes_any t (oneMemory_of_hostMem (List.length_pos_iff.mpr hne) ho)).congr hmemory.symm rfl

theorem host_rejects (hh : a.hull = 0) (ho : hostMem s a.host a.addr (if a.write then a.data.length else a.len) = false) :
    Answers (.host k g) s fun t =>
      t = { s with hostq := s.hostq.erase a, hstacks := t.hstacks, trc := t.trc,
                   cxl := { s.cxl with memRej := bump s.cxl.memRej 1, memRejAddr := a.addr },
                   out := s.out ++ if a.write then [] else [.memData a.host a.tag (List.replicate a.len 0)] } := by
  obtain ⟨u, htaken⟩ := hostBanked_taken s k g a
  obtain ⟨v, hrej⟩ := rejectAcc_eq (hostBanked (hostTaken s k g a) k g a) hh
  refine ⟨_, host_answers hk he hf ((serveHost_rejects (s := hostTaken s k g a) hm ho).trans hrej), ?_⟩
  rw [htaken]

section
variable (hw : a.write = false) (ho : hostMem s a.host a.addr a.len = true)
include hw ho

theorem host_reads (hh : a.hull = 0) : Answers (.host k g) s fun t =>
    t = { s with hostq := s.hostq.erase a, hstacks := t.hstacks,
                 out := s.out ++ [.memData a.host a.tag (memRead s a.addr a.len)] } := by
  obtain ⟨v, hread⟩ := serveHost_readsMemory (k := k) (g := g) hm hw ho
  exact ⟨_, host_answers hk he hf (hread.trans (answerHost_host _ hh _)), rfl⟩

/-- A load of a hull channel is served as a read of its host. -/
theorem host_loads {ch : Nat} (hh : a.hull = ch + 1) (hwaits : (hchan s ch).waits = true) (hload : (hchan s ch).state = .load) :
    Answers (.host k g) s fun t =>
      t = { s with hostq := s.hostq.erase a, hstacks := t.hstacks, hchans := t.hchans } ∧
      hchan t ch = { hchan s ch with waits := false, opmem := (hchan s ch).opmem ++ memRead s a.addr a.len, lastAt := s.cycle } ∧
      ∀ n, n ≠ ch → hchan t n = hchan s n := by
  obtain ⟨v, hread⟩ := serveHost_readsMemory (k := k) (g := g) hm hw ho
  have hanswer := answerHost_hull (s := { s with hostq := s.hostq.erase a, hstacks := v }) hh hwaits hload (memRead s a.addr a.len)
  exact ⟨_, host_answers hk he hf (hread.trans hanswer), rfl, hchan_setHchan_same ..,
    fun n hn => hchan_setHchan_other _ _ hn⟩

end
end
end

end Sys2Proof.Machine

section
open Sys2Proof Sys2Proof.Machine

/-- Settles O35: an entry in its slot serves the oldest request of its route or the oldest access of its group, or idles. -/
theorem hbmEntries : Obligations.HbmEntries := by
  unfold Obligations.HbmEntries
  intro s k g hk onlyStacks others idle
  refine ⟨fun route => ⟨fun hnone => ?_, fun hnone => ?_⟩,
    fun route e r he hr hw hg ha hof ho => ⟨fun hue => ⟨_, hbmRead_serves hk he hr hw hg ho, ?_⟩,
      fun j hue hj hrun => ⟨_, hbmRead_serves hk he hr hw hg ho, ?_⟩⟩,
    fun route e r j he hr hw hg ho hj hrun => ⟨_, hbmRead_fails hk he hr hw hg ho, ?_⟩,
    fun route e he h => ⟨_, hbmRead_idle hk he h, rfl⟩,
    fun route e r w l he hr hw hg hl ho hlow hhigh => ⟨_, hbmWrite_serves hk he hr hw hg hl ho, ?_⟩,
    fun route e he h => ⟨_, hbmWrite_idle hk he h, rfl⟩,
    fun he => ⟨_, hbmIdle_waits hk he, rfl⟩,
    fun he => ⟨_, hbmIdle_idles hk he, ?_⟩,
    fun he => ⟨_, ref_starts hk he, ?_⟩,
    fun hg hstate hdue => ?_,
    fun a he hf hh hm => ⟨fun ho hw hne => ?_, fun ho hw => ?_, fun ho => host_rejects hk he hf hm hh ho⟩,
    fun a ch he hf hh hm hw ho hwaits hload => host_loads hk he hf hm hw ho hh hwaits hload,
    fun a he hf hh hm hq => host_joins hk he hf hm hq hh⟩
  · exact ⟨_, hbmRead_waits hk hnone, rfl⟩
  · exact ⟨_, hbmWrite_waits hk hnone, rfl⟩
  · rw [serveRead_eq, if_neg (ne_true_of_eq_false hue)]
    obtain ⟨hfifo, hlines⟩ := stackSt_readServed s (k := k) g route (bits e 7 3) (r := r)
    exact ⟨eq_of_besideStacks (besideStacks_readServed ..), fun n hn => stackSt_readServed_other s g route _ hk ha hof hn,
      hfifo, hlines⟩
  · have hjob : reqJob (readServed s k g route (bits e 7 3) r) r = some j :=
      (reqJob_of_besideStacks (besideStacks_readServed s g route (bits e 7 3)) r).trans hj
    rw [serveRead_eq, if_pos hue]
    exact ueReq_leaves hjob hrun
  · obtain ⟨hhbm, hstaging⟩ := memory_failReq (modStack s k fun v => markServed s g (popReq route v)) r eBounds
    exact ⟨failReq_leaves hj hrun (by decide), hhbm, hstaging⟩
  · have hone : OneMemory r.addr (lineBytes w.data).length := by
      rw [length_lineBytes]
      exact .inl ⟨hlow, hhigh⟩
    obtain ⟨hwrites, hwork, hstack⟩ := writeServed_writes s hone k (·.written s g route r.addr l)
    obtain ⟨hwbuf, hfifo⟩ := (stackSt s k).written_served s g route r.addr l
    beta_reduce
    rw [hstack]
    exact ⟨hwrites, hwork, hwbuf, hfifo⟩
  · have hstack : stackSt (idled s k g) k = markServed s g (easeSlip g (stackSt s k)) := stackSt_setStack_same ..
    beta_reduce
    rw [hstack]
    exact ⟨rfl, fun n hn => stackSt_setStack_other _ _ hn, Tab.get_set_same .., fun n hn => Tab.get_set_other _ _ _ hn⟩
  · beta_reduce
    rw [modStack_eq, stackSt_setStack_same]
    refine ⟨rfl, fun n hn => stackSt_setStack_other _ _ hn, fun hdue => ?_, fun hearly => ?_⟩
    · rw [if_neg (Nat.not_lt.mpr hdue)]
      refine ⟨?_, rfl⟩
      dsimp only
      rw [Tab.get_set_same]
    · rw [if_pos hearly]
      rfl
  · obtain ⟨v, h⟩ := refreshInsert_inserts hk hg hstate hdue
    exact ⟨_, h, rfl, fun n hn => stackSt_setStack_other _ _ hn, stackSt_setStack_same ..⟩
  · rw [if_pos hw] at ho
    exact host_writes hk he hf hm hw hh hne ho
  · rw [if_neg (ne_true_of_eq_false hw)] at ho ⊢
    exact host_reads hk he hf hm hw ho hh

end
